-- ==== Sys2Proof/Word.lean ====
section
/-! DEFINITION. The word types of the Scealin A5 (R3): a byte, a 32-bit word and a 64-bit dword, bit 0 least
significant. -/

namespace Sys2Proof

/-- 8 bits of memory. -/
abbrev Byte := BitVec 8

/-- A word: 32 bits (R3). -/
abbrev Word := BitVec 32

/-- A dword: 64 bits (R3). -/
abbrev DWord := BitVec 64

end Sys2Proof
end

