-- ==== Sys2Proof/Syntax.lean ====
section
/-! DEFINITION. The syntax of the Scealin A5: the nineteen instruction formats (R67) as records of bit fields, the
operands of the steps that carry no encoding (engine events, packets, commands, debug requests and events from
outside), and the one inductive `Instr` with one constructor per row of the table of operations and events. -/

namespace Sys2Proof

/-- Format VR (R67): three vector registers, type and guard, fields of bits [24:0], most significant first. -/
structure FmtVR where
  vd : BitVec 6
  va : BitVec 6
  vb : BitVec 6
  ty : BitVec 3
  gn : BitVec 1
  gp : BitVec 3
deriving DecidableEq, Repr

/-- Format VI (R67): vector with a 10-bit immediate, fields of bits [24:0], most significant first. -/
structure FmtVI where
  vd : BitVec 6
  va : BitVec 6
  ty : BitVec 3
  imm : BitVec 10
deriving DecidableEq, Repr

/-- Format VX (R67): three vector registers and a 4-bit field, fields of bits [24:0], most significant first. -/
structure FmtVX where
  vd : BitVec 6
  va : BitVec 6
  vb : BitVec 6
  ty : BitVec 3
  x4 : BitVec 4
deriving DecidableEq, Repr

/-- Format VP (R67): vector compare into a predicate, fields of bits [24:0], most significant first. -/
structure FmtVP where
  pd : BitVec 3
  cond : BitVec 4
  va : BitVec 6
  vb : BitVec 6
  ty : BitVec 3
  gp : BitVec 3
deriving DecidableEq, Repr

/-- Format VS (R67): one vector and one scalar register, fields of bits [24:0], most significant first. -/
structure FmtVS where
  v : BitVec 6
  sr : BitVec 6
  ty : BitVec 3
  x10 : BitVec 10
deriving DecidableEq, Repr

/-- Format SR (R67): three scalar registers, fields of bits [24:0], most significant first. -/
structure FmtSR where
  sd : BitVec 6
  sa : BitVec 6
  sb : BitVec 6
  f7 : BitVec 7
deriving DecidableEq, Repr

/-- Format SI (R67): scalar with a 13-bit immediate, fields of bits [24:0], most significant first. -/
structure FmtSI where
  sd : BitVec 6
  sa : BitVec 6
  imm : BitVec 13
deriving DecidableEq, Repr

/-- Format SL (R67): scalar with a 19-bit immediate, fields of bits [24:0], most significant first. -/
structure FmtSL where
  sd : BitVec 6
  imm : BitVec 19
deriving DecidableEq, Repr

/-- Format MV (R67): vector memory access, fields of bits [24:0], most significant first. -/
structure FmtMV where
  v : BitVec 6
  o : BitVec 6
  h : BitVec 3
  sz : BitVec 2
  ord : BitVec 2
  gp : BitVec 3
  scope : BitVec 2
  zero : BitVec 1
deriving DecidableEq, Repr

/-- Format MA (R67): vector atomic, fields of bits [24:0], most significant first. -/
structure FmtMA where
  vd : BitVec 6
  o : BitVec 6
  vb : BitVec 6
  h : BitVec 3
  k : BitVec 4
deriving DecidableEq, Repr

/-- Format MS (R67): scalar memory access, fields of bits [24:0], most significant first. -/
structure FmtMS where
  sd : BitVec 6
  sa : BitVec 6
  h : BitVec 3
  sz : BitVec 2
  zero : BitVec 1
  imm : BitVec 7
deriving DecidableEq, Repr

/-- Format SA (R67): scalar atomic, fields of bits [24:0], most significant first. -/
structure FmtSA where
  sd : BitVec 6
  sa : BitVec 6
  sb : BitVec 6
  h : BitVec 3
  k : BitVec 4
deriving DecidableEq, Repr

/-- Format MB (R67): barrier word, fields of bits [24:0], most significant first. -/
structure FmtMB where
  sr : BitVec 6
  sa : BitVec 6
  imm : BitVec 13
deriving DecidableEq, Repr

/-- Format MF (R67): fence, fields of bits [24:0], most significant first. -/
structure FmtMF where
  scope : BitVec 3
  kind : BitVec 3
  zero : BitVec 19
deriving DecidableEq, Repr

/-- Format CB (R67): branch with a 21-bit offset, fields of bits [24:0], most significant first. -/
structure FmtCB where
  gn : BitVec 1
  gp : BitVec 3
  off : BitVec 21
deriving DecidableEq, Repr

/-- Format CC (R67): compare and branch, fields of bits [24:0], most significant first. -/
structure FmtCC where
  cond : BitVec 3
  sa : BitVec 6
  sb : BitVec 6
  off : BitVec 10
deriving DecidableEq, Repr

/-- Format CR (R67): control with one register, fields of bits [24:0], most significant first. -/
structure FmtCR where
  sa : BitVec 6
  zero : BitVec 19
deriving DecidableEq, Repr

/-- Format CQ (R67): control with a destination, fields of bits [24:0], most significant first. -/
structure FmtCQ where
  sd : BitVec 6
  f : BitVec 19
deriving DecidableEq, Repr

/-- Format EB (R67): engine command, fields of bits [24:0], most significant first. -/
structure FmtEB where
  sd : BitVec 6
  sa : BitVec 6
  tok : BitVec 3
  f : BitVec 10
deriving DecidableEq, Repr

/-- The nine engine classes that a clause header's ENG field names (R56). -/
inductive Cls where
  | vec | sca | mem | ctl | mtx | cpy | arn | msg | sys
deriving DecidableEq, Repr

/-! ### Operands of the steps without an encoding -/

/-- A thread of a crew: `uid` names the crew, `tid` is 0 to 31 for a group, 32 + n for handler slot n and 63 for the
lead (the coding of R414's GROUP field). -/
structure ThreadRef where
  uid : Nat
  tid : Nat
deriving DecidableEq, Repr

/-- A (group, slot) pair (R44): `slotB` is false for slot A and for the lead. -/
structure PairRef where
  uid : Nat
  tid : Nat
  slotB : Bool
deriving DecidableEq, Repr

/-- The four engine contexts of a crew, in the order `tlrd` numbers them (R250). -/
inductive Ctx where
  | copy | matrix | arena | message
deriving DecidableEq, Repr

/-- An accepted operation: its crew, its context and its number in that context (R15). -/
structure OpRef where
  uid : Nat
  ctx : Ctx
  num : Nat
deriving DecidableEq, Repr

/-- A partition of a logical device (R377). -/
structure PartRef where
  ldev : Nat
  part : Nat
deriving DecidableEq, Repr

/-- An arena of a partition (R291). -/
structure ArenaRef where
  ldev : Nat
  part : Nat
  idx : Nat
deriving DecidableEq, Repr

/-- A packet: logical device, queue number and slot index (R360). -/
structure PktRef where
  ldev : Nat
  queue : Nat
  index : Nat
deriving DecidableEq, Repr

/-- A group-addressed message of a consumer group (R336). -/
structure MsgRef where
  ldev : Nat
  part : Nat
  gid : Nat
  id : Nat
deriving DecidableEq, Repr

/-- A round of a collective at one core (R345). -/
structure RoundRef where
  ldev : Nat
  part : Nat
  coll : Nat
  k : Nat
  core : Nat
deriving DecidableEq, Repr

/-- A core and a capability class (R407). -/
structure ClassRef where
  core : Nat
  cls : Nat
deriving DecidableEq, Repr

/-- The three masters that may command the package (R383). -/
inductive Master where
  | os | mgmt | remote
deriving DecidableEq, Repr

/-- A 128-byte command record with its signature verdict (R386): `sigOk` says whether both signatures of the block
verify against the key that R387 names. `args` holds A0 to A13; a missing argument is 0. -/
structure Cmd where
  source : Master
  seq : Word
  opcode : BitVec 16
  ldev : Byte
  part : Byte
  resvHi : BitVec 16
  resvMid : BitVec 16
  sigLen : Word
  sigOk : Bool
  args : List DWord
deriving DecidableEq, Repr

/-- What ACCESS_AT_HOME performs: the oldest store of a thread's queue (the local ones, or those posted to a die),
with the choice whether its slice holds the sector (R314); the next bytes of a running copy operation, at most `n` (R243); the
eviction of a sector by its slice (R314); or the write-back of a dirty line by its L1 (R93). -/
inductive HomeAccess where
  | store (t : ThreadRef) (die : Option Nat) (absent : Bool)
  | copy (uid num n : Nat)
  | evict (ldev sector : Nat)
  | writeBack (core line : Nat)
deriving DecidableEq, Repr

/-- Who waits on a page fault (R90): a pair, an operation of a context, or a COPY packet (R363). -/
inductive FaultWaiter where
  | pair (p : PairRef)
  | op (o : OpRef)
  | packet (k : PktRef)
deriving DecidableEq, Repr

/-- Where an uncorrectable ECC error strikes (R403): a byte of memory, a byte of a crew's scratch, one lane of a vector register
of a thread, one of its scalar, predicate or handle registers, or a word of a crew's tiles. -/
inductive EccSite where
  | mem (addr : Nat)
  | scratch (uid off : Nat)
  | vreg (t : ThreadRef) (reg lane : Nat)
  | sreg (t : ThreadRef) (n : Nat)
  | preg (t : ThreadRef) (n : Nat)
  | hreg (t : ThreadRef) (n : Nat)
  | tile (uid key : Nat)
deriving DecidableEq, Repr

/-- What a residue mismatch struck (R402): the `k`-th oldest word of a thread's window, or a matrix operation's boundary. -/
inductive ResidueSite where
  | word (t : ThreadRef) (k : Nat)
  | matrix (uid num : Nat)
deriving DecidableEq, Repr

/-- An access of an application core through its windows (R388): a load, a store, an AMO (`k` in the order swap, add, xor, and, or,
min, max, minu, maxu), a load-reserved, a store-conditional. -/
inductive HostOp where
  | load
  | store
  | amo (k : Nat)
  | lr
  | sc
deriving DecidableEq, Repr

/-- A die-to-die link (R352): between two hearth dies, or from a hearth die to the brewhouse. -/
inductive Link where
  | ring (a b : Nat)
  | brew (a : Nat)
deriving DecidableEq, Repr

/-- A signed image as a boot finds it (R457): whether each of its signatures verifies against a signer accepted for its kind, and its
VERSION. -/
structure SignedImage where
  ecdsa : Bool
  lms : Bool
  ver : Nat
deriving DecidableEq, Repr

/-- A configuration image (R456, R457): what it configures (R2, R383, R404, R407, R432), its masks by core, complete where it names
none; `base` is none where Tabven has signed it, and where the module has, the place in the flash of the image that CFGBASE names. -/
structure CfgImage where
  sig : SignedImage
  base : Option Nat
  capMap : List (Nat × DWord)
  priority : List Master
  windowSec : Nat
  kilnWaitMs : Nat
  grade : Nat
  vendor : Bool
deriving DecidableEq, Repr

/-- What a package reset finds in flash (R456): the firmware images of the two slots, and configuration images. -/
structure BootImage where
  slot0 : SignedImage
  slot1 : SignedImage
  cfgs : List CfgImage
deriving DecidableEq, Repr

/-- What a mapping change makes of a page: its size (0 is 64 KiB, 1 is 2 MiB, 2 is 1 GiB), and whether it is mapped (R89, R91). -/
structure Mapping where
  size : Nat
  on : Bool
deriving DecidableEq, Repr

/-- The broadcast of a seal, by the arena that heads it, and the one cache that it reaches now; none is all that are left (R307). -/
structure SealCast where
  arena : ArenaRef
  cache : Option Nat
deriving DecidableEq, Repr

/-- The drop mask of a partition, and the one cache that it reaches now; none is all that are left (R310). -/
structure DropCast where
  part : PartRef
  cache : Option Nat
deriving DecidableEq, Repr

/-- A drop-complete of a partition: `back` says how old the bytes are that each line is left with (R310, R312). -/
structure DropEnd where
  part : PartRef
  back : Nat
deriving DecidableEq, Repr

/-- A step of a round at a core; `far` is what arrives there from another package, for the collective of a number on the
fabric tree (R346, R350). -/
structure RoundMove where
  round : RoundRef
  far : Option (Nat × List Word)
deriving DecidableEq, Repr

/-- How the writing of a dump ends: whole, or, where `ok` is false, at a write that fails, when `n` bytes of the sections have been
written (R409, R411). -/
structure DumpEnd where
  ok : Bool
  n : Nat
deriving DecidableEq, Repr

/-- An access of an application core: what it does, its bytes, and the value it brings (R388). -/
structure HostAccess where
  op : HostOp
  n : Nat
  v : DWord
deriving DecidableEq, Repr

/-- A PTP message: by how much device time must go forward to agree with its master, and the source (R382, R431). -/
structure PtpMsg where
  ns : Int
  source : DWord
deriving DecidableEq, Repr

/-- One constructor per row of the table of operations and events: 191 instruction words, by class in opcode order,
then the 133 steps that carry no encoding. -/
inductive Instr where
  -- class VEC
  /-- `vmov`, R182. -/
  | vmov (f : FmtVR)
  /-- `vmovi`, R183. -/
  | vmovi (f : FmtVI)
  /-- `vadd`, R186. -/
  | vadd (f : FmtVR)
  /-- `vsub`, R186. -/
  | vsub (f : FmtVR)
  /-- `vadds`, R186. -/
  | vadds (f : FmtVR)
  /-- `vsubs`, R186. -/
  | vsubs (f : FmtVR)
  /-- `vmul`, R186. -/
  | vmul (f : FmtVR)
  /-- `vmulhi`, R186. -/
  | vmulhi (f : FmtVR)
  /-- `vmad`, R186. -/
  | vmad (f : FmtVR)
  /-- `vmin`, R186. -/
  | vmin (f : FmtVR)
  /-- `vmax`, R186. -/
  | vmax (f : FmtVR)
  /-- `vabsd`, R186. -/
  | vabsd (f : FmtVR)
  /-- `vand`, R186. -/
  | vand (f : FmtVR)
  /-- `vor`, R186. -/
  | vor (f : FmtVR)
  /-- `vxor`, R186. -/
  | vxor (f : FmtVR)
  /-- `vandn`, R186. -/
  | vandn (f : FmtVR)
  /-- `vshl`, R186. -/
  | vshl (f : FmtVR)
  /-- `vshr`, R186. -/
  | vshr (f : FmtVR)
  /-- `vrot`, R186. -/
  | vrot (f : FmtVR)
  /-- `vbfe`, R188. -/
  | vbfe (f : FmtVR)
  /-- `vbfi`, R188. -/
  | vbfi (f : FmtVR)
  /-- `vpopc`, R189. -/
  | vpopc (f : FmtVR)
  /-- `vclz`, R189. -/
  | vclz (f : FmtVR)
  /-- `vbrev`, R189. -/
  | vbrev (f : FmtVR)
  /-- `vsel`, R182. -/
  | vsel (f : FmtVR)
  /-- `vaddi`, R187. -/
  | vaddi (f : FmtVI)
  /-- `vandi`, R187. -/
  | vandi (f : FmtVI)
  /-- `vshli`, R187. -/
  | vshli (f : FmtVI)
  /-- `vshri`, R187. -/
  | vshri (f : FmtVI)
  /-- `vacs`, R190. -/
  | vacs (f : FmtVX)
  /-- `vhsel`, R191. -/
  | vhsel (f : FmtVX)
  /-- `vperm`, R192. -/
  | vperm (f : FmtVR)
  /-- `vshfl`, R193. -/
  | vshfl (f : FmtVI)
  /-- `vred`, R196. -/
  | vred (f : FmtVS)
  /-- `vscan`, R197. -/
  | vscan (f : FmtVR)
  /-- `vmovs`, R184. -/
  | vmovs (f : FmtVS)
  /-- `vrdl`, R194. -/
  | vrdl (f : FmtVS)
  /-- `vwrl`, R194. -/
  | vwrl (f : FmtVS)
  /-- `vsr`, R185. -/
  | vsr (f : FmtVS)
  /-- `vdot4`, R198. -/
  | vdot4 (f : FmtVR)
  /-- `vdot2`, R199. -/
  | vdot2 (f : FmtVR)
  /-- `vfadd`, R201. -/
  | vfadd (f : FmtVR)
  /-- `vfsub`, R201. -/
  | vfsub (f : FmtVR)
  /-- `vfmul`, R201. -/
  | vfmul (f : FmtVR)
  /-- `vfma`, R201. -/
  | vfma (f : FmtVR)
  /-- `vfmin`, R202. -/
  | vfmin (f : FmtVR)
  /-- `vfmax`, R202. -/
  | vfmax (f : FmtVR)
  /-- `vcmp`, R200. -/
  | vcmp (f : FmtVP)
  /-- `vfcmp`, R200. -/
  | vfcmp (f : FmtVP)
  /-- `vrcp`, R203. -/
  | vrcp (f : FmtVR)
  /-- `vrsqrt`, R203. -/
  | vrsqrt (f : FmtVR)
  /-- `vsqrt`, R203. -/
  | vsqrt (f : FmtVR)
  /-- `vexp2`, R203. -/
  | vexp2 (f : FmtVR)
  /-- `vlog2`, R203. -/
  | vlog2 (f : FmtVR)
  /-- `vcvt`, R175. -/
  | vcvt (f : FmtVR)
  /-- `vfclass`, R204. -/
  | vfclass (f : FmtVR)
  /-- `vround`, R205. -/
  | vround (f : FmtVX)
  -- class SCA
  /-- `smov`, R149. -/
  | smov (f : FmtSR)
  /-- `smovi`, R153. -/
  | smovi (f : FmtSL)
  /-- `smovh`, R153. -/
  | smovh (f : FmtSL)
  /-- `sadd`, R149. -/
  | sadd (f : FmtSR)
  /-- `ssub`, R149. -/
  | ssub (f : FmtSR)
  /-- `smul`, R149. -/
  | smul (f : FmtSR)
  /-- `smulh`, R149. -/
  | smulh (f : FmtSR)
  /-- `sdiv`, R150. -/
  | sdiv (f : FmtSR)
  /-- `srem`, R150. -/
  | srem (f : FmtSR)
  /-- `sand`, R149. -/
  | sand (f : FmtSR)
  /-- `sor`, R149. -/
  | sor (f : FmtSR)
  /-- `sxor`, R149. -/
  | sxor (f : FmtSR)
  /-- `sshl`, R149. -/
  | sshl (f : FmtSR)
  /-- `sshr`, R149. -/
  | sshr (f : FmtSR)
  /-- `smin`, R149. -/
  | smin (f : FmtSR)
  /-- `smax`, R149. -/
  | smax (f : FmtSR)
  /-- `saddi`, R152. -/
  | saddi (f : FmtSI)
  /-- `sandi`, R152. -/
  | sandi (f : FmtSI)
  /-- `sshli`, R152. -/
  | sshli (f : FmtSI)
  /-- `sshri`, R152. -/
  | sshri (f : FmtSI)
  /-- `scmp`, R151. -/
  | scmp (f : FmtSR)
  /-- `sbfe`, R151. -/
  | sbfe (f : FmtSR)
  /-- `spopc`, R149. -/
  | spopc (f : FmtSR)
  /-- `sclz`, R149. -/
  | sclz (f : FmtSR)
  /-- `sfadd`, R154. -/
  | sfadd (f : FmtSR)
  /-- `sfmul`, R154. -/
  | sfmul (f : FmtSR)
  /-- `sfma`, R154. -/
  | sfma (f : FmtSR)
  /-- `scvt`, R155. -/
  | scvt (f : FmtSR)
  /-- `srd`, R156. -/
  | srd (f : FmtSL)
  /-- `swr`, R156. -/
  | swr (f : FmtSL)
  /-- `sfmt`, R157. -/
  | sfmt (f : FmtSR)
  /-- `pand`, R158. -/
  | pand (f : FmtSR)
  /-- `por`, R158. -/
  | por (f : FmtSR)
  /-- `pxor`, R158. -/
  | pxor (f : FmtSR)
  /-- `pandn`, R158. -/
  | pandn (f : FmtSR)
  /-- `pmovsp`, R158. -/
  | pmovsp (f : FmtSR)
  /-- `pmovps`, R158. -/
  | pmovps (f : FmtSR)
  /-- `pcnt`, R158. -/
  | pcnt (f : FmtSR)
  /-- `pfirst`, R158. -/
  | pfirst (f : FmtSR)
  -- class MEM
  /-- `vld`, R208. -/
  | vld (f : FmtMV)
  /-- `vlds`, R208. -/
  | vlds (f : FmtMV)
  /-- `vst`, R208. -/
  | vst (f : FmtMV)
  /-- `sld`, R213. -/
  | sld (f : FmtMS)
  /-- `slds`, R213. -/
  | slds (f : FmtMS)
  /-- `sst`, R213. -/
  | sst (f : FmtMS)
  /-- `vatom_i32`, R215. -/
  | vatomI32 (f : FmtMA)
  /-- `vatom_u32`, R215. -/
  | vatomU32 (f : FmtMA)
  /-- `vatom_f32`, R215. -/
  | vatomF32 (f : FmtMA)
  /-- `vatom_f16x2`, R215. -/
  | vatomF16x2 (f : FmtMA)
  /-- `vatom_b16x2`, R215. -/
  | vatomB16x2 (f : FmtMA)
  /-- `vatomn_i32`, R216. -/
  | vatomnI32 (f : FmtMA)
  /-- `vatomn_u32`, R216. -/
  | vatomnU32 (f : FmtMA)
  /-- `vatomn_f32`, R216. -/
  | vatomnF32 (f : FmtMA)
  /-- `vatomn_f16x2`, R216. -/
  | vatomnF16x2 (f : FmtMA)
  /-- `vatomn_b16x2`, R216. -/
  | vatomnB16x2 (f : FmtMA)
  /-- `satom`, R217. -/
  | satom (f : FmtSA)
  /-- `hsel`, R218. -/
  | hsel (f : FmtMS)
  /-- `hinfo`, R219. -/
  | hinfo (f : FmtMS)
  /-- `fence`, R220. -/
  | fence (f : FmtMF)
  /-- `flsig`, R222. -/
  | flsig (f : FmtMS)
  /-- `flwait`, R222. -/
  | flwait (f : FmtMS)
  /-- `barinit`, R225. -/
  | barinit (f : FmtMB)
  /-- `barexp`, R225. -/
  | barexp (f : FmtMB)
  /-- `barrive`, R224. -/
  | barrive (f : FmtMB)
  /-- `bwait`, R226. -/
  | bwait (f : FmtMB)
  /-- `bartest`, R225. -/
  | bartest (f : FmtMB)
  /-- `bsync`, R225. -/
  | bsync (f : FmtMB)
  -- class CTL
  /-- `bra`, R131. -/
  | bra (f : FmtCB)
  /-- `brp`, R133. -/
  | brp (f : FmtCB)
  /-- `rcvpt`, R132. -/
  | rcvpt (f : FmtCB)
  /-- `join`, R136. -/
  | join (f : FmtCR)
  /-- `bcnd`, R131. -/
  | bcnd (f : FmtCC)
  /-- `sloop`, R131. -/
  | sloop (f : FmtCC)
  /-- `call`, R141. -/
  | call (f : FmtCB)
  /-- `callr`, R141. -/
  | callr (f : FmtCR)
  /-- `ret`, R144. -/
  | ret (f : FmtCR)
  /-- `jmp`, R145. -/
  | jmp (f : FmtCR)
  /-- `exit`, R140. -/
  | exit (f : FmtCR)
  /-- `yield`, R146. -/
  | yield (f : FmtCR)
  /-- `twait`, R146. -/
  | twait (f : FmtCQ)
  /-- `dqpop`, R38. -/
  | dqpop (f : FmtCQ)
  /-- `dqpush`, R38. -/
  | dqpush (f : FmtCR)
  /-- `bany`, R131. -/
  | bany (f : FmtCB)
  /-- `ball`, R131. -/
  | ball (f : FmtCB)
  /-- `nop`, R146. -/
  | nop (f : FmtCR)
  -- class MTX
  /-- `mshape`, R267. -/
  | mshape (f : FmtEB)
  /-- `mzero`, R268. -/
  | mzero (f : FmtEB)
  /-- `mma`, R270. -/
  | mma (f : FmtVR)
  /-- `mloop`, R272. -/
  | mloop (f : FmtEB)
  /-- `mloopg`, R273. -/
  | mloopg (f : FmtEB)
  /-- `mloopn`, R274. -/
  | mloopn (f : FmtEB)
  /-- `msmx`, R276. -/
  | msmx (f : FmtEB)
  /-- `mdrain`, R278. -/
  | mdrain (f : FmtEB)
  /-- `mside`, R281. -/
  | mside (f : FmtEB)
  /-- `mprog`, R283. -/
  | mprog (f : FmtEB)
  /-- `mstat`, R282. -/
  | mstat (f : FmtEB)
  -- class CPY
  /-- `cpy`, R240. -/
  | cpy (f : FmtEB)
  /-- `cpy2d`, R240. -/
  | cpy2d (f : FmtEB)
  /-- `cpymc`, R244. -/
  | cpymc (f : FmtEB)
  /-- `cpyfill`, R240. -/
  | cpyfill (f : FmtEB)
  /-- `cpyrec`, R249. -/
  | cpyrec (f : FmtEB)
  /-- `tlrd`, R250. -/
  | tlrd (f : FmtEB)
  /-- `tlwait`, R250. -/
  | tlwait (f : FmtEB)
  /-- `cprog`, R252. -/
  | cprog (f : FmtEB)
  /-- `qpost`, R254. -/
  | qpost (f : FmtEB)
  -- class ARN
  /-- `arnew`, R303. -/
  | arnew (f : FmtEB)
  /-- `halloc`, R304. -/
  | halloc (f : FmtEB)
  /-- `arseal`, R307. -/
  | arseal (f : FmtEB)
  /-- `ardrop`, R310. -/
  | ardrop (f : FmtEB)
  /-- `arquota`, R306. -/
  | arquota (f : FmtEB)
  /-- `arinfo`, R306. -/
  | arinfo (f : FmtEB)
  -- class MSG
  /-- `send`, R326. -/
  | send (f : FmtEB)
  /-- `asend`, R336. -/
  | asend (f : FmtEB)
  /-- `rdy`, R333. -/
  | rdy (f : FmtEB)
  /-- `unrdy`, R334. -/
  | unrdy (f : FmtEB)
  /-- `recv`, R341. -/
  | recv (f : FmtEB)
  /-- `grpnew`, R330. -/
  | grpnew (f : FmtEB)
  /-- `grpdel`, R331. -/
  | grpdel (f : FmtEB)
  /-- `colnew`, R344. -/
  | colnew (f : FmtEB)
  /-- `redpost`, R345. -/
  | redpost (f : FmtEB)
  /-- `redwait`, R348. -/
  | redwait (f : FmtEB)
  /-- `colabort`, R349. -/
  | colabort (f : FmtEB)
  /-- `msgstat`, R342. -/
  | msgstat (f : FmtEB)
  -- class SYS
  /-- `trap`, R397. -/
  | trap (f : FmtSL)
  /-- `brk`, R397. -/
  | brk (f : FmtSL)
  /-- `eret`, R398. -/
  | eret (f : FmtCR)
  /-- `prd`, R399. -/
  | prd (f : FmtSL)
  /-- `pwr`, R399. -/
  | pwr (f : FmtSL)
  /-- `capmask`, R406. -/
  | capmask (f : FmtCQ)
  /-- `tmark`, R428. -/
  | tmark (f : FmtSL)
  /-- `dump`, R409. -/
  | dump (f : FmtEB)
  /-- `respost`, R366. -/
  | respost (f : FmtCR)
  /-- `sstep`, R400. -/
  | sstep (f : FmtSL)
  /-- `kiln`, R408. -/
  | kiln (f : FmtEB)
  -- steps without an encoding
  /-- BLOCKED_WORD_RESUME, R61: A suspended blocking word or engine command becomes eligible and resumes when its condition or room appears. -/
  | blockedWordResume (p : PairRef)
  /-- WINDOW_RETIRE, R120: An instruction leaves the replay window after D cycles, writing its result and letting window-end actions act. -/
  | windowRetire (t : ThreadRef)
  /-- AGE_SWAP, R127: A spilled fragment reaching AGE 256 swaps with the youngest resident slot. -/
  | ageSwap (t : ThreadRef)
  /-- STARVATION_SWAP, R128: After 64 cycles with both slots not ready, a spilled fragment enters a blocked slot. -/
  | starvationSwap (t : ThreadRef)
  /-- TRAP_DELIVERY, R392: A late or asynchronous fault is delivered to the trap entry at the slot's next clause boundary. -/
  | trapDelivery (p : PairRef)
  /-- PAGE_FAULT_RESOLVE, R90: The brewhouse resolves a page fault and releases the suspended word or operation. -/
  | pageFaultResolve (w : FaultWaiter) (ldev page : Nat) (ok : Bool)
  /-- MAPPING_CHANGE, R91: The brewhouse changes or migrates a mapping after invalidating translations. -/
  | mappingChange (ldev page : Nat) (to_ : Mapping)
  /-- ACCESS_AT_HOME, R297: An access, posted or not, is performed or rejected at its home slice. -/
  | accessAtHome (a : HomeAccess)
  /-- FILL_RETURN, R314: A sector fill returns and merges with byte-masked writes, releasing waiting reads. -/
  | fillReturn (ldev sector : Nat)
  /-- FENCE_COMPLETE, R221: A fence completes, releasing held stores and loads or rolling back speculation. -/
  | fenceComplete (t : ThreadRef)
  /-- FLUSH_COMPLETE, R222: A flsig flush completes once its covered posted writes are performed. -/
  | flushComplete (t : ThreadRef) (die : Nat)
  /-- ASYNC_COMPLETE, R18: An asynchronous operation completes, arriving at its barrier, clearing its token and advancing its timeline. -/
  | asyncComplete (o : OpRef)
  /-- MULTICAST_RECEIVE, R245: A receiver decides on a multicast tile, writes it, arrives and acknowledges. -/
  | multicastReceive (uid num bit : Nat)
  /-- MATRIX_BOUNDARY, R284: A matrix operation completes one step, row or line boundary. -/
  | matrixBoundary (uid num : Nat)
  /-- CPY_FREEZE, R252: Writing the copy FREEZE register stops or resumes the copy context. -/
  | cpyFreeze (uid : Nat) (v : Bool)
  /-- MTX_FREEZE, R283: Writing the matrix FREEZE register stops or resumes the matrix context. -/
  | mtxFreeze (uid : Nat) (v : Bool)
  /-- SEAL_BROADCAST, R307: A seal broadcast reaches an L1 or slice, which sets SEAL bits, writes back and acknowledges. -/
  | sealBroadcast (b : SealCast)
  /-- SEAL_COMPLETE, R307: The last seal acknowledgement makes the set SEALED and completes the seal. -/
  | sealComplete (a : ArenaRef)
  /-- DROP_BROADCAST, R310: A drop mask reaches a cache, core or controller, which invalidates tagged state and acknowledges. -/
  | dropBroadcast (b : DropCast)
  /-- DROP_COMPLETE, R310: The last drop acknowledgement clears handle entries, returns quota and frees indices. -/
  | dropComplete (d : DropEnd)
  /-- READINESS_REPORT, R332: A child's readiness total reaches its parent and overwrites its count. -/
  | readinessReport (p : PartRef) (gid core : Nat)
  /-- MESSAGE_STEER, R337: A group message arriving at a node is delivered, sent down, parked or passed up. -/
  | messageSteer (m : MsgRef)
  /-- MESSAGE_BOUNCE, R337: A bounced message returns to a parent, which zeroes that child's count and steers again. -/
  | messageBounce (m : MsgRef)
  /-- ORD_ACK, R339: A consumer's acknowledgement of an ORD delivery lets the root steer the next of that pair. -/
  | ordAck (m : MsgRef)
  /-- RING_DELIVERY, R340: A RECV delivery writes a whole slot of the crew's receive ring. -/
  | ringDelivery (m : MsgRef)
  /-- HANDLER_SPAWN, R327: The oldest parked message spawns a handler group when a free slot appears. -/
  | handlerSpawn (uid : Nat)
  /-- GRPDEL_HANDOVER, R331: A message of a deleted group returning to the root is sent to the orphan handler or discarded. -/
  | grpdelHandover (m : MsgRef)
  /-- REDUCTION_PARTIAL, R346: A node combines its contribution and children's partials and forwards or broadcasts the result. -/
  | reductionPartial (m : RoundMove)
  /-- REDUCTION_RESULT, R346: A member writes the round result to scratch and arrives at its barrier. -/
  | reductionResult (m : RoundMove)
  /-- ROUND_TIMEOUT, R347: A reduction round's timer expires and the round ends as TIMEOUT. -/
  | roundTimeout (r : RoundRef)
  /-- HALTED_NOTICE, R351: A HALTED notice freezes round timers or aborts rounds with PEER_HALTED. -/
  | haltedNotice (p : PartRef) (tree : Nat)
  /-- CELLAR_LIMIT, R326: A send or asend waiting for a cellar entry is refused PARKFULL when LIMIT passes. -/
  | cellarLimit (p : PairRef)
  /-- RECV_LIMIT, R341: A blocked recv is refused TIMEOUT when its limit passes. -/
  | recvLimit (p : PairRef)
  /-- TLWAIT_LIMIT, R250: A blocked tlwait returns the counter when its limit passes. -/
  | tlwaitLimit (p : PairRef)
  /-- QPOST_ROOM_LIMIT, R254: A qpost waiting for queue room completes QFULL when its limit passes. -/
  | qpostRoomLimit (uid num : Nat)
  /-- LAUNCH, R29: A LAUNCH packet is checked and a task started with its PRIVATE arena. -/
  | launch (k : PktRef)
  /-- BRANCH, R368: A BRANCH packet reads a word and may skip later packets. -/
  | branch (k : PktRef)
  /-- WAITTL, R363: A WAITTL packet waits until a word reaches a value. -/
  | waittl (k : PktRef)
  /-- WAITTL_NOTIFY, R363: A write notification on a watched line makes a WAITTL re-read its word. -/
  | waittlNotify (k : PktRef)
  /-- DEPEND, R363: A DEPEND packet waits for another queue's packet to retire. -/
  | depend (k : PktRef)
  /-- PACKET_LIMIT, R363: A WAITTL or DEPEND LIMIT passes and the packet retires EXPIRED. -/
  | packetLimit (k : PktRef)
  /-- SIGNAL, R363: A SIGNAL packet stores or atomically updates a word and may raise an interrupt. -/
  | signal (k : PktRef)
  /-- COPY, R363: A COPY packet has the brewhouse copy bytes as cpy does. -/
  | copy (k : PktRef)
  /-- DROP, R363: A DROP packet drops an arena as ardrop would. -/
  | drop (k : PktRef)
  /-- MARKER, R363: A MARKER packet writes a journal record with its tag. -/
  | marker (k : PktRef)
  /-- PLACEMENT, R372: At a placement opportunity the engine selects and places a crew. -/
  | placement (p : PartRef) (core : Nat)
  /-- SAVE_COMPLETE, R374: A pre-empted crew reaches SAVED once its writes are performed. -/
  | saveComplete (uid : Nat)
  /-- CREW_RESUME, R375: The restore routine loads a SAVED crew on a new core and it runs. -/
  | crewResume (uid core : Nat)
  /-- QUEUE_AGED, R371: A queue waiting AGE µs with a placeable crew becomes aged. -/
  | queueAged (ldev queue : Nat)
  /-- CREW_RETIRE, R49: A crew whose work and writes have ended returns its resources. -/
  | crewRetire (uid : Nat)
  /-- TASK_RETIRE, R50: A task retires, drops its PRIVATE arena and writes its result and status. -/
  | taskRetire (ldev task : Nat)
  /-- TASK_TIMEOUT, R52: A task's TIMEOUT expires and the task is killed. -/
  | taskTimeout (ldev task : Nat)
  /-- WATCHDOG_EXPIRY, R395: A pair suspended longer than the watchdog limit faults with WATCHDOG. -/
  | watchdogExpiry (p : PairRef)
  /-- KILL, R379: A crew is halted, its engines stopped and its writes discarded. -/
  | kill (uid : Nat)
  /-- KILL_COMPLETE, R380: All acknowledgements arrive and the killed crew's state is scrubbed and retired. -/
  | killComplete (uid : Nat)
  /-- DUMP_WRITTEN, R411: The ashpit finishes a fatal dump and the next queued dump starts. -/
  | dumpWritten (p : PartRef) (e : DumpEnd)
  /-- PARTITION_DEADLINE, R378: A partition change's DEADLINE passes, failing BUSY or killing with FORCE. -/
  | partitionDeadline (ldev : Nat)
  /-- PARTITION_APPLY, R378: With no crews left, the change is applied and admission resumes. -/
  | partitionApply (ldev : Nat)
  /-- ELECTION_WINDOW_END, R383: The election window ends and ownership is granted. -/
  | electionWindowEnd
  /-- CLAIM, R383: A master claims ownership with a signed command. -/
  | claim (c : Cmd)
  /-- HANDOVER, R384: The owner hands ownership to another master. -/
  | handover (c : Cmd)
  /-- OVERRIDE, R384: The management controller takes ownership whoever holds it. -/
  | override (c : Cmd)
  /-- CMD_QREG, R358: Registers a queue of a partition. -/
  | cmdQreg (c : Cmd)
  /-- QRESET, R358: Resets a queue's indices and skips unstarted packets. -/
  | qreset (c : Cmd)
  /-- QREMOVE, R387: Unregisters a queue. -/
  | qremove (c : Cmd)
  /-- QAPPEND, R387: Claims, writes and publishes a packet on a master's behalf. -/
  | qappend (c : Cmd)
  /-- QAPPEND_BUSY, R387: A QAPPEND whose queue stays full for 1 ms is answered BUSY. -/
  | qappendBusy (source : Master) (seq : Word)
  /-- PARTCHG, R378: Requests a partition layout change. -/
  | partchg (c : Cmd)
  /-- KILLTASK, R387: Kills a task. -/
  | killtask (c : Cmd)
  /-- KILLPART, R387: Kills every task of a partition. -/
  | killpart (c : Cmd)
  /-- CMD_POWER, R455: Requests a partition or package power state change. -/
  | cmdPower (c : Cmd)
  /-- WATCHDOG, R387: Sets a partition's watchdog limit. -/
  | watchdog (c : Cmd)
  /-- DUMPH, R411: Registers a partition's fatal dump target. -/
  | dumph (c : Cmd)
  /-- CMD_ARNEW, R387: Creates an arena for the owner. -/
  | cmdArnew (c : Cmd)
  /-- CMD_HALLOC, R387: Allocates an object for the owner. -/
  | cmdHalloc (c : Cmd)
  /-- CMD_ARSEAL, R387: Seals an arena for the owner, responding at seal-complete. -/
  | cmdArseal (c : Cmd)
  /-- CMD_ARDROP, R387: Drops an arena for the owner, responding at drop-complete. -/
  | cmdArdrop (c : Cmd)
  /-- CMD_ARQUOTA, R387: Sets an arena's quota and cap for the owner. -/
  | cmdArquota (c : Cmd)
  /-- CMD_ARINFO, R387: Reads an arena table dword for any master. -/
  | cmdArinfo (c : Cmd)
  /-- MAP, R388: Maps an object into the host window. -/
  | map (c : Cmd)
  /-- UNMAP, R388: Removes a host-window mapping. -/
  | unmap (c : Cmd)
  /-- IMPORT, R85: Makes a PEER handle entry from an exported handle. -/
  | importHandle (c : Cmd)
  /-- MREAD, R387: Reads up to 56 bytes of device memory for a master. -/
  | mread (c : Cmd)
  /-- MWRITE, R387: Writes up to 56 bytes of device memory for a master. -/
  | mwrite (c : Cmd)
  /-- DEBUGTOKEN, R432: Enters tenant-debug for a partition with a signed token. -/
  | debugtoken (c : Cmd)
  /-- ATTEST, R458: Returns a signed attestation report. -/
  | attest (c : Cmd)
  /-- BINDVEC, R389: Binds an interrupt vector to a hart and identity. -/
  | bindvec (c : Cmd)
  /-- JREAD, R387: Returns journal records and HEAD. -/
  | jread (c : Cmd)
  /-- HALT, R419: Halts a crew, partition or chip. -/
  | halt (c : Cmd)
  /-- RESUME, R419: Resumes what HALT stopped. -/
  | resume (c : Cmd)
  /-- STEP, R419: Runs one clause of a named pair. -/
  | step (c : Cmd)
  /-- BPSET, R414: Sets a crew breakpoint register. -/
  | bpset (c : Cmd)
  /-- WPSET, R414: Sets a crew watchpoint. -/
  | wpset (c : Cmd)
  /-- INTERCEPT, R396: Sets a crew's fault intercept mask. -/
  | intercept (c : Cmd)
  /-- REGRD, R390: Reads a register of a stopped crew. -/
  | regrd (c : Cmd)
  /-- REGWR, R390: Writes a register of a stopped crew. -/
  | regwr (c : Cmd)
  /-- SAMPLE, R421: Starts or stops sampling into a ring. -/
  | sample (c : Cmd)
  /-- SERIES, R423: Starts or stops the counter time series. -/
  | series (c : Cmd)
  /-- TRACE, R424: Starts or stops trace for a task. -/
  | trace (c : Cmd)
  /-- DBGPOL, R419: Sets the partition's collective halt policy. -/
  | dbgpol (c : Cmd)
  /-- STOPREC, R418: Reads a crew's stop record. -/
  | stoprec (c : Cmd)
  /-- MEMRD, R390: Reads scratch, tile or memory bytes of a stopped crew. -/
  | memrd (c : Cmd)
  /-- MEMWR, R390: Writes scratch, tile or memory bytes of a stopped crew. -/
  | memwr (c : Cmd)
  /-- REGISTER_WRITE, R388: A write to a register with no behaviour of its own stores the value. -/
  | registerWrite (addr : Nat) (a : HostAccess)
  /-- BREAKPOINT_HIT, R415: A selected clause matches an enabled breakpoint and the crew stops. -/
  | breakpointHit (p : PairRef)
  /-- WATCHPOINT_HIT, R416: A MEM access matches a watchpoint and the crew stops. -/
  | watchpointHit (p : PairRef) (n : Nat) (lanes : Word)
  /-- SAMPLE_TICK, R421: On each sampling tick every scheduler writes a sample. -/
  | sampleTick (p : PartRef)
  /-- SERIES_TICK, R423: On each series tick every die latches and streams its counters. -/
  | seriesTick (p : PartRef)
  /-- TRACE_FRAME_CLOSE, R424: A trace frame closes after 1 µs with no new byte. -/
  | traceFrameClose (uid : Nat)
  /-- TRACE_LOSS, R427: When room returns after drops, a LOSS packet is written. -/
  | traceLoss (uid : Nat)
  /-- TOKEN_EXPIRY, R432: A tenant-debug token expires and the partition returns to production-locked. -/
  | tokenExpiry (p : PartRef)
  /-- STRIKE, R401: A soft-error strike report makes affected cores replay and re-execute. -/
  | strike (cores : List Nat)
  /-- RESIDUE_MISMATCH, R402: A residue check mismatch causes a core-wide replay and counts a kiln event. -/
  | residueMismatch (site : ResidueSite)
  /-- POISON_CONSUME, R403: Consuming poisoned bytes kills the consumer. -/
  | poisonConsume (t : ThreadRef)
  /-- KILNWAIT_EXPIRY, R407: KILNWAIT passes and the crews holding a suspect class are pre-empted. -/
  | kilnwaitExpiry (c : ClassRef)
  /-- KILN_TEST, R407: A suspect class's known-answer test starts on the core. -/
  | kilnTest (c : ClassRef)
  /-- KILN_TEST_RESULT, R407: A kiln test ends in pass, retest or fence. -/
  | kilnTestResult (c : ClassRef) (pass : Bool)
  /-- KILN_FENCE_APPLY, R407: Once affected crews are SAVED, the class bit clears and the fence is signed and journalled. -/
  | kilnFenceApply (c : ClassRef)
  /-- LINK_FAILURE, R353: A die-to-die link failure returns its packets and reroutes traffic. -/
  | linkFailure (l : Link)
  /-- PTP_MESSAGE, R431: An IEEE 1588 message disciplines device time. -/
  | ptpMessage (m : PtpMsg)
  /-- RAIL_ADJUST, R453: The brewhouse sets a core's supply rail from its margin sensors. -/
  | railAdjust (core mv : Nat)
  /-- POWER_THROTTLE, R454: Measured power over a limit lowers issue rates. -/
  | powerThrottle (mtxPct schedPct : Nat)
  /-- IDLE_TIMEOUT, R455: After 100 µs with no resident crew a partition becomes Idle. -/
  | idleTimeout (p : PartRef)
  /-- PACKAGE_RESET, R456: Power-on or package reset runs the boot sequence. -/
  | packageReset (b : BootImage)
  /-- RESERVED_OPCODE_WORD, R81: A word in an instruction position whose opcode is not in its class table, or is 0x58-0x5F, issues and faults with ILLEGAL_INSTRUCTION. -/
  | reservedOpcodeWord (c : Cls) (w : Word)
  /-- UNKNOWN_COMMAND, R386: A command record whose OPCODE R387 does not list is answered UNKNOWN with no effect. -/
  | unknownCommand (c : Cmd)
  /-- BADPACKET, R363: A published packet with TYPE 9 to 255 retires BADPACKET with no other effect. -/
  | badpacket (k : PktRef)
  /-- UNCORRECTABLE_ERROR, R403: An uncorrectable ECC error in a register bank, core store, slice or HBM marks its bytes poisoned. -/
  | uncorrectableError (site : EccSite)
  /-- REQUESTED_DUMP_COMPLETE, R409: The ashpit finishes a dump that the dump word requested, the crew resumes, and sd receives the status. -/
  | requestedDumpComplete (p : PairRef) (e : DumpEnd)
  /-- TRANSLATION_WALK, R89: A page-table walk on the brewhouse that serves a translation miss completes and the waiting accesses proceed. -/
  | translationWalk (die ldev page : Nat)
  /-- OCC_REPORT, R291: The die-cache lines of each arena are reported to the brewhouse arena table's OCC field at least every 1 us. -/
  | occReport (a : ArenaRef) (lines : Word)
  /-- CLOCK_SLEW_END, R431: A slew of device time ends once its offset is removed, and a CLOCK record is journalled. -/
  | clockSlewEnd
  /-- HALT_END, R351: A debugger halt of a member chip ends, and the frozen round timers of that fabric tree resume from their frozen values. -/
  | haltEnd (p : PartRef) (tree : Nat)
deriving DecidableEq, Repr

end Sys2Proof
end

