-- ==== Sys2Proof/WellFormed.lean ====
section
/-! DEFINITION. The checks on an instruction word's own fields: what R69 to R77 and the entries of the words call a
reserved or unused field (step 3 of R80, the part of it that the word alone decides). The checks that depend on where
the word stands (lead code, registers beyond those allocated) are made by the machine. The steps without an encoding
have no such check. -/

namespace Sys2Proof

/-- gp = 0 with gn = 1 is reserved (R70). -/
def guardOk (gn : BitVec 1) (gp : BitVec 3) : Bool := !(gp == 0 && gn == 1)

/-- All six integer types of R72. -/
def tyInt (ty : BitVec 3) : Bool := ty.ule 5

/-- The unsigned integer types U32, U16X2 and U8X4 of R72. -/
def tyUns (ty : BitVec 3) : Bool := ty == 1 || ty == 3 || ty == 5

/-- The float types F32, F16X2 and B16X2 of R72. -/
def tyFlt (ty : BitVec 3) : Bool := ty.ule 2

/-- The operation field of `vred` and `vscan` with its type (R195). -/
def opfOk (opf : BitVec 4) (ty : BitVec 3) : Bool :=
  if opf.getLsbD 3 then ty == 0 && (opf.setWidth 3).ule 2 else ty.ule 1 && (opf.setWidth 3).ule 5

/-- The conversion codes that R175 lists. -/
def cvtCodeOk (c : BitVec 6) : Bool := c.ule 0x1F && c != 0x0E && c != 0x0F

/-- The conversion codes that `scvt` accepts (R155, R176): no packed type and no half or byte selector. -/
def scvtCodeOk (c : BitVec 7) : Bool :=
  c.ule 4 || c == 6 || c == 8 || c == 0x0A || c == 0x10 || c == 0x14 || c == 0x18 || c == 0x1C

/-- The order and scope of an MV access (R73, R207): plain with crew scope, or the one order the word may carry. -/
def mvOrdOk (ord allowed : BitVec 2) (scope : BitVec 2) : Bool := (ord == 0 && scope == 0) || ord == allowed

/-- The atomic kinds of a float opcode: add, min, max, xchg and cas (R74). -/
def fltKindOk (k : BitVec 4) : Bool := k.ule 2 || k == 6 || k == 7

/-- Subfield T of an MTX word (R77). -/
def mtxT (f : BitVec 10) : BitVec 3 := f.extractLsb' 7 3

/-- Subfield XA of an MTX word (R77). -/
def mtxXA (f : BitVec 10) : BitVec 4 := f.extractLsb' 3 4

/-- Subfield FL of an MTX word (R77). -/
def mtxFL (f : BitVec 10) : BitVec 3 := f.extractLsb' 0 3

/-- The word's own fields are legal (R69 to R77); true of every step without an encoding. -/
def Instr.wf : Instr → Bool
  | .vmov f => guardOk f.gn f.gp && f.ty == 0 && f.vb == 0
  | .vmovi f => f.va == 0 && f.ty.ule 3
  | .vadd f => guardOk f.gn f.gp && tyInt f.ty
  | .vsub f => guardOk f.gn f.gp && tyInt f.ty
  | .vadds f => guardOk f.gn f.gp && tyInt f.ty
  | .vsubs f => guardOk f.gn f.gp && tyInt f.ty
  | .vmul f => guardOk f.gn f.gp && tyInt f.ty
  | .vmulhi f => guardOk f.gn f.gp && tyInt f.ty
  | .vmad f => guardOk f.gn f.gp && tyInt f.ty
  | .vmin f => guardOk f.gn f.gp && tyInt f.ty
  | .vmax f => guardOk f.gn f.gp && tyInt f.ty
  | .vabsd f => guardOk f.gn f.gp && tyInt f.ty
  | .vand f => guardOk f.gn f.gp && f.ty == 0
  | .vor f => guardOk f.gn f.gp && f.ty == 0
  | .vxor f => guardOk f.gn f.gp && f.ty == 0
  | .vandn f => guardOk f.gn f.gp && f.ty == 0
  | .vshl f => guardOk f.gn f.gp && tyInt f.ty
  | .vshr f => guardOk f.gn f.gp && tyInt f.ty
  | .vrot f => guardOk f.gn f.gp && tyUns f.ty
  | .vbfe f => guardOk f.gn f.gp && f.ty.ule 1
  | .vbfi f => guardOk f.gn f.gp && f.ty == 0
  | .vpopc f => guardOk f.gn f.gp && tyUns f.ty && f.vb == 0
  | .vclz f => guardOk f.gn f.gp && tyUns f.ty && f.vb == 0
  | .vbrev f => guardOk f.gn f.gp && f.ty == 0 && f.vb == 0
  | .vsel f => guardOk f.gn f.gp && f.ty == 0
  | .vaddi f => f.ty.ule 3
  | .vandi f => f.ty.ule 1
  | .vshli f => f.ty.ule 3 && f.imm.ule (if f.ty.ule 1 then 31 else 15)
  | .vshri f => f.ty.ule 3 && f.imm.ule (if f.ty.ule 1 then 31 else 15)
  | .vacs f => f.ty == 2 && f.x4.ule 7 && f.x4.getLsbD 0 == false
  | .vhsel f => f.ty == 0
  | .vperm f => guardOk f.gn f.gp && f.ty == 0
  | .vshfl f => f.ty == 0 && f.imm.extractLsb' 5 3 == 0
  | .vred f => f.x10.ule 15 && opfOk (f.x10.setWidth 4) f.ty
  | .vscan f => guardOk f.gn f.gp && f.vb.ule 15 && opfOk (f.vb.setWidth 4) f.ty
  | .vmovs f => f.ty == 0 && f.x10 == 0
  | .vrdl f => f.ty.ule 1 && f.x10.ule 31
  | .vwrl f => f.ty == 0 && f.x10.ule 31
  | .vsr f => f.sr == 0 && f.ty == 1 && f.x10.ule 8
  | .vdot4 f => guardOk f.gn f.gp && (f.ty == 4 || f.ty == 5)
  | .vdot2 f => guardOk f.gn f.gp && (f.ty == 1 || f.ty == 2)
  | .vfadd f => guardOk f.gn f.gp && tyFlt f.ty
  | .vfsub f => guardOk f.gn f.gp && tyFlt f.ty
  | .vfmul f => guardOk f.gn f.gp && tyFlt f.ty
  | .vfma f => guardOk f.gn f.gp && tyFlt f.ty
  | .vfmin f => guardOk f.gn f.gp && tyFlt f.ty
  | .vfmax f => guardOk f.gn f.gp && tyFlt f.ty
  | .vcmp f => f.ty.ule 1 && f.cond.ule 5
  | .vfcmp f => f.ty == 0 && f.cond.ule 7
  | .vrcp f => guardOk f.gn f.gp && tyFlt f.ty && f.vb == 0
  | .vrsqrt f => guardOk f.gn f.gp && tyFlt f.ty && f.vb == 0
  | .vsqrt f => guardOk f.gn f.gp && tyFlt f.ty && f.vb == 0
  | .vexp2 f => guardOk f.gn f.gp && tyFlt f.ty && f.vb == 0
  | .vlog2 f => guardOk f.gn f.gp && tyFlt f.ty && f.vb == 0
  | .vcvt f => guardOk f.gn f.gp && f.ty == 0 && cvtCodeOk f.vb
  | .vfclass f => guardOk f.gn f.gp && tyFlt f.ty && f.vb == 0
  | .vround f => tyFlt f.ty && f.vb == 0 && f.x4.ule 4
  | .smov f => f.sb == 0 && f.f7 == 0
  | .smovi _ => true
  | .smovh _ => true
  | .sadd f => f.f7 == 0
  | .ssub f => f.f7 == 0
  | .smul f => f.f7 == 0
  | .smulh f => f.f7.ule 1
  | .sdiv f => f.f7.ule 1
  | .srem f => f.f7.ule 1
  | .sand f => f.f7 == 0
  | .sor f => f.f7 == 0
  | .sxor f => f.f7 == 0
  | .sshl f => f.f7 == 0
  | .sshr f => f.f7.ule 1
  | .smin f => f.f7.ule 1
  | .smax f => f.f7.ule 1
  | .saddi _ => true
  | .sandi _ => true
  | .sshli f => f.imm.ule 63
  | .sshri f => f.imm.ule 63
  | .scmp f => f.f7.ule 5
  | .sbfe f => f.f7.ule 1
  | .spopc f => f.sb == 0 && f.f7 == 0
  | .sclz f => f.sb == 0 && f.f7 == 0
  | .sfadd f => f.f7 == 0
  | .sfmul f => f.f7 == 0
  | .sfma f => f.f7 == 0
  | .scvt f => f.sb == 0 && scvtCodeOk f.f7
  | .srd f => f.imm.ule 0x19
  | .swr f => f.imm == 3
  | .sfmt f => f.sd == 0 && f.f7 == 0
  | .pand f => f.sd.ule 7 && f.sa.ule 7 && f.sb.ule 7 && f.f7 == 0
  | .por f => f.sd.ule 7 && f.sa.ule 7 && f.sb.ule 7 && f.f7 == 0
  | .pxor f => f.sd.ule 7 && f.sa.ule 7 && f.sb.ule 7 && f.f7 == 0
  | .pandn f => f.sd.ule 7 && f.sa.ule 7 && f.sb.ule 7 && f.f7 == 0
  | .pmovsp f => f.sd.ule 7 && f.sb == 0 && f.f7.ule 1 && !(f.f7 == 1 && f.sd.getLsbD 0)
  | .pmovps f => f.sa.ule 7 && f.sb == 0 && f.f7.ule 1 && !(f.f7 == 1 && f.sa.getLsbD 0)
  | .pcnt f => f.sa.ule 7 && f.sb == 0 && f.f7 == 0
  | .pfirst f => f.sa.ule 7 && f.sb == 0 && f.f7 == 0
  | .vld f => f.sz != 3 && mvOrdOk f.ord 1 f.scope && f.zero == 0
  | .vlds f => f.sz.ule 1 && mvOrdOk f.ord 1 f.scope && f.zero == 0
  | .vst f => f.sz != 3 && mvOrdOk f.ord 2 f.scope && f.zero == 0
  | .sld f => f.zero == 0
  | .slds f => f.sz != 3 && f.zero == 0
  | .sst f => f.zero == 0
  | .vatomI32 f => f.k.ule 7
  | .vatomU32 f => f.k.ule 7
  | .vatomF32 f => fltKindOk f.k
  | .vatomF16x2 f => fltKindOk f.k
  | .vatomB16x2 f => fltKindOk f.k
  | .vatomnI32 f => f.k.ule 7 && (f.k == 7 || f.vd == 0)
  | .vatomnU32 f => f.k.ule 7 && (f.k == 7 || f.vd == 0)
  | .vatomnF32 f => fltKindOk f.k && (f.k == 7 || f.vd == 0)
  | .vatomnF16x2 f => fltKindOk f.k && (f.k == 7 || f.vd == 0)
  | .vatomnB16x2 f => fltKindOk f.k && (f.k == 7 || f.vd == 0)
  | .satom f => f.k.ule 7
  | .hsel f => f.sd == 0 && f.sz == 0 && f.zero == 0 && !f.h.ule 1
  | .hinfo f => f.sa == 0 && f.sz == 0 && f.zero == 0 && f.imm.ule 3
  | .fence f => f.scope.ule 3 && f.kind.ule 4 && f.zero == 0
  | .flsig f => f.sz == 0 && f.zero == 0
  | .flwait f => f.sz == 0 && f.zero == 0
  | .barinit _ => true
  | .barexp _ => true
  | .barrive _ => true
  | .bwait _ => true
  | .bartest _ => true
  | .bsync _ => true
  | .bra f => f.gn == 0 && f.gp == 0
  | .brp f => guardOk f.gn f.gp
  | .rcvpt f => f.gn == 0 && f.gp == 0
  | .join f => f.sa == 0 && f.zero == 0
  | .bcnd f => f.cond.ule 5
  | .sloop f => f.cond.ule 5
  | .call f => f.gn == 0 && f.gp == 0
  | .callr f => f.zero == 0
  | .ret f => f.sa == 0 && f.zero == 0
  | .jmp f => f.zero == 0
  | .exit f => f.sa == 0 && f.zero == 0
  | .yield f => f.sa == 0 && f.zero == 0
  | .twait f => f.sd == 0 && f.f.ule 255
  | .dqpop f => f.f == 0
  | .dqpush f => f.zero == 0
  | .bany f => guardOk f.gn f.gp
  | .ball f => guardOk f.gn f.gp
  | .nop f => f.sa == 0 && f.zero == 0
  | .mshape f => f.sa.ule 60 && f.sd == 0 && f.tok == 0 && mtxT f.f == 0 && (mtxFL f.f).ule 1
  | .mzero f => f.sd == 0 && f.sa == 0 && f.tok == 0 && mtxXA f.f == 0 && mtxFL f.f == 0
  | .mma f => f.ty == 0 && f.gn == 0 && f.gp == 0 && f.vd.ule 56 && f.va.ule 60 && f.vb.ule 60
  | .mloop f => f.sa.ule 60 && f.sd.ule 15 && (mtxFL f.f).ule 1
  | .mloopg f => f.sa.ule 60 && f.sd.ule 15 && (mtxFL f.f).ule 1
  | .mloopn f => f.sa.ule 60 && f.sd.ule 15 && (mtxFL f.f).ule 1
  | .msmx f => f.sa.ule 60 && f.sd.ule 7 && mtxXA f.f == 0 && (mtxFL f.f).ule 1
  | .mdrain f => f.sa.ule 60 && f.sd.ule 15 && ((mtxFL f.f).getLsbD 2 || f.sd == 0)
  | .mside f => f.sa.ule 60 && f.tok == 0 && mtxXA f.f == 0 && (mtxFL f.f).ule 3
  | .mprog f => f.sa.ule 60 && f.tok == 0 && f.f == 0
  | .mstat f => f.sa == 0 && f.tok == 0 && f.f.ule 1
  | .cpy f => f.sa.ule 60 && f.f.setWidth 8 == 0
  | .cpy2d f => f.sa.ule 60 && !f.f.getLsbD 7
  | .cpymc f => f.sa.ule 60 && f.f.setWidth 8 == 0 && !f.f.getLsbD 9
  | .cpyfill f => f.sa.ule 60 && f.f.setWidth 8 == 0
  | .cpyrec f => f.sa.ule 60 && f.tok == 0 && f.f == 0
  | .tlrd f => f.sa.ule 60 && f.tok == 0 && f.f == 0
  | .tlwait f => f.sa.ule 60 && f.tok == 0 && f.f == 0
  | .cprog f => f.sa.ule 60 && f.tok == 0 && f.f == 0
  | .qpost f => f.sa.ule 60 && f.f.setWidth 8 == 0
  | .arnew f => f.sa.ule 60 && f.tok == 0 && f.f == 0
  | .halloc f => f.sa.ule 60 && f.tok == 0 && f.f == 0
  | .arseal f => f.sa.ule 60 && f.f == 0
  | .ardrop f => f.sa.ule 60 && f.f == 0
  | .arquota f => f.sa.ule 60 && f.tok == 0 && f.f == 0
  | .arinfo f => f.sa.ule 60 && f.tok == 0 && f.f == 0
  | .send f => f.sa.ule 60 && f.f == 0
  | .asend f => f.sa.ule 60 && f.f == 0
  | .rdy f => f.sa.ule 60 && f.f == 0
  | .unrdy f => f.sa.ule 60 && f.tok == 0 && f.f == 0
  | .recv f => f.sa.ule 60 && f.f == 0
  | .grpnew f => f.sa.ule 60 && f.tok == 0 && f.f == 0
  | .grpdel f => f.sa.ule 60 && f.f == 0
  | .colnew f => f.sa.ule 60 && f.tok == 0 && f.f == 0
  | .redpost f => f.sa.ule 60 && f.f == 0
  | .redwait f => f.sa.ule 60 && f.tok == 0 && f.f == 0 && f.sd.ule 62
  | .colabort f => f.sa.ule 60 && f.tok == 0 && f.f == 0
  | .msgstat f => f.sa.ule 60 && f.tok == 0 && f.f == 0
  | .trap f => f.sd == 0
  | .brk f => f.sd == 0
  | .eret f => f.zero == 0
  | .prd _ => true
  | .pwr _ => true
  | .capmask f => f.f == 0
  | .tmark _ => true
  | .dump f => f.sa.ule 60 && f.tok == 0 && f.f == 0
  | .respost f => f.zero == 0
  | .sstep f => f.sd == 0
  | .kiln f => f.sa.ule 60 && f.tok == 0 && f.f == 0
  | .blockedWordResume _ => true
  | .windowRetire _ => true
  | .ageSwap _ => true
  | .starvationSwap _ => true
  | .trapDelivery _ => true
  | .pageFaultResolve _ _ _ _ => true
  | .mappingChange _ _ _ => true
  | .accessAtHome _ => true
  | .fillReturn _ _ => true
  | .fenceComplete _ => true
  | .flushComplete _ _ => true
  | .asyncComplete _ => true
  | .multicastReceive _ _ _ => true
  | .matrixBoundary _ _ => true
  | .cpyFreeze _ _ => true
  | .mtxFreeze _ _ => true
  | .sealBroadcast _ => true
  | .sealComplete _ => true
  | .dropBroadcast _ => true
  | .dropComplete _ => true
  | .readinessReport _ _ _ => true
  | .messageSteer _ => true
  | .messageBounce _ => true
  | .ordAck _ => true
  | .ringDelivery _ => true
  | .handlerSpawn _ => true
  | .grpdelHandover _ => true
  | .reductionPartial _ => true
  | .reductionResult _ => true
  | .roundTimeout _ => true
  | .haltedNotice _ _ => true
  | .cellarLimit _ => true
  | .recvLimit _ => true
  | .tlwaitLimit _ => true
  | .qpostRoomLimit _ _ => true
  | .launch _ => true
  | .branch _ => true
  | .waittl _ => true
  | .waittlNotify _ => true
  | .depend _ => true
  | .packetLimit _ => true
  | .signal _ => true
  | .copy _ => true
  | .drop _ => true
  | .marker _ => true
  | .placement _ _ => true
  | .saveComplete _ => true
  | .crewResume _ _ => true
  | .queueAged _ _ => true
  | .crewRetire _ => true
  | .taskRetire _ _ => true
  | .taskTimeout _ _ => true
  | .watchdogExpiry _ => true
  | .kill _ => true
  | .killComplete _ => true
  | .dumpWritten _ _ => true
  | .partitionDeadline _ => true
  | .partitionApply _ => true
  | .electionWindowEnd => true
  | .claim _ => true
  | .handover _ => true
  | .override _ => true
  | .cmdQreg _ => true
  | .qreset _ => true
  | .qremove _ => true
  | .qappend _ => true
  | .qappendBusy _ _ => true
  | .partchg _ => true
  | .killtask _ => true
  | .killpart _ => true
  | .cmdPower _ => true
  | .watchdog _ => true
  | .dumph _ => true
  | .cmdArnew _ => true
  | .cmdHalloc _ => true
  | .cmdArseal _ => true
  | .cmdArdrop _ => true
  | .cmdArquota _ => true
  | .cmdArinfo _ => true
  | .map _ => true
  | .unmap _ => true
  | .importHandle _ => true
  | .mread _ => true
  | .mwrite _ => true
  | .debugtoken _ => true
  | .attest _ => true
  | .bindvec _ => true
  | .jread _ => true
  | .halt _ => true
  | .resume _ => true
  | .step _ => true
  | .bpset _ => true
  | .wpset _ => true
  | .intercept _ => true
  | .regrd _ => true
  | .regwr _ => true
  | .sample _ => true
  | .series _ => true
  | .trace _ => true
  | .dbgpol _ => true
  | .stoprec _ => true
  | .memrd _ => true
  | .memwr _ => true
  | .registerWrite _ _ => true
  | .breakpointHit _ => true
  | .watchpointHit _ _ _ => true
  | .sampleTick _ => true
  | .seriesTick _ => true
  | .traceFrameClose _ => true
  | .traceLoss _ => true
  | .tokenExpiry _ => true
  | .strike _ => true
  | .residueMismatch _ => true
  | .poisonConsume _ => true
  | .kilnwaitExpiry _ => true
  | .kilnTest _ => true
  | .kilnTestResult _ _ => true
  | .kilnFenceApply _ => true
  | .linkFailure _ => true
  | .ptpMessage _ => true
  | .railAdjust _ _ => true
  | .powerThrottle _ _ => true
  | .idleTimeout _ => true
  | .packageReset _ => true
  | .reservedOpcodeWord _ _ => true
  | .unknownCommand _ => true
  | .badpacket _ => true
  | .uncorrectableError _ => true
  | .requestedDumpComplete _ _ => true
  | .translationWalk _ _ _ => true
  | .occReport _ _ => true
  | .clockSlewEnd => true
  | .haltEnd _ _ => true

/-- The step has an encoding as an instruction word. -/
def Instr.isWord : Instr → Bool
  | .vmov _ => true
  | .vmovi _ => true
  | .vadd _ => true
  | .vsub _ => true
  | .vadds _ => true
  | .vsubs _ => true
  | .vmul _ => true
  | .vmulhi _ => true
  | .vmad _ => true
  | .vmin _ => true
  | .vmax _ => true
  | .vabsd _ => true
  | .vand _ => true
  | .vor _ => true
  | .vxor _ => true
  | .vandn _ => true
  | .vshl _ => true
  | .vshr _ => true
  | .vrot _ => true
  | .vbfe _ => true
  | .vbfi _ => true
  | .vpopc _ => true
  | .vclz _ => true
  | .vbrev _ => true
  | .vsel _ => true
  | .vaddi _ => true
  | .vandi _ => true
  | .vshli _ => true
  | .vshri _ => true
  | .vacs _ => true
  | .vhsel _ => true
  | .vperm _ => true
  | .vshfl _ => true
  | .vred _ => true
  | .vscan _ => true
  | .vmovs _ => true
  | .vrdl _ => true
  | .vwrl _ => true
  | .vsr _ => true
  | .vdot4 _ => true
  | .vdot2 _ => true
  | .vfadd _ => true
  | .vfsub _ => true
  | .vfmul _ => true
  | .vfma _ => true
  | .vfmin _ => true
  | .vfmax _ => true
  | .vcmp _ => true
  | .vfcmp _ => true
  | .vrcp _ => true
  | .vrsqrt _ => true
  | .vsqrt _ => true
  | .vexp2 _ => true
  | .vlog2 _ => true
  | .vcvt _ => true
  | .vfclass _ => true
  | .vround _ => true
  | .smov _ => true
  | .smovi _ => true
  | .smovh _ => true
  | .sadd _ => true
  | .ssub _ => true
  | .smul _ => true
  | .smulh _ => true
  | .sdiv _ => true
  | .srem _ => true
  | .sand _ => true
  | .sor _ => true
  | .sxor _ => true
  | .sshl _ => true
  | .sshr _ => true
  | .smin _ => true
  | .smax _ => true
  | .saddi _ => true
  | .sandi _ => true
  | .sshli _ => true
  | .sshri _ => true
  | .scmp _ => true
  | .sbfe _ => true
  | .spopc _ => true
  | .sclz _ => true
  | .sfadd _ => true
  | .sfmul _ => true
  | .sfma _ => true
  | .scvt _ => true
  | .srd _ => true
  | .swr _ => true
  | .sfmt _ => true
  | .pand _ => true
  | .por _ => true
  | .pxor _ => true
  | .pandn _ => true
  | .pmovsp _ => true
  | .pmovps _ => true
  | .pcnt _ => true
  | .pfirst _ => true
  | .vld _ => true
  | .vlds _ => true
  | .vst _ => true
  | .sld _ => true
  | .slds _ => true
  | .sst _ => true
  | .vatomI32 _ => true
  | .vatomU32 _ => true
  | .vatomF32 _ => true
  | .vatomF16x2 _ => true
  | .vatomB16x2 _ => true
  | .vatomnI32 _ => true
  | .vatomnU32 _ => true
  | .vatomnF32 _ => true
  | .vatomnF16x2 _ => true
  | .vatomnB16x2 _ => true
  | .satom _ => true
  | .hsel _ => true
  | .hinfo _ => true
  | .fence _ => true
  | .flsig _ => true
  | .flwait _ => true
  | .barinit _ => true
  | .barexp _ => true
  | .barrive _ => true
  | .bwait _ => true
  | .bartest _ => true
  | .bsync _ => true
  | .bra _ => true
  | .brp _ => true
  | .rcvpt _ => true
  | .join _ => true
  | .bcnd _ => true
  | .sloop _ => true
  | .call _ => true
  | .callr _ => true
  | .ret _ => true
  | .jmp _ => true
  | .exit _ => true
  | .yield _ => true
  | .twait _ => true
  | .dqpop _ => true
  | .dqpush _ => true
  | .bany _ => true
  | .ball _ => true
  | .nop _ => true
  | .mshape _ => true
  | .mzero _ => true
  | .mma _ => true
  | .mloop _ => true
  | .mloopg _ => true
  | .mloopn _ => true
  | .msmx _ => true
  | .mdrain _ => true
  | .mside _ => true
  | .mprog _ => true
  | .mstat _ => true
  | .cpy _ => true
  | .cpy2d _ => true
  | .cpymc _ => true
  | .cpyfill _ => true
  | .cpyrec _ => true
  | .tlrd _ => true
  | .tlwait _ => true
  | .cprog _ => true
  | .qpost _ => true
  | .arnew _ => true
  | .halloc _ => true
  | .arseal _ => true
  | .ardrop _ => true
  | .arquota _ => true
  | .arinfo _ => true
  | .send _ => true
  | .asend _ => true
  | .rdy _ => true
  | .unrdy _ => true
  | .recv _ => true
  | .grpnew _ => true
  | .grpdel _ => true
  | .colnew _ => true
  | .redpost _ => true
  | .redwait _ => true
  | .colabort _ => true
  | .msgstat _ => true
  | .trap _ => true
  | .brk _ => true
  | .eret _ => true
  | .prd _ => true
  | .pwr _ => true
  | .capmask _ => true
  | .tmark _ => true
  | .dump _ => true
  | .respost _ => true
  | .sstep _ => true
  | .kiln _ => true
  | .blockedWordResume _ => false
  | .windowRetire _ => false
  | .ageSwap _ => false
  | .starvationSwap _ => false
  | .trapDelivery _ => false
  | .pageFaultResolve _ _ _ _ => false
  | .mappingChange _ _ _ => false
  | .accessAtHome _ => false
  | .fillReturn _ _ => false
  | .fenceComplete _ => false
  | .flushComplete _ _ => false
  | .asyncComplete _ => false
  | .multicastReceive _ _ _ => false
  | .matrixBoundary _ _ => false
  | .cpyFreeze _ _ => false
  | .mtxFreeze _ _ => false
  | .sealBroadcast _ => false
  | .sealComplete _ => false
  | .dropBroadcast _ => false
  | .dropComplete _ => false
  | .readinessReport _ _ _ => false
  | .messageSteer _ => false
  | .messageBounce _ => false
  | .ordAck _ => false
  | .ringDelivery _ => false
  | .handlerSpawn _ => false
  | .grpdelHandover _ => false
  | .reductionPartial _ => false
  | .reductionResult _ => false
  | .roundTimeout _ => false
  | .haltedNotice _ _ => false
  | .cellarLimit _ => false
  | .recvLimit _ => false
  | .tlwaitLimit _ => false
  | .qpostRoomLimit _ _ => false
  | .launch _ => false
  | .branch _ => false
  | .waittl _ => false
  | .waittlNotify _ => false
  | .depend _ => false
  | .packetLimit _ => false
  | .signal _ => false
  | .copy _ => false
  | .drop _ => false
  | .marker _ => false
  | .placement _ _ => false
  | .saveComplete _ => false
  | .crewResume _ _ => false
  | .queueAged _ _ => false
  | .crewRetire _ => false
  | .taskRetire _ _ => false
  | .taskTimeout _ _ => false
  | .watchdogExpiry _ => false
  | .kill _ => false
  | .killComplete _ => false
  | .dumpWritten _ _ => false
  | .partitionDeadline _ => false
  | .partitionApply _ => false
  | .electionWindowEnd => false
  | .claim _ => false
  | .handover _ => false
  | .override _ => false
  | .cmdQreg _ => false
  | .qreset _ => false
  | .qremove _ => false
  | .qappend _ => false
  | .qappendBusy _ _ => false
  | .partchg _ => false
  | .killtask _ => false
  | .killpart _ => false
  | .cmdPower _ => false
  | .watchdog _ => false
  | .dumph _ => false
  | .cmdArnew _ => false
  | .cmdHalloc _ => false
  | .cmdArseal _ => false
  | .cmdArdrop _ => false
  | .cmdArquota _ => false
  | .cmdArinfo _ => false
  | .map _ => false
  | .unmap _ => false
  | .importHandle _ => false
  | .mread _ => false
  | .mwrite _ => false
  | .debugtoken _ => false
  | .attest _ => false
  | .bindvec _ => false
  | .jread _ => false
  | .halt _ => false
  | .resume _ => false
  | .step _ => false
  | .bpset _ => false
  | .wpset _ => false
  | .intercept _ => false
  | .regrd _ => false
  | .regwr _ => false
  | .sample _ => false
  | .series _ => false
  | .trace _ => false
  | .dbgpol _ => false
  | .stoprec _ => false
  | .memrd _ => false
  | .memwr _ => false
  | .registerWrite _ _ => false
  | .breakpointHit _ => false
  | .watchpointHit _ _ _ => false
  | .sampleTick _ => false
  | .seriesTick _ => false
  | .traceFrameClose _ => false
  | .traceLoss _ => false
  | .tokenExpiry _ => false
  | .strike _ => false
  | .residueMismatch _ => false
  | .poisonConsume _ => false
  | .kilnwaitExpiry _ => false
  | .kilnTest _ => false
  | .kilnTestResult _ _ => false
  | .kilnFenceApply _ => false
  | .linkFailure _ => false
  | .ptpMessage _ => false
  | .railAdjust _ _ => false
  | .powerThrottle _ _ => false
  | .idleTimeout _ => false
  | .packageReset _ => false
  | .reservedOpcodeWord _ _ => false
  | .unknownCommand _ => false
  | .badpacket _ => false
  | .uncorrectableError _ => false
  | .requestedDumpComplete _ _ => false
  | .translationWalk _ _ _ => false
  | .occReport _ _ => false
  | .clockSlewEnd => false
  | .haltEnd _ _ => false

end Sys2Proof
end

