-- ==== Sys2Proof/Decode.lean ====
section
/-! DEFINITION. Decoding and encoding of instruction words. A word's opcode is in bits [31:25] and its meaning depends on
the class that the clause header names (R67, R78); bits [24:0] are read in the format of that opcode. The decoder refuses
reserved opcodes and words whose own fields are not legal (R81); the encoder writes the same tables back. The clause
header of R55 is read and written here too. -/

namespace Sys2Proof

/-! ### The nineteen formats (R67) -/

/-- Bits [24:0] read in format VR. -/
def unpackVR (w : Word) : FmtVR :=
  ⟨w.extractLsb' 19 6, w.extractLsb' 13 6, w.extractLsb' 7 6, w.extractLsb' 4 3, w.extractLsb' 3 1, w.extractLsb' 0 3⟩

/-- The word with opcode `op` whose bits [24:0] hold the fields of format VR. -/
def packVR (op : BitVec 7) (f : FmtVR) : Word :=
  op ++ (f.vd ++ f.va ++ f.vb ++ f.ty ++ f.gn ++ f.gp : BitVec 25)

/-- Bits [24:0] read in format VI. -/
def unpackVI (w : Word) : FmtVI :=
  ⟨w.extractLsb' 19 6, w.extractLsb' 13 6, w.extractLsb' 10 3, w.extractLsb' 0 10⟩

/-- The word with opcode `op` whose bits [24:0] hold the fields of format VI. -/
def packVI (op : BitVec 7) (f : FmtVI) : Word :=
  op ++ (f.vd ++ f.va ++ f.ty ++ f.imm : BitVec 25)

/-- Bits [24:0] read in format VX. -/
def unpackVX (w : Word) : FmtVX :=
  ⟨w.extractLsb' 19 6, w.extractLsb' 13 6, w.extractLsb' 7 6, w.extractLsb' 4 3, w.extractLsb' 0 4⟩

/-- The word with opcode `op` whose bits [24:0] hold the fields of format VX. -/
def packVX (op : BitVec 7) (f : FmtVX) : Word :=
  op ++ (f.vd ++ f.va ++ f.vb ++ f.ty ++ f.x4 : BitVec 25)

/-- Bits [24:0] read in format VP. -/
def unpackVP (w : Word) : FmtVP :=
  ⟨w.extractLsb' 22 3, w.extractLsb' 18 4, w.extractLsb' 12 6, w.extractLsb' 6 6, w.extractLsb' 3 3, w.extractLsb' 0 3⟩

/-- The word with opcode `op` whose bits [24:0] hold the fields of format VP. -/
def packVP (op : BitVec 7) (f : FmtVP) : Word :=
  op ++ (f.pd ++ f.cond ++ f.va ++ f.vb ++ f.ty ++ f.gp : BitVec 25)

/-- Bits [24:0] read in format VS. -/
def unpackVS (w : Word) : FmtVS :=
  ⟨w.extractLsb' 19 6, w.extractLsb' 13 6, w.extractLsb' 10 3, w.extractLsb' 0 10⟩

/-- The word with opcode `op` whose bits [24:0] hold the fields of format VS. -/
def packVS (op : BitVec 7) (f : FmtVS) : Word :=
  op ++ (f.v ++ f.sr ++ f.ty ++ f.x10 : BitVec 25)

/-- Bits [24:0] read in format SR. -/
def unpackSR (w : Word) : FmtSR :=
  ⟨w.extractLsb' 19 6, w.extractLsb' 13 6, w.extractLsb' 7 6, w.extractLsb' 0 7⟩

/-- The word with opcode `op` whose bits [24:0] hold the fields of format SR. -/
def packSR (op : BitVec 7) (f : FmtSR) : Word :=
  op ++ (f.sd ++ f.sa ++ f.sb ++ f.f7 : BitVec 25)

/-- Bits [24:0] read in format SI. -/
def unpackSI (w : Word) : FmtSI :=
  ⟨w.extractLsb' 19 6, w.extractLsb' 13 6, w.extractLsb' 0 13⟩

/-- The word with opcode `op` whose bits [24:0] hold the fields of format SI. -/
def packSI (op : BitVec 7) (f : FmtSI) : Word :=
  op ++ (f.sd ++ f.sa ++ f.imm : BitVec 25)

/-- Bits [24:0] read in format SL. -/
def unpackSL (w : Word) : FmtSL :=
  ⟨w.extractLsb' 19 6, w.extractLsb' 0 19⟩

/-- The word with opcode `op` whose bits [24:0] hold the fields of format SL. -/
def packSL (op : BitVec 7) (f : FmtSL) : Word :=
  op ++ (f.sd ++ f.imm : BitVec 25)

/-- Bits [24:0] read in format MV. -/
def unpackMV (w : Word) : FmtMV :=
  ⟨w.extractLsb' 19 6, w.extractLsb' 13 6, w.extractLsb' 10 3, w.extractLsb' 8 2, w.extractLsb' 6 2, w.extractLsb' 3 3, w.extractLsb' 1 2, w.extractLsb' 0 1⟩

/-- The word with opcode `op` whose bits [24:0] hold the fields of format MV. -/
def packMV (op : BitVec 7) (f : FmtMV) : Word :=
  op ++ (f.v ++ f.o ++ f.h ++ f.sz ++ f.ord ++ f.gp ++ f.scope ++ f.zero : BitVec 25)

/-- Bits [24:0] read in format MA. -/
def unpackMA (w : Word) : FmtMA :=
  ⟨w.extractLsb' 19 6, w.extractLsb' 13 6, w.extractLsb' 7 6, w.extractLsb' 4 3, w.extractLsb' 0 4⟩

/-- The word with opcode `op` whose bits [24:0] hold the fields of format MA. -/
def packMA (op : BitVec 7) (f : FmtMA) : Word :=
  op ++ (f.vd ++ f.o ++ f.vb ++ f.h ++ f.k : BitVec 25)

/-- Bits [24:0] read in format MS. -/
def unpackMS (w : Word) : FmtMS :=
  ⟨w.extractLsb' 19 6, w.extractLsb' 13 6, w.extractLsb' 10 3, w.extractLsb' 8 2, w.extractLsb' 7 1, w.extractLsb' 0 7⟩

/-- The word with opcode `op` whose bits [24:0] hold the fields of format MS. -/
def packMS (op : BitVec 7) (f : FmtMS) : Word :=
  op ++ (f.sd ++ f.sa ++ f.h ++ f.sz ++ f.zero ++ f.imm : BitVec 25)

/-- Bits [24:0] read in format SA. -/
def unpackSA (w : Word) : FmtSA :=
  ⟨w.extractLsb' 19 6, w.extractLsb' 13 6, w.extractLsb' 7 6, w.extractLsb' 4 3, w.extractLsb' 0 4⟩

/-- The word with opcode `op` whose bits [24:0] hold the fields of format SA. -/
def packSA (op : BitVec 7) (f : FmtSA) : Word :=
  op ++ (f.sd ++ f.sa ++ f.sb ++ f.h ++ f.k : BitVec 25)

/-- Bits [24:0] read in format MB. -/
def unpackMB (w : Word) : FmtMB :=
  ⟨w.extractLsb' 19 6, w.extractLsb' 13 6, w.extractLsb' 0 13⟩

/-- The word with opcode `op` whose bits [24:0] hold the fields of format MB. -/
def packMB (op : BitVec 7) (f : FmtMB) : Word :=
  op ++ (f.sr ++ f.sa ++ f.imm : BitVec 25)

/-- Bits [24:0] read in format MF. -/
def unpackMF (w : Word) : FmtMF :=
  ⟨w.extractLsb' 22 3, w.extractLsb' 19 3, w.extractLsb' 0 19⟩

/-- The word with opcode `op` whose bits [24:0] hold the fields of format MF. -/
def packMF (op : BitVec 7) (f : FmtMF) : Word :=
  op ++ (f.scope ++ f.kind ++ f.zero : BitVec 25)

/-- Bits [24:0] read in format CB. -/
def unpackCB (w : Word) : FmtCB :=
  ⟨w.extractLsb' 24 1, w.extractLsb' 21 3, w.extractLsb' 0 21⟩

/-- The word with opcode `op` whose bits [24:0] hold the fields of format CB. -/
def packCB (op : BitVec 7) (f : FmtCB) : Word :=
  op ++ (f.gn ++ f.gp ++ f.off : BitVec 25)

/-- Bits [24:0] read in format CC. -/
def unpackCC (w : Word) : FmtCC :=
  ⟨w.extractLsb' 22 3, w.extractLsb' 16 6, w.extractLsb' 10 6, w.extractLsb' 0 10⟩

/-- The word with opcode `op` whose bits [24:0] hold the fields of format CC. -/
def packCC (op : BitVec 7) (f : FmtCC) : Word :=
  op ++ (f.cond ++ f.sa ++ f.sb ++ f.off : BitVec 25)

/-- Bits [24:0] read in format CR. -/
def unpackCR (w : Word) : FmtCR :=
  ⟨w.extractLsb' 19 6, w.extractLsb' 0 19⟩

/-- The word with opcode `op` whose bits [24:0] hold the fields of format CR. -/
def packCR (op : BitVec 7) (f : FmtCR) : Word :=
  op ++ (f.sa ++ f.zero : BitVec 25)

/-- Bits [24:0] read in format CQ. -/
def unpackCQ (w : Word) : FmtCQ :=
  ⟨w.extractLsb' 19 6, w.extractLsb' 0 19⟩

/-- The word with opcode `op` whose bits [24:0] hold the fields of format CQ. -/
def packCQ (op : BitVec 7) (f : FmtCQ) : Word :=
  op ++ (f.sd ++ f.f : BitVec 25)

/-- Bits [24:0] read in format EB. -/
def unpackEB (w : Word) : FmtEB :=
  ⟨w.extractLsb' 19 6, w.extractLsb' 13 6, w.extractLsb' 10 3, w.extractLsb' 0 10⟩

/-- The word with opcode `op` whose bits [24:0] hold the fields of format EB. -/
def packEB (op : BitVec 7) (f : FmtEB) : Word :=
  op ++ (f.sd ++ f.sa ++ f.tok ++ f.f : BitVec 25)

/-! ### The opcode map (R78) -/

/-- The opcode of a word, bits [31:25]. -/
def opcodeOf (w : Word) : BitVec 7 := w.extractLsb' 25 7

/-- The opcode table of class VEC (R78), fields not yet checked. -/
def decodeVec (w : Word) : Option Instr :=
  match (opcodeOf w).toNat with
  | 0x00 => some (.vmov (unpackVR w))
  | 0x01 => some (.vmovi (unpackVI w))
  | 0x02 => some (.vadd (unpackVR w))
  | 0x03 => some (.vsub (unpackVR w))
  | 0x04 => some (.vadds (unpackVR w))
  | 0x05 => some (.vsubs (unpackVR w))
  | 0x06 => some (.vmul (unpackVR w))
  | 0x07 => some (.vmulhi (unpackVR w))
  | 0x08 => some (.vmad (unpackVR w))
  | 0x09 => some (.vmin (unpackVR w))
  | 0x0a => some (.vmax (unpackVR w))
  | 0x0b => some (.vabsd (unpackVR w))
  | 0x0c => some (.vand (unpackVR w))
  | 0x0d => some (.vor (unpackVR w))
  | 0x0e => some (.vxor (unpackVR w))
  | 0x0f => some (.vandn (unpackVR w))
  | 0x10 => some (.vshl (unpackVR w))
  | 0x11 => some (.vshr (unpackVR w))
  | 0x12 => some (.vrot (unpackVR w))
  | 0x13 => some (.vbfe (unpackVR w))
  | 0x14 => some (.vbfi (unpackVR w))
  | 0x15 => some (.vpopc (unpackVR w))
  | 0x16 => some (.vclz (unpackVR w))
  | 0x17 => some (.vbrev (unpackVR w))
  | 0x18 => some (.vsel (unpackVR w))
  | 0x19 => some (.vaddi (unpackVI w))
  | 0x1a => some (.vandi (unpackVI w))
  | 0x1b => some (.vshli (unpackVI w))
  | 0x1c => some (.vshri (unpackVI w))
  | 0x1d => some (.vacs (unpackVX w))
  | 0x1e => some (.vhsel (unpackVX w))
  | 0x1f => some (.vperm (unpackVR w))
  | 0x20 => some (.vshfl (unpackVI w))
  | 0x21 => some (.vred (unpackVS w))
  | 0x22 => some (.vscan (unpackVR w))
  | 0x23 => some (.vmovs (unpackVS w))
  | 0x24 => some (.vrdl (unpackVS w))
  | 0x25 => some (.vwrl (unpackVS w))
  | 0x26 => some (.vsr (unpackVS w))
  | 0x27 => some (.vdot4 (unpackVR w))
  | 0x28 => some (.vdot2 (unpackVR w))
  | 0x30 => some (.vfadd (unpackVR w))
  | 0x31 => some (.vfsub (unpackVR w))
  | 0x32 => some (.vfmul (unpackVR w))
  | 0x33 => some (.vfma (unpackVR w))
  | 0x34 => some (.vfmin (unpackVR w))
  | 0x35 => some (.vfmax (unpackVR w))
  | 0x36 => some (.vcmp (unpackVP w))
  | 0x37 => some (.vfcmp (unpackVP w))
  | 0x38 => some (.vrcp (unpackVR w))
  | 0x39 => some (.vrsqrt (unpackVR w))
  | 0x3a => some (.vsqrt (unpackVR w))
  | 0x3b => some (.vexp2 (unpackVR w))
  | 0x3c => some (.vlog2 (unpackVR w))
  | 0x3d => some (.vcvt (unpackVR w))
  | 0x3e => some (.vfclass (unpackVR w))
  | 0x3f => some (.vround (unpackVX w))
  | _ => none

/-- The opcode table of class SCA (R78), fields not yet checked. -/
def decodeSca (w : Word) : Option Instr :=
  match (opcodeOf w).toNat with
  | 0x00 => some (.smov (unpackSR w))
  | 0x01 => some (.smovi (unpackSL w))
  | 0x02 => some (.smovh (unpackSL w))
  | 0x03 => some (.sadd (unpackSR w))
  | 0x04 => some (.ssub (unpackSR w))
  | 0x05 => some (.smul (unpackSR w))
  | 0x06 => some (.smulh (unpackSR w))
  | 0x07 => some (.sdiv (unpackSR w))
  | 0x08 => some (.srem (unpackSR w))
  | 0x09 => some (.sand (unpackSR w))
  | 0x0a => some (.sor (unpackSR w))
  | 0x0b => some (.sxor (unpackSR w))
  | 0x0c => some (.sshl (unpackSR w))
  | 0x0d => some (.sshr (unpackSR w))
  | 0x0e => some (.smin (unpackSR w))
  | 0x0f => some (.smax (unpackSR w))
  | 0x10 => some (.saddi (unpackSI w))
  | 0x11 => some (.sandi (unpackSI w))
  | 0x12 => some (.sshli (unpackSI w))
  | 0x13 => some (.sshri (unpackSI w))
  | 0x14 => some (.scmp (unpackSR w))
  | 0x15 => some (.sbfe (unpackSR w))
  | 0x16 => some (.spopc (unpackSR w))
  | 0x17 => some (.sclz (unpackSR w))
  | 0x18 => some (.sfadd (unpackSR w))
  | 0x19 => some (.sfmul (unpackSR w))
  | 0x1a => some (.sfma (unpackSR w))
  | 0x1b => some (.scvt (unpackSR w))
  | 0x1c => some (.srd (unpackSL w))
  | 0x1d => some (.swr (unpackSL w))
  | 0x1e => some (.sfmt (unpackSR w))
  | 0x1f => some (.pand (unpackSR w))
  | 0x20 => some (.por (unpackSR w))
  | 0x21 => some (.pxor (unpackSR w))
  | 0x22 => some (.pandn (unpackSR w))
  | 0x23 => some (.pmovsp (unpackSR w))
  | 0x24 => some (.pmovps (unpackSR w))
  | 0x25 => some (.pcnt (unpackSR w))
  | 0x26 => some (.pfirst (unpackSR w))
  | _ => none

/-- The opcode table of class MEM (R78), fields not yet checked. -/
def decodeMem (w : Word) : Option Instr :=
  match (opcodeOf w).toNat with
  | 0x00 => some (.vld (unpackMV w))
  | 0x01 => some (.vlds (unpackMV w))
  | 0x02 => some (.vst (unpackMV w))
  | 0x03 => some (.sld (unpackMS w))
  | 0x04 => some (.slds (unpackMS w))
  | 0x05 => some (.sst (unpackMS w))
  | 0x06 => some (.vatomI32 (unpackMA w))
  | 0x07 => some (.vatomU32 (unpackMA w))
  | 0x08 => some (.vatomF32 (unpackMA w))
  | 0x09 => some (.vatomF16x2 (unpackMA w))
  | 0x0a => some (.vatomB16x2 (unpackMA w))
  | 0x0b => some (.vatomnI32 (unpackMA w))
  | 0x0c => some (.vatomnU32 (unpackMA w))
  | 0x0d => some (.vatomnF32 (unpackMA w))
  | 0x0e => some (.vatomnF16x2 (unpackMA w))
  | 0x0f => some (.vatomnB16x2 (unpackMA w))
  | 0x10 => some (.satom (unpackSA w))
  | 0x11 => some (.hsel (unpackMS w))
  | 0x12 => some (.hinfo (unpackMS w))
  | 0x13 => some (.fence (unpackMF w))
  | 0x14 => some (.flsig (unpackMS w))
  | 0x15 => some (.flwait (unpackMS w))
  | 0x16 => some (.barinit (unpackMB w))
  | 0x17 => some (.barexp (unpackMB w))
  | 0x18 => some (.barrive (unpackMB w))
  | 0x19 => some (.bwait (unpackMB w))
  | 0x1a => some (.bartest (unpackMB w))
  | 0x1b => some (.bsync (unpackMB w))
  | _ => none

/-- The opcode table of class CTL (R78), fields not yet checked. -/
def decodeCtl (w : Word) : Option Instr :=
  match (opcodeOf w).toNat with
  | 0x00 => some (.bra (unpackCB w))
  | 0x01 => some (.brp (unpackCB w))
  | 0x02 => some (.rcvpt (unpackCB w))
  | 0x03 => some (.join (unpackCR w))
  | 0x04 => some (.bcnd (unpackCC w))
  | 0x05 => some (.sloop (unpackCC w))
  | 0x06 => some (.call (unpackCB w))
  | 0x07 => some (.callr (unpackCR w))
  | 0x08 => some (.ret (unpackCR w))
  | 0x09 => some (.jmp (unpackCR w))
  | 0x0a => some (.exit (unpackCR w))
  | 0x0b => some (.yield (unpackCR w))
  | 0x0c => some (.twait (unpackCQ w))
  | 0x0d => some (.dqpop (unpackCQ w))
  | 0x0e => some (.dqpush (unpackCR w))
  | 0x0f => some (.bany (unpackCB w))
  | 0x10 => some (.ball (unpackCB w))
  | 0x11 => some (.nop (unpackCR w))
  | _ => none

/-- The opcode table of class MTX (R78), fields not yet checked. -/
def decodeMtx (w : Word) : Option Instr :=
  match (opcodeOf w).toNat with
  | 0x00 => some (.mshape (unpackEB w))
  | 0x01 => some (.mzero (unpackEB w))
  | 0x02 => some (.mma (unpackVR w))
  | 0x03 => some (.mloop (unpackEB w))
  | 0x04 => some (.mloopg (unpackEB w))
  | 0x05 => some (.mloopn (unpackEB w))
  | 0x06 => some (.msmx (unpackEB w))
  | 0x07 => some (.mdrain (unpackEB w))
  | 0x08 => some (.mside (unpackEB w))
  | 0x09 => some (.mprog (unpackEB w))
  | 0x0a => some (.mstat (unpackEB w))
  | _ => none

/-- The opcode table of class CPY (R78), fields not yet checked. -/
def decodeCpy (w : Word) : Option Instr :=
  match (opcodeOf w).toNat with
  | 0x00 => some (.cpy (unpackEB w))
  | 0x01 => some (.cpy2d (unpackEB w))
  | 0x02 => some (.cpymc (unpackEB w))
  | 0x03 => some (.cpyfill (unpackEB w))
  | 0x04 => some (.cpyrec (unpackEB w))
  | 0x05 => some (.tlrd (unpackEB w))
  | 0x06 => some (.tlwait (unpackEB w))
  | 0x07 => some (.cprog (unpackEB w))
  | 0x08 => some (.qpost (unpackEB w))
  | _ => none

/-- The opcode table of class ARN (R78), fields not yet checked. -/
def decodeArn (w : Word) : Option Instr :=
  match (opcodeOf w).toNat with
  | 0x00 => some (.arnew (unpackEB w))
  | 0x01 => some (.halloc (unpackEB w))
  | 0x02 => some (.arseal (unpackEB w))
  | 0x03 => some (.ardrop (unpackEB w))
  | 0x04 => some (.arquota (unpackEB w))
  | 0x05 => some (.arinfo (unpackEB w))
  | _ => none

/-- The opcode table of class MSG (R78), fields not yet checked. -/
def decodeMsg (w : Word) : Option Instr :=
  match (opcodeOf w).toNat with
  | 0x00 => some (.send (unpackEB w))
  | 0x01 => some (.asend (unpackEB w))
  | 0x02 => some (.rdy (unpackEB w))
  | 0x03 => some (.unrdy (unpackEB w))
  | 0x04 => some (.recv (unpackEB w))
  | 0x05 => some (.grpnew (unpackEB w))
  | 0x06 => some (.grpdel (unpackEB w))
  | 0x07 => some (.colnew (unpackEB w))
  | 0x08 => some (.redpost (unpackEB w))
  | 0x09 => some (.redwait (unpackEB w))
  | 0x0a => some (.colabort (unpackEB w))
  | 0x0b => some (.msgstat (unpackEB w))
  | _ => none

/-- The opcode table of class SYS (R78), fields not yet checked. -/
def decodeSys (w : Word) : Option Instr :=
  match (opcodeOf w).toNat with
  | 0x00 => some (.trap (unpackSL w))
  | 0x01 => some (.brk (unpackSL w))
  | 0x02 => some (.eret (unpackCR w))
  | 0x03 => some (.prd (unpackSL w))
  | 0x04 => some (.pwr (unpackSL w))
  | 0x05 => some (.capmask (unpackCQ w))
  | 0x06 => some (.tmark (unpackSL w))
  | 0x07 => some (.dump (unpackEB w))
  | 0x08 => some (.respost (unpackCR w))
  | 0x09 => some (.sstep (unpackSL w))
  | 0x0a => some (.kiln (unpackEB w))
  | _ => none

/-- The opcode table of a class. -/
def decodeRaw : Cls → Word → Option Instr
  | .vec, w => decodeVec w
  | .sca, w => decodeSca w
  | .mem, w => decodeMem w
  | .ctl, w => decodeCtl w
  | .mtx, w => decodeMtx w
  | .cpy, w => decodeCpy w
  | .arn, w => decodeArn w
  | .msg, w => decodeMsg w
  | .sys, w => decodeSys w

/-- The instruction that a word means in a clause of class `c`; none where R81 makes the word ILLEGAL_INSTRUCTION. -/
def decode (c : Cls) (w : Word) : Option Instr :=
  match decodeRaw c w with
  | some i => if i.wf then some i else none
  | none => none

/-- The class of an instruction word; none for a step without an encoding. -/
def Instr.cls? : Instr → Option Cls
  | .vmov _ => some .vec
  | .vmovi _ => some .vec
  | .vadd _ => some .vec
  | .vsub _ => some .vec
  | .vadds _ => some .vec
  | .vsubs _ => some .vec
  | .vmul _ => some .vec
  | .vmulhi _ => some .vec
  | .vmad _ => some .vec
  | .vmin _ => some .vec
  | .vmax _ => some .vec
  | .vabsd _ => some .vec
  | .vand _ => some .vec
  | .vor _ => some .vec
  | .vxor _ => some .vec
  | .vandn _ => some .vec
  | .vshl _ => some .vec
  | .vshr _ => some .vec
  | .vrot _ => some .vec
  | .vbfe _ => some .vec
  | .vbfi _ => some .vec
  | .vpopc _ => some .vec
  | .vclz _ => some .vec
  | .vbrev _ => some .vec
  | .vsel _ => some .vec
  | .vaddi _ => some .vec
  | .vandi _ => some .vec
  | .vshli _ => some .vec
  | .vshri _ => some .vec
  | .vacs _ => some .vec
  | .vhsel _ => some .vec
  | .vperm _ => some .vec
  | .vshfl _ => some .vec
  | .vred _ => some .vec
  | .vscan _ => some .vec
  | .vmovs _ => some .vec
  | .vrdl _ => some .vec
  | .vwrl _ => some .vec
  | .vsr _ => some .vec
  | .vdot4 _ => some .vec
  | .vdot2 _ => some .vec
  | .vfadd _ => some .vec
  | .vfsub _ => some .vec
  | .vfmul _ => some .vec
  | .vfma _ => some .vec
  | .vfmin _ => some .vec
  | .vfmax _ => some .vec
  | .vcmp _ => some .vec
  | .vfcmp _ => some .vec
  | .vrcp _ => some .vec
  | .vrsqrt _ => some .vec
  | .vsqrt _ => some .vec
  | .vexp2 _ => some .vec
  | .vlog2 _ => some .vec
  | .vcvt _ => some .vec
  | .vfclass _ => some .vec
  | .vround _ => some .vec
  | .smov _ => some .sca
  | .smovi _ => some .sca
  | .smovh _ => some .sca
  | .sadd _ => some .sca
  | .ssub _ => some .sca
  | .smul _ => some .sca
  | .smulh _ => some .sca
  | .sdiv _ => some .sca
  | .srem _ => some .sca
  | .sand _ => some .sca
  | .sor _ => some .sca
  | .sxor _ => some .sca
  | .sshl _ => some .sca
  | .sshr _ => some .sca
  | .smin _ => some .sca
  | .smax _ => some .sca
  | .saddi _ => some .sca
  | .sandi _ => some .sca
  | .sshli _ => some .sca
  | .sshri _ => some .sca
  | .scmp _ => some .sca
  | .sbfe _ => some .sca
  | .spopc _ => some .sca
  | .sclz _ => some .sca
  | .sfadd _ => some .sca
  | .sfmul _ => some .sca
  | .sfma _ => some .sca
  | .scvt _ => some .sca
  | .srd _ => some .sca
  | .swr _ => some .sca
  | .sfmt _ => some .sca
  | .pand _ => some .sca
  | .por _ => some .sca
  | .pxor _ => some .sca
  | .pandn _ => some .sca
  | .pmovsp _ => some .sca
  | .pmovps _ => some .sca
  | .pcnt _ => some .sca
  | .pfirst _ => some .sca
  | .vld _ => some .mem
  | .vlds _ => some .mem
  | .vst _ => some .mem
  | .sld _ => some .mem
  | .slds _ => some .mem
  | .sst _ => some .mem
  | .vatomI32 _ => some .mem
  | .vatomU32 _ => some .mem
  | .vatomF32 _ => some .mem
  | .vatomF16x2 _ => some .mem
  | .vatomB16x2 _ => some .mem
  | .vatomnI32 _ => some .mem
  | .vatomnU32 _ => some .mem
  | .vatomnF32 _ => some .mem
  | .vatomnF16x2 _ => some .mem
  | .vatomnB16x2 _ => some .mem
  | .satom _ => some .mem
  | .hsel _ => some .mem
  | .hinfo _ => some .mem
  | .fence _ => some .mem
  | .flsig _ => some .mem
  | .flwait _ => some .mem
  | .barinit _ => some .mem
  | .barexp _ => some .mem
  | .barrive _ => some .mem
  | .bwait _ => some .mem
  | .bartest _ => some .mem
  | .bsync _ => some .mem
  | .bra _ => some .ctl
  | .brp _ => some .ctl
  | .rcvpt _ => some .ctl
  | .join _ => some .ctl
  | .bcnd _ => some .ctl
  | .sloop _ => some .ctl
  | .call _ => some .ctl
  | .callr _ => some .ctl
  | .ret _ => some .ctl
  | .jmp _ => some .ctl
  | .exit _ => some .ctl
  | .yield _ => some .ctl
  | .twait _ => some .ctl
  | .dqpop _ => some .ctl
  | .dqpush _ => some .ctl
  | .bany _ => some .ctl
  | .ball _ => some .ctl
  | .nop _ => some .ctl
  | .mshape _ => some .mtx
  | .mzero _ => some .mtx
  | .mma _ => some .mtx
  | .mloop _ => some .mtx
  | .mloopg _ => some .mtx
  | .mloopn _ => some .mtx
  | .msmx _ => some .mtx
  | .mdrain _ => some .mtx
  | .mside _ => some .mtx
  | .mprog _ => some .mtx
  | .mstat _ => some .mtx
  | .cpy _ => some .cpy
  | .cpy2d _ => some .cpy
  | .cpymc _ => some .cpy
  | .cpyfill _ => some .cpy
  | .cpyrec _ => some .cpy
  | .tlrd _ => some .cpy
  | .tlwait _ => some .cpy
  | .cprog _ => some .cpy
  | .qpost _ => some .cpy
  | .arnew _ => some .arn
  | .halloc _ => some .arn
  | .arseal _ => some .arn
  | .ardrop _ => some .arn
  | .arquota _ => some .arn
  | .arinfo _ => some .arn
  | .send _ => some .msg
  | .asend _ => some .msg
  | .rdy _ => some .msg
  | .unrdy _ => some .msg
  | .recv _ => some .msg
  | .grpnew _ => some .msg
  | .grpdel _ => some .msg
  | .colnew _ => some .msg
  | .redpost _ => some .msg
  | .redwait _ => some .msg
  | .colabort _ => some .msg
  | .msgstat _ => some .msg
  | .trap _ => some .sys
  | .brk _ => some .sys
  | .eret _ => some .sys
  | .prd _ => some .sys
  | .pwr _ => some .sys
  | .capmask _ => some .sys
  | .tmark _ => some .sys
  | .dump _ => some .sys
  | .respost _ => some .sys
  | .sstep _ => some .sys
  | .kiln _ => some .sys
  | .blockedWordResume _ => none
  | .windowRetire _ => none
  | .ageSwap _ => none
  | .starvationSwap _ => none
  | .trapDelivery _ => none
  | .pageFaultResolve _ _ _ _ => none
  | .mappingChange _ _ _ => none
  | .accessAtHome _ => none
  | .fillReturn _ _ => none
  | .fenceComplete _ => none
  | .flushComplete _ _ => none
  | .asyncComplete _ => none
  | .multicastReceive _ _ _ => none
  | .matrixBoundary _ _ => none
  | .cpyFreeze _ _ => none
  | .mtxFreeze _ _ => none
  | .sealBroadcast _ => none
  | .sealComplete _ => none
  | .dropBroadcast _ => none
  | .dropComplete _ => none
  | .readinessReport _ _ _ => none
  | .messageSteer _ => none
  | .messageBounce _ => none
  | .ordAck _ => none
  | .ringDelivery _ => none
  | .handlerSpawn _ => none
  | .grpdelHandover _ => none
  | .reductionPartial _ => none
  | .reductionResult _ => none
  | .roundTimeout _ => none
  | .haltedNotice _ _ => none
  | .cellarLimit _ => none
  | .recvLimit _ => none
  | .tlwaitLimit _ => none
  | .qpostRoomLimit _ _ => none
  | .launch _ => none
  | .branch _ => none
  | .waittl _ => none
  | .waittlNotify _ => none
  | .depend _ => none
  | .packetLimit _ => none
  | .signal _ => none
  | .copy _ => none
  | .drop _ => none
  | .marker _ => none
  | .placement _ _ => none
  | .saveComplete _ => none
  | .crewResume _ _ => none
  | .queueAged _ _ => none
  | .crewRetire _ => none
  | .taskRetire _ _ => none
  | .taskTimeout _ _ => none
  | .watchdogExpiry _ => none
  | .kill _ => none
  | .killComplete _ => none
  | .dumpWritten _ _ => none
  | .partitionDeadline _ => none
  | .partitionApply _ => none
  | .electionWindowEnd => none
  | .claim _ => none
  | .handover _ => none
  | .override _ => none
  | .cmdQreg _ => none
  | .qreset _ => none
  | .qremove _ => none
  | .qappend _ => none
  | .qappendBusy _ _ => none
  | .partchg _ => none
  | .killtask _ => none
  | .killpart _ => none
  | .cmdPower _ => none
  | .watchdog _ => none
  | .dumph _ => none
  | .cmdArnew _ => none
  | .cmdHalloc _ => none
  | .cmdArseal _ => none
  | .cmdArdrop _ => none
  | .cmdArquota _ => none
  | .cmdArinfo _ => none
  | .map _ => none
  | .unmap _ => none
  | .importHandle _ => none
  | .mread _ => none
  | .mwrite _ => none
  | .debugtoken _ => none
  | .attest _ => none
  | .bindvec _ => none
  | .jread _ => none
  | .halt _ => none
  | .resume _ => none
  | .step _ => none
  | .bpset _ => none
  | .wpset _ => none
  | .intercept _ => none
  | .regrd _ => none
  | .regwr _ => none
  | .sample _ => none
  | .series _ => none
  | .trace _ => none
  | .dbgpol _ => none
  | .stoprec _ => none
  | .memrd _ => none
  | .memwr _ => none
  | .registerWrite _ _ => none
  | .breakpointHit _ => none
  | .watchpointHit _ _ _ => none
  | .sampleTick _ => none
  | .seriesTick _ => none
  | .traceFrameClose _ => none
  | .traceLoss _ => none
  | .tokenExpiry _ => none
  | .strike _ => none
  | .residueMismatch _ => none
  | .poisonConsume _ => none
  | .kilnwaitExpiry _ => none
  | .kilnTest _ => none
  | .kilnTestResult _ _ => none
  | .kilnFenceApply _ => none
  | .linkFailure _ => none
  | .ptpMessage _ => none
  | .railAdjust _ _ => none
  | .powerThrottle _ _ => none
  | .idleTimeout _ => none
  | .packageReset _ => none
  | .reservedOpcodeWord _ _ => none
  | .unknownCommand _ => none
  | .badpacket _ => none
  | .uncorrectableError _ => none
  | .requestedDumpComplete _ _ => none
  | .translationWalk _ _ _ => none
  | .occReport _ _ => none
  | .clockSlewEnd => none
  | .haltEnd _ _ => none

/-- The word that encodes an instruction (R67, R78); 0 for a step without an encoding. -/
def encode : Instr → Word
  | .vmov f => packVR 0x00 f
  | .vmovi f => packVI 0x01 f
  | .vadd f => packVR 0x02 f
  | .vsub f => packVR 0x03 f
  | .vadds f => packVR 0x04 f
  | .vsubs f => packVR 0x05 f
  | .vmul f => packVR 0x06 f
  | .vmulhi f => packVR 0x07 f
  | .vmad f => packVR 0x08 f
  | .vmin f => packVR 0x09 f
  | .vmax f => packVR 0x0a f
  | .vabsd f => packVR 0x0b f
  | .vand f => packVR 0x0c f
  | .vor f => packVR 0x0d f
  | .vxor f => packVR 0x0e f
  | .vandn f => packVR 0x0f f
  | .vshl f => packVR 0x10 f
  | .vshr f => packVR 0x11 f
  | .vrot f => packVR 0x12 f
  | .vbfe f => packVR 0x13 f
  | .vbfi f => packVR 0x14 f
  | .vpopc f => packVR 0x15 f
  | .vclz f => packVR 0x16 f
  | .vbrev f => packVR 0x17 f
  | .vsel f => packVR 0x18 f
  | .vaddi f => packVI 0x19 f
  | .vandi f => packVI 0x1a f
  | .vshli f => packVI 0x1b f
  | .vshri f => packVI 0x1c f
  | .vacs f => packVX 0x1d f
  | .vhsel f => packVX 0x1e f
  | .vperm f => packVR 0x1f f
  | .vshfl f => packVI 0x20 f
  | .vred f => packVS 0x21 f
  | .vscan f => packVR 0x22 f
  | .vmovs f => packVS 0x23 f
  | .vrdl f => packVS 0x24 f
  | .vwrl f => packVS 0x25 f
  | .vsr f => packVS 0x26 f
  | .vdot4 f => packVR 0x27 f
  | .vdot2 f => packVR 0x28 f
  | .vfadd f => packVR 0x30 f
  | .vfsub f => packVR 0x31 f
  | .vfmul f => packVR 0x32 f
  | .vfma f => packVR 0x33 f
  | .vfmin f => packVR 0x34 f
  | .vfmax f => packVR 0x35 f
  | .vcmp f => packVP 0x36 f
  | .vfcmp f => packVP 0x37 f
  | .vrcp f => packVR 0x38 f
  | .vrsqrt f => packVR 0x39 f
  | .vsqrt f => packVR 0x3a f
  | .vexp2 f => packVR 0x3b f
  | .vlog2 f => packVR 0x3c f
  | .vcvt f => packVR 0x3d f
  | .vfclass f => packVR 0x3e f
  | .vround f => packVX 0x3f f
  | .smov f => packSR 0x00 f
  | .smovi f => packSL 0x01 f
  | .smovh f => packSL 0x02 f
  | .sadd f => packSR 0x03 f
  | .ssub f => packSR 0x04 f
  | .smul f => packSR 0x05 f
  | .smulh f => packSR 0x06 f
  | .sdiv f => packSR 0x07 f
  | .srem f => packSR 0x08 f
  | .sand f => packSR 0x09 f
  | .sor f => packSR 0x0a f
  | .sxor f => packSR 0x0b f
  | .sshl f => packSR 0x0c f
  | .sshr f => packSR 0x0d f
  | .smin f => packSR 0x0e f
  | .smax f => packSR 0x0f f
  | .saddi f => packSI 0x10 f
  | .sandi f => packSI 0x11 f
  | .sshli f => packSI 0x12 f
  | .sshri f => packSI 0x13 f
  | .scmp f => packSR 0x14 f
  | .sbfe f => packSR 0x15 f
  | .spopc f => packSR 0x16 f
  | .sclz f => packSR 0x17 f
  | .sfadd f => packSR 0x18 f
  | .sfmul f => packSR 0x19 f
  | .sfma f => packSR 0x1a f
  | .scvt f => packSR 0x1b f
  | .srd f => packSL 0x1c f
  | .swr f => packSL 0x1d f
  | .sfmt f => packSR 0x1e f
  | .pand f => packSR 0x1f f
  | .por f => packSR 0x20 f
  | .pxor f => packSR 0x21 f
  | .pandn f => packSR 0x22 f
  | .pmovsp f => packSR 0x23 f
  | .pmovps f => packSR 0x24 f
  | .pcnt f => packSR 0x25 f
  | .pfirst f => packSR 0x26 f
  | .vld f => packMV 0x00 f
  | .vlds f => packMV 0x01 f
  | .vst f => packMV 0x02 f
  | .sld f => packMS 0x03 f
  | .slds f => packMS 0x04 f
  | .sst f => packMS 0x05 f
  | .vatomI32 f => packMA 0x06 f
  | .vatomU32 f => packMA 0x07 f
  | .vatomF32 f => packMA 0x08 f
  | .vatomF16x2 f => packMA 0x09 f
  | .vatomB16x2 f => packMA 0x0a f
  | .vatomnI32 f => packMA 0x0b f
  | .vatomnU32 f => packMA 0x0c f
  | .vatomnF32 f => packMA 0x0d f
  | .vatomnF16x2 f => packMA 0x0e f
  | .vatomnB16x2 f => packMA 0x0f f
  | .satom f => packSA 0x10 f
  | .hsel f => packMS 0x11 f
  | .hinfo f => packMS 0x12 f
  | .fence f => packMF 0x13 f
  | .flsig f => packMS 0x14 f
  | .flwait f => packMS 0x15 f
  | .barinit f => packMB 0x16 f
  | .barexp f => packMB 0x17 f
  | .barrive f => packMB 0x18 f
  | .bwait f => packMB 0x19 f
  | .bartest f => packMB 0x1a f
  | .bsync f => packMB 0x1b f
  | .bra f => packCB 0x00 f
  | .brp f => packCB 0x01 f
  | .rcvpt f => packCB 0x02 f
  | .join f => packCR 0x03 f
  | .bcnd f => packCC 0x04 f
  | .sloop f => packCC 0x05 f
  | .call f => packCB 0x06 f
  | .callr f => packCR 0x07 f
  | .ret f => packCR 0x08 f
  | .jmp f => packCR 0x09 f
  | .exit f => packCR 0x0a f
  | .yield f => packCR 0x0b f
  | .twait f => packCQ 0x0c f
  | .dqpop f => packCQ 0x0d f
  | .dqpush f => packCR 0x0e f
  | .bany f => packCB 0x0f f
  | .ball f => packCB 0x10 f
  | .nop f => packCR 0x11 f
  | .mshape f => packEB 0x00 f
  | .mzero f => packEB 0x01 f
  | .mma f => packVR 0x02 f
  | .mloop f => packEB 0x03 f
  | .mloopg f => packEB 0x04 f
  | .mloopn f => packEB 0x05 f
  | .msmx f => packEB 0x06 f
  | .mdrain f => packEB 0x07 f
  | .mside f => packEB 0x08 f
  | .mprog f => packEB 0x09 f
  | .mstat f => packEB 0x0a f
  | .cpy f => packEB 0x00 f
  | .cpy2d f => packEB 0x01 f
  | .cpymc f => packEB 0x02 f
  | .cpyfill f => packEB 0x03 f
  | .cpyrec f => packEB 0x04 f
  | .tlrd f => packEB 0x05 f
  | .tlwait f => packEB 0x06 f
  | .cprog f => packEB 0x07 f
  | .qpost f => packEB 0x08 f
  | .arnew f => packEB 0x00 f
  | .halloc f => packEB 0x01 f
  | .arseal f => packEB 0x02 f
  | .ardrop f => packEB 0x03 f
  | .arquota f => packEB 0x04 f
  | .arinfo f => packEB 0x05 f
  | .send f => packEB 0x00 f
  | .asend f => packEB 0x01 f
  | .rdy f => packEB 0x02 f
  | .unrdy f => packEB 0x03 f
  | .recv f => packEB 0x04 f
  | .grpnew f => packEB 0x05 f
  | .grpdel f => packEB 0x06 f
  | .colnew f => packEB 0x07 f
  | .redpost f => packEB 0x08 f
  | .redwait f => packEB 0x09 f
  | .colabort f => packEB 0x0a f
  | .msgstat f => packEB 0x0b f
  | .trap f => packSL 0x00 f
  | .brk f => packSL 0x01 f
  | .eret f => packCR 0x02 f
  | .prd f => packSL 0x03 f
  | .pwr f => packSL 0x04 f
  | .capmask f => packCQ 0x05 f
  | .tmark f => packSL 0x06 f
  | .dump f => packEB 0x07 f
  | .respost f => packCR 0x08 f
  | .sstep f => packSL 0x09 f
  | .kiln f => packEB 0x0a f
  | .blockedWordResume _ => 0
  | .windowRetire _ => 0
  | .ageSwap _ => 0
  | .starvationSwap _ => 0
  | .trapDelivery _ => 0
  | .pageFaultResolve _ _ _ _ => 0
  | .mappingChange _ _ _ => 0
  | .accessAtHome _ => 0
  | .fillReturn _ _ => 0
  | .fenceComplete _ => 0
  | .flushComplete _ _ => 0
  | .asyncComplete _ => 0
  | .multicastReceive _ _ _ => 0
  | .matrixBoundary _ _ => 0
  | .cpyFreeze _ _ => 0
  | .mtxFreeze _ _ => 0
  | .sealBroadcast _ => 0
  | .sealComplete _ => 0
  | .dropBroadcast _ => 0
  | .dropComplete _ => 0
  | .readinessReport _ _ _ => 0
  | .messageSteer _ => 0
  | .messageBounce _ => 0
  | .ordAck _ => 0
  | .ringDelivery _ => 0
  | .handlerSpawn _ => 0
  | .grpdelHandover _ => 0
  | .reductionPartial _ => 0
  | .reductionResult _ => 0
  | .roundTimeout _ => 0
  | .haltedNotice _ _ => 0
  | .cellarLimit _ => 0
  | .recvLimit _ => 0
  | .tlwaitLimit _ => 0
  | .qpostRoomLimit _ _ => 0
  | .launch _ => 0
  | .branch _ => 0
  | .waittl _ => 0
  | .waittlNotify _ => 0
  | .depend _ => 0
  | .packetLimit _ => 0
  | .signal _ => 0
  | .copy _ => 0
  | .drop _ => 0
  | .marker _ => 0
  | .placement _ _ => 0
  | .saveComplete _ => 0
  | .crewResume _ _ => 0
  | .queueAged _ _ => 0
  | .crewRetire _ => 0
  | .taskRetire _ _ => 0
  | .taskTimeout _ _ => 0
  | .watchdogExpiry _ => 0
  | .kill _ => 0
  | .killComplete _ => 0
  | .dumpWritten _ _ => 0
  | .partitionDeadline _ => 0
  | .partitionApply _ => 0
  | .electionWindowEnd => 0
  | .claim _ => 0
  | .handover _ => 0
  | .override _ => 0
  | .cmdQreg _ => 0
  | .qreset _ => 0
  | .qremove _ => 0
  | .qappend _ => 0
  | .qappendBusy _ _ => 0
  | .partchg _ => 0
  | .killtask _ => 0
  | .killpart _ => 0
  | .cmdPower _ => 0
  | .watchdog _ => 0
  | .dumph _ => 0
  | .cmdArnew _ => 0
  | .cmdHalloc _ => 0
  | .cmdArseal _ => 0
  | .cmdArdrop _ => 0
  | .cmdArquota _ => 0
  | .cmdArinfo _ => 0
  | .map _ => 0
  | .unmap _ => 0
  | .importHandle _ => 0
  | .mread _ => 0
  | .mwrite _ => 0
  | .debugtoken _ => 0
  | .attest _ => 0
  | .bindvec _ => 0
  | .jread _ => 0
  | .halt _ => 0
  | .resume _ => 0
  | .step _ => 0
  | .bpset _ => 0
  | .wpset _ => 0
  | .intercept _ => 0
  | .regrd _ => 0
  | .regwr _ => 0
  | .sample _ => 0
  | .series _ => 0
  | .trace _ => 0
  | .dbgpol _ => 0
  | .stoprec _ => 0
  | .memrd _ => 0
  | .memwr _ => 0
  | .registerWrite _ _ => 0
  | .breakpointHit _ => 0
  | .watchpointHit _ _ _ => 0
  | .sampleTick _ => 0
  | .seriesTick _ => 0
  | .traceFrameClose _ => 0
  | .traceLoss _ => 0
  | .tokenExpiry _ => 0
  | .strike _ => 0
  | .residueMismatch _ => 0
  | .poisonConsume _ => 0
  | .kilnwaitExpiry _ => 0
  | .kilnTest _ => 0
  | .kilnTestResult _ _ => 0
  | .kilnFenceApply _ => 0
  | .linkFailure _ => 0
  | .ptpMessage _ => 0
  | .railAdjust _ _ => 0
  | .powerThrottle _ _ => 0
  | .idleTimeout _ => 0
  | .packageReset _ => 0
  | .reservedOpcodeWord _ _ => 0
  | .unknownCommand _ => 0
  | .badpacket _ => 0
  | .uncorrectableError _ => 0
  | .requestedDumpComplete _ _ => 0
  | .translationWalk _ _ _ => 0
  | .occReport _ _ => 0
  | .clockSlewEnd => 0
  | .haltEnd _ _ => 0

/-! ### The clause header (R55 to R57) -/

/-- The class that ENG names; none for the reserved values 9 to 15 (R56). -/
def clsOfEng (e : Nat) : Option Cls :=
  match e with
  | 0 => some .vec
  | 1 => some .sca
  | 2 => some .mem
  | 3 => some .ctl
  | 4 => some .mtx
  | 5 => some .cpy
  | 6 => some .arn
  | 7 => some .msg
  | 8 => some .sys
  | _ => none

/-- The ENG code of a class (R56). -/
def engOfCls : Cls → Nat
  | .vec => 0
  | .sca => 1
  | .mem => 2
  | .ctl => 3
  | .mtx => 4
  | .cpy => 5
  | .arn => 6
  | .msg => 7
  | .sys => 8

/-- A checked clause header: class, word count, TWAIT mask and YLD. IND changes time only (R59). -/
structure Header where
  cls : Cls
  count : Nat
  twait : BitVec 8
  yld : Bool
deriving DecidableEq, Repr

/-- A header word read under R55; none where R57 makes it CLAUSE_FORMAT. -/
def decodeHeader (w : Word) : Option Header :=
  if w.extractLsb' 28 4 != 0xB || w.extractLsb' 20 4 == 0 || w.extractLsb' 0 10 != 0 then none
  else match clsOfEng (w.extractLsb' 24 4).toNat with
    | some c => some ⟨c, (w.extractLsb' 20 4).toNat, w.extractLsb' 12 8, w.getLsbD 10⟩
    | none => none

/-- The header word of a clause of class `c` with `count` words, no TWAIT, IND and YLD clear (R55). -/
def encodeHeader (c : Cls) (count : Nat) : Word :=
  (0xB : BitVec 4) ++ BitVec.ofNat 4 (engOfCls c) ++ BitVec.ofNat 4 count ++ (0 : BitVec 20)

/-- The word, in a clause of class `c`, is a transfer word (R62). The test reads the opcode and, in CPY, the YIELD
flag alone: it comes before every check of the other fields (R80). -/
def isTransferWord (c : Cls) (w : Word) : Bool :=
  let op := (opcodeOf w).toNat
  match c with
  | .ctl => op ∈ [0x00, 0x01, 0x03, 0x04, 0x05, 0x06, 0x07, 0x08, 0x09, 0x0A, 0x0B, 0x0F, 0x10]
  | .sys => op ∈ [0x00, 0x01, 0x02]
  | .cpy => op ∈ [0x00, 0x01, 0x03, 0x08] && w.getLsbD 9
  | _ => false

/-! ### Little-endian bytes (R3) -/

/-- Byte `k` of a word. -/
def wordByte (w : Word) (k : Nat) : Byte := w.extractLsb' (8 * k) 8

/-- The four bytes of a word as memory holds them, lowest address first. -/
def wordBytes (w : Word) : List Byte := [wordByte w 0, wordByte w 1, wordByte w 2, wordByte w 3]

/-- The word held by four bytes of memory. -/
def wordOfBytes (b0 b1 b2 b3 : Byte) : Word := b3 ++ b2 ++ b1 ++ b0

/-- All classes, in ENG order. -/
def allCls : List Cls := [.vec, .sca, .mem, .ctl, .mtx, .cpy, .arn, .msg, .sys]

/-- The first class, in ENG order, in which the word is a legal instruction word: a word alone does not name its class
(R78), so a word that several classes read is read in the first of them. -/
def firstClass (w : Word) : Option Cls := allCls.find? fun c => (decode c w).isSome

/-- The instruction the decoder reads from a row's word laid out as memory holds it (R3), in its first legal class. -/
def decodeTableWord (nbits w : Nat) : Option Instr :=
  if nbits != 32 then none
  else
    let bs := wordBytes (BitVec.ofNat 32 w)
    let v := wordOfBytes (bs.getD 0 0) (bs.getD 1 0) (bs.getD 2 0) (bs.getD 3 0)
    match firstClass v with
    | some c => decode c v
    | none => none

end Sys2Proof
end

