-- ==== Sys2Proof/Config.lean ====
section
/-! DEFINITION. What the machine fixes for every run, and its free values: the constants of the manual's own figures, and
opaque functions for the values the manual leaves open (log entry 3). A free value has no body, so nothing can be proved
of it; the state's `freeCtr` gives every use an argument of its own. -/

namespace Sys2Proof.Config

/-- A choice the manual leaves open (a scheduler tie, a free handle index, a core): a free value. -/
opaque freeNat : Nat → Nat

/-- A 64-bit value the manual leaves open: a free value. -/
opaque freeDWord : Nat → BitVec 64

/-- A byte the manual leaves open (a signature byte, a report that the manual does not fix): a free value. -/
opaque freeByte : Nat → BitVec 8

/-- A node of a stitched tree: its parent core and the parent's port that leads to it, none for the root, and its
children by port (R320). -/
structure TreeNode where
  parent : Option (Nat × Nat) := none
  kids : List (Nat × Nat) := []
deriving DecidableEq, Repr

/-- A stitched tree (R320): `nodes` by core number; a core that is absent is not on the tree. `fabric` names the node whose port
4 joins a fabric tree, and whether that port leads to the node's parent rather than to a child (R350). -/
structure Tree where
  root : Nat
  nodes : List (Nat × TreeNode)
  fabric : Option (Nat × Bool) := none
deriving DecidableEq, Repr

/-- A tree that the partition manager stitches, which the manual leaves to it (R320): a free value. -/
opaque freeTree : Nat → Option Tree

/-- The module's serial number (R387, R432), which the manual does not give: a free value. -/
opaque serial : BitVec 64

/-- Bytes of an LMS signature (R458), which the manual does not give: a free value, of the width of SIGLEN (R386), which
counts them with those of the ECDSA signature. -/
opaque lmsLen : BitVec 32
def lmsBytes : Nat := lmsLen.toNat

/-- The home slice of a line within its die, which is a fixed function that programs must not depend on (R92): a free value. -/
opaque slice : Nat → Nat

/-- D, the replay hold in cycles (R120). -/
def dCycles : Nat := 72

/-- Instructions a replay window holds (R120). -/
def windowLen : Nat := 16

/-- Decision-queue entries (R38). -/
def dqLen : Nat := 64

/-- Outstanding operations on one token (R16). -/
def tokMax : Nat := 15

/-- Accepted operations of a copy context (R232). -/
def copyRoom : Nat := 32

/-- Accepted operations of a matrix context (R256). -/
def matrixRoom : Nat := 16

/-- Accepted operations of an arena context (R301). -/
def arenaRoom : Nat := 16

/-- Accepted operations of a message context (R321). -/
def messageRoom : Nat := 32

/-- Completion records a copy context keeps (R249). -/
def recordsKept : Nat := 64

/-- Records that a message context keeps: enough for its last 64 numbers, of which 32 may complete late (R321, R342). -/
def messageKept : Nat := 96

/-- Cellar entries of a router (R327). -/
def cellarLen : Nat := 64

/-- Lead call frames (R141). -/
def leadFrames : Nat := 16

/-- Bytes of a core store (R32). -/
def coreStore : Nat := 3 * 1024 * 1024

/-- Journal records in the ring (R381). -/
def journalLen : Nat := 1048576

/-- NONE in an address field (07, opening). -/
def noneAddr : BitVec 32 := 0xFFFFFFFF

/-- Bytes of HBM of one logical device: two stacks of 64 GiB (R12). -/
def hbmBytes : Nat := 128 * 1024 * 1024 * 1024

/-- Bytes of the second tier (R12: up to 16 TiB). -/
def secondBytes : Nat := 16 * 1024 * 1024 * 1024 * 1024

end Sys2Proof.Config
end

