-- ==== Sys2Proof/Machine/State.lean ====
section
/-! DEFINITION. The state of the Scealin A5 package as plain data, the reasons a step can stop, and the state after reset.
Tables, register files and memories are `Store`s: lists of (key, value) pairs in the canonical form that `Store.set` keeps
(rising keys, no entry equal to the table's default), so that equal contents are equal data. A step that changes every
entry of a table in place may leave an entry equal to its default; memory always has the form. -/

namespace Sys2Proof.Machine

/-- A sparse total map; reading a key that it does not list gives the table's default. -/
abbrev Store (α : Type) := List (Nat × α)

/-! ### Handles, tokens, faults -/

/-- A handle-table entry: its four dwords (R84). -/
structure HEntry where
  d0 : DWord := 0
  d1 : DWord := 0
  d2 : DWord := 0
  d3 : DWord := 0
deriving DecidableEq, Repr

/-- A handle register: index, entry copy, STALE bit (R108, R110, R296). An unloaded register has VALID 0. -/
structure HReg where
  idx : BitVec 20 := 0xFFFFF
  ent : HEntry := {}
  stale : Bool := false
deriving DecidableEq, Repr

/-- A token: set bit and outstanding count (R16). -/
structure Tok where
  set : Bool := false
  cnt : Nat := 0
deriving DecidableEq, Repr

/-- The faults of the architecture (R395). Taking one is a next state of the machine; they are not the reasons for
which a step of the model stops. -/
inductive Exc where
  | illegalInstruction | clauseFormat | opclassUndeclared | capabilityFenced | privileged | misaligned
  | handleInvalid | handleBounds | handlePermission | privLimit | stackLimit | pageFatal
  | arenaStale | sealedWrite | arenaState | shapeMismatch | formatCombination | shapeRange
  | groupInvalid | collectiveInvalid | dataUncorrectable | residuePersistent
  | breakpoint | watchpoint | softwareTrap | singleStep | watchdog
deriving DecidableEq, Repr

/-- The trap record's four dwords (R393). -/
structure TrapRec where
  d0 : DWord := 0
  d1 : DWord := 0
  d2 : DWord := 0
  d3 : DWord := 0
deriving DecidableEq, Repr

/-- What a fault carries into its record (R393), but for HDR and WORD, which its delivery knows. `lanes` none means the
receiving slot's MASK; `hreg` none means HNONE, unless `code` says that the handle involved is the code handle, which no handle
register holds (R63). `arena` is the one that a late fault's access named, which a drop may absorb (R310). -/
structure FaultInfo where
  exc : Exc
  lanes : Option Word := none
  late : Bool := false
  asyn : Bool := false
  hreg : Option Nat := none
  code : Bool := false
  hindex : BitVec 20 := 0xFFFFF
  offset : DWord := 0
  eng : Nat := 0
  info : Word := 0
  sword : Nat := 0
  arena : Option ArenaRef := none
deriving DecidableEq, Repr

/-! ### Slots and the control stack -/

/-- STATE of a slot (R124). -/
inductive SlotSt where
  | empty | ready | blocked | joinwait
deriving DecidableEq, Repr

/-- What a suspended pair waits for (R61, R89, R90, R104, R237, R259, R315, R392). `atoms` is no suspension: the pair stands
READY inside an atomic whose lanes have been performed in part (R216), with what they found and what failed at a slice. -/
inductive Wait where
  | twaitHdr (mask : BitVec 8)
  | twaitWord (mask : BitVec 8)
  | dqpop
  | dqpush
  | barrier (off : Nat) (phase : Bool)
  | flwait (die n : Nat)
  | timeline (ctx : Ctx) (n : DWord) (limitUs : Nat)
  | recv (gid : Nat) (limitUs : Nat)
  | round (coll k : Nat)
  | rounds (coll : Nat)
  | token (k : Nat)
  | room (ctx : Ctx)
  | cellar (core limitUs : Nat)
  | matrixIdle (upto : Nat)
  | fence
  | copyYield (num : Nat)
  | dump (h : HReg) (hn off n mask : Nat)
  | page (ldev page : Nat) (f : FaultInfo)
  | walk (ldev page : Nat)
  | fill (sector : Nat)
  | atoms (done : List (Nat × Nat)) (fault : Option (Exc × Word × DWord))
  | trapClear (f : FaultInfo)
  | poison
  | stopped
  | halted
  | released (v w : DWord)
deriving DecidableEq, Repr

/-- A PC slot, or a fragment that has left its slots (R124), with the device's own state about it: whether the clause
has passed TWAIT and its header word, whether the pair holds its scheduler inside a clause (R61), what it waits for and since when, when its watchdog count began (R395), its rank for R44, IN TRAP (R392), the frame link (R142), the
privileged code it runs (R396), a debugger's step (R419), the breakpoints and watchpoints
suppressed once, the order in which JOINWAIT fragments arrived and the clause after their join (R137, R138), and whether
the fragment has come from the control stack since its last packet (R426). -/
structure Slot where
  st : SlotSt := .empty
  pc : Word := 0
  word : Nat := 0
  started : Bool := false
  hw : Word := 0
  holds : Bool := false
  mask : Word := 0
  depth : Nat := 0
  rpcn : Word := Config.noneAddr
  rcv : Word := Config.noneAddr
  divid : Nat := 0
  fmt : Word := 0
  age : Nat := 0
  wait : Option Wait := none
  waitSince : Nat := 0
  wdSince : Nat := 0
  blockedCyc : Nat := 0
  lastIssue : Nat := 0
  issuedHere : Bool := false
  inTrap : Bool := false
  link : Option Nat := none
  priv : Option Nat := none
  retPc : Word := 0
  retWord : Nat := 0
  dbgStep : Bool := false
  skipBp : Bool := false
  skipWp : Word := 0
  arr : Nat := 0
  joinNext : Word := 0
  entered : Bool := false
deriving DecidableEq, Repr

/-- A divergence record (R125, KIND 2) with the frame link the device keeps beside it (R143). -/
structure DivRec where
  depth : Nat
  divid : Nat
  pc : Word
  rcv : Word
  mask : Word
  arrived : Word
  fmt : Word
  pending : Nat
  link : Option Nat
deriving DecidableEq, Repr

/-- A call frame (R125, KIND 3) with the frame link it keeps (R142). -/
structure CallRec where
  depth : Nat
  pc : Word
  rcv : Word
  rpcn : Word
  link : Option Nat
deriving DecidableEq, Repr

/-- A control-stack entry (R125). A FRAG entry holds the whole fragment; `blk` is R128's BLK. -/
inductive CEntry where
  | free
  | frag (s : Slot) (blk : Bool)
  | div (d : DivRec)
  | call (c : CallRec)
deriving DecidableEq, Repr

/-! ### Threads -/

/-- The state of a thread that its replay window can restore (R120, R147): registers, slots, control stack. Keys: s, p
and h by number, v by 32 × register + lane. By physical slot (0 and 1): `stepArm` is the count that `sstep` armed, `stepLeft` one
more than the clauses still to issue (R400). `starveCyc` is the cycle from which a starvation swap's conditions have held (R128). -/
structure Arch where
  s : Store DWord := []
  bank : Store DWord := []
  v : Store Word := []
  p : Store Word := []
  h : Store HReg := []
  a : Slot := {}
  b : Slot := {}
  cstk : Store CEntry := []
  divctr : Nat := 1
  trapInfo : DWord := 0
  trec : TrapRec := {}
  cause : Nat := 0
  stepArm : Store Nat := []
  stepLeft : Store Nat := []
  starveCyc : Option Nat := none
deriving DecidableEq, Repr

/-- Where a byte of data lives: a crew's scratch, a memory address (logical device × 2^48 + virtual address), a
register byte of a crew's REGWIN window, or nowhere (reads 0, writes are discarded). -/
inductive Loc where
  | scr (uid off : Nat)
  | mem (addr : Nat)
  | reg (uid off : Nat)
deriving DecidableEq, Repr

/-- One lane of a pending write: the lane (none for a scalar store), where it goes, its offset, its bytes. -/
structure LaneWrite where
  lane : Option Nat
  loc : Loc
  off : DWord
  bytes : List Byte
  cmp : Word := 0
deriving DecidableEq, Repr

/-- What a pending write does at its home: store bytes, or one of the eight atomic kinds on an element type. -/
inductive WriteKind where
  | store
  | atomic (ty k : Nat)
deriving DecidableEq, Repr

/-- An entry of a thread's store queue (R95, R208): the lanes still to be performed, the home die when posted, the
arena that step 5 checks, and what a late fault's record names (R297). `at` is the issue number of its word. A write that is `gone`
is an earlier handler's of the slot, which has exited. -/
structure PendWrite where
  at_ : Nat
  kind : WriteKind := .store
  lanes : List LaneWrite
  posted : Option Nat := none
  rel : Bool := false
  arena : Option ArenaRef := none
  gen : Nat := 0
  stale : Bool := false
  hdr : Word := 0
  word : Nat := 0
  hreg : Nat := 0
  hindex : BitVec 20 := 0xFFFFF
  slotB : Bool := false
  absorbed : Bool := false
  failed : Word := 0
  failOff : DWord := 0
  failExc : Option Exc := none
  gone : Bool := false
deriving DecidableEq, Repr

/-- Life of a thread (R35, R42, R48). -/
inductive ThreadSt where
  | absent | running | exited
deriving DecidableEq, Repr

/-- An entry of a replay window (R120): the issue number and cycle of its word, the thread's state before it, the place it
issued from, its class code and its capability classes (R402). -/
structure WinEntry where
  no : Nat
  cyc : Nat
  before : Arch
  slotB : Bool := false
  hdr : Word := 0
  word : Nat := 0
  eng : Nat := 0
  caps : List Nat := []
deriving DecidableEq, Repr

/-- A group, a handler group or the lead (R108). `floor` counts the writes that every later load of it must see; `seen` adds
to that for single bytes it has read or written (R103 Coherence). `past` holds its vector registers at its last instruction
boundaries, newest first (R83). -/
structure Thread where
  st : ThreadSt := .absent
  arch : Arch := {}
  window : List WinEntry := []
  swapped : Bool := false
  issued : Nat := 0
  sq : List PendWrite := []
  fence : Option (Nat × Nat) := none
  toks : Store Tok := []
  pendA : List FaultInfo := []
  pendB : List FaultInfo := []
  flIssued : Store Nat := []
  flDone : Store Nat := []
  flushes : List (Nat × Nat × Nat) := []
  dqPos : Nat := 0
  residue : Nat := 0
  residueNo : Nat := 0
  floor : Nat := 0
  seen : Store Nat := []
  past : List (Store Word) := []
deriving DecidableEq, Repr

/-! ### Engine contexts -/

/-- Progress state of an accepted operation (R252, R283). -/
inductive OpSt where
  | accepted | running | stopped | done
deriving DecidableEq, Repr

/-- An accepted operation with its copies and progress registers (R233, R252, R257, R283). `opcode` is its opcode in its
class; `prog` is BYTESDONE or PROG. A multicast's receivers have accepted the tile (`heard`), hold it (`wrote`), and have
acknowledged it (`accMask`) or refused it (`refMask`) (R245). -/
structure Op where
  num : Nat
  opcode : Nat
  f10 : BitVec 10 := 0
  xb : Nat := 0
  tok : Nat := 0
  tid : Nat := 0
  slotB : Bool := false
  hdr : Word := 0
  word : Nat := 0
  st : OpSt := .accepted
  blk : List DWord := []
  fmt : Word := 0
  ha : HReg := {}
  hb : HReg := {}
  hc : HReg := {}
  recA : DWord × DWord := (0, 0)
  recB : DWord × DWord := (0, 0)
  recI : DWord × DWord := (0, 0)
  bar : Option Nat := none
  prog : Nat := 0
  row : Nat := 0
  arun : Word := 0
  bytes : Nat := 0
  accMask : DWord := 0
  refMask : DWord := 0
  heard : DWord := 0
  wrote : DWord := 0
  since : Nat := 0
  param : Bool := false
  qfull : Bool := false
  waitPage : Option (Nat × Nat × FaultInfo) := none
  err : Option FaultInfo := none
  residue : Nat := 0
  arena : Option ArenaRef := none
  ref_ : Nat := 0
deriving DecidableEq, Repr

/-- A completion record (R249, R342). -/
structure OpRecord where
  num : Nat
  opcode : Nat
  status : Nat
  bytes : Nat
  acc : DWord
  ref_ : DWord
deriving DecidableEq, Repr

/-- An engine context (R15): last accepted number, timeline counter, the accepted operations, the completed ones that
the timeline does not count yet, the records kept, FREEZE, and what firmware has written to the registers of free slots (R252,
R283), by 32 × slot + register. -/
structure EngCtx where
  last : Nat := 0
  timeline : Nat := 0
  ops : List Op := []
  done : List Nat := []
  recs : List OpRecord := []
  freeze : Bool := false
  raw : Store DWord := []
deriving DecidableEq, Repr

/-! ### Messages -/

/-- An active message in a cellar, or a saved one (R327, R329): its sender's operation, the sender's identity for the
spawned registers, the target crew, the handler, the payload and s7. `arrived` says it has reached its destination. -/
structure Parked where
  sender : Option OpRef
  core : Nat
  task : Nat
  crew : Nat
  dest : Nat
  handler : Nat
  len : Nat
  payload : List Byte
  s7 : DWord
  arrived : Bool
  group : Option MsgRef := none
deriving DecidableEq, Repr

/-- A crew's readiness in one consumer group (R333, R340). `slots` are the handler slots reserved. -/
structure Ready where
  amount : Nat := 0
  spawn : Bool := false
  handler : Nat := 0
  ring : Nat := 0
  wpos : Nat := 0
  cpos : Nat := 0
  written : Nat := 0
  used : Bool := false
  slots : List Nat := []
  saved : Nat := 0
deriving DecidableEq, Repr

/-- A node's counts for a consumer group: L, c[p], the totals on their way to its parent, the port and crew rotations
(R332, R337). -/
structure Node where
  l : Nat := 0
  c : Store Nat := []
  sent : List Nat := []
  portRot : Nat := 0
  crewRot : Nat := 0
deriving DecidableEq, Repr

/-- Where a group-addressed message is (R337 to R339): on its way up at a node, sent down to a node, bounced to a parent
through a port, climbing to the root, at the root, assigned to a position of a ring at an offset, or to a reserved handler slot of a
crew and a handler entry, or delivered with ORD and not yet acknowledged. -/
inductive MsgAt where
  | up (core : Nat)
  | down (core : Nat)
  | bounced (core port : Nat)
  | climbing
  | parked
  | ring (uid pos ring : Nat)
  | spawn (uid hslot handler : Nat)
  | unacked
deriving DecidableEq, Repr

/-- A group-addressed message (R336, R337): `order` is its first arrival at the root, if it has been there; `asg` ranks
its assignment among those to one crew (R338). -/
structure GMsg where
  id : Nat
  sender : OpRef
  core : Nat
  task : Nat
  crew : Nat
  ord : Bool
  len : Nat
  payload : List Byte
  at_ : MsgAt
  bounces : Nat := 0
  order : Option Nat := none
  asg : Nat := 0
deriving DecidableEq, Repr

/-- State of a consumer group's ID (R342). -/
inductive GroupSt where
  | free | live | deleting | deleted
deriving DecidableEq, Repr

/-- A consumer group (R330): `orphanD` and `orphanC` are its orphan destination; `old` is the record of the generation
deleted before this one (R342). -/
structure CGroup where
  st : GroupSt := .free
  gen : Nat := 0
  tree : Nat := 0
  orphanD : DWord := 0
  orphanC : DWord := 0
  nodes : Store Node := []
  msgs : List GMsg := []
  nextId : Nat := 1
  nextOrder : Nat := 0
  discarded : Nat := 0
  handed : Nat := 0
  bounces : Nat := 0
  parkings : Nat := 0
  delOp : Option OpRef := none
  old : List DWord := []
deriving DecidableEq, Repr

/-- How a round ended (R347). -/
inductive RoundEnd where
  | ok | timeout | aborted | peerHalted
deriving DecidableEq, Repr

/-- One accepted contribution: core, crew, the operation, and its words once they are read; a second one of a core is `extra`, and
counts for nothing (R345). -/
structure Post where
  core : Nat
  uid : Nat
  num : Nat
  words : List Word
  extra : Bool := false
deriving DecidableEq, Repr

/-- A round (R345): contributions, the partials the nodes have formed, the partial of a remote subtree (R350), the result on its
way down, the members that still have to write it, and how it ended: `remote` is bit 8 of R348. -/
structure Round where
  k : Nat
  startNs : Nat
  posts : List Post := []
  partials : List (Nat × List Word) := []
  far : Option (List Word) := none
  result : Option (List Word) := none
  left : List Nat := []
  ended : Option RoundEnd := none
  missing : DWord := 0
  remote : Bool := false
deriving DecidableEq, Repr

/-- A collective (R344): `rounds` holds the rounds in progress and, of the ended ones, those a crew may still ask
for. `nth` counts the collectives created on its fabric tree up to it (R350); `frozenAt` is the time its timers froze, if they are
frozen (R351). -/
structure Coll where
  live : Bool := false
  gen : Nat := 0
  task : Nat := 0
  tree : Nat := 0
  members : DWord := 0
  op : Nat := 0
  e : Nat := 0
  timeoutUs : Nat := 0
  resOff : Nat := 0
  rbar : Word := 0
  rounds : List Round := []
  nth : Nat := 0
  frozenAt : Option Nat := none
deriving DecidableEq, Repr

/-! ### Crews -/

/-- Crew states (R53). -/
inductive CrewSt where
  | pending | placing | running | preempting | saved | retiring | killing | retired
deriving DecidableEq, Repr

/-- Why a crew is killed (R379), or pre-empted (R374). -/
inductive KillCause where
  | command | force | timeout | fatal | fence
deriving DecidableEq, Repr

/-- Why a crew is stopped (R417). -/
inductive StopKind where
  | hit | halt | dump
deriving DecidableEq, Repr

/-- A stop record (R418): the joined name of the first hit, its code, HITS and the lanes; and the cycle of the stop. -/
structure StopRec where
  proc : DWord := 0
  taskCrew : DWord := 0
  where_ : DWord := 0
  code : Nat := 0
  hits : Word := 0
  lanes : Word := 0
  cyc : Nat := 0
deriving DecidableEq, Repr

/-- A packet that waits for the others of its cycle, or for a word that a replay may still discard (R121, R425, R426): its cycle, that
word (thread and issue number) if it is its own, and its content. -/
structure HeldPacket where
  cyc : Nat
  owner : Option (Nat × Nat) := none
  kind : Nat
  arg : Nat
  payload : List Byte
deriving DecidableEq, Repr

/-- A crew's trace stream (R424 to R427): the open frame's bytes, the cycle of the last packet, the time of the last
byte, packets dropped since the last one written, the last 2^s tick seen, the pairs that owe a SYNC, those whose next packet must be
that SYNC because a LOSS came before it, and the packets that wait for their cycle to end or for a word to be past its replay. -/
structure TraceSt where
  on : Bool := false
  lead : Bool := false
  port : Bool := false
  syncLog : Nat := 0
  first : Bool := true
  buf : List Byte := []
  lastCyc : Nat := 0
  lastNs : Nat := 0
  lost : Nat := 0
  lostName : Bool := false
  tick : Nat := 0
  sync : List (Nat × Bool) := []
  mute : List (Nat × Bool) := []
  held : List HeldPacket := []
deriving DecidableEq, Repr

/-- A crew (R53, R108). Threads by tid; tiles by 16384 × tile + 128 × row + column, MAX and SUM by 128 × tile + row,
shape slots by 2 × slot + dword, watchpoints by 3 × n + dword. `readyOld` holds the records of R342 that its readiness left in the last
deleted generation of each consumer group's ID. Poison marks (R403): of scratch bytes by offset, of registers by `regOff` and `regKey`, of
tiles by the key of the word, of MAX from 2^20 and of SUM from 2^21. -/
structure Crew where
  ldev : Nat := 0
  part : Nat := 0
  task : Nat := 0
  idx : Nat := 0
  st : CrewSt := .retired
  core : Nat := 0
  cslot : Nat := 0
  block : Option Nat := none
  placedNs : Nat := 0
  placedCyc : Nat := 0
  threads : Store Thread := []
  scratch : Store Byte := []
  scrPoison : Store Bool := []
  regPoison : Store Bool := []
  tilePoison : Store Bool := []
  dq : List DWord := []
  dqBase : Nat := 0
  tiles : Store Word := []
  maxs : Store Word := []
  sums : Store Word := []
  shapes : Store DWord := []
  sat : Bool := false
  reexec : Nat := 0
  cpy : EngCtx := {}
  mtx : EngCtx := {}
  arn : EngCtx := {}
  msg : EngCtx := {}
  ready : Store Ready := []
  readyOld : Store (List DWord) := []
  savedMsgs : List Parked := []
  asg : Nat := 0
  stop : Option StopKind := none
  stopRec : StopRec := {}
  stopNs : Nat := 0
  bp : Store DWord := []
  wp : Store DWord := []
  icept : DWord := 0
  abandon : Bool := false
  cause : Option KillCause := none
  fatalRec : Option TrapRec := none
  fatalWhere : DWord := 0
  nested : Nat := 0
  nrec : TrapRec := {}
  trace : TraceSt := {}
  regwin : Option Nat := none
deriving DecidableEq, Repr

/-! ### Cores, dies, partitions -/

/-- A queued invalidation of an L1 (R94): the line, the bytes the L1 still serves for it, and how many writes the package had
performed when the invalidation was queued. -/
structure InvLine where
  line : Nat
  old : List Byte
  at_ : Nat := 0
  arena : Option ArenaRef := none
deriving DecidableEq, Repr

/-- A core (R10, R327, R404). `tlb` holds the first 64 KiB unit of each page it has a translation entry for (R89). `dirty` lists
the private lines that its L1 holds dirty, each with the bytes its home still holds (R93): memory itself has the L1's. -/
structure Core where
  mask : DWord := 0xFFFFFFFFFFFFFFFF
  skew : Nat := 0
  railMv : Nat := 350
  tlb : List (Nat × Nat) := []
  inval : List InvLine := []
  dirty : Store (List Byte) := []
  cellar : List Parked := []
  cslots : Store Nat := []
  counters : Store Nat := []
deriving DecidableEq, Repr

/-- The kiln's state for a core and class (R407). -/
inductive KilnSt where
  | clear | suspect | testing | retest | fenced
deriving DecidableEq, Repr

/-- The kiln's record for a core and class (R407): state, event times within the last second, and the time SUSPECT was
entered; `draining` marks a confirmed failure whose crews are not all SAVED yet. -/
structure KilnPair where
  st : KilnSt := .clear
  events : List Nat := []
  since : Nat := 0
  draining : Bool := false
deriving DecidableEq, Repr

/-- Arena states (R291). -/
inductive ArenaSt where
  | free | live | sealing | sealed_ | dropping
deriving DecidableEq, Repr

/-- An arena-table entry (R291) with the SEAL and STALE bits the caches hold for it (R296): `sealBit` and `staleBit` say that
every cache has the bit; `sealAt` and `staleAt` name the caches that a broadcast on its way has reached. `occNs` is the time of the
last report of OCC. -/
structure Arena where
  gen : Nat := 0
  parent : Nat := 0
  depth : Nat := 0
  st : ArenaSt := .free
  held : Bool := false
  retired : Bool := false
  quota : Nat := 0
  used : Nat := 0
  occ : Word := 0
  cap : Word := 0xFFFFFFFF
  sealBit : Bool := false
  staleBit : Bool := false
  sealAt : List Nat := []
  staleAt : List Nat := []
  occNs : Nat := 0
deriving DecidableEq, Repr

/-- Power states (R455). -/
inductive PowerSt where
  | active | idle | gated
deriving DecidableEq, Repr

/-- Security states (R432). -/
inductive SecSt where
  | locked
  | tenant (expiry : Nat)
  | vendor
deriving DecidableEq, Repr

/-- A registered tool ring (R420): handle index and offset, the period k, and the chimney's copies of SZ and MODE. -/
structure ToolRing where
  h : Nat
  off : Nat
  k : Nat
  sz : Nat
  mode : Nat
deriving DecidableEq, Repr

/-- A partition (R377). -/
structure Part where
  regions : Byte := 0
  ways : Nat := 0
  pcs : Nat := 0
  power : PowerSt := .active
  idleSince : Nat := 0
  watchdogMs : Nat := 0
  wdPausedAt : Option Nat := none
  dumpTarget : Option (DWord × Nat) := none
  dumping : Option Nat := none
  dumpQueue : List Nat := []
  security : SecSt := .locked
  dbgpol : DWord := 0
  sampleRing : Option ToolRing := none
  seriesRing : Option ToolRing := none
  traceRing : Option ToolRing := none
  seriesSeq : Nat := 0
  sampleTick : Nat := 0
  seriesTick : Nat := 0
  trees : Store (Option Config.Tree) := []
  groups : Store CGroup := []
  colls : Store Coll := []
  colCount : Store Nat := []
  haltedTrees : List Nat := []
  curQueue : Store (Option Nat) := []
  dropMask : List Nat := []
  dropNext : List Nat := []
  sealOps : List (Nat × List Nat) := []
deriving DecidableEq, Repr

/-- The states of a partition change (R378). APPLYING and DONE are passed within the one step that applies a change. -/
inductive ChangeSt where
  | pending | deadline | applying
deriving DecidableEq, Repr

/-- A partition change in progress on a logical device (R378, R387 PARTCHG). -/
structure PartChange where
  st : ChangeSt
  source : Master
  seq : Word
  regions : DWord
  ways : DWord
  pcs : DWord
  deadlineUs : Nat
  force : Bool
  startNs : Nat
deriving DecidableEq, Repr

/-! ### Queues, packets, tasks -/

/-- What the task engine knows of a packet (R361 to R365). -/
inductive PktSt where
  | started | retired
deriving DecidableEq, Repr

/-- A consumed packet of a queue: its index, state, type, task (LAUNCH), completion address, body, start time, bytes
copied (COPY), the arena it drops (DROP) or the life of the queue it waits for (DEPEND), and the life of its own queue. -/
structure Pkt where
  index : Nat
  st : PktSt
  ty : Nat
  task : Nat := 0
  comp : DWord := 0
  body : List DWord := []
  startNs : Nat := 0
  prog : Nat := 0
  ref_ : Nat := 0
  life : Nat := 0
deriving DecidableEq, Repr

/-- A queue (R358, R359): `pkts` are the consumed packets from the read index on, `orphans` those that had started when the
queue was reset or registered anew. `ends` has the number of packets consumed in each of its lives, which resets and removals end. -/
structure Queue where
  reg : Bool := false
  part : Nat := 0
  hdrH : Nat := 0
  hdrOff : Nat := 0
  proc : DWord := 0
  ringH : Nat := 0
  ringOff : Nat := 0
  ageUs : Nat := 0
  capLog : Nat := 0
  qLog : Nat := 0
  preempt : Bool := false
  prioMax : Nat := 0
  deficit : Int := 0
  waitSince : Option Nat := none
  aged : Bool := false
  agedCharge : Nat := 0
  next : Nat := 0
  pkts : List Pkt := []
  orphans : List Pkt := []
  ends : List Nat := []
  skip : Nat := 0
deriving DecidableEq, Repr

/-- A launch header's fields as read at acceptance (R29). -/
structure Hdr where
  codeh : Nat := 0
  leadPc : Word := 0
  groupPc : Word := 0
  trapPc : Word := 0
  handTbl : List Word := []
  widw : List Nat := []
  lvl : Nat := 0
  widCount : Nat := 0
  vregs : Nat := 0
  groups : Nat := 0
  tiles : Nat := 0
  hslots : Nat := 0
  scratch : Nat := 0
  privw : Nat := 0
  cstk : Nat := 0
  uses : DWord := 0
  prio : Nat := 0
  cosched : Bool := false
  timeoutUs : Nat := 0
  paramh : Word := 0
  resulth : Word := 0
deriving DecidableEq, Repr

/-- Life of a task (R50, R51): `ending` while it is being killed, `dropping` while its private arena's drop runs. -/
inductive TaskSt where
  | none | running | ending | dropping | ended
deriving DecidableEq, Repr

/-- A task (R29, R50, R366). -/
structure Task where
  st : TaskSt := .none
  part : Nat := 0
  queue : Nat := 0
  index : Nat := 0
  hdr : Hdr := {}
  code : HEntry := {}
  crews : Nat := 0
  nextCrew : Nat := 0
  blocks : Nat := 0
  arena : Nat := 0
  arenaGen : Nat := 0
  blockBase : Nat := 0
  status : Nat := 0
  result : Option DWord := none
  firstNs : Option Nat := none
  endNs : Option Nat := none
  pausedNs : Nat := 0
  pausedAt : Option Nat := none
  traced : Bool := false
  traceLead : Bool := false
  tracePort : Bool := false
  traceLog : Nat := 0
deriving DecidableEq, Repr

/-! ### The package -/

/-- A journal record (R381): DATA as dwords. -/
structure JRec where
  seq : Nat
  time : Nat
  kind : Nat
  source : Nat
  ldev : Nat
  part : Nat
  data : List DWord
deriving DecidableEq, Repr

/-- A response to a command (R386), with the records or report that follow it on the transport. -/
structure Resp where
  dst : Master
  seq : Word
  opcode : BitVec 16
  status : Nat
  results : List DWord
  tail : List Byte := []
deriving DecidableEq, Repr

/-- A command whose effect has not completed (R385), with the time it came and what it waits for. -/
structure PendCmd where
  cmd : Cmd
  sinceNs : Nat
  ref_ : Nat := 0
  uids : List Nat := []
deriving DecidableEq, Repr

/-- A mapping of the host window (R388): 64 KiB-aligned address, partition, handle index, permissions. -/
structure HostMap where
  addr : Nat
  ldev : Nat
  part : Nat
  h : Nat
  ent : HEntry
  r : Bool
  w : Bool
deriving DecidableEq, Repr

/-- The applied configuration and image versions (R456, R457). -/
structure BootCfg where
  fwVer : Nat := 1
  cfgVer : Nat := 1
  fwMin : Nat := 1
  cfgMin : Nat := 1
  priority : List Master := [.os, .mgmt, .remote]
  windowSec : Nat := 60
  kilnWaitMs : Nat := 1000
  grade : Nat := 1
  recovery : Bool := false
  vendor : Bool := false
deriving DecidableEq, Repr

/-- The firmware code that privileged entries run (R396): its code object and entry offsets, which the manual does not
give. -/
structure Firmware where
  code : HEntry := {}
  ldev : Nat := 0
  entry : Word := 0
deriving DecidableEq, Repr

/-- The pair whose word is being executed, with the clause it stands in, and what the memory system makes of the word: `back`
says how far back its loads look among the values they may read (0: the present ones), in 16 bits a lane; `only` bounds the
lanes of an atomic that are performed at this issue (0: all). Both come from the move that issues the word. -/
structure Cursor where
  uid : Nat := 0
  tid : Nat := 0
  slotB : Bool := false
  hdr : Word := 0
  word : Nat := 0
  count : Nat := 0
  cls : Cls := .vec
  back : Nat := 0
  only : Nat := 0
deriving DecidableEq, Repr

/-- What a move does: a pair issues its next word, a step without an encoding happens, or nothing but time passes. -/
inductive Act where
  | issue (p : PairRef) (back : Nat := 0) (only : Nat := 0)
  | event (i : Instr)
  | idle
deriving DecidableEq, Repr

/-- A move of the agenda: the time that passes before it, and what happens. -/
structure Move where
  dNs : Nat := 0
  dCyc : Nat := 0
  act : Act
deriving DecidableEq, Repr

/-- A write that has been performed (R94, R103): its rank among all writes, the core that made it, where, and the bytes it
replaced. -/
structure PastWrite where
  at_ : Nat
  core : Option Nat
  loc : Loc
  old : List Byte
deriving DecidableEq, Repr

/-- The package. Keys: cores by core number, dies by number, partitions by 8 × device + partition, arenas by
4096 × partition key + index, handles by 2^20 × partition key + index, queues by 4096 × device + number, tasks by
2^32 × device + number, crews by uid, kiln pairs by 64 × core + class. -/
structure State where
  agenda : List Move := []
  cur : Cursor := {}
  freeCtr : Nat := 0
  nextUid : Nat := 1
  issueCtr : Nat := 0
  now : Nat := 0
  cycles : Nat := 0
  slew : Int := 0
  slewNs : Nat := 0
  slewSrc : DWord := 0
  mem : List Host.Cell := []
  poison : Store Bool := []
  absentPages : Store Bool := []
  pageSize : Store Nat := []
  walks : List (Nat × Nat × Nat) := []
  writes : Nat := 0
  hist : List PastWrite := []
  absent : Store Bool := []
  fills : Store Word := []
  sharers : Store DWord := []
  handles : Store HEntry := []
  arenas : Store Arena := []
  vaNext : Store Nat := []
  freeVa : Store (List (Nat × Nat)) := []
  cores : Store Core := []
  dieCtrs : Store Nat := []
  links : List Link := []
  deadDevs : List Nat := []
  parts : Store Part := []
  change : Store (Option PartChange) := []
  queues : Store Queue := []
  tasks : Store Task := []
  nextTask : Store Nat := []
  crews : Store Crew := []
  kiln : Store KilnPair := []
  journal : List JRec := []
  head : Nat := 1
  owner : Option Master := none
  claims : List Master := []
  windowOpen : Bool := true
  windowNs : Nat := 0
  cmds : List PendCmd := []
  resps : List Resp := []
  maps : List HostMap := []
  win : Store DWord := []
  vecs : Store (Option (Nat × Nat)) := []
  msis : List (Nat × Nat × Nat) := []
  hostAns : DWord := 0
  hostFault : Bool := false
  hostRes : Option (Nat × Nat × Nat × DWord) := none
  halted : Bool := false
  notices : Nat := 0
  portOut : List Byte := []
  standby : Bool := false
  throttle : Nat × Nat := (100, 100)
  cfg : BootCfg := {}
  fw : Firmware := {}
deriving DecidableEq, Repr

/-- Why the model stops with a fault. -/
inductive Fault where
  /-- An instruction word is executed while `cur` names no running thread. Raised by the meanings of instruction words;
  `step` never asks for it. Safe: there is no issuer whose state could change. -/
  | noIssuer
deriving DecidableEq, Repr

/-- Why the model refuses a step. -/
inductive Refusal where
  /-- The instruction has no meaning in the model yet. Raised by the dispatch alone. Safe: the run ends. -/
  | notModelled (mnemonic : String)
deriving DecidableEq, Repr

/-- The machine right after package reset (R456): device time 0, no owner, the election window open, no partition, queue,
task or crew, every core in service with a complete mask (R2), memory with nothing listed. What the manual leaves open
is named in log entries 2 to 6. -/
def State.reset : State := {}

end Sys2Proof.Machine
end

