-- ==== Sys2Proof/Machine/Store.lean ====
section
/-! DEFINITION. Reading and writing the sparse total maps of the state, and the canonical form they keep. -/

namespace Sys2Proof.Machine

/-- The value at key `k`; `d` where the map lists none. -/
def Store.get {α : Type} (d : α) : Store α → Nat → α
  | [], _ => d
  | (a, x) :: t, k => if a = k then x else Store.get d t k

/-- Every key of the map is above `b`, keys rise, and no entry is the default. -/
def Store.wfFrom {α : Type} [DecidableEq α] (d : α) : Nat → Store α → Bool
  | _, [] => true
  | b, (a, x) :: t => decide (b ≤ a) && decide (x ≠ d) && Store.wfFrom d (a + 1) t

/-- The canonical form: rising keys, no entry equal to the default. -/
def Store.wf {α : Type} [DecidableEq α] (d : α) (m : Store α) : Bool := Store.wfFrom d 0 m

/-- The map without key `k`. -/
def Store.erase {α : Type} : Store α → Nat → Store α
  | [], _ => []
  | (a, x) :: t, k => if a = k then Store.erase t k else (a, x) :: Store.erase t k

/-- The map with an entry before the first larger key. -/
def Store.insert {α : Type} (k : Nat) (v : α) : Store α → Store α
  | [] => [(k, v)]
  | (a, x) :: t => if k < a then (k, v) :: (a, x) :: t else (a, x) :: Store.insert k v t

/-- The map with the value at `k` replaced; storing the default removes the entry. -/
def Store.set {α : Type} [DecidableEq α] (d : α) (m : Store α) (k : Nat) (v : α) : Store α :=
  if v = d then Store.erase m k else Store.insert k v (Store.erase m k)

/-- The keys the map lists. -/
def Store.keys {α : Type} (m : Store α) : List Nat := m.map Prod.fst

/-- The map restricted to the keys for which `p` holds. -/
def Store.keep {α : Type} (p : Nat → Bool) (m : Store α) : Store α := m.filter fun e => p e.1

/-- The canonical form of memory (log entry 4). -/
def Memory.wf (m : List Host.Cell) : Bool := Store.wf (0 : Byte) m

/-! ### Little-endian bytes (R3) -/

/-- The number that bytes hold, lowest address first. -/
def leNat : List Byte → Nat
  | [] => 0
  | b :: t => b.toNat + 256 * leNat t

/-- The `n` low bytes of a number, lowest first. -/
def leBytes : Nat → Nat → List Byte
  | 0, _ => []
  | n + 1, v => BitVec.ofNat 8 v :: leBytes n (v / 256)

/-- Bits [lo + len - 1 : lo] of a number. -/
def bits (v lo len : Nat) : Nat := v / 2 ^ lo % 2 ^ len

end Sys2Proof.Machine
end

