-- ==== Sys2Proof/Machine/Access.lean ====
section
/-! DEFINITION. The parts of the package by name: crews, threads, cores, partitions, arenas, handles, queues and tasks,
each read and replaced in one place, and the key each is filed under. -/

namespace Sys2Proof.Machine

/-- Memory key of a virtual address of a logical device (R21, R89). -/
def memKey (ldev va : Nat) : Nat := ldev * 2 ^ 48 + va % 2 ^ 48

/-- Logical device, and so home die (R11, R92), of a memory key. -/
def keyLdev (k : Nat) : Nat := k / 2 ^ 48

/-- Die of a core (R5: the core number has the die in its high part). -/
def coreDie (core : Nat) : Nat := core / 64

def partKey (p : PartRef) : Nat := 8 * p.ldev + p.part
def arenaKey (a : ArenaRef) : Nat := 4096 * (8 * a.ldev + a.part) + a.idx
def handleKey (p : PartRef) (i : Nat) : Nat := 2 ^ 20 * partKey p + i
def queueKey (ldev q : Nat) : Nat := 4096 * ldev + q
def taskKey (ldev t : Nat) : Nat := 2 ^ 32 * ldev + t

def State.crew (s : State) (uid : Nat) : Crew := Store.get {} s.crews uid
def State.setCrew (s : State) (uid : Nat) (c : Crew) : State := { s with crews := Store.set {} s.crews uid c }
def State.modCrew (s : State) (uid : Nat) (f : Crew → Crew) : State := s.setCrew uid (f (s.crew uid))

def Crew.thread (c : Crew) (tid : Nat) : Thread := Store.get {} c.threads tid
def Crew.setThread (c : Crew) (tid : Nat) (t : Thread) : Crew := { c with threads := Store.set {} c.threads tid t }
def Crew.modThread (c : Crew) (tid : Nat) (f : Thread → Thread) : Crew := c.setThread tid (f (c.thread tid))

def State.thread (s : State) (uid tid : Nat) : Thread := (s.crew uid).thread tid
def State.modThread (s : State) (uid tid : Nat) (f : Thread → Thread) : State := s.modCrew uid (Crew.modThread · tid f)

def Thread.modArch (t : Thread) (f : Arch → Arch) : Thread := { t with arch := f t.arch }
def State.arch (s : State) (uid tid : Nat) : Arch := (s.thread uid tid).arch
def State.modArch (s : State) (uid tid : Nat) (f : Arch → Arch) : State := s.modThread uid tid (Thread.modArch · f)

def Arch.slot (a : Arch) (b : Bool) : Slot := if b then a.b else a.a
def Arch.setSlot (a : Arch) (b : Bool) (x : Slot) : Arch := if b then { a with b := x } else { a with a := x }
def Arch.modSlot (a : Arch) (b : Bool) (f : Slot → Slot) : Arch := a.setSlot b (f (a.slot b))
def State.slot (s : State) (p : PairRef) : Slot := (s.arch p.uid p.tid).slot p.slotB
def State.modSlot (s : State) (p : PairRef) (f : Slot → Slot) : State := s.modArch p.uid p.tid (Arch.modSlot · p.slotB f)

/-- Change a thread's state in every place a replay could return it to: a wake-up is not undone by a replay. -/
def Thread.mapArch (t : Thread) (f : Arch → Arch) : Thread :=
  { t with arch := f t.arch, window := t.window.map fun w => { w with before := f w.before } }

def State.core (s : State) (n : Nat) : Core := Store.get {} s.cores n
def State.modCore (s : State) (n : Nat) (f : Core → Core) : State :=
  { s with cores := Store.set {} s.cores n (f (s.core n)) }

def State.part (s : State) (p : PartRef) : Part := Store.get {} s.parts (partKey p)
def State.modPart (s : State) (p : PartRef) (f : Part → Part) : State :=
  { s with parts := Store.set {} s.parts (partKey p) (f (s.part p)) }

/-- A partition exists when it holds a region (R377). -/
def Part.live (p : Part) : Bool := p.regions != 0

def State.arena (s : State) (a : ArenaRef) : Arena := Store.get {} s.arenas (arenaKey a)
def State.modArena (s : State) (a : ArenaRef) (f : Arena → Arena) : State :=
  { s with arenas := Store.set {} s.arenas (arenaKey a) (f (s.arena a)) }

def State.handle (s : State) (p : PartRef) (i : Nat) : HEntry := Store.get {} s.handles (handleKey p i)
def State.setHandle (s : State) (p : PartRef) (i : Nat) (e : HEntry) : State :=
  { s with handles := Store.set {} s.handles (handleKey p i) e }

def State.queue (s : State) (ldev q : Nat) : Queue := Store.get {} s.queues (queueKey ldev q)
def State.modQueue (s : State) (ldev q : Nat) (f : Queue → Queue) : State :=
  { s with queues := Store.set {} s.queues (queueKey ldev q) (f (s.queue ldev q)) }

def State.task (s : State) (ldev t : Nat) : Task := Store.get {} s.tasks (taskKey ldev t)
def State.modTask (s : State) (ldev t : Nat) (f : Task → Task) : State :=
  { s with tasks := Store.set {} s.tasks (taskKey ldev t) (f (s.task ldev t)) }

/-- The partition of a crew. -/
def Crew.pref (c : Crew) : PartRef := ⟨c.ldev, c.part⟩

/-- The task and launch header of a crew (R29). -/
def State.taskOf (s : State) (c : Crew) : Task := s.task c.ldev c.task
def State.hdrOf (s : State) (c : Crew) : Hdr := (s.taskOf c).hdr

/-- The die a crew runs on. -/
def Crew.die (c : Crew) : Nat := coreDie c.core

/-- Threads by tid (R414): the lead is 63, handler slot n is 32 + n. -/
def leadTid : Nat := 63
def isLead (tid : Nat) : Bool := tid == 63
def isHandler (tid : Nat) : Bool := 32 ≤ tid && tid < 63

/-- The next free value of the machine, and the state after its use (log entry 3). -/
def State.free (s : State) : Nat × State := (Config.freeNat s.freeCtr, { s with freeCtr := s.freeCtr + 1 })
def State.freeD (s : State) : DWord × State := (Config.freeDWord s.freeCtr, { s with freeCtr := s.freeCtr + 1 })

/-- Choose an element of a list by a free value; `d` for the empty list. One candidate takes no free value. -/
def State.choose {α : Type} (s : State) (d : α) (l : List α) : α × State :=
  match l with
  | [] => (d, s)
  | [x] => (x, s)
  | _ => (l.getD (Config.freeNat s.freeCtr % l.length) d, { s with freeCtr := s.freeCtr + 1 })

/-- The engine context of a crew (R15). -/
def Crew.ctx (c : Crew) : Ctx → EngCtx
  | .copy => c.cpy
  | .matrix => c.mtx
  | .arena => c.arn
  | .message => c.msg

def Crew.modCtx (c : Crew) (x : Ctx) (f : EngCtx → EngCtx) : Crew :=
  match x with
  | .copy => { c with cpy := f c.cpy }
  | .matrix => { c with mtx := f c.mtx }
  | .arena => { c with arn := f c.arn }
  | .message => { c with msg := f c.msg }

def State.op? (s : State) (o : OpRef) : Option Op := ((s.crew o.uid).ctx o.ctx).ops.find? fun x => x.num == o.num

def State.modOp (s : State) (o : OpRef) (f : Op → Op) : State :=
  s.modCrew o.uid fun c => c.modCtx o.ctx fun x =>
    { x with ops := x.ops.map fun y => if y.num == o.num then f y else y }

/-- Crews the package holds, by uid. -/
def State.crewUids (s : State) : List Nat := s.crews.keys

/-- The crew of a task by index, among those not retired. -/
def State.crewOf (s : State) (ldev task idx : Nat) : Option Nat :=
  (s.crews.find? fun e => e.2.ldev == ldev && e.2.task == task && e.2.idx == idx && e.2.st != .retired).map Prod.fst

/-- Let `n` cycles of the 1.8 GHz clock pass (R12): 5 ns for every 9 cycles, rounded up. -/
def State.pass (s : State) (n : Nat) : State :=
  { s with cycles := s.cycles + n, now := s.now + (5 * n + 8) / 9 }

/-! ### Trees and readiness counts (R320, R332) -/

/-- A stitched tree of a partition by id. -/
def Part.tree (p : Part) (id : Nat) : Option Config.Tree := Store.get none p.trees id

/-- The node of a core on a tree. -/
def treeNode (t : Config.Tree) (core : Nat) : Option Config.TreeNode :=
  (t.nodes.find? fun e => e.1 == core).map Prod.snd

/-- L + Σ c[p]. -/
def Node.total (n : Node) : Nat := n.c.foldl (fun m e => m + e.2) n.l

/-- Change a node's counts for a group; a new total is on its way to the parent, if the node has one (R332). -/
def Part.modNode (p : Part) (gid core : Nat) (f : Node → Node) : Part :=
  let g := Store.get {} p.groups gid
  let n := Store.get {} g.nodes core
  let m := f n
  let hasParent := match (p.tree g.tree).bind fun t => treeNode t core with
    | some x => x.parent.isSome
    | none => false
  let m := if hasParent && m.total != n.total then { m with sent := m.sent ++ [m.total] } else m
  { p with groups := Store.set {} p.groups gid { g with nodes := Store.set {} g.nodes core m } }

/-! ### Fields of a handle entry (R84) -/

def HEntry.base (e : HEntry) : Nat := bits e.d0.toNat 0 48
def HEntry.size (e : HEntry) : Nat := bits e.d1.toNat 0 48
def HEntry.gen (e : HEntry) : Nat := bits e.d2.toNat 44 20
def HEntry.arena (e : HEntry) : Nat := bits e.d2.toNat 32 12
def HEntry.valid (e : HEntry) : Bool := e.d2.getLsbD 31
def HEntry.space (e : HEntry) : Nat := bits e.d2.toNat 28 3
def HEntry.policy (e : HEntry) : Nat := bits e.d2.toNat 26 2
def HEntry.r (e : HEntry) : Bool := e.d2.getLsbD 25
def HEntry.w (e : HEntry) : Bool := e.d2.getLsbD 24
def HEntry.x (e : HEntry) : Bool := e.d2.getLsbD 23
def HEntry.ppart (e : HEntry) : Nat := bits e.d2.toNat 18 3
def HEntry.pdev (e : HEntry) : Nat := bits e.d2.toNat 16 2
def HEntry.peerh (e : HEntry) : Nat := bits e.d3.toNat 0 32

/-- Write an entry from its fields (R84). -/
def HEntry.make (base size gen arena space policy : Nat) (r w x : Bool) (ppart pdev peerh : Nat) : HEntry where
  d0 := BitVec.ofNat 64 base
  d1 := BitVec.ofNat 64 size
  d2 := BitVec.ofNat 64 (gen * 2 ^ 44 + arena * 2 ^ 32 + 2 ^ 31 + space * 2 ^ 28 + policy * 2 ^ 26 +
    (if r then 2 ^ 25 else 0) + (if w then 2 ^ 24 else 0) + (if x then 2 ^ 23 else 0) + ppart * 2 ^ 18 + pdev * 2 ^ 16)
  d3 := BitVec.ofNat 64 peerh

/-- The entry with VALID clear. -/
def HEntry.invalidate (e : HEntry) : HEntry := { e with d2 := e.d2 &&& ~~~(0x80000000 : DWord) }

/-- The arena an entry of partition `p` names: for PEER, one of partition PPART on PDEV (R85). -/
def HEntry.arenaRef (e : HEntry) (p : PartRef) : ArenaRef :=
  if e.space == 4 then ⟨e.pdev, e.ppart, e.arena⟩ else ⟨p.ldev, p.part, e.arena⟩

/-- An arena name dword (R299). -/
def nameIdx (d : DWord) : Nat := bits d.toNat 0 12
def nameGen (d : DWord) : Nat := bits d.toNat 12 20
def makeName (idx gen : Nat) : Nat := gen * 4096 + idx

/-- An address dword (R233, R362): handle index and byte offset. -/
def addrH (d : DWord) : Nat := bits d.toNat 32 32
def addrOff (d : DWord) : Nat := bits d.toNat 0 32

end Sys2Proof.Machine
end

