-- ==== Sys2Proof/Machine/Float.lean ====
section
/-! DEFINITION. The floating-point formats and the arithmetic of 08 (R160 to R177): exact values with one rounding. A
magnitude that no finite numeral holds exactly is a pair (m, sticky): it lies strictly between m and m + 1 units. -/

namespace Sys2Proof.Machine

/-- A floating-point format (R160): exponent bits, fraction bits, bias, and whether it is an F8 format. -/
structure FFmt where
  eb : Nat
  fb : Nat
  bias : Nat
  f8 : Bool
deriving DecidableEq, Repr

def fmtF32 : FFmt := ⟨8, 23, 127, false⟩
def fmtF16 : FFmt := ⟨5, 10, 15, false⟩
def fmtB16 : FFmt := ⟨8, 7, 127, false⟩
def fmtE4 : FFmt := ⟨4, 3, 8, true⟩
def fmtE5 : FFmt := ⟨5, 2, 16, true⟩

/-- Width of a format in bits. -/
def FFmt.width (f : FFmt) : Nat := 1 + f.eb + f.fb

/-- A value: NaN, an infinity, or (−1)^neg × m × 2^e. -/
inductive FVal where
  | nan
  | inf (neg : Bool)
  | fin (neg : Bool) (m : Nat) (e : Int)
deriving DecidableEq, Repr

/-- The canonical NaN of a format (R162). -/
def FFmt.canonNan (f : FFmt) : Nat :=
  if f.f8 then 0x80 else (2 ^ f.eb - 1) * 2 ^ f.fb + 2 ^ (f.fb - 1)

/-- Sign, exponent and fraction of a code (R160). -/
def FFmt.sign (f : FFmt) (x : Nat) : Bool := x / 2 ^ (f.eb + f.fb) % 2 == 1
def FFmt.expo (f : FFmt) (x : Nat) : Nat := x / 2 ^ f.fb % 2 ^ f.eb
def FFmt.frac (f : FFmt) (x : Nat) : Nat := x % 2 ^ f.fb

/-- The value of a code (R161). -/
def FFmt.decode (f : FFmt) (x : Nat) : FVal :=
  let s := f.sign x
  let e := f.expo x
  let m := f.frac x
  if f.f8 && x % 256 == 0x80 then .nan
  else if !f.f8 && e == 2 ^ f.eb - 1 then (if m == 0 then .inf s else .nan)
  else if e == 0 then .fin s m (1 - (f.bias : Int) - f.fb)
  else .fin s (2 ^ f.fb + m) ((e : Int) - f.bias - f.fb)

/-- The code of a zero: F8 formats have one zero (R161). -/
def FFmt.zero (f : FFmt) (neg : Bool) : Nat := if neg && !f.f8 then 2 ^ (f.eb + f.fb) else 0

/-- The code with a sign, from exponent and fraction fields. -/
def FFmt.pack (f : FFmt) (neg : Bool) (e m : Nat) : Nat :=
  (if neg then 2 ^ (f.eb + f.fb) else 0) + e * 2 ^ f.fb + m

/-- The code of an infinity. -/
def FFmt.infinity (f : FFmt) (neg : Bool) : Nat := f.pack neg (2 ^ f.eb - 1) 0

/-- The code of the largest finite magnitude (R160). -/
def FFmt.largest (f : FFmt) (neg : Bool) : Nat :=
  if f.f8 then f.pack neg (2 ^ f.eb - 1) (2 ^ f.fb - 1) else f.pack neg (2 ^ f.eb - 2) (2 ^ f.fb - 1)

/-- Overflow (R165 step 1, R174). Modes: 0 RNE, 1 RZ, 2 RU, 3 RD. -/
def FFmt.overflow (f : FFmt) (rm : Nat) (f8nan neg : Bool) : Nat :=
  if f.f8 then (if f8nan then 0x80 else f.largest neg)
  else match rm with
    | 0 => f.infinity neg
    | 1 => f.largest neg
    | 2 => if neg then f.largest neg else f.infinity neg
    | _ => if neg then f.infinity neg else f.largest neg

/-- Number of bits of a natural number. -/
def bitLen (n : Nat) : Nat := if n = 0 then 0 else Nat.log2 n + 1

/-- Whether a magnitude M with remainder `rem` of `full` (and something below it where `sticky`) rounds up. -/
def roundsUp (rm : Nat) (neg : Bool) (M rem full : Nat) (sticky : Bool) : Bool :=
  let inexact := rem != 0 || sticky
  match rm with
  | 0 => decide (2 * rem > full) || (decide (2 * rem = full) && (sticky || M % 2 == 1))
  | 1 => false
  | 2 => inexact && !neg
  | _ => inexact && neg

/-- Round (−1)^neg × m × 2^e (plus less than one unit where `sticky`) once to the format (R165, R174). A result of
zero from a nonzero magnitude keeps its sign, except in the F8 formats. -/
def FFmt.round (f : FFmt) (rm : Nat) (f8nan neg : Bool) (m : Nat) (e : Int) (sticky : Bool) : Nat :=
  let rm := if f.f8 then 0 else rm
  let q0 : Int := 1 - (f.bias : Int) - f.fb
  let q : Int := max ((bitLen m : Int) - 1 + e - f.fb) q0
  let up := (q - e).toNat
  let down := (e - q).toNat
  let M := m * 2 ^ down / 2 ^ up
  let rem := m * 2 ^ down % 2 ^ up
  let M1 := if roundsUp rm neg M rem (2 ^ up) sticky then M + 1 else M
  if M1 = 0 then f.zero neg
  else if M1 < 2 ^ f.fb then f.pack neg 0 M1
  else
    let M2 := if M1 = 2 ^ (f.fb + 1) then 2 ^ f.fb else M1
    let q2 : Int := if M1 = 2 ^ (f.fb + 1) then q + 1 else q
    let ef := (q2 + f.fb + f.bias).toNat
    let emax := if f.f8 then 2 ^ f.eb - 1 else 2 ^ f.eb - 2
    if ef > emax then f.overflow rm f8nan neg else f.pack neg ef (M2 - 2 ^ f.fb)

/-- The code of a value, rounded. -/
def FFmt.encode (f : FFmt) (rm : Nat) (f8nan : Bool) : FVal → Nat
  | .nan => f.canonNan
  | .inf s => if f.f8 then f.overflow 0 f8nan s else f.infinity s
  | .fin s m e => if m = 0 then f.zero s else f.round rm f8nan s m e false

/-- A code is subnormal. -/
def FFmt.isSub (f : FFmt) (x : Nat) : Bool := f.expo x == 0 && f.frac x != 0

/-- R166: F32 and F16 flush, B16 and F8 never do. -/
def FFmt.flushes (f : FFmt) : Bool := !f.f8 && !(f.eb == 8 && f.fb == 7)

/-- Flush a subnormal code to the zero of its sign when `ftz` is set (R166). -/
def FFmt.flush (f : FFmt) (ftz : Bool) (x : Nat) : Nat :=
  if ftz && f.flushes && f.isSub x then f.zero (f.sign x) else x

/-- Signed multiple of 2^e that a finite value is, for e no greater than its exponent. -/
def scaled (neg : Bool) (m : Nat) (em e : Int) : Int :=
  let v : Int := m * 2 ^ (em - e).toNat
  if neg then -v else v

/-- Product of two values (R165, R169): 0 × ∞ is NaN. -/
def FVal.mul : FVal → FVal → FVal
  | .nan, _ => .nan
  | _, .nan => .nan
  | .inf a, .inf b => .inf (a != b)
  | .inf a, .fin b m _ => if m = 0 then .nan else .inf (a != b)
  | .fin a m _, .inf b => if m = 0 then .nan else .inf (a != b)
  | .fin a m e, .fin b n k => .fin (a != b) (m * n) (e + k)

def FVal.neg : FVal → FVal
  | .nan => .nan
  | .inf s => .inf (!s)
  | .fin s m e => .fin (!s) m e

def FVal.isNan : FVal → Bool
  | .nan => true
  | _ => false

def FVal.isInf (s : Bool) : FVal → Bool
  | .inf t => t == s
  | _ => false

/-- The value is a zero of negative sign. -/
def FVal.negZero : FVal → Bool
  | .fin s m _ => s && m == 0
  | _ => false

def FVal.negative : FVal → Bool
  | .fin s _ _ => s
  | .inf s => s
  | .nan => false

/-- The least exponent among finite values. -/
def minExp : List FVal → Int → Int
  | [], e => e
  | .fin _ _ k :: t, e => minExp t (min k e)
  | _ :: t, e => minExp t e

/-- The exact sum of finite values, in units of 2^e. -/
def sumAt (e : Int) : List FVal → Int
  | [] => 0
  | .fin s m k :: t => scaled s m k e + sumAt e t
  | _ :: t => sumAt e t

/-- EXACT_SUM (R169): NaN and infinity rules, then the exact sum; an exact zero has the sign of R165 step 4 under the
rounding mode. -/
def exactSum (rm : Nat) (ts : List FVal) : FVal :=
  if ts.any FVal.isNan then .nan
  else
    let p := ts.any (FVal.isInf false)
    let n := ts.any (FVal.isInf true)
    if p && n then .nan
    else if p then .inf false
    else if n then .inf true
    else
      let e := minExp ts 0
      let v := sumAt e ts
      if v = 0 then
        .fin (ts.all FVal.negZero || (rm == 3 && ts.any FVal.negative && ts.any (fun t => !t.negative))) 0 0
      else .fin (decide (v < 0)) v.natAbs e

/-- Compare two values that are not NaN: less, equal. -/
def FVal.lt : FVal → FVal → Bool
  | .nan, _ => false
  | _, .nan => false
  | .inf a, .inf b => a && !b
  | .inf a, .fin _ _ _ => a
  | .fin _ _ _, .inf b => !b
  | .fin a m e, .fin b n k =>
    let q := min e k
    decide (scaled a m e q < scaled b n k q)

def FVal.eq : FVal → FVal → Bool
  | .nan, _ => false
  | _, .nan => false
  | .inf a, .inf b => a == b
  | .inf _, .fin _ _ _ => false
  | .fin _ _ _, .inf _ => false
  | .fin a m e, .fin b n k =>
    let q := min e k
    decide (scaled a m e q = scaled b n k q)

/-! ### Roots, reciprocals, 2^x and log2 x (R167, R168) -/

/-- Bit-by-bit integer square root. -/
def isqrtFrom : Nat → Nat → Nat → Nat
  | 0, _, r => r
  | k + 1, n, r =>
    let t := r + 2 ^ k
    isqrtFrom k n (if t * t ≤ n then t else r)

def isqrt (n : Nat) : Nat := isqrtFrom (bitLen n / 2 + 1) n 0

/-- √x, as magnitude, exponent and sticky, of m × 2^e with m > 0. -/
def sqrtMag (m : Nat) (e : Int) : Nat × Int × Bool :=
  let par := (e % 2).toNat
  let n := m * 2 ^ (par + 128)
  let r := isqrt n
  (r, (e - par - 128) / 2, r * r != n)

/-- 1/x of m × 2^e. -/
def rcpMag (m : Nat) (e : Int) : Nat × Int × Bool :=
  let n := 2 ^ (bitLen m + 128)
  (n / m, -e - (bitLen m + 128 : Nat), n % m != 0)

/-- 1/√x of m × 2^e. -/
def rsqrtMag (m : Nat) (e : Int) : Nat × Int × Bool :=
  let par := (e % 2).toNat
  let m2 := m * 2 ^ par
  let e2 := e - par
  let k := bitLen m2 + 128
  let r := isqrt (2 ^ (2 * k) / m2)
  (r, -(k : Int) - e2 / 2, r * r * m2 != 2 ^ (2 * k))

/-- Working precision, in fraction bits, of 2^x and log2 x (log entry 9). -/
def workBits : Nat := 512

/-- The product of the 2^(2^-i) for the fraction bits of x, most significant first. `root` is 2^(2^-(i-1)). -/
def exp2Frac : Nat → Nat → Nat → Nat → Nat
  | 0, _, _, acc => acc
  | k + 1, fr, root, acc =>
    let r := isqrt (root * 2 ^ workBits)
    let acc' := if fr / 2 ^ k % 2 = 1 then acc * r / 2 ^ workBits else acc
    if fr % 2 ^ k = 0 then acc' else exp2Frac k (fr % 2 ^ k) r acc'

/-- 2^x for a finite x, as magnitude, exponent and sticky. -/
def exp2Mag (neg : Bool) (m : Nat) (e : Int) : Nat × Int × Bool :=
  if m = 0 then (1, 0, false)
  else if (bitLen m : Int) + e > 20 then (1, if neg then -2097152 else 2097152, true)
  else
    let k := (-e).toNat
    let v : Int := scaled neg m (max e 0) 0
    let n : Int := v / 2 ^ k
    let fr := (v % 2 ^ k).toNat
    if fr = 0 then (1, n, false)
    else
      let a := exp2Frac k fr (2 ^ (workBits + 1)) (2 ^ workBits)
      (a / 2 ^ (workBits - 256), n - 256, true)

/-- `k` fraction bits of log2 of y / 2^workBits, for y in [1, 2). -/
def log2Frac : Nat → Nat → Nat → Nat
  | 0, _, acc => acc
  | k + 1, y, acc =>
    let y2 := y * y / 2 ^ workBits
    if y2 ≥ 2 ^ (workBits + 1) then log2Frac k (y2 / 2) (2 * acc + 1) else log2Frac k y2 (2 * acc)

/-- log2 of m × 2^e with m > 0: sign, magnitude, exponent, sticky. -/
def log2Mag (m : Nat) (e : Int) : Bool × Nat × Int × Bool :=
  let l := bitLen m - 1
  let E : Int := e + l
  if m = 2 ^ l then (decide (E < 0), E.natAbs, 0, false)
  else
    let y := m * 2 ^ workBits / 2 ^ l
    let t : Int := E * 2 ^ 200 + log2Frac 200 y 0
    if 0 ≤ t then (false, t.toNat, -200, true) else (true, (-t - 1).toNat, -200, true)

/-- The five functions of R168: 0 rcp, 1 rsqrt, 2 sqrt, 3 exp2, 4 log2. Rounding is RNE. -/
def FFmt.func (f : FFmt) (which : Nat) (x : FVal) : Nat :=
  let fin (s : Bool) (r : Nat × Int × Bool) : Nat := f.round 0 false s r.1 r.2.1 r.2.2
  match which, x with
  | _, .nan => f.canonNan
  | 0, .inf s => f.zero s
  | 0, .fin s m e => if m = 0 then f.infinity s else fin s (rcpMag m e)
  | 1, .inf s => if s then f.canonNan else f.zero false
  | 1, .fin s m e => if m = 0 then f.infinity s else if s then f.canonNan else fin false (rsqrtMag m e)
  | 2, .inf s => if s then f.canonNan else f.infinity false
  | 2, .fin s m e => if m = 0 then f.zero s else if s then f.canonNan else fin false (sqrtMag m e)
  | 3, .inf s => if s then f.zero false else f.infinity false
  | 3, .fin s m e => fin false (exp2Mag s m e)
  | _, .inf s => if s then f.canonNan else f.infinity false
  | _, .fin s m e =>
    if m = 0 then f.infinity true
    else if s then f.canonNan
    else
      let r := log2Mag m e
      if r.2.1 = 0 then f.zero false else fin r.1 r.2

/-- Round a finite value to an integer in a mode: the magnitude of the integer. -/
def toIntegral (rm : Nat) (neg : Bool) (m : Nat) (e : Int) : Nat :=
  let up := (-e).toNat
  let v := m * 2 ^ e.toNat
  let M := v / 2 ^ up
  if roundsUp rm neg M (v % 2 ^ up) (2 ^ up) false then M + 1 else M

/-- Float to integer (R174): round, then saturate to [lo, hi]; a NaN gives 0. -/
def toInt (rm : Nat) (lo hi : Int) : FVal → Int
  | .nan => 0
  | .inf s => if s then lo else hi
  | .fin s m e =>
    let n : Int := toIntegral rm s m e
    max lo (min hi (if s then -n else n))

/-- `vround` (R205): the integral value in the same format. A result of zero keeps its sign. -/
def FFmt.roundIntegral (f : FFmt) (rm : Nat) (x : Nat) : Nat :=
  match f.decode x with
  | .nan => f.canonNan
  | .inf _ => x
  | .fin s m e => if m = 0 || 0 ≤ e then x else f.encode 1 false (.fin s (toIntegral rm s m e) 0)

/-- Rounding modes and flags that a float word reads from FMT (R113). -/
structure FEnv where
  rm : Nat
  ftz : Bool
  f8nan : Bool
deriving DecidableEq, Repr

/-- Read a code under FTZ. -/
def FFmt.read (f : FFmt) (v : FEnv) (x : Nat) : FVal := f.decode (f.flush v.ftz x)

/-- Write a value rounded in the environment's mode, with FTZ on the result. -/
def FFmt.write (f : FFmt) (v : FEnv) (x : FVal) : Nat := f.flush v.ftz (f.encode v.rm v.f8nan x)

def FFmt.add (f : FFmt) (v : FEnv) (x y : Nat) : Nat := f.write v (exactSum v.rm [f.read v x, f.read v y])
def FFmt.sub (f : FFmt) (v : FEnv) (x y : Nat) : Nat := f.write v (exactSum v.rm [f.read v x, (f.read v y).neg])
def FFmt.mul (f : FFmt) (v : FEnv) (x y : Nat) : Nat := f.write v ((f.read v x).mul (f.read v y))
def FFmt.fma (f : FFmt) (v : FEnv) (x y z : Nat) : Nat :=
  f.write v (exactSum v.rm [(f.read v x).mul (f.read v y), f.read v z])

/-- `vfmin` (least) and `vfmax` (R202): one of the operands, −0 below +0; one NaN gives the other operand. -/
def FFmt.minmax (f : FFmt) (ftz least : Bool) (x0 y0 : Nat) : Nat :=
  let x := f.flush ftz x0
  let y := f.flush ftz y0
  let a := f.decode x
  let b := f.decode y
  if a.isNan && b.isNan then f.canonNan
  else if a.isNan then y
  else if b.isNan then x
  else
    let xless := a.lt b || (a.eq b && f.sign x && !f.sign y)
    if xless == least then x else y

/-- The class mask of `vfclass` (R204). -/
def FFmt.classify (f : FFmt) (x : Nat) : Nat :=
  match f.decode x with
  | .nan => 256
  | .inf s => if s then 1 else 128
  | .fin s m _ =>
    if m = 0 then (if s then 8 else 16)
    else if f.isSub x then (if s then 4 else 32)
    else (if s then 2 else 64)

/-- RNE with nothing flushed: the scalar unit, the matrix engine and the atomics (R154, R166). -/
def envExact : FEnv := ⟨0, false, false⟩

/-- One group of a fixed-order dot product: round the exact sum of acc and the terms to F32 (R169). -/
def dotGroup (acc : Nat) (ts : List FVal) : Nat :=
  fmtF32.encode 0 false (exactSum 0 (fmtF32.decode acc :: ts))

/-- Split a list into groups of sixteen (R169), at most `fuel` of them. -/
def groups16 : Nat → List α → List (List α)
  | 0, _ => []
  | _ + 1, [] => []
  | k + 1, t => t.take 16 :: groups16 k (t.drop 16)

/-- The fixed-order float dot product (R169): `ts` holds the terms of each k. -/
def dotF (c : Nat) (ts : List (List FVal)) : Nat :=
  (groups16 ts.length ts).foldl (fun acc g => dotGroup acc g.flatten) c

/-- Clamp to I32 and say whether the clamp changed the value (R170). -/
def clampI32 (v : Int) : Int × Bool :=
  let w := max (-2147483648) (min 2147483647 v)
  (w, decide (w ≠ v))

/-- The fixed-order integer dot product (R170). -/
def dotI (c : Int) (ts : List (List Int)) : Int × Bool :=
  (groups16 ts.length ts).foldl (fun a g =>
    let r := clampI32 (a.1 + g.flatten.foldl (· + ·) 0)
    (r.1, a.2 || r.2)) (c, false)

end Sys2Proof.Machine
end

