-- ==== Sys2Proof/Machine/Flags.lean ====
section
/-! DEFINITION. The machine keeps no arithmetic flags (R163); what other machines do with flags it does with
conditions: those of CC words on 64-bit values, those of vector compares, and the integer element operations. -/

namespace Sys2Proof.Machine

/-- COND of the CC column of R75 on 64-bit values; codes 6 and 7 are reserved and never reach it. -/
def condCC (c : Nat) (x y : DWord) : Bool :=
  match c with
  | 0 => x == y
  | 1 => x != y
  | 2 => x.slt y
  | 3 => y.sle x
  | 4 => x.ult y
  | _ => y.ule x

/-- COND of the VP column of R75 on I32 (signed) or U32 words. -/
def condVP (c : Nat) (signed : Bool) (x y : Word) : Bool :=
  let lt (a b : Word) : Bool := if signed then a.slt b else a.ult b
  match c with
  | 0 => x == y
  | 1 => x != y
  | 2 => lt x y
  | 3 => !lt y x
  | 4 => lt y x
  | _ => !lt x y

/-- COND of the VP column on float values (R200): a NaN makes every condition false but ne and un. -/
def condVF (c : Nat) (a b : FVal) : Bool :=
  let un := a.isNan || b.isNan
  match c with
  | 0 => a.eq b
  | 1 => !a.eq b
  | 2 => a.lt b
  | 3 => !un && !b.lt a
  | 4 => b.lt a
  | 5 => !un && !a.lt b
  | 6 => un
  | _ => !un

/-! ### Integer elements (R164, R186) -/

/-- Width and signedness of an integer type code (R72). -/
def tyWidth (ty : Nat) : Nat := if ty < 2 then 32 else if ty < 4 then 16 else 8
def tySigned (ty : Nat) : Bool := ty % 2 == 0

/-- Element `i` of width `w`, read as signed or unsigned. -/
def elem (w : Nat) (signed : Bool) (x : Word) (i : Nat) : Int :=
  let v := bits' x.toNat (w * i) w
  if signed && v ≥ 2 ^ (w - 1) then (v : Int) - 2 ^ w else v
where
  /-- Bits [lo + len - 1 : lo]. -/
  bits' (v lo len : Nat) : Nat := v / 2 ^ lo % 2 ^ len

/-- The low `w` bits of an integer. -/
def wrapTo (w : Nat) (v : Int) : Nat := (v % (2 ^ w : Int)).toNat

/-- A lane from its elements, element 0 least significant. -/
def packElems (w : Nat) : List Nat → Nat
  | [] => 0
  | x :: t => x % 2 ^ w + 2 ^ w * packElems w t

/-- Apply an element operation on x, y and the old z of each element (R186). -/
def laneOp (ty : Nat) (op : Int → Int → Int → Int) (x y z : Word) : Word :=
  let w := tyWidth ty
  let g := tySigned ty
  BitVec.ofNat 32 (packElems w ((List.range (32 / w)).map fun i =>
    wrapTo w (op (elem w g x i) (elem w g y i) (elem w g z i))))

/-- The range of an element type. -/
def tyMin (ty : Nat) : Int := if tySigned ty then -(2 ^ (tyWidth ty - 1)) else 0
def tyMax (ty : Nat) : Int := if tySigned ty then 2 ^ (tyWidth ty - 1) - 1 else 2 ^ tyWidth ty - 1

def clampTo (ty : Nat) (v : Int) : Int := max (tyMin ty) (min (tyMax ty) v)

/-- Shift amount: the element's unsigned bits mod the width (R186). -/
def shAmt (ty : Nat) (y : Int) : Nat := wrapTo (tyWidth ty) y % tyWidth ty

/-- Arithmetic shift right of an integer. -/
def asr (x : Int) (k : Nat) : Int := x / 2 ^ k

/-- Rotate a `w`-bit element left. -/
def rotl (w : Nat) (x k : Nat) : Nat := (x * 2 ^ k + x / 2 ^ (w - k)) % 2 ^ w

/-- Number of set bits below `n`. -/
def popTo : Nat → Nat → Nat
  | 0, _ => 0
  | n + 1, v => v % 2 + popTo n (v / 2)

/-- Leading zeros in `n` bits. -/
def clzTo (n v : Nat) : Nat := n - bitLen (v % 2 ^ n)

/-- Reverse the low `n` bits. -/
def brevTo : Nat → Nat → Nat
  | 0, _ => 0
  | n + 1, v => v % 2 * 2 ^ n + brevTo n (v / 2)

/-- Index of the lowest set bit, `n` if none (R158). -/
def lowBit : Nat → Nat → Nat
  | 0, _ => 0
  | n + 1, v => if v % 2 = 1 then 0 else 1 + lowBit n (v / 2)

/-- Sign-extend the low `n` bits to 64. -/
def sext64 (n v : Nat) : DWord :=
  let x := v % 2 ^ n
  BitVec.ofInt 64 (if n ≠ 0 && x ≥ 2 ^ (n - 1) then (x : Int) - 2 ^ n else x)

/-- Sign-extend the low `n` bits to 32. -/
def sext32 (n v : Nat) : Word := (sext64 n v).setWidth 32

/-! ### Integer atomics (R74, R215, R217) -/

/-- Element type of an atomic: the five of R214, then the 64-bit word of `satom`. -/
def atI32 : Nat := 0
def atU32 : Nat := 1
def atF32 : Nat := 2
def atF16 : Nat := 3
def atB16 : Nat := 4
def atI64 : Nat := 5

/-- A float operation on the whole word or on each half. -/
def halves (f : Nat → Nat → Nat) (x y : Nat) : Nat :=
  f (x % 65536) (y % 65536) + 65536 * f (x / 65536) (y / 65536)

/-- OP of R215 and R217: the new value, or none where a cas fails and writes nothing. -/
def atomOp (ty k old y cmp : Nat) : Option Nat :=
  let w := if ty == atI64 then 64 else 32
  let sg (v : Nat) : Int := if ty == atU32 then v else if v ≥ 2 ^ (w - 1) then (v : Int) - 2 ^ w else v
  let flt (f : FFmt → Nat → Nat → Nat) : Nat :=
    if ty == atF32 then f fmtF32 old y
    else if ty == atF16 then halves (f fmtF16) old y
    else halves (f fmtB16) old y
  let isF := ty == atF32 || ty == atF16 || ty == atB16
  match k with
  | 0 => some (if isF then flt (fun f a b => f.add envExact a b) else (old + y) % 2 ^ w)
  | 1 => some (if isF then flt (fun f a b => f.minmax false true a b) else if sg old ≤ sg y then old else y)
  | 2 => some (if isF then flt (fun f a b => f.minmax false false a b) else if sg y ≤ sg old then old else y)
  | 3 => some (Nat.land old y)
  | 4 => some (Nat.lor old y)
  | 5 => some (Nat.xor old y)
  | 6 => some y
  | _ => if old = cmp then some y else none

end Sys2Proof.Machine
end

