-- ==== Sys2Proof/Machine/Sources.lean ====
section
/-! DEFINITION. The scalar, predicate and handle registers that an instruction word reads: of a poisoned one it is the consumer
(R403). Vector registers are named where a word's lanes are known, and the handle registers that an address dword names where the
command reads it. -/

namespace Sys2Proof.Machine

/-- Numbers of a thread's scalar, predicate and handle registers in one range: s from 0, p from 64, h from 128. -/
def sKey (n : BitVec 6) : Nat := n.toNat
def pKey (n : BitVec 3) : Nat := 64 + n.toNat
def hKey (n : BitVec 3) : Nat := 128 + n.toNat

/-- Predicate fields of an SR word, which R158 reads as predicate numbers. -/
def prKey (n : BitVec 6) : Nat := 64 + n.toNat

/-- The first `n` registers of an S block (R76). -/
def blockKeys (sa : BitVec 6) (n : Nat) : List Nat := (List.range n).map fun k => sKey (sa + BitVec.ofNat 6 k)

/-- The guard of a word; p0 is no register (R108). -/
def guardKeys (gp : BitVec 3) : List Nat := if gp == 0 then [] else [pKey gp]

end Sys2Proof.Machine

namespace Sys2Proof

open Machine

/-- Scalar, predicate and handle registers that a word reads; a step without an encoding reads none. -/
def Instr.reads : Instr → List Nat
  | .vmov f | .vadd f | .vsub f | .vadds f | .vsubs f | .vmul f | .vmulhi f | .vmad f | .vmin f | .vmax f | .vabsd f
  | .vand f | .vor f | .vxor f | .vandn f | .vshl f | .vshr f | .vrot f | .vbfe f | .vbfi f | .vpopc f | .vclz f
  | .vbrev f | .vsel f | .vperm f | .vscan f | .vdot4 f | .vdot2 f | .vfadd f | .vfsub f | .vfmul f | .vfma f
  | .vfmin f | .vfmax f | .vrcp f | .vrsqrt f | .vsqrt f | .vexp2 f | .vlog2 f | .vcvt f | .vfclass f => guardKeys f.gp
  | .vcmp f | .vfcmp f => guardKeys f.gp
  | .vmovs f | .vwrl f => [sKey f.sr]
  | .smov f | .spopc f | .sclz f | .scvt f | .pmovsp f => [sKey f.sa]
  | .sadd f | .ssub f | .smul f | .smulh f | .sdiv f | .srem f | .sand f | .sor f | .sxor f | .sshl f | .sshr f
  | .smin f | .smax f | .scmp f | .sbfe f | .sfadd f | .sfmul f | .sfmt f => [sKey f.sa, sKey f.sb]
  | .sfma f => [sKey f.sa, sKey f.sb, sKey f.sd]
  | .saddi f | .sandi f | .sshli f | .sshri f => [sKey f.sa]
  | .smovh f | .swr f | .tmark f | .pwr f => [sKey f.sd]
  | .pand f | .por f | .pxor f | .pandn f => [prKey f.sa, prKey f.sb]
  | .pmovps f => prKey f.sa :: if f.f7.getLsbD 0 then [prKey f.sa + 1] else []
  | .pcnt f | .pfirst f => [prKey f.sa]
  | .vld f | .vlds f | .vst f => hKey f.h :: guardKeys f.gp
  | .vatomI32 f | .vatomU32 f | .vatomF32 f | .vatomF16x2 f | .vatomB16x2 f | .vatomnI32 f | .vatomnU32 f
  | .vatomnF32 f | .vatomnF16x2 f | .vatomnB16x2 f => [hKey f.h]
  | .satom f => [sKey f.sa, sKey f.sb, hKey f.h] ++ if f.k == 7 then [sKey f.sd] else []
  | .sld f | .slds f | .flsig f => [sKey f.sa, hKey f.h]
  | .sst f | .flwait f => [sKey f.sa, sKey f.sd, hKey f.h]
  | .hsel f => [sKey f.sa]
  | .hinfo f => [hKey f.h]
  | .barinit f | .barexp f | .barrive f | .bwait f => [sKey f.sa, sKey f.sr, hKey 0]
  | .bartest f | .bsync f => [sKey f.sa, hKey 0]
  | .brp f | .bany f | .ball f => guardKeys f.gp
  | .bcnd f | .sloop f => [sKey f.sa, sKey f.sb]
  | .callr f | .jmp f | .dqpush f | .eret f | .respost f => [sKey f.sa]
  | .mshape f => if f.f.getLsbD 0 then blockKeys f.sa 2 else [sKey f.sa, hKey 0]
  | .mloop f | .mloopg f | .mloopn f | .msmx f => hKey 0 :: blockKeys f.sa 4
  | .cpy f | .cpy2d f | .cpymc f | .cpyfill f | .mdrain f | .arseal f | .ardrop f | .colnew f => blockKeys f.sa 4
  | .send f | .asend f | .rdy f | .qpost f => hKey 0 :: blockKeys f.sa 4
  | .recv f | .redpost f => hKey 0 :: blockKeys f.sa 3
  | .tlwait f | .arnew f | .halloc f | .arquota f | .grpnew f | .msgstat f | .dump f | .kiln f => blockKeys f.sa 3
  | .mside f | .mprog f | .cpyrec f | .cprog f | .arinfo f | .redwait f | .colabort f => blockKeys f.sa 2
  | .tlrd f | .unrdy f | .grpdel f => blockKeys f.sa 1
  | _ => []

end Sys2Proof
end

