-- ==== Sys2Proof/Machine/Operands.lean ====
section
/-! DEFINITION. The operands of the word that `cur` names: the issuing pair, its registers and predicates, its lane sets
and its format register (R68, R70, R108, R109, R113, R178). -/

namespace Sys2Proof.Machine

/-- The pair whose word is executed. -/
def State.pair (s : State) : PairRef := ⟨s.cur.uid, s.cur.tid, s.cur.slotB⟩
def State.ccrew (s : State) : Crew := s.crew s.cur.uid
def State.cthr (s : State) : Thread := s.thread s.cur.uid s.cur.tid
def State.carch (s : State) : Arch := s.cthr.arch
def State.cslot (s : State) : Slot := s.carch.slot s.cur.slotB
def State.modCArch (s : State) (f : Arch → Arch) : State := s.modArch s.cur.uid s.cur.tid f
def State.modCSlot (s : State) (f : Slot → Slot) : State := s.modSlot s.pair f
def State.chdr (s : State) : Hdr := s.hdrOf s.ccrew

/-- An s register; l in the lead; the privileged bank in privileged code (R37, R396). -/
def State.rdS (s : State) (n : BitVec 6) : DWord :=
  if s.cslot.priv.isSome then Store.get 0 s.carch.bank n.toNat else Store.get 0 s.carch.s n.toNat

/-- Key of a thread's scalar, predicate or handle register, by its number of `Instr.reads`, in a crew's poison marks; a lane of a
vector register has its REGWIN offset there (R403). -/
def regKey (tid k : Nat) : Nat := 2 ^ 20 + 256 * tid + k

/-- The thread that a poison mark belongs to. -/
def poisonTid (key : Nat) : Nat := if key < 2 ^ 20 then key / 8192 else (key - 2 ^ 20) / 256

/-- A register of the issuing thread is written whole: it holds no poison (R403). -/
def State.cleanReg (s : State) (k : Nat) : State :=
  s.modCrew s.cur.uid fun c => { c with regPoison := Store.set false c.regPoison (regKey s.cur.tid k) false }

def State.wrS (s : State) (n : BitVec 6) (v : DWord) : State :=
  if s.cslot.priv.isSome then s.modCArch fun a => { a with bank := Store.set 0 a.bank n.toNat v }
  else (s.cleanReg (sKey n)).modCArch fun a => { a with s := Store.set 0 a.s n.toNat v }

/-- Register `k` of an S block (R76). -/
def State.blkS (s : State) (sa : BitVec 6) (k : Nat) : DWord := s.rdS (sa + BitVec.ofNat 6 k)

/-- Lane `l` of a v register. -/
def State.rdV (s : State) (n : BitVec 6) (l : Nat) : Word := Store.get 0 s.carch.v (32 * n.toNat + l)

/-- Replace the lanes of A in a v register of an `Arch`. -/
def Arch.putV (a : Arch) (n : Nat) (A : Word) (f : Nat → Word) : Arch :=
  { a with v := (List.range 32).foldl (fun m l => if A.getLsbD l then Store.set 0 m (32 * n + l) (f l) else m) a.v }

/-- Byte offset of a register lane in a crew's REGWIN window (R83). -/
def regOff (tid reg lane : Nat) : Nat := tid * 8192 + reg * 128 + 4 * lane

/-- Write the lanes of A of a v register; a written lane holds no poison (R403). -/
def State.wrV (s : State) (n : BitVec 6) (A : Word) (f : Nat → Word) : State :=
  let hit (k : Nat) : Bool := (List.range 32).any fun l => A.getLsbD l && k == regOff s.cur.tid n.toNat l
  (s.modCrew s.cur.uid fun c => { c with regPoison := Store.keep (fun k => !hit k) c.regPoison }).modCArch
    fun a => a.putV n.toNat A f

/-- A predicate: p0 reads all-ones (R108). -/
def Arch.pred (a : Arch) (n : Nat) : Word := if n = 0 then 0xFFFFFFFF else Store.get 0 a.p n
def State.rdP (s : State) (n : Nat) : Word := s.carch.pred n

/-- Write a whole predicate; a write to p0 is discarded (R108). -/
def State.wrP (s : State) (n : Nat) (v : Word) : State :=
  if n = 0 then s else (s.cleanReg (64 + n)).modCArch fun a => { a with p := Store.set 0 a.p n v }

/-- The lanes of the executing slot. -/
def State.mask (s : State) : Word := s.cslot.mask

/-- G of R70. -/
def State.guard (s : State) (gp : BitVec 3) (gn : BitVec 1) : Word :=
  if gn == 1 then ~~~(s.rdP gp.toNat) else s.rdP gp.toNat

/-- A of R178 for a guarded word. -/
def State.lanes (s : State) (gp : BitVec 3) (gn : BitVec 1) : Word := s.mask &&& s.guard gp gn

/-- A handle register of the issuer. -/
def State.rdH (s : State) (n : Nat) : HReg := Store.get {} s.carch.h n

/-- FMT of the executing slot (R113). -/
def State.fmt (s : State) : Word := s.cslot.fmt
def fmtRM (f : Word) : Nat := bits f.toNat 0 2
def fmtFTZ (f : Word) : Bool := f.getLsbD 2
def fmtF8NAN (f : Word) : Bool := f.getLsbD 3
def fmtA (f : Word) : Nat := bits f.toNat 4 4
def fmtB (f : Word) : Nat := bits f.toNat 8 4
def fmtNIP (f : Word) : Nat := bits f.toNat 12 3
def fmtNIMID (f : Word) : Bool := f.getLsbD 15
def fmtD (f : Word) : Nat := bits f.toNat 16 4
def fmtQ (f : Word) : Nat := bits f.toNat 20 4

/-- What a vector float word reads from FMT (R181). -/
def State.fenv (s : State) : FEnv := ⟨fmtRM s.fmt, fmtFTZ s.fmt, fmtF8NAN s.fmt⟩

/-- Signed immediates (R71). -/
def simm (n : Nat) (v : BitVec n) : Int := v.toInt

/-- Float format of a float type code (R72). -/
def tyFmt (ty : Nat) : FFmt := if ty == 0 then fmtF32 else if ty == 1 then fmtF16 else fmtB16

/-- Apply an operation to the lane (F32) or to each half (packed), on codes. -/
def fLane (ty : Nat) (op : FFmt → Nat → Nat → Nat → Nat) (x y z : Word) : Word :=
  let f := tyFmt ty
  if ty == 0 then BitVec.ofNat 32 (op f x.toNat y.toNat z.toNat)
  else
    let h (v : Word) (i : Nat) : Nat := bits v.toNat (16 * i) 16
    BitVec.ofNat 32 (op f (h x 0) (h y 0) (h z 0) + 65536 * op f (h x 1) (h y 1) (h z 1))

end Sys2Proof.Machine
end

