-- ==== Sys2Proof/Machine/Memory.lean ====
section
/-! DEFINITION. Memory: where an access goes (R82, R210), the checks of R86 to R88, what a load sees (R94, R95), what a
write does at its home (R97, R98, R297, R314), and the journal and tool rings, which are memory the brewhouse writes. -/

namespace Sys2Proof.Machine

/-- 1 for true. -/
def boolNat (b : Bool) : Nat := if b then 1 else 0

/-! ### The journal (R381) -/

/-- KIND values of R382. -/
def jACCEPT : Nat := 1
def jRETIRE : Nat := 2
def jPARTITION : Nat := 3
def jKILL : Nat := 4
def jFENCE : Nat := 5
def jOWNER : Nat := 6
def jCLOCK : Nat := 7
def jLINK : Nat := 8
def jFAULT : Nat := 9
def jQUEUE : Nat := 10
def jMARKER : Nat := 11
def jPOWER : Nat := 12

/-- Write the next journal record. The ring holds 2^20 of them. SOURCE 0 is the task engine. -/
def State.record (s : State) (kind source ldev part : Nat) (data : List DWord) : State :=
  { s with
    journal := (if s.journal.length < Config.journalLen then s.journal else s.journal.drop 1) ++
      [JRec.mk s.head s.now kind source ldev part data]
    head := s.head + 1 }

def State.log (s : State) (kind source ldev part : Nat) (data : List Nat) : State :=
  s.record kind source ldev part (data.map (BitVec.ofNat 64))

/-- SOURCE code of a master (R381). -/
def masterCode : Master → Nat
  | .os => 1
  | .mgmt => 2
  | .remote => 3

/-! ### What a crew holds (R32, R33) -/

/-- The parts of R32, in bytes. -/
def Hdr.regBytes (h : Hdr) : Nat := h.vregs * (h.groups + h.hslots) * 128
def Hdr.scratchBytes (h : Hdr) : Nat := (h.scratch + 128 * h.hslots + 1023) / 1024 * 1024
def Hdr.storeBytes (h : Hdr) : Nat := h.regBytes + h.scratchBytes + h.tiles * 65536

/-- Private memory and control stacks of one block. -/
def Hdr.ownBytes (h : Hdr) : Nat := h.groups * h.privw * 128 + (h.groups + h.hslots) * h.cstk

/-- Bytes of one block: private memory, control stacks, save area, in that order (log entry 67). -/
def Hdr.blockBytes (h : Hdr) : Nat := h.ownBytes + h.storeBytes + 65536

/-- The groups of a crew and its handler slots, and with the lead. -/
def Hdr.tids (h : Hdr) : List Nat := List.range h.groups ++ (List.range h.hslots).map fun n => 32 + n

/-- First address of the block of a crew, and the bytes of its private memory and control stacks. -/
def State.blockOf (s : State) (c : Crew) : Nat × Nat :=
  let t := s.taskOf c
  (memKey c.ldev (t.blockBase + c.block.getD 0 * t.hdr.blockBytes), t.hdr.ownBytes)

/-! ### The control stack in memory (R125) -/

/-- A control-stack entry from its fields: KIND, DEPTH, DIVID, WORD, PC; RCV, MASK; ARRIVED, FMT; PENDING, AGE, BLK, RPCN. -/
def entryBytes (kind depth divid word : Nat) (pc rcv mask arrived fmt : Word) (pending age : Nat) (blk : Bool)
    (rpcn : Word) : List Byte :=
  leBytes 8 (kind * 2 ^ 60 + depth % 256 * 2 ^ 52 + divid % 65536 * 2 ^ 36 + word % 16 * 2 ^ 32 + pc.toNat) ++
    leBytes 8 (rcv.toNat * 2 ^ 32 + mask.toNat) ++ leBytes 8 (arrived.toNat * 2 ^ 32 + fmt.toNat) ++
    leBytes 8 (pending % 256 * 2 ^ 56 + age % 512 * 2 ^ 47 + boolNat blk * 2 ^ 46 + rpcn.toNat)

def CEntry.bytes : CEntry → List Byte
  | .free => List.replicate 32 0
  | .frag x blk => entryBytes 1 x.depth x.divid x.word x.pc x.rcv x.mask 0 x.fmt 0 x.age blk x.rpcn
  | .div d => entryBytes 2 d.depth d.divid 0 d.pc d.rcv d.mask d.arrived d.fmt d.pending 0 false 0
  | .call c => entryBytes 3 c.depth 0 0 c.pc c.rcv 0 0 0 0 0 false c.rpcn

/-- Offsets of a crew's `.reg` places from here are bytes of its control stacks; REGWIN's own end below. -/
def stackBase : Nat := 2 ^ 20

/-- Byte `k` of the control stacks of a crew's block, thread after thread (R125, log entry 67). -/
def State.stackByte (s : State) (uid k : Nat) : Byte :=
  let c := s.crew uid
  let h := s.hdrOf c
  let a := (c.thread (h.tids.getD (k / h.cstk) leadTid)).arch
  (Store.get .free a.cstk (k % h.cstk / 32)).bytes.getD (k % 32) 0

/-- The crew that holds a block with a control stack at a key, and the byte's offset in its stacks. -/
def State.stackAt (s : State) (key : Nat) : Option (Nat × Nat) :=
  s.crews.findSome? fun e =>
    let h := s.hdrOf e.2
    let lo := (s.blockOf e.2).1 + h.groups * h.privw * 128
    if e.2.block.isSome && lo ≤ key && key < lo + (h.groups + h.hslots) * h.cstk then some (e.1, key - lo) else none

/-- The place with a memory key: memory, or the control stack of a crew that holds the block there. No handle of a task covers
such a place, so that only privileged code, with an entry it made by `pwr`, gets there (R125). -/
def State.placeOf (s : State) (key : Nat) : Loc := match s.stackAt key with
  | some (uid, k) => .reg uid (stackBase + k)
  | none => .mem key

/-! ### Bytes at a place -/

/-- Whether a register exists for a REGWIN offset of a crew (R83). -/
def State.regAlloc (s : State) (c : Crew) (off : Nat) : Bool :=
  off < 327680 && off % 8192 / 128 < (s.hdrOf c).vregs && (c.thread (off / 8192)).st != .absent

/-- The REGWIN byte of an `Arch`. -/
def Arch.regByte (a : Arch) (off : Nat) : Byte :=
  (Store.get 0 a.v (32 * (off % 8192 / 128) + off % 128 / 4)).extractLsb' (8 * (off % 4)) 8

/-- The byte held at a place now. -/
def State.peek (s : State) : Loc → Byte
  | .scr uid off => Store.get 0 (s.crew uid).scratch off
  | .mem a => Store.get 0 s.mem a
  | .reg uid off =>
    let c := s.crew uid
    if stackBase ≤ off then s.stackByte uid (off - stackBase)
    else if s.regAlloc c off then (c.thread (off / 8192)).arch.regByte off else 0

/-- The place `k` bytes on. -/
def Loc.plus (l : Loc) (k : Nat) : Loc :=
  match l with
  | .scr uid off => .scr uid (off + k)
  | .mem a => .mem (a + k)
  | .reg uid off => .reg uid (off + k)

/-- `n` bytes from a place. -/
def State.peekN (s : State) (l : Loc) (n : Nat) : List Byte := (List.range n).map fun k => s.peek (l.plus k)

def putByte (m : List Host.Cell) (a : Nat) : List Byte → List Host.Cell
  | [] => m
  | b :: t => putByte (Store.set 0 m a b) (a + 1) t

/-- Replace a byte of a register lane. -/
def Arch.setRegByte (a : Arch) (off : Nat) (b : Byte) : Arch :=
  let key := 32 * (off % 8192 / 128) + off % 128 / 4
  let sh := 8 * (off % 4)
  let old := Store.get 0 a.v key
  { a with v := Store.set 0 a.v key ((old &&& ~~~(BitVec.ofNat 32 (255 * 2 ^ sh))) ||| (b.setWidth 32 <<< sh)) }

/-- Store bytes at a place; a register that is not allocated discards them, and so does a control stack, whose fields only the
hardware writes (R125, log entry 74). -/
def State.poke (s : State) (l : Loc) (bs : List Byte) : State :=
  match l with
  | .scr uid off => s.modCrew uid fun c => { c with scratch := putByte c.scratch off bs }
  | .mem a => { s with mem := putByte s.mem a bs }
  | .reg uid off =>
    bs.zipIdx.foldl (fun s x =>
      if s.regAlloc (s.crew uid) (off + x.2) then
        s.modArch uid ((off + x.2) / 8192) fun a => a.setRegByte (off + x.2) x.1
      else s) s

/-- The home die of a place; none for a core's own store (R92). -/
def Loc.die : Loc → Option Nat
  | .mem a => some (keyLdev a)
  | _ => none

/-- The place is on another die than `die` (R92). -/
def Loc.remote (l : Loc) (die : Nat) : Bool :=
  match l.die with
  | some d => d != die
  | none => false

/-! ### Poison (R403) -/

/-- Some byte of the range is poisoned. -/
def State.poisoned (s : State) (l : Loc) (n : Nat) : Bool :=
  (List.range n).any fun k => match l.plus k with
    | .scr uid off => Store.get false (s.crew uid).scrPoison off
    | .mem a => Store.get false s.poison a
    | .reg uid off => Store.get false (s.crew uid).regPoison (off / 4 * 4)

/-! ### Links (R11, R353) -/

/-- The two ends of a link; the brewhouse is 4. -/
def linkEnds : Link → Nat × Nat
  | .ring a b => (min a b, max a b)
  | .brew a => (a, 4)

/-- The links of the package: the ring 0-1-2-3-0, and one from each hearth die to the brewhouse (R11). -/
def allLinks : List (Nat × Nat) := [(0, 1), (1, 2), (2, 3), (0, 3), (0, 4), (1, 4), (2, 4), (3, 4)]

def isLink (l : Link) : Bool := allLinks.contains (linkEnds l)

/-- The ends that the working links reach from a set, in `n` hops. -/
def reach (up : List (Nat × Nat)) : Nat → List Nat → List Nat
  | 0, l => l
  | n + 1, l =>
    reach up n (l ++ (List.range 5).filter fun k =>
      !l.contains k && up.any fun e => (e.1 == k && l.contains e.2) || (e.2 == k && l.contains e.1))

/-- A path of working links joins two ends, while the links of `down` have failed. -/
def joined (down : List Link) (a b : Nat) : Bool :=
  a == b || (reach (allLinks.filter fun e => !(down.map linkEnds).contains e) 4 [a]).contains b

/-- A place on another die to which no path remains: the read of it is an uncorrectable error (R353). -/
def State.cutOff (s : State) (die : Nat) (l : Loc) : Bool :=
  match l.die with
  | some d => !joined s.links die d
  | none => false

/-- A write of whole sectors, or of whole register lanes, clears their poison; any other write leaves it. -/
def State.clearPoison (s : State) (l : Loc) (n : Nat) : State :=
  match l with
  | .scr uid off =>
    let whole (k : Nat) : Bool := off ≤ k / 32 * 32 && k / 32 * 32 + 32 ≤ off + n
    s.modCrew uid fun c => { c with scrPoison := Store.keep (fun k => !whole k) c.scrPoison }
  | .mem a =>
    let whole (k : Nat) : Bool := a ≤ k / 32 * 32 && k / 32 * 32 + 32 ≤ a + n
    { s with poison := Store.keep (fun k => !whole k) s.poison }
  | .reg uid off =>
    s.modCrew uid fun c => { c with regPoison := Store.keep (fun k => !(off ≤ k && k + 4 ≤ off + n)) c.regPoison }

/-! ### Sharers and queued invalidations (R94) -/

/-- Register a core as a sharer of a line. -/
def State.share (s : State) (core line : Nat) : State :=
  let m := Store.get 0 s.sharers line ||| BitVec.ofNat 64 (2 ^ (core % 64))
  { s with sharers := Store.set 0 s.sharers line m }

/-- Drop the queued invalidation of a line at a core: the L1 now holds the line's present value or none. -/
def State.applyInval (s : State) (core line : Nat) : State :=
  s.modCore core fun c => { c with inval := c.inval.filter fun i => i.line != line }

/-- Apply every invalidation queued at a core (R94). -/
def State.applyAll (s : State) (core : Nat) : State := s.modCore core fun c => { c with inval := [] }

/-- Queue an invalidation of a line at every other sharer's L1, which goes on serving the old bytes, and take the
writer's own L1 copy to the new value. `writer` none is an agent without an L1. -/
def State.invalidate (s : State) (writer : Option Nat) (ar : Option ArenaRef) (line : Nat) : State :=
  let mask := Store.get 0 s.sharers line
  let s := match writer with
    | some w => s.applyInval w line
    | none => s
  if mask == 0 then s
  else
    let old := s.peekN (.mem (line * 128)) 128
    let die := keyLdev (line * 128)
    let s := (List.range 64).foldl (fun s k =>
      let core := 64 * die + k
      if mask.getLsbD k && writer != some core then
        s.modCore core fun c =>
          if c.inval.any (fun i => i.line == line) then c
          else { c with inval := c.inval ++ [⟨line, old, s.writes, ar⟩] }
      else s) s
    let keep : DWord := match writer with
      | some w => if coreDie w == die then mask &&& BitVec.ofNat 64 (2 ^ (w % 64)) else 0
      | none => 0
    { s with sharers := Store.set 0 s.sharers line keep }

/-- The numbers of the units of `size` bytes that `n` bytes from `a` touch. -/
def unitsOf (size a n : Nat) : List Nat :=
  if n = 0 then [] else (List.range ((a + n - 1) / size + 1 - a / size)).map fun k => a / size + k

/-! ### Sectors (R314 to R316) -/

/-- The sector's fill is pending: the mask of the bytes written since is not empty. -/
def State.filling (s : State) (l : Loc) (n : Nat) : Option Nat := match l with
  | .mem a => if s.fills.isEmpty then none else (unitsOf 32 a n).find? fun k => Store.get 0 s.fills k != 0
  | _ => none

/-- A write reaches a sector: one that covers part of an absent sector allocates it with a byte mask, and one that finds the
fill pending adds to the mask; a write of the whole sector needs no fill (R314). -/
def State.maskSector (s : State) (a n k : Nat) : State :=
  let old := Store.get 0 s.fills k
  let gone := Store.get false s.absent k
  let lo := max a (32 * k)
  let len := min (a + n) (32 * k + 32) - lo
  let s := { s with absent := Store.set false s.absent k false }
  if old == 0 && (!gone || len = 32) then s
  else { s with fills := Store.set 0 s.fills k (old ||| BitVec.ofNat 32 ((2 ^ len - 1) * 2 ^ (lo % 32))) }

def State.maskFills (s : State) (a n : Nat) : State :=
  if s.fills.isEmpty && s.absent.isEmpty then s else (unitsOf 32 a n).foldl (fun s k => s.maskSector a n k) s

/-- The fill of a sector returns: the bytes of the mask keep what was written, the others take the memory's. Memory holds
both, so only the mask goes. -/
def State.fillBack (s : State) (k : Nat) : State := { s with fills := Store.set 0 s.fills k 0 }

/-! ### Performing a write -/

/-- A place has a history: memory and scratch have, registers do not. -/
def Loc.kept : Loc → Bool
  | .reg _ _ => false
  | _ => true

/-- Note a write about to be performed, and what it replaces. -/
def State.note (s : State) (writer : Option Nat) (l : Loc) (n : Nat) : State :=
  if l.kept then { s with writes := s.writes + 1, hist := ⟨s.writes, writer, l, s.peekN l n⟩ :: s.hist } else s

/-- The invalidations and byte masks of a write. -/
def State.announce (s : State) (writer : Option Nat) (ar : Option ArenaRef) (l : Loc) (n : Nat) : State := match l with
  | .mem a => ((unitsOf 128 a n).foldl (fun s k => s.invalidate writer ar k) s).maskFills a n
  | _ => s

/-- Perform a write at its home: the invalidations of every line it touches, the byte masks, then the bytes (R94, R314). A
whole-sector write also clears poison. -/
def State.homeWrite (s : State) (writer : Option Nat) (ar : Option ArenaRef) (l : Loc) (bs : List Byte) : State :=
  (((s.announce writer ar l bs.length).note writer l bs.length).poke l bs).clearPoison l bs.length

/-- What a core's L1 serves for a memory byte: the old value while the line's invalidation is queued. -/
def State.viewByte (s : State) (core a : Nat) : Byte :=
  match (s.core core).inval.find? fun i => i.line == a / 128 with
  | some i => i.old.getD (a % 128) 0
  | none => Store.get 0 s.mem a

/-! ### Private lines (R93) -/

/-- A core's L1 is about to write a private line: its home keeps the bytes it has until the line is written back. -/
def State.soil (s : State) (core a n : Nat) : State :=
  (unitsOf 128 a n).foldl (fun s k =>
    if (Store.get [] (s.core core).dirty k).isEmpty then
      let old := s.peekN (.mem (128 * k)) 128
      s.modCore core fun c => { c with dirty := Store.set [] c.dirty k old }
    else s) s

/-- Write back a core's dirty private lines for which `p` holds: their homes have the L1's bytes. -/
def State.writeBack (s : State) (core : Nat) (p : Nat → Bool) : State :=
  s.modCore core fun c => { c with dirty := Store.keep (fun k => !p k) c.dirty }

/-- Discard a core's dirty private lines for which `p` holds: memory has what their homes hold. -/
def State.discard (s : State) (core : Nat) (p : Nat → Bool) : State :=
  (((s.core core).dirty.filter fun e => p e.1).foldl (fun s e => s.poke (.mem (128 * e.1)) e.2) s).writeBack core p

/-! ### What a load may read (R94, R103, R209) -/

/-- A write covers a byte: the byte of it that it replaced. -/
def PastWrite.covers (w : PastWrite) (l : Loc) : Option Byte :=
  match w.loc, l with
  | .scr u o, .scr u2 o2 => if u == u2 && o ≤ o2 then w.old[o2 - o]? else none
  | .mem a, .mem a2 => if a ≤ a2 then w.old[a2 - a]? else none
  | _, _ => none

/-- The byte at a place as it was when `t` writes had been performed. -/
def State.byteAt (s : State) (t : Nat) (l : Loc) : Byte :=
  s.hist.foldl (fun v w => if t ≤ w.at_ && t < s.writes then (w.covers l).getD v else v) (s.peek l)

/-- Key of a place in a thread's `seen`. -/
def Loc.key : Loc → Nat
  | .mem a => a
  | .scr uid off => 2 ^ 60 + uid * 2 ^ 24 + off
  | .reg _ _ => 0

/-- How many writes a thread's next load of `n` bytes must at least see. -/
def Thread.bound (t : Thread) (l : Loc) (n : Nat) : Nat :=
  (List.range n).foldl (fun m k => max m (Store.get 0 t.seen (l.plus k).key)) t.floor

/-- The moments, other than the present, at which such a load may be performed: just before a write that it may miss. -/
def State.moments (s : State) (l : Loc) (n lo : Nat) : List Nat :=
  (s.hist.filter fun w => lo ≤ w.at_ && w.at_ < s.writes && (List.range n).any fun k => (w.covers (l.plus k)).isSome).map PastWrite.at_

/-- A thread has read or written `n` bytes as they were when `m` writes had been performed: no later access of it to them is
performed earlier (R103 Coherence). -/
def Thread.saw (t : Thread) (l : Loc) (n m : Nat) : Thread :=
  if m ≤ t.floor then t
  else { t with seen := (List.range n).foldl (fun f k =>
    let key := (l.plus k).key
    if Store.get 0 f key < m then Store.set 0 f key m else f) t.seen }

/-- Every later load of a thread sees the writes performed so far: an acquire, a fence of loads, an observed completion, the
start or the resumption of the thread (R101, R107). -/
def State.seeAll (s : State) (uid tid : Nat) : State := s.modThread uid tid fun t => { t with floor := s.writes, seen := [] }

/-- An acquire at crew scope: later loads see the writes of the crew's agents, and all that those have seen (R99, R102). -/
def State.seeCrew (s : State) (uid tid : Nat) : State :=
  let c := s.crew uid
  let last := match s.hist.find? fun w => w.core == some c.core with
    | some w => w.at_ + 1
    | none => 0
  let m := c.threads.foldl (fun m e => max m e.2.floor) last
  s.modThread uid tid fun t => { t with floor := max t.floor m }

/-- Keys of a crew's register window stand above every memory key. -/
def regBase : Nat := 2 ^ 60

/-- The place of a key: a byte of memory, or of a register window. -/
def keyLoc (a : Nat) : Loc := if a < regBase then .mem a else .reg ((a - regBase) / 2 ^ 20) (a % 2 ^ 20)

/-- 64-bit and 32-bit words of memory as an agent without an L1 reads them. -/
def State.rd64 (s : State) (a : Nat) : DWord := BitVec.ofNat 64 (leNat (s.peekN (keyLoc a) 8))
def State.rd32 (s : State) (a : Nat) : Word := BitVec.ofNat 32 (leNat (s.peekN (.mem a) 4))
def State.wr64 (s : State) (a : Nat) (v : Nat) : State := s.homeWrite none none (.mem a) (leBytes 8 v)

/-! ### The checks of R86 -/

/-- The caches that hold SEAL and STALE masks (R296): the L1 of core `n` is cache `n`; slice `k` of a die is
256 + 64 × die + k (R295: 64 slices to a die). -/
def sliceOf (key : Nat) : Nat := 256 + 64 * keyLdev key + Config.slice (key / 128) % 64

/-- The masks of a cache say sealed, or stale. -/
def Arena.sealedAt (a : Arena) (cache : Nat) : Bool := a.sealBit || a.sealAt.contains cache
def Arena.goneAt (a : Arena) (cache : Nat) : Bool := a.staleBit || a.staleAt.contains cache

/-- Step 5 at a cache for a copy that names arena `a` at generation `gen`, with its STALE bit (R87, R296). -/
def State.arenaStop (s : State) (a : ArenaRef) (gen : Nat) (stale wr : Bool) (cache : Nat) : Option Exc :=
  let x := s.arena a
  if stale || x.goneAt cache || x.gen != gen then some .arenaStale
  else if wr && x.sealedAt cache then some .sealedWrite
  else none

/-- Step 5 for an entry: the SEAL and STALE masks of the serving cache, the copy's STALE bit and its generation. -/
def State.step5 (s : State) (p : PartRef) (e : HEntry) (stale wr : Bool) (cache : Nat) : Option Exc :=
  if e.space == 0 || e.space == 5 then none else s.arenaStop (e.arenaRef p) e.gen stale wr cache

/-- The 64 KiB unit of a memory key: pages are one, 32 or 16,384 units (R89). -/
def pageOf (a : Nat) : Nat := a % 2 ^ 48 / 65536

/-- Key of a unit of a device. -/
def pageKey (ldev page : Nat) : Nat := ldev * 2 ^ 32 + page

/-- Units of a page of each size: 64 KiB, 2 MiB, 1 GiB. -/
def pageUnits : Nat → Nat
  | 0 => 1
  | 1 => 32
  | _ => 16384

/-- The unit is mapped. -/
def State.pagePresent (s : State) (ldev page : Nat) : Bool := !(Store.get false s.absentPages (pageKey ldev page))

/-- The size of the page that holds a unit, and its first unit: the largest page whose mapping covers the unit. -/
def State.pageAt (s : State) (ldev page : Nat) : Nat × Nat :=
  match [2, 1].find? fun k => Store.get 0 s.pageSize (pageKey ldev (page / pageUnits k * pageUnits k)) == k with
  | some k => (k, page / pageUnits k * pageUnits k)
  | none => (0, page)

/-- The logical device whose memory an entry names. -/
def HEntry.home (e : HEntry) (ldev : Nat) : Nat := if e.space == 4 then e.pdev else ldev

/-- The first page of `n` bytes at `off` of an object that is not mapped (R89, R90). -/
def State.missingPage (s : State) (ldev : Nat) (e : HEntry) (off n : Nat) : Option (Nat × Nat) :=
  if e.space == 0 || e.space == 5 then none
  else
    let d := e.home ldev
    let first := (e.base + off) / 65536
    let last := (e.base + off + n - 1) / 65536
    ((List.range (last + 1 - first)).find? fun k => !s.pagePresent d (first + k)).map fun k => (d, first + k)

/-- What an access asks: the bytes, the alignment step 4 wants, and the permissions step 3 wants. -/
structure Want where
  n : Nat
  align : Nat
  rd : Bool
  wr : Bool
deriving DecidableEq, Repr

/-- One of steps 1 to 5 of R86 for one access at `off`, step 5 at a cache. `lanes` is the lane-array size in words where step 2
is R211's. -/
def State.checkStep (s : State) (p : PartRef) (h : HReg) (w : Want) (lanes : Option Nat) (cache : Nat)
    (off : DWord) : Nat → Option Exc
  | 1 => if h.ent.valid && h.ent.space != 7 && h.ent.policy != 3 then none else some .handleInvalid
  | 2 => match lanes with
    | some privw => if off.toNat / 4 < privw then none else some .privLimit
    | none => if off.toNat + w.n ≤ h.ent.size then none else some .handleBounds
  | 3 => if (w.rd && !h.ent.r) || (w.wr && !h.ent.w) then some .handlePermission else none
  | 4 => if off.toNat % w.align = 0 then none else some .misaligned
  | _ => s.step5 p h.ent h.stale w.wr cache

/-- The outcome of the checks. -/
inductive Chk where
  | ok
  | bad (f : FaultInfo)
  | page (ldev page : Nat) (f : FaultInfo)
deriving DecidableEq, Repr

/-- The mask of the lanes for which `f` holds. -/
def laneMask (f : Nat → Bool) : Word :=
  BitVec.ofNat 32 ((List.range 32).foldl (fun m l => if f l then m + 2 ^ l else m) 0)

/-- The lanes of a mask, ascending. -/
def laneList (m : Word) : List Nat := (List.range 32).filter fun l => m.getLsbD l

/-- R86 and R88 for the lanes of A: the earliest step that any lane fails decides, and every lane that failed it is named;
the offset recorded is that of the lowest of them. -/
def State.checkLanes (s : State) (p : PartRef) (hn : Nat) (h : HReg) (w : Want) (lanes : Option Nat)
    (cache eng : Nat) (A : Word) (off : Nat → DWord) : Chk :=
  let fails (k : Nat) : List Nat := (laneList A).filter fun l => (s.checkStep p h w lanes cache (off l) k).isSome
  match [1, 2, 3, 4, 5].find? fun k => !(fails k).isEmpty with
  | some k =>
    let bad := fails k
    let l := bad.headD 0
    .bad { exc := (s.checkStep p h w lanes cache (off l) k).getD .handleInvalid
           lanes := some (laneMask fun i => bad.contains i)
           hreg := some hn, hindex := h.idx, offset := off l, eng := eng }
  | none =>
    let span (l : Nat) : Nat := match lanes with
      | some _ => (32 * ((off l).toNat / 4) + l) * 4 + (off l).toNat % 4
      | none => (off l).toNat
    let gone (l : Nat) : Option (Nat × Nat) := s.missingPage p.ldev h.ent (span l) w.n
    match (laneList A).find? fun l => (gone l).isSome with
    | some l =>
      let pg := (gone l).getD (0, 0)
      .page pg.1 pg.2
        { exc := .pageFatal, lanes := some (laneMask fun i => A.getLsbD i && gone i == some pg), hreg := some hn
          hindex := h.idx, offset := off l, eng := eng }
    | none => .ok

/-- R86 for one scalar or whole-range access; the receiving slot's mask is recorded. -/
def State.checkOne (s : State) (p : PartRef) (hn : Nat) (h : HReg) (w : Want) (cache eng : Nat) (off : DWord) : Chk :=
  match [1, 2, 3, 4, 5].findSome? fun k => s.checkStep p h w none cache off k with
  | some e => .bad { exc := e, hreg := some hn, hindex := h.idx, offset := off, eng := eng }
  | none => match s.missingPage p.ldev h.ent off.toNat w.n with
    | some (d, pg) => .page d pg { exc := .pageFatal, hreg := some hn, hindex := h.idx, offset := off, eng := eng }
    | none => .ok

/-- The crew whose registers a REGWIN entry of partition `p` covers (R83). -/
def State.regwinCrew (s : State) (p : PartRef) (idx : Nat) : Option Nat :=
  (s.crews.find? fun e => e.2.ldev == p.ldev && e.2.part == p.part && e.2.regwin == some idx).map Prod.fst

/-- The place of byte `off` of an object, for a crew (R82, R210). `lane` is the lane of a vector access through h1. -/
def State.locOf (s : State) (uid : Nat) (h : HReg) (lane : Option Nat) (off : Nat) : Loc :=
  let c := s.crew uid
  match h.ent.space with
  | 0 => .scr uid off
  | 1 => match lane with
    | some l => s.placeOf (memKey c.ldev (h.ent.base + (32 * (off / 4) + l) * 4 + off % 4))
    | none => s.placeOf (memKey c.ldev (h.ent.base + off))
  | 5 => .reg ((s.regwinCrew c.pref h.idx.toNat).getD 0) off
  | _ => s.placeOf (memKey (h.ent.home c.ldev) (h.ent.base + off))

/-! ### An address argument of the brewhouse: steps 1 to 5 of R86 (R362, R387) -/

/-- The key of byte `off` of handle `i` of a partition, if the checks pass and a path to its home remains (R353). A register
window (SPACE 5), which only reads, has the key of the crew's window. -/
def State.brewAddr (s : State) (p : PartRef) (i off n align : Nat) (rd wr : Bool) : Option Nat :=
  if i ≥ 2 ^ 20 then none
  else
    let e := s.handle p i
    let h : HReg := ⟨BitVec.ofNat 20 i, e, false⟩
    let key := if e.space == 5 then regBase + (s.regwinCrew p i).getD 0 * 2 ^ 20 + off else memKey (e.home p.ldev) (e.base + off)
    if e.space == 0 || e.space == 1 || e.space == 6 || !joined s.links 4 (e.home p.ldev) then none
    else if ([1, 2, 3, 4, 5].all fun k => (s.checkStep p h ⟨n, align, rd, wr⟩ none (sliceOf (memKey (e.home p.ldev) (e.base + off)))
      (BitVec.ofNat 64 off) k).isNone) then
      some key
    else none

/-- The same for an address dword. -/
def State.brewDword (s : State) (p : PartRef) (d : DWord) (n align : Nat) (rd wr : Bool) : Option Nat :=
  s.brewAddr p (addrH d) (addrOff d) n align rd wr

/-! ### Tool rings (R420) -/

/-- The ring's first byte. -/
def State.ringBase (s : State) (p : PartRef) (r : ToolRing) : Nat := memKey p.ldev ((s.handle p r.h).base + r.off)

/-- The data position of the next record of `size` bytes: WRPOS, at the next multiple of the size where a consumer's RDPOS has left it
at none (log entry 60). -/
def State.ringPos (s : State) (p : PartRef) (r : ToolRing) (size : Nat) : Nat :=
  ((s.rd64 (s.ringBase p r)).toNat + (size - 1)) / size * size

/-- There is room for a record of `size` bytes. -/
def State.ringRoom (s : State) (p : PartRef) (r : ToolRing) (size : Nat) : Bool :=
  r.mode == 1 || s.ringPos p r size + size ≤ (s.rd64 (s.ringBase p r + 0x40)).toNat + 2 ^ r.sz

/-- Write one record: in MODE 0 it is dropped and counted when there is no room; in MODE 1 the oldest records make
room. -/
def State.ringWrite (s : State) (p : PartRef) (r : ToolRing) (rec : List Byte) : State :=
  let b := s.ringBase p r
  let size := rec.length
  let w := s.ringPos p r size
  if s.ringRoom p r size then
    let rd := (s.rd64 (b + 0x40)).toNat
    let s := if r.mode == 1 && w + size > rd + 2 ^ r.sz then s.wr64 (b + 0x40) (w + size - 2 ^ r.sz) else s
    let s := s.homeWrite none none (.mem (b + 128 + w % 2 ^ r.sz)) rec
    s.wr64 b (w + size)
  else s.wr64 (b + 0x48) ((s.rd64 (b + 0x48)).toNat + 1)

/-! ### Trace (R424 to R427) -/

/-- Unsigned LEB128 (R425). -/
def leb128 : Nat → Nat → List Byte
  | 0, v => [BitVec.ofNat 8 (v % 128)]
  | k + 1, v => if v < 128 then [BitVec.ofNat 8 v] else BitVec.ofNat 8 (v % 128 + 128) :: leb128 k (v / 128)

/-- Send one frame of a crew's stream: an 8-byte header and up to 56 stream bytes (R424). -/
def State.sendFrame (s : State) (uid : Nat) (bs : List Byte) : State :=
  let c := s.crew uid
  let frame := leBytes 8 (c.task * 2 ^ 32 + c.idx % 2 ^ 24 * 256 + bs.length) ++ bs ++ List.replicate (56 - bs.length) 0
  let s := match (s.part c.pref).traceRing with
    | some r => s.ringWrite c.pref r frame
    | none => s
  if c.trace.port then { s with portOut := s.portOut ++ frame } else s

/-- Append bytes to a crew's stream, closing every frame that fills. -/
def State.streamBytes (s : State) (uid : Nat) (bs : List Byte) : State :=
  let c := s.crew uid
  let all := c.trace.buf ++ bs
  let n := all.length / 56
  let s := (List.range n).foldl (fun s k => s.sendFrame uid ((all.drop (56 * k)).take 56)) s
  s.modCrew uid fun c => { c with trace := { c.trace with buf := all.drop (56 * n), lastNs := s.now } }

/-- Write a packet of cycle `cyc`: byte 0, DELTA, payload (R425). -/
def State.writePacket (s : State) (uid cyc kind arg : Nat) (payload : List Byte) : State :=
  let t := (s.crew uid).trace
  let delta := if t.first then 0 else cyc - t.lastCyc
  let s := s.streamBytes uid (BitVec.ofNat 8 (16 * kind + arg) :: leb128 10 delta ++ payload)
  s.modCrew uid fun c => { c with trace := { c.trace with first := false, lastCyc := cyc } }

/-- The chimney can take a packet of the stream: its ring has room for a frame. -/
def State.chimneyRoom (s : State) (c : Crew) : Bool :=
  match (s.part c.pref).traceRing with
  | some r => s.ringRoom c.pref r 64
  | none => true

/-- Emit a packet of a traced crew. It is dropped while an earlier drop waits for its LOSS packet, when the ring is full,
or when the chimney is busy, which the manual does not fix (a free value) (R427). -/
def State.emitAt (s : State) (uid cyc kind arg : Nat) (payload : List Byte) : State :=
  let c := s.crew uid
  if !c.trace.on then s
  else
    let (f, s) := s.free
    if c.trace.lost > 0 || !s.chimneyRoom c || f % 2 == 1 then
      let drop (t : TraceSt) : TraceSt := { t with lost := t.lost + 1, lostName := t.lostName || kind == 9 }
      s.modCrew uid fun c => { c with trace := drop c.trace }
    else s.writePacket uid cyc kind arg payload

/-- The place of a packet among those of its cycle: by group, then by slot; packets that name no group come first (R425). -/
def HeldPacket.order (h : HeldPacket) : Nat :=
  if h.kind = 1 || h.kind = 2 || h.kind = 5 || h.kind = 8 then 1 + 2 * ((h.payload.head?.map BitVec.toNat).getD 0) + h.arg % 2 else 0

/-- Put a packet of this cycle at its place behind those that wait. -/
def State.holdPacket (s : State) (uid : Nat) (owner : Option (Nat × Nat)) (kind arg : Nat) (payload : List Byte) : State :=
  if !(s.crew uid).trace.on then s
  else s.modCrew uid fun c =>
    let h : HeldPacket := ⟨s.cycles, owner, kind, arg, payload⟩
    let first (x : HeldPacket) : Bool := x.cyc < h.cyc || x.order ≤ h.order
    { c with trace := { c.trace with held := c.trace.held.takeWhile first ++ h :: c.trace.held.dropWhile first } }

/-- A packet that waits is final: no replay can discard its word any more (R120, R121). -/
def Crew.isFinal (c : Crew) (h : HeldPacket) : Bool := match h.owner with
  | none => true
  | some (tid, no) => match (c.thread tid).window.head? with
    | none => true
    | some e => decide (no < e.no)

/-- And its cycle is over, so that none can come before it in the stream. -/
def State.packetDue (s : State) (uid : Nat) (h : HeldPacket) : Bool := decide (h.cyc < s.cycles) && (s.crew uid).isFinal h

/-- Emit the packets that wait, up to the first that `ok` does not let go. -/
def State.traceWhile (s : State) (uid : Nat) (ok : HeldPacket → Bool) : State :=
  let c := s.crew uid
  let out := c.trace.held.takeWhile ok
  if !c.trace.on || out.isEmpty then s
  else
    let s := s.modCrew uid fun c => { c with trace := { c.trace with held := c.trace.held.dropWhile ok } }
    out.foldl (fun s h => s.emitAt uid h.cyc h.kind h.arg h.payload) s

/-- Emit the packets that are due. A word that leaves the window does not send its packet out itself: the next packet of the stream does,
or the frame's close. -/
def State.traceOut (s : State) (uid : Nat) : State := s.traceWhile uid (s.packetDue uid)

/-- Emit a packet of a traced crew, in the stream's order: by cycle, and within one by group and slot (R425). -/
def State.emit (s : State) (uid kind arg : Nat) (payload : List Byte) : State := (s.traceOut uid).holdPacket uid none kind arg payload

/-- The group field of WHERE, which packets also carry: 32 + n for handler slot n, 0xFF for the lead (R412). An operation whose
handler has exited carries 64 more. -/
def groupCode (tid : Nat) : Nat := if isLead tid then 0xFF else tid % 64

/-- A packet of a pair is not written: the lead's where the trace leaves the lead out (R424), and any but SYNC while the pair's first
packet since a LOSS is to come (R427, log entry 31). -/
def State.untraced (s : State) (uid tid kind arg : Nat) : Bool :=
  let t := (s.crew uid).trace
  (isLead tid && !t.lead) || (kind != 8 && t.mute.contains (tid, arg % 2 == 1))

/-- Emit a packet that names a pair (R425). -/
def State.packet (s : State) (uid tid kind arg : Nat) (payload : List Byte) : State :=
  if s.untraced uid tid kind arg then s
  else s.emit uid kind arg (BitVec.ofNat 8 (groupCode tid) :: payload)

/-- The same of a word that a replay may discard: the packet waits until the word has left the window (R121, R426). -/
def State.wordPacket (s : State) (uid tid kind arg : Nat) (payload : List Byte) : State :=
  if s.untraced uid tid kind arg then s
  else (s.traceOut uid).holdPacket uid (some (tid, (s.thread uid tid).issued - 1)) kind arg (BitVec.ofNat 8 (groupCode tid) :: payload)

/-- WHERE of the joined name (R412). -/
def whereDword (core tid : Nat) (slotB : Bool) : Nat := core * 65536 + groupCode tid * 256 + boolNat slotB


end Sys2Proof.Machine
end

