-- ==== Sys2Proof/Machine/Ops.lean ====
section
/-! DEFINITION. The shared operations of the core: replay windows (R120, R121), store queues (R95, R98, R208, R297),
taking a fault and returning from one (R391 to R398), barrier objects (R223 to R226), tokens and completions (R15 to
R19), and the checks and bookkeeping around every instruction word (R80, R61, R62). -/

namespace Sys2Proof.Machine

/-! ### Fault codes and records (R393, R395) -/

def Exc.code : Exc → Nat
  | .illegalInstruction => 0x01
  | .clauseFormat => 0x02
  | .opclassUndeclared => 0x03
  | .capabilityFenced => 0x04
  | .privileged => 0x05
  | .misaligned => 0x06
  | .handleInvalid => 0x08
  | .handleBounds => 0x09
  | .handlePermission => 0x0A
  | .privLimit => 0x0B
  | .stackLimit => 0x0C
  | .pageFatal => 0x0D
  | .arenaStale => 0x10
  | .sealedWrite => 0x11
  | .arenaState => 0x12
  | .shapeMismatch => 0x14
  | .formatCombination => 0x15
  | .shapeRange => 0x16
  | .groupInvalid => 0x18
  | .collectiveInvalid => 0x19
  | .dataUncorrectable => 0x20
  | .residuePersistent => 0x21
  | .breakpoint => 0x28
  | .watchpoint => 0x29
  | .softwareTrap => 0x2A
  | .singleStep => 0x2B
  | .watchdog => 0x30

/-- The trap record of a fault at clause `hdr`, word `word`, received by a slot of mask `mask` (R393). -/
def FaultInfo.record (f : FaultInfo) (hdr : Word) (word : Nat) (mask : Word) : TrapRec where
  d0 := BitVec.ofNat 64 (hdr.toNat * 2 ^ 32 + f.sword % 16 * 2 ^ 16 + word % 16 * 2 ^ 12 + f.exc.code)
  d1 := BitVec.ofNat 64 ((f.lanes.getD mask).toNat * 2 ^ 32 + boolNat f.late * 2 ^ 31 + boolNat f.asyn * 2 ^ 30 +
    f.hreg.getD 0 % 8 * 2 ^ 27 + boolNat (f.hreg.isNone && !f.code) * 2 ^ 26 + f.hindex.toNat)
  d2 := f.offset
  d3 := BitVec.ofNat 64 (f.eng % 16 * 2 ^ 60 + f.info.toNat)

/-! ### Kills (R51, R379) and fatal faults (R394, R410, R411) -/

/-- Code of a cause in the journal's KILL record: R379's list, from 1. -/
def KillCause.code : KillCause → Nat
  | .command => 1
  | .force => 2
  | .timeout => 3
  | .fatal => 4
  | .fence => 5

/-- Mark every crew of a task for the kill machine (R379) and journal the KILL record, which after a fatal fault counts the
crew that took it too. -/
def State.killCrews (s : State) (src ldev task : Nat) (k : KillCause) : State :=
  let hit (c : Crew) : Bool := c.ldev == ldev && c.task == task && c.cause.isNone
  let n := (s.crews.filter fun e => hit e.2).length
  let s := s.log jKILL src ldev (s.task ldev task).part [task, k.code, n + if k = .fatal then 1 else 0]
  { s with crews := s.crews.map fun e => if hit e.2 then (e.1, { e.2 with cause := some k }) else e }

/-- Kill a task: it ends with a status, and no crew of it is placed any more (R31, R379). -/
def State.killTask (s : State) (src ldev task status : Nat) (k : KillCause) : State :=
  if (s.task ldev task).st != .running then s
  else (s.killCrews src ldev task k).modTask ldev task fun t => { t with st := .ending, status := status }

/-- Journal a FAULT record: `dump` 0 written, 1 queued, 2 not written (R382). -/
def State.logFault (s : State) (c : Crew) (code dump : Nat) : State :=
  s.log jFAULT 0 c.ldev c.part [c.task, c.idx, code, dump]

/-- A fatal fault (R394): the crew halts; its dump is written, queued or left out (R411); its task is killed (R51), once
the dump is written where there is one. A further fatal fault during the dump counts as nested. -/
def State.fatal (s : State) (p : PairRef) (r : TrapRec) : State :=
  let c := s.crew p.uid
  let part := s.part c.pref
  if c.fatalRec.isSome then
    if part.dumping == some p.uid then
      s.modCrew p.uid fun c => { c with nested := c.nested + 1, nrec := if c.nested = 0 then r else c.nrec }
    else s
  else
    let halt (c : Crew) : Crew :=
      { c with cause := some .fatal, fatalRec := some r, stopNs := s.now
               fatalWhere := BitVec.ofNat 64 (whereDword c.core p.tid p.slotB) }
    let s := (s.modCrew p.uid halt).modSlot p fun x =>
      if x.st == .empty then x else { x with st := .blocked, wait := some .halted, holds := false }
    let s := s.modTask c.ldev c.task fun t => if t.st == .running then { t with st := .ending, status := 7 } else t
    let code := bits r.d0.toNat 0 8
    let killRest (s : State) : State := s.killCrews 0 c.ldev c.task .fatal
    if part.dumpTarget.isNone then killRest (s.logFault c code 2)
    else if part.dumping.isNone then s.modPart c.pref fun q => { q with dumping := some p.uid }
    else if part.dumpQueue.length < 4 then
      (s.modPart c.pref fun q => { q with dumpQueue := q.dumpQueue ++ [p.uid] }).logFault c code 1
    else killRest (s.logFault c code 2)

/-! ### The threads of a crew -/

/-- Ordinary groups that are running. -/
def Crew.liveGroups (c : Crew) : List Nat :=
  (c.threads.filter fun e => e.1 < 32 && e.2.st == .running).map Prod.fst

/-- Handler groups that are running. -/
def Crew.liveHandlers (c : Crew) : List Nat :=
  (c.threads.filter fun e => isHandler e.1 && e.2.st == .running).map Prod.fst

def Crew.leadRunning (c : Crew) : Bool := (c.thread leadTid).st == .running

/-- Free the decision-queue entries that every live group has popped (R38). -/
def Crew.freeDq (c : Crew) : Crew :=
  let low := c.liveGroups.foldl (fun m g => min m (c.thread g).dqPos) (c.dqBase + c.dq.length)
  let n := low - c.dqBase
  { c with dq := c.dq.drop n, dqBase := c.dqBase + n }

/-! ### Exit (R38, R43, R48, R53) and poison (R403) -/

/-- The crew still spawns handlers (R43). -/
def Crew.spawning (c : Crew) : Bool := c.leadRunning || !c.liveGroups.isEmpty

/-- Withdraw a crew's readiness in a consumer group (R334): the reserved slots are released and the node's L falls. -/
def State.withdraw (s : State) (uid gid : Nat) : State :=
  let c := s.crew uid
  let r := Store.get {} c.ready gid
  let s := s.modCrew uid fun c => { c with ready := Store.set {} c.ready gid { r with amount := 0, slots := [] } }
  s.modPart c.pref fun p => p.modNode gid c.core fun n => { n with l := n.l - r.amount }

/-- Some group-addressed message is assigned to a reserved handler slot of the crew (R43, R338). -/
def State.spawnAssigned (s : State) (uid : Nat) : Bool :=
  (s.part (s.crew uid).pref).groups.any fun g => g.2.msgs.any fun m => match m.at_ with
    | .spawn u _ _ => u == uid
    | _ => false

/-- A crew whose lead and groups have exited spawns no more: its readiness to spawn is withdrawn (R43). -/
def State.closeSpawns (s : State) (uid : Nat) : State :=
  let c := s.crew uid
  if c.spawning then s
  else (c.ready.filter fun e => e.2.spawn && e.2.amount != 0).foldl (fun s e => s.withdraw uid e.1) s

/-- A RUNNING crew of which nothing runs any more, and which has no handler to spawn, is RETIRING (R49, R53). -/
def State.retireIdle (s : State) (uid : Nat) : State :=
  let c := s.crew uid
  if c.st == .running && !c.spawning && c.liveHandlers.isEmpty && !s.spawnAssigned uid then
    s.modCrew uid fun c => { c with st := .retiring }
  else s

/-- Forget the poison of a thread's registers (R403): they hold nothing a later thread can see (R42, R111). -/
def Crew.unpoison (c : Crew) (tid : Nat) : Crew := { c with regPoison := Store.keep (fun k => poisonTid k != tid) c.regPoison }

/-- What follows the exit of a thread: freed queue entries (R38); at the last lead or group the crew stops spawning (R43);
when nothing of the crew runs any more it is RETIRING (R53). -/
def State.afterExit (s : State) (uid : Nat) : State := ((s.modCrew uid Crew.freeDq).closeSpawns uid).retireIdle uid

/-- The word a store belongs to has left the window (R95, R120). -/
def Thread.retired (t : Thread) (w : PendWrite) : Bool :=
  match t.window.head? with
  | none => true
  | some e => decide (w.at_ < e.no)

/-- Change every slot and spilled fragment of a thread's `Arch`. -/
def Arch.mapSlots (a : Arch) (f : Slot → Slot) : Arch :=
  { a with a := f a.a, b := f a.b, cstk := a.cstk.map fun e => match e.2 with
      | .frag x blk => (e.1, .frag (f x) blk)
      | _ => e }

/-- Give a status to every pair of a crew whose suspended word satisfies `p`: the word returns it when it reissues. -/
def State.wake (s : State) (uid : Nat) (p : Wait → Bool) (v w : DWord) : State :=
  let f (x : Slot) : Slot := match x.wait with
    | some y => if x.st == .blocked && p y then { x with wait := some (.released v w) } else x
    | none => x
  s.modCrew uid fun c => { c with threads := c.threads.map fun e => (e.1, e.2.mapArch (Arch.mapSlots · f)) }

/-- Release the words that wait on the object, with a status. -/
def State.wakeBar (s : State) (uid off status : Nat) : State :=
  s.wake uid (fun w => match w with
    | .barrier o _ => o == off
    | _ => false) (BitVec.ofNat 64 status) 0

/-- The crew's abandon state is set, which releases its words that wait at barriers with ABANDONED (R226). -/
def State.setAbandon (s : State) (uid : Nat) : State :=
  (s.modCrew uid fun c => { c with abandon := true }).wake uid (fun w => match w with
    | .barrier _ _ => true
    | _ => false) 2 0

/-- The consumer of poisoned bytes is killed (R403): its pairs stop, its unperformed stores are discarded, the crew's
abandon state is set, and it counts as exited. Its accepted operations and its posted writes go on. -/
def State.killConsumer (s : State) (uid tid : Nat) : State :=
  let t := s.thread uid tid
  if t.st != .running then s
  else
    let s := s.modThread uid tid fun t =>
      { t with st := .exited, sq := t.sq.filter fun w => w.gone || (w.posted.isSome && t.retired w), window := [], fence := none
               pendA := [], pendB := [], arch := { t.arch with a := {}, b := {}, cstk := [] } }
    let s := (s.setAbandon uid).modCrew uid (Crew.unpoison · tid)
    (s.logFault (s.crew uid) 0x20 2).afterExit uid

/-! ### Store queues -/

/-- Bytes of a lane write that cover a byte of a place, if any. -/
def LaneWrite.covers (w : LaneWrite) (l : Loc) : Option Byte :=
  match w.loc, l with
  | .scr u o, .scr u2 o2 => if u == u2 && o ≤ o2 then w.bytes[o2 - o]? else none
  | .mem a, .mem a2 => if a ≤ a2 then w.bytes[a2 - a]? else none
  | .reg u o, .reg u2 o2 => if u == u2 && o ≤ o2 then w.bytes[o2 - o]? else none
  | _, _ => none

/-- The newest value that a thread's own queued stores give a byte. -/
def Thread.forward (t : Thread) (l : Loc) : Option Byte :=
  t.sq.reverse.findSome? fun e => if e.gone then none else e.lanes.reverse.findSome? fun w => w.covers l

/-- A queued atomic, or a queued write to another die, covers one of `n` bytes: a load of them waits for it (R95, R103
Coherence). -/
def Thread.coveredByOp (t : Thread) (l : Loc) (n : Nat) : Bool :=
  t.sq.any fun e => !e.gone && (e.posted.isSome || e.kind != .store) && e.lanes.any fun w =>
    (List.range n).any fun k => (w.covers (l.plus k)).isSome

/-- The oldest entry of a queue: the local ones, or those posted to one die (R95). -/
def Thread.head (t : Thread) (die : Option Nat) : Option PendWrite := t.sq.find? fun e => e.posted == die

/-- A late or asynchronous fault becomes ready (R391): it waits at the issuing physical slot if that slot is occupied, else
at the group's other slot, for a clause boundary; if the issuer has exited it is fatal (R394). -/
def State.pend (s : State) (p : PairRef) (f : FaultInfo) : State :=
  let t := s.thread p.uid p.tid
  if t.st != .running then s.fatal p (f.record 0 0 0)
  else
    let toB := if (t.arch.slot p.slotB).st == .empty then t.arch.b.st != .empty && !p.slotB else p.slotB
    s.modThread p.uid p.tid fun t => if toB then { t with pendB := t.pendB ++ [f] } else { t with pendA := t.pendA ++ [f] }

/-- The slice that performs an access (R92). -/
def Loc.slice : Loc → Nat
  | .mem a => sliceOf a
  | _ => 0

/-- A core's write is performed: in its own L1 for a private line, which is dirty from then on (R93), else at the home. -/
def State.coreWrite (s : State) (core : Nat) (priv : Bool) (ar : Option ArenaRef) (l : Loc) (bs : List Byte) : State :=
  let s := match l with
    | .mem a => if priv then s.soil core a bs.length else s
    | _ => s
  s.homeWrite (some core) ar l bs

/-- An atomic waits for the fill of its sector (R313): the fill returns first. -/
def State.awaitFill (s : State) (l : Loc) (n : Nat) : State := match s.filling l n with
  | some k => s.fillBack k
  | none => s

/-- Perform one lane of a queued write at its home (R208, R297): step 5 again, then the bytes or the atomic. The answer is
the failure, if any. -/
def State.performLane (s : State) (uid : Nat) (w : PendWrite) (l : LaneWrite) : Option Exc × State :=
  let c := s.crew uid
  match w.arena.bind fun a => s.arenaStop a w.gen w.stale true l.loc.slice with
  | some e => (some e, s)
  | none => if s.cutOff c.die l.loc then (none, s) else match w.kind with
    | .store => (none, s.coreWrite c.core (w.hreg == 1) w.arena l.loc l.bytes)
    | .atomic ty k =>
      let n := l.bytes.length
      let s := s.awaitFill l.loc n
      match atomOp ty k (leNat (s.peekN l.loc n)) (leNat l.bytes) l.cmp.toNat with
      | some v => (none, s.coreWrite c.core (w.hreg == 1) w.arena l.loc (leBytes n v))
      | none => (none, s)

/-- Replace the first entry of a queue that goes to `die`. -/
def replaceHead (die : Option Nat) (new : Option PendWrite) : List PendWrite → List PendWrite
  | [] => []
  | e :: t => if e.posted == die then new.toList ++ t else e :: replaceHead die new t

/-- Perform the next lane of the oldest entry for `die`. When its last lane is done the entry leaves the queue, and a
failure becomes a late fault of the slot it issued from, unless the entry is absorbed by a drop (R297, R310). An issuer that has
exited takes no fault: it is fatal (R391), and nothing of it is left to consume poison. -/
def State.performHead (s : State) (uid tid : Nat) (die : Option Nat) : State :=
  match (s.thread uid tid).head die with
  | none => s
  | some w =>
    match w.lanes with
    | [] => s.modThread uid tid fun t => { t with sq := replaceHead die none t.sq }
    | l :: rest =>
      let eats := w.kind != .store && s.poisoned l.loc l.bytes.length
      let (bad, s) := if eats then (none, if w.gone then s else s.killConsumer uid tid) else s.performLane uid w l
      let s := if eats || bad.isSome || w.gone then s else s.modThread uid tid fun t => t.saw l.loc l.bytes.length s.writes
      let w := { w with lanes := rest }
      let w := match bad with
        | none => w
        | some e =>
          { w with failed := w.failed ||| BitVec.ofNat 32 (2 ^ (l.lane.getD 0))
                   failOff := if w.failExc.isNone then l.off else w.failOff
                   failExc := some (w.failExc.getD e) }
      match rest with
      | _ :: _ => s.modThread uid tid fun t => { t with sq := replaceHead die (some w) t.sq }
      | [] =>
        let s := s.modThread uid tid fun t => { t with sq := replaceHead die none t.sq }
        match w.failExc with
        | none => s
        | some e =>
          let p : PairRef := ⟨uid, tid, w.slotB⟩
          let f : FaultInfo :=
            { exc := e, lanes := if l.lane.isSome then some w.failed else none, late := true, hreg := some w.hreg,
              hindex := w.hindex, offset := w.failOff, eng := 2, info := w.hdr, sword := w.word, arena := w.arena }
          if w.absorbed then s else if w.gone then s.fatal p (f.record 0 0 0) else s.pend p f

def performN : Nat → (State → State) → State → State
  | 0, _, s => s
  | n + 1, f, s => performN n f (f s)

/-- Lanes queued for `die`, an entry without lanes counting one. -/
def Thread.queued (t : Thread) (die : Option Nat) : Nat :=
  (t.sq.filter fun e => e.posted == die).foldl (fun n e => n + max 1 e.lanes.length) 0

/-- Perform every queued write of a thread to `die`, in order (R95). -/
def State.drain (s : State) (uid tid : Nat) (die : Option Nat) : State :=
  performN ((s.thread uid tid).queued die) (fun s => s.performHead uid tid die) s

/-- Perform the local writes (R209 release, R216, R227), or those to every die as well (R366, R107). -/
def State.drainLocal (s : State) (uid tid : Nat) : State := s.drain uid tid none
def State.drainAll (s : State) (uid tid : Nat) : State :=
  [none, some 0, some 1, some 2, some 3].foldl (fun s d => s.drain uid tid d) s

/-! ### Replay windows (R120, R121) -/

/-- Let the cycles pass until `n` have passed since cycle `c`. -/
def State.passTo (s : State) (c n : Nat) : State := s.pass (c + n - s.cycles)

/-- The window empties: its words retire D cycles after they executed (R120). -/
def State.drainWindow (s : State) (uid tid : Nat) : State :=
  match (s.thread uid tid).window.getLast? with
  | none => s
  | some e => (s.passTo e.cyc Config.dCycles).modThread uid tid fun t => { t with window := [], residue := 0 }

/-- A word enters the window. A full window first waits for its oldest word to leave (R120). -/
def State.enterWindow (s : State) (uid tid eng : Nat) (caps : List Nat) : State :=
  let t := s.thread uid tid
  let s := if t.window.length < Config.windowLen then s else match t.window.head? with
    | some e => s.passTo e.cyc Config.dCycles
    | none => s
  let drop (l : List WinEntry) : List WinEntry := if l.length < Config.windowLen then l else l.drop 1
  s.modThread uid tid fun t =>
    { t with window := drop t.window ++ [⟨t.issued, s.cycles, t.arch, s.cur.slotB, s.cur.hdr, s.cur.word, eng, caps⟩]
             issued := t.issued + 1 }

/-- A word is about to execute: the vector registers of this instruction boundary are kept, for the 16 latest ones (R83). -/
def Thread.keepPast (t : Thread) : Thread := { t with past := (t.arch.v :: t.past).take 16 }

/-- The newest word leaves the window unexecuted: it has been suspended. -/
def State.leaveWindow (s : State) (uid tid : Nat) : State :=
  s.modThread uid tid fun t => { t with window := t.window.dropLast }

/-! ### Taking a fault (R391, R392, R394, R396) -/

/-- Write the four dwords of a record to registers 60 to 63 (R392). -/
def Arch.putRecord (a : Arch) (r : TrapRec) : Arch :=
  { a with s := Store.set 0 (Store.set 0 (Store.set 0 (Store.set 0 a.s 60 r.d0) 61 r.d1) 62 r.d2) 63 r.d3 }

/-- A slot starts a clause at `pc`. -/
def Slot.at (x : Slot) (pc : Word) : Slot :=
  { x with pc := pc, word := 0, started := false, st := .ready, wait := none, waitSince := 0, holds := false }

/-- Enter privileged firmware in a slot (R396): the place it returns to is kept, and CAUSE says why. -/
def State.enterFirmware (s : State) (p : PairRef) (cause : Nat) (hdr : Word) (word : Nat) : State :=
  s.modArch p.uid p.tid fun a =>
    let enter (x : Slot) : Slot := { x.at s.fw.entry with priv := some cause, retPc := hdr, retWord := word }
    { a.modSlot p.slotB enter with cause := cause }

/-- The trap record a thread took last, with dword 0 in TRAPINFO (R116, R399). -/
def Arch.took (a : Arch) (r : TrapRec) : Arch := { a with trec := r, trapInfo := r.d0 }

/-- Enter the crew's trap entry with a record (R392). -/
def State.enterTrap (s : State) (p : PairRef) (pc : Word) (r : TrapRec) : State :=
  let s := s.modArch p.uid p.tid fun a =>
    ((a.took r).putRecord r).modSlot p.slotB fun x => { x.at pc with inTrap := true }
  s.packet p.uid p.tid 2 (boolNat p.slotB + 2) (leBytes 4 pc.toNat)

/-- Take a fault at clause `hdr`, word `word` of a pair, in the order intercept (R396), fatal (R394), wait for the other
slot's IN TRAP (R392), trap entry (R392). A fault in privileged code itself is fatal (log entry 10). -/
def State.take (s : State) (p : PairRef) (f : FaultInfo) (hdr : Word) (word : Nat) : State :=
  let c := s.crew p.uid
  let a := s.arch p.uid p.tid
  let x := a.slot p.slotB
  let r := f.record hdr word x.mask
  let trapPc := (s.hdrOf c).trapPc
  if x.priv.isNone && (c.icept.getLsbD f.exc.code || f.exc == .singleStep) then
    (s.modArch p.uid p.tid fun a => { a with trec := r }).enterFirmware p (if f.exc == .singleStep then 3 else 2) hdr word
  else if x.priv.isSome || trapPc == Config.noneAddr || x.inTrap then s.fatal p r
  else if !isLead p.tid && (a.slot (!p.slotB)).inTrap then
    s.modSlot p fun x =>
      { x with st := .blocked, pc := hdr, word := word, started := word != 0, holds := false, wait := some (.trapClear f)
               waitSince := s.now }
  else s.enterTrap p trapPc r

/-- A precise fault of the pair being executed (R65, R391): the older words retire, then it is taken at its word. -/
def State.faultWord (s : State) (f : FaultInfo) : State :=
  (s.drainWindow s.cur.uid s.cur.tid).take s.pair f s.cur.hdr s.cur.word

/-! ### After a word -/

/-- What the meaning of a word decides. `goto` is a taken transfer that clears IN TRAP where its flag is set (R392);
`placed` has set the slot itself; `block` suspends the pair at the word (R61). -/
inductive Res where
  | done (s : State)
  | goto (s : State) (pc : Word) (clears : Bool)
  | placed (s : State)
  | block (s : State) (w : Wait)
  | trap (s : State) (f : FaultInfo)

/-- The clause that follows in memory (R54). -/
def State.nextClause (s : State) : Word := s.cur.hdr + BitVec.ofNat 32 (4 * (s.cur.count + 1))

/-- A slot ends a clause: a debugger's suppressions and step end with it (R415, R416, R419). -/
def Slot.endClause (x : Slot) : Slot := { x with skipBp := false, skipWp := 0, dbgStep := false }

/-- The last word of a clause with YLD issues: its pair ranks as having issued most recently (R60). -/
def State.yieldRank (s : State) (p : PairRef) : State :=
  { s with issueCtr := s.issueCtr + 1 }.modSlot p fun x => { x with lastIssue := s.issueCtr + 1 }

/-- The last counted clause has issued: the slot enters firmware with SINGLE_STEP at its next clause (R400). -/
def State.singleStep (s : State) (p : PairRef) : State :=
  (s.modArch p.uid p.tid fun a => { a with stepLeft := Store.set 0 a.stepLeft (boolNat p.slotB) 0 }).take p
    { exc := .singleStep, eng := 8 } (s.slot p).pc 0

/-- A clause of the physical slot has ended: it counts toward the slot's steps (R400). Where no fragment stands READY at a
clause in the slot then, the entry waits for one. -/
def State.countStep (s : State) (p : PairRef) : State :=
  let x := s.slot p
  let k := boolNat p.slotB
  let left := Store.get 0 (s.arch p.uid p.tid).stepLeft k
  if left = 0 || x.priv.isSome then s
  else
    let s := s.modArch p.uid p.tid fun a => { a with stepLeft := Store.set 0 a.stepLeft k (max 1 (left - 1)) }
    if left ≤ 2 && x.st == .ready && !x.started then s.singleStep p else s

/-- The clause has ended with the slot's PC set. -/
def State.clauseEnd (s : State) (p : PairRef) : State := (s.modSlot p Slot.endClause).countStep p

/-- Fall through to the next word, or to the next clause after the last (R54, R62). -/
def State.advance (s : State) : State :=
  if s.cur.word < s.cur.count then
    s.modCSlot fun x =>
      { x with word := s.cur.word + 1, started := true, st := .ready, wait := none, waitSince := 0, holds := true }
  else (s.modCSlot fun x => x.at s.nextClause).clauseEnd s.pair

/-- Transfer to a clause. -/
def State.goTo (s : State) (pc : Word) (clears : Bool) : State :=
  (s.modCSlot fun x => { x.at pc with inTrap := x.inTrap && !clears }).clauseEnd s.pair

/-- Suspend the pair at its word (R61). A limit runs from the word's first issue. -/
def State.suspend (s : State) (w : Wait) : State :=
  s.modCSlot fun x =>
    { x with st := .blocked, pc := s.cur.hdr, word := s.cur.word, started := true, holds := false, wait := some w
             waitSince := if x.wait.isSome then x.waitSince else s.now
             wdSince := if x.wait.isSome then x.wdSince else s.now
             blockedCyc := s.cycles }

/-! ### The checks of R80 -/

/-- What R80 asks of a word: its class, the capability classes it needs (R404), whether its own fields are legal (R69 to
R77), where it may stand (R37, R38), whether it is privileged (R79), whether it acts from the oldest end of the window
(R121), the vector registers and tiles it names; and, for R403, the vector sources it reads in the lanes of A with their guard, those
it reads in other lanes, and the scalar, predicate and handle registers it reads. -/
structure WordInfo where
  cls : Cls
  caps : List Nat
  wf : Bool
  lead : Bool := true
  group : Bool := true
  handler : Bool := true
  priv : Bool := false
  old : Bool := false
  vregs : List Nat := []
  vsrc : List Nat := []
  vread : List (Nat × Word) := []
  reads : List Nat := []
  tiles : List Nat := []
  gp : BitVec 3 := 0
  gn : BitVec 1 := 0
deriving DecidableEq, Repr

/-- Steps 3 to 6 of R80. -/
def State.wordFault (s : State) (i : WordInfo) : Option Exc :=
  let c := s.ccrew
  let h := s.chdr
  let t := s.cur.tid
  let here := if isLead t then i.lead else if isHandler t then i.handler else i.group
  if !i.wf || i.vregs.any (fun n => h.vregs ≤ n) || i.tiles.any (fun n => h.tiles ≤ n) || !here then
    some .illegalInstruction
  else if i.priv && s.cslot.priv.isNone then some .privileged
  else if i.caps.any (fun b => !h.uses.getLsbD b) then some .opclassUndeclared
  else if i.caps.any (fun b => !(s.core c.core).mask.getLsbD b) then some .capabilityFenced
  else none

/-- The thread and slot that `cur` names hold a word to execute. -/
def State.issuerReady (s : State) : Bool :=
  s.cthr.st == .running && s.cslot.st == .ready && (s.ccrew.st == .running || s.ccrew.st == .preempting)

/-- A register that the word reads is poisoned (R403): lanes of A of the vector sources, named lanes of others, or a scalar,
predicate or handle register; in privileged code scalar registers are the bank's. -/
def State.readsPoison (s : State) (i : WordInfo) : Bool :=
  let bad := Store.get false s.ccrew.regPoison
  let t := s.cur.tid
  let lanes (n : Nat) (m : Word) : Bool := (laneList m).any fun l => bad (regOff t n l)
  !s.ccrew.regPoison.isEmpty && (i.vsrc.any (fun n => lanes n (s.lanes i.gp i.gn)) || i.vread.any (fun e => lanes e.1 e.2) ||
    i.reads.any fun k => !(k < 64 && s.cslot.priv.isSome) && bad (regKey t k))

/-- Carry out what the meaning decided. -/
def State.settle (s : State) (old : Bool) : Res → State
  | .done t => t.advance
  | .goto t pc clears => t.goTo pc clears
  | .placed t => t
  | .block t w => (if old then t else t.leaveWindow s.cur.uid s.cur.tid).suspend w
  | .trap t f => t.faultWord f

/-- A fence of kind `k` that has not completed holds every word of the class: engine commands behind any fence (R104), MEM
words behind `.full`, `.ll` and `.acq`, which order loads after themselves (R220, R221). -/
def fenceHolds (k : Nat) : Cls → Bool
  | .mem => k == 0 || k == 1 || k == 3
  | .mtx => true
  | .cpy => true
  | .arn => true
  | .msg => true
  | _ => false

/-- The kind of the thread's fence that has not completed. -/
def State.fencePending (s : State) : Option Nat := s.cthr.fence.map fun f => f.1 % 8

/-- The pair stands inside an atomic: its other slot's fences come after it. -/
def State.midAtomic (s : State) : Bool := match s.cslot.wait with
  | some (.atoms _ _) => true
  | _ => false

/-- Execute a word: the checks of R80, the window, the meaning, what follows. -/
def runWord (i : WordInfo) (body : State → Res) (s : State) : Host.Outcome State Fault Refusal :=
  if !s.issuerReady then .fault .noIssuer
  else match s.wordFault i with
    | some e => .next (s.faultWord { exc := e, eng := engOf i.cls })
    | none =>
      if s.readsPoison i then .next (s.suspend .poison)
      else if !s.midAtomic && s.fencePending.any fun k => fenceHolds k i.cls then .next (s.suspend .fence)
      else
        let s := s.modThread s.cur.uid s.cur.tid Thread.keepPast
        let t := if i.old then s.drainWindow s.cur.uid s.cur.tid else s.enterWindow s.cur.uid s.cur.tid (engOf i.cls) i.caps
        .next (s.settle i.old (body t))
where
  /-- ENG code of a class (R56). -/
  engOf : Cls → Nat
    | .vec => 0
    | .sca => 1
    | .mem => 2
    | .ctl => 3
    | .mtx => 4
    | .cpy => 5
    | .arn => 6
    | .msg => 7
    | .sys => 8

/-! ### Barrier objects (R223 to R226) -/

/-- A barrier object (R223). `rest` is bits [31:4] of its flags word, which no barrier operation changes. -/
structure Bar where
  rest : Nat := 0
  expect : Nat
  pending : Nat
  last : Bool
  armed : Bool
  overrun : Bool
  phase : Bool
  arrivals : Nat
deriving DecidableEq, Repr

def State.rdBar (s : State) (uid off : Nat) : Bar :=
  let w (k : Nat) : Nat := leNat (s.peekN (.scr uid (off + 4 * k)) 4)
  let f := w 2
  ⟨f / 16, w 0, w 1, f / 8 % 2 == 1, f / 4 % 2 == 1, f / 2 % 2 == 1, f % 2 == 1, w 3⟩

/-- The object's four words. -/
def Bar.bytes (b : Bar) : List Byte :=
  leBytes 4 b.expect ++ leBytes 4 b.pending ++
    leBytes 4 (16 * b.rest + 8 * boolNat b.last + 4 * boolNat b.armed + 2 * boolNat b.overrun + boolNat b.phase) ++ leBytes 4 b.arrivals

def State.wrBar (s : State) (uid off : Nat) (b : Bar) : State := s.poke (.scr uid off) b.bytes

/-- ARRIVE_BAR (R224): OK or ERROR. A flip releases the words that wait for it, with the status of R226. ARRIVALS counts modulo
2^32 (log entry 78). -/
def State.arriveBar (s : State) (uid off n : Nat) : Bool × State :=
  let b := s.rdBar uid off
  if !b.armed then (false, s.wrBar uid off { b with overrun := true })
  else
    let b := if b.last then { b with arrivals := 0, last := false } else b
    let b := { b with arrivals := (b.arrivals + 1) % 2 ^ 32 }
    if n < b.pending then (true, s.wrBar uid off { b with pending := b.pending - n })
    else
      let err := decide (b.pending < n)
      let b := { b with overrun := b.overrun || err, phase := !b.phase, pending := b.expect, last := true }
      let s := s.wrBar uid off b
      let s := s.emit uid 4 (boolNat b.phase + 2 * boolNat b.overrun) (leBytes 4 off)
      (!err, s.wakeBar uid off (boolNat b.overrun))

/-! ### Tokens and completions (R15 to R19) -/

def Thread.token (t : Thread) (k : Nat) : Tok := Store.get {} t.toks k

/-- A command takes its token (R16). -/
def Thread.takeToken (t : Thread) (k : Nat) : Thread :=
  { t with toks := Store.set {} t.toks k ⟨true, (t.token k).cnt + 1⟩ }

/-- An operation leaves its token, which clears when none remain (R18). -/
def Thread.dropToken (t : Thread) (k : Nat) : Thread :=
  let n := (t.token k).cnt - 1
  { t with toks := Store.set {} t.toks k ⟨n != 0, n⟩ }

/-- The tokens of a TWAIT mask are clear. -/
def Thread.tokensClear (t : Thread) (m : BitVec 8) : Bool :=
  (List.range 8).all fun k => !(m.getLsbD k && (t.token k).set)

/-- Advance a timeline over the operations that have completed (R15). -/
def advanceTimeline : Nat → Nat → List Nat → Nat × List Nat
  | 0, n, l => (n, l)
  | k + 1, n, l => if l.contains (n + 1) then advanceTimeline k (n + 1) (l.erase (n + 1)) else (n, l)

/-- Completion records that a context keeps (R249, R342). -/
def keptBy : Ctx → Nat
  | .message => Config.messageKept
  | _ => Config.recordsKept

/-- Mark operation `num` complete in its context (R18 step 3) and keep its record among the last `keep` (R249, R342). -/
def EngCtx.finish (x : EngCtx) (num : Nat) (q : Option OpRecord) (keep : Nat) : EngCtx :=
  let r := advanceTimeline (x.done.length + 1) x.timeline (num :: x.done)
  { x with ops := x.ops.filter (fun o => o.num != num), timeline := r.1, done := r.2
           recs := match q with
             | some q => (x.recs ++ [q]).drop (x.recs.length + 1 - keep)
             | none => x.recs }

/-- The three effects of R18, and the fault of R19 when the operation completes in error: the fault waits at the issuing
slot, unless it consumed poison, which kills the issuer instead (R403). `count` is its arrival; an operation in error
arrives at no barrier. -/
def State.finishOp (s : State) (o : OpRef) (op : Op) (count : Nat) (err : Option FaultInfo) (r : Option OpRecord) :
    State :=
  let (okArr, s) := match err, op.bar with
    | none, some off => s.arriveBar o.uid off count
    | _, _ => (true, s)
  let kept := r.map fun r => if okArr then r else { r with status := 1 }
  let s := s.modThread o.uid op.tid fun t => t.dropToken op.tok
  let s := s.modCrew o.uid fun c => c.modCtx o.ctx fun x => x.finish op.num kept (keptBy o.ctx)
  match err with
  | some f =>
    if f.exc == .dataUncorrectable then s
    else s.pend ⟨o.uid, op.tid, op.slotB⟩ { f with asyn := true, info := BitVec.ofNat 32 op.num, sword := op.word }
  | none => s

/-- Accept a command into a context (R15, R16): it takes the next number and its token. -/
def State.accept (s : State) (x : Ctx) (mk : Nat → Op) : Nat × State :=
  let n := (s.ccrew.ctx x).last + 1
  let s := s.modCrew s.cur.uid fun c => c.modCtx x fun e => { e with last := n, ops := e.ops ++ [mk n] }
  (n, s.modThread s.cur.uid s.cur.tid fun t => t.takeToken (mk n).tok)

/-- A fresh operation of the word that `cur` names, with the issuing slot's FMT (R113). -/
def State.newOp (s : State) (opcode : Nat) (f : FmtEB) (num : Nat) : Op where
  num := num
  opcode := opcode
  f10 := f.f
  xb := bits f.sd.toNat 0 4
  tok := f.tok.toNat
  tid := s.cur.tid
  slotB := s.cur.slotB
  hdr := s.cur.hdr
  word := s.cur.word
  fmt := s.fmt
  blk := [s.blkS f.sa 0, s.blkS f.sa 1, s.blkS f.sa 2, s.blkS f.sa 3]
  since := s.now

/-- A context has room and is not frozen (R252, R283), and the token is below its limit of 15 (R16). -/
def State.mayAccept (s : State) (x : Ctx) (room tok : Nat) : Option Wait :=
  if (s.cthr.token tok).cnt ≥ Config.tokMax then some (.token tok)
  else if (s.ccrew.ctx x).freeze || ((s.ccrew.ctx x).ops.length) ≥ room then some (.room x)
  else none

/-- An operation of a context by number. -/
def EngCtx.completed (x : EngCtx) (n : Nat) : Bool := n ≤ x.timeline || x.done.contains n

/-! ### Whether a suspended word could proceed -/

/-- The limit of a suspended word, which runs from its first issue, has passed (R61); 0 is no limit. -/
def State.waitOver (s : State) (x : Slot) : Bool :=
  let passed (us : Nat) : Bool := us != 0 && x.waitSince + us * 1000 ≤ s.now
  match x.wait with
  | some (.timeline _ _ us) => passed us
  | some (.recv _ us) => passed us
  | some (.cellar _ us) => passed us
  | _ => false

/-- The suspended word is released with no value of its own: it finds out when it reissues. -/
def Slot.expire (x : Slot) : Slot := { x with wait := some (.released 0 0) }

/-- The condition of R61: the word that a slot is suspended at could now let the pair go on. -/
def State.canResume (s : State) (uid tid : Nat) (b : Bool) (x : Slot) : Bool :=
  let c := s.crew uid
  let t := c.thread tid
  match x.wait with
  | none => true
  | some w => match w with
    | .twaitHdr m => t.tokensClear m
    | .twaitWord m => t.tokensClear m
    | .dqpop => t.dqPos < c.dqBase + c.dq.length || !c.leadRunning
    | .dqpush => c.dq.length < Config.dqLen || c.liveGroups.isEmpty
    | .barrier off ph =>
      let o := s.rdBar uid off
      c.abandon || !o.armed || o.phase != ph
    | .flwait die n => n ≤ Store.get 0 t.flDone die
    | .timeline ctx n _ => n.toNat ≤ (c.ctx ctx).timeline
    | .recv gid _ => let r := Store.get {} c.ready gid; r.cpos < r.wpos
    | .round id k => !(Store.get {} (s.part c.pref).colls id).rounds.any fun r =>
        r.k == k && r.ended.isNone && r.posts.any fun q => q.uid == uid
    | .rounds k => ((Store.get {} (s.part c.pref).colls k).rounds.filter fun r => r.ended.isNone).length < 4
    | .token k => (t.token k).cnt < Config.tokMax
    | .room ctx => !(c.ctx ctx).freeze && (c.ctx ctx).ops.length < (match ctx with
      | .copy => Config.copyRoom
      | .matrix => Config.matrixRoom
      | .arena => Config.arenaRoom
      | .message => Config.messageRoom)
    | .cellar core _ => (s.core core).cellar.length < Config.cellarLen
    | .matrixIdle n => n ≤ c.mtx.timeline
    | .fence => t.fence.isNone
    | .copyYield n => c.cpy.completed n
    | .dump _ _ _ _ _ => false
    | .page d pg _ => s.pagePresent d pg
    | .walk d pg => (s.core c.core).tlb.contains (d, pg)
    | .fill k => Store.get 0 s.fills k == 0
    | .atoms _ _ => true
    | .trapClear _ => !(t.arch.slot (!b)).inTrap
    | .poison => false
    | .stopped => c.stop.isNone
    | .halted => false
    | .released _ _ => true

end Sys2Proof.Machine
end

