-- ==== Sys2Proof/Machine/Vec.lean ====
section
/-! DEFINITION. The VEC class (09): one meaning per word over the shared lane operations. -/

namespace Sys2Proof.Machine

/-- Capability bit of a VEC word of an integer type (R404); untyped words are of bit 3. -/
def capInt (ty : BitVec 3) : List Nat := [if ty.ule 1 then 3 else if ty.ule 3 then 4 else 5]

/-- Capability bit of a VEC word of a float type (R404). -/
def capFlt (ty : BitVec 3) : List Nat := [6 + ty.toNat]

/-- What R80 asks of a VEC word naming registers `regs` and reading `src`. -/
def vecInfo (i : Instr) (caps : List Nat) (regs src : List (BitVec 6)) : WordInfo :=
  { cls := .vec, caps := caps, wf := i.wf, reads := i.reads, lead := false
    vregs := regs.map BitVec.toNat, vsrc := src.map BitVec.toNat }

/-- A VR word with two sources, and with one; `rdD` says that the old destination is a source. -/
def vr3Info (i : Instr) (caps : List Nat) (rdD : Bool) (f : FmtVR) : WordInfo :=
  { vecInfo i caps [f.vd, f.va, f.vb] ([f.va, f.vb] ++ if rdD then [f.vd] else []) with gp := f.gp, gn := f.gn }

def vr2Info (i : Instr) (caps : List Nat) (rdD : Bool) (f : FmtVR) : WordInfo :=
  { vecInfo i caps [f.vd, f.va] (f.va :: if rdD then [f.vd] else []) with gp := f.gp, gn := f.gn }

/-- A VR word with two sources: vd[l] := op(va[l], vb[l], old vd[l]) over A (R178, R186). -/
def vr3 (i : Instr) (caps : List Nat) (rdD : Bool) (f : FmtVR) (op : FEnv → Word → Word → Word → Word) (s : State) :
    Host.Outcome State Fault Refusal :=
  runWord (vr3Info i caps rdD f)
    (fun s => .done (s.wrV f.vd (s.lanes f.gp f.gn) fun l => op s.fenv (s.rdV f.va l) (s.rdV f.vb l) (s.rdV f.vd l))) s

/-- A VR word with one source. -/
def vr2 (i : Instr) (caps : List Nat) (rdD : Bool) (f : FmtVR) (op : FEnv → Word → Word → Word) (s : State) :
    Host.Outcome State Fault Refusal :=
  runWord (vr2Info i caps rdD f)
    (fun s => .done (s.wrV f.vd (s.lanes f.gp f.gn) fun l => op s.fenv (s.rdV f.va l) (s.rdV f.vd l))) s

/-- A VI word with one source; A = MASK (R187). -/
def vi2 (i : Instr) (caps : List Nat) (f : FmtVI) (op : Word → Word) (s : State) : Host.Outcome State Fault Refusal :=
  runWord (vecInfo i caps [f.vd, f.va] [f.va])
    (fun s => .done (s.wrV f.vd s.mask fun l => op (s.rdV f.va l))) s

/-- An integer word of R186 on each element. -/
def vInt (i : Instr) (f : FmtVR) (rdD : Bool) (op : Int → Int → Int → Int) (s : State) :
    Host.Outcome State Fault Refusal :=
  vr3 i (capInt f.ty) rdD f (fun _ => laneOp f.ty.toNat op) s

/-- A float word of R201 on each element. -/
def vFlt (i : Instr) (f : FmtVR) (rdD : Bool) (op : FEnv → FFmt → Nat → Nat → Nat → Nat) (s : State) :
    Host.Outcome State Fault Refusal :=
  vr3 i (capFlt f.ty) rdD f (fun v => fLane f.ty.toNat (op v)) s

/-- A function of R203, with FTZ on input and result. -/
def vFun (i : Instr) (f : FmtVR) (which : Nat) (s : State) : Host.Outcome State Fault Refusal :=
  vr2 i (capFlt f.ty ++ [9]) false f (fun v x _ =>
    fLane f.ty.toNat (fun g a _ _ => g.flush v.ftz (g.func which (g.read v a))) x 0 0) s

/-! ### Moves and selection (R182 to R185) -/

def execVmov (f : FmtVR) (s : State) : Host.Outcome State Fault Refusal :=
  vr2 (Instr.vmov f) [3] false f (fun _ x _ => x) s

/-- An immediate in every element: zero-extended for U types, sign-extended otherwise (R183). -/
def immLane (ty : Nat) (unsignedZ : Bool) (imm : BitVec 10) : Word :=
  let v : Int := if unsignedZ && !tySigned ty then imm.toNat else imm.toInt
  let w := tyWidth ty
  BitVec.ofNat 32 (packElems w (List.replicate (32 / w) (wrapTo w v)))

def execVmovi (f : FmtVI) (s : State) : Host.Outcome State Fault Refusal :=
  runWord (vecInfo (Instr.vmovi f) (capInt f.ty) [f.vd] [])
    (fun s => .done (s.wrV f.vd s.mask fun _ => immLane f.ty.toNat true f.imm)) s

def execVsel (f : FmtVR) (s : State) : Host.Outcome State Fault Refusal :=
  runWord (vecInfo (Instr.vsel f) [3] [f.vd, f.va, f.vb] [f.va, f.vb])
    (fun s => .done (s.wrV f.vd s.mask fun l =>
      if (s.guard f.gp f.gn).getLsbD l then s.rdV f.va l else s.rdV f.vb l)) s

def execVmovs (f : FmtVS) (s : State) : Host.Outcome State Fault Refusal :=
  runWord (vecInfo (Instr.vmovs f) [3] [f.v] [])
    (fun s => .done (s.wrV f.v s.mask fun _ => (s.rdS f.sr).setWidth 32)) s

/-- Lower bit of WID field n, and its width (R24). -/
def widLow (w : List Nat) (n : Nat) : Nat := (w.take n).foldl (· + ·) 0

/-- Field n of a WID. -/
def widField (w : List Nat) (wid n : Nat) : Nat := bits wid (widLow w n) (w.getD n 0)

/-- B of R25, and the crew base of R26. -/
def Hdr.lanesLog (h : Hdr) : Nat := (h.widw.take h.lvl).foldl (· + ·) 0
def Hdr.crewBase (h : Hdr) (idx : Nat) : Nat := idx * 2 ^ h.lanesLog

/-- WID of lane 0 of a thread: a handler's and the lead's is the crew base (R26, R28, R42). -/
def State.widBase (s : State) : Nat :=
  s.chdr.crewBase s.ccrew.idx + if s.cur.tid < 32 then 32 * s.cur.tid else 0

def execVsr (f : FmtVS) (s : State) : Host.Outcome State Fault Refusal :=
  runWord (vecInfo (Instr.vsr f) [3] [f.v] [])
    (fun s => .done (s.wrV f.v s.mask fun l =>
      let wid := s.widBase + l
      BitVec.ofNat 32 (match f.x10.toNat with
        | 0 => l
        | 1 => wid
        | 2 => wid / 2 ^ 32
        | n => widField s.chdr.widw wid (n - 3)))) s

/-! ### Integer arithmetic (R186, R187) -/

def execVadd (f : FmtVR) (s : State) : Host.Outcome State Fault Refusal :=
  vInt (Instr.vadd f) f false (fun x y _ => x + y) s

def execVsub (f : FmtVR) (s : State) : Host.Outcome State Fault Refusal :=
  vInt (Instr.vsub f) f false (fun x y _ => x - y) s

def execVadds (f : FmtVR) (s : State) : Host.Outcome State Fault Refusal :=
  vInt (Instr.vadds f) f false (fun x y _ => clampTo f.ty.toNat (x + y)) s

def execVsubs (f : FmtVR) (s : State) : Host.Outcome State Fault Refusal :=
  vInt (Instr.vsubs f) f false (fun x y _ => clampTo f.ty.toNat (x - y)) s

def execVmul (f : FmtVR) (s : State) : Host.Outcome State Fault Refusal :=
  vInt (Instr.vmul f) f false (fun x y _ => x * y) s

def execVmulhi (f : FmtVR) (s : State) : Host.Outcome State Fault Refusal :=
  vInt (Instr.vmulhi f) f false (fun x y _ => asr (x * y) (tyWidth f.ty.toNat)) s

def execVmad (f : FmtVR) (s : State) : Host.Outcome State Fault Refusal :=
  vInt (Instr.vmad f) f true (fun x y z => z + x * y) s

def execVmin (f : FmtVR) (s : State) : Host.Outcome State Fault Refusal :=
  vInt (Instr.vmin f) f false (fun x y _ => min x y) s

def execVmax (f : FmtVR) (s : State) : Host.Outcome State Fault Refusal :=
  vInt (Instr.vmax f) f false (fun x y _ => max x y) s

def execVabsd (f : FmtVR) (s : State) : Host.Outcome State Fault Refusal :=
  vInt (Instr.vabsd f) f false (fun x y _ => ((x - y).natAbs : Int)) s

def execVand (f : FmtVR) (s : State) : Host.Outcome State Fault Refusal :=
  vr3 (Instr.vand f) [3] false f (fun _ x y _ => x &&& y) s

def execVor (f : FmtVR) (s : State) : Host.Outcome State Fault Refusal :=
  vr3 (Instr.vor f) [3] false f (fun _ x y _ => x ||| y) s

def execVxor (f : FmtVR) (s : State) : Host.Outcome State Fault Refusal :=
  vr3 (Instr.vxor f) [3] false f (fun _ x y _ => x ^^^ y) s

def execVandn (f : FmtVR) (s : State) : Host.Outcome State Fault Refusal :=
  vr3 (Instr.vandn f) [3] false f (fun _ x y _ => x &&& ~~~y) s

def execVshl (f : FmtVR) (s : State) : Host.Outcome State Fault Refusal :=
  vInt (Instr.vshl f) f false (fun x y _ => x * 2 ^ shAmt f.ty.toNat y) s

def execVshr (f : FmtVR) (s : State) : Host.Outcome State Fault Refusal :=
  vInt (Instr.vshr f) f false (fun x y _ => asr x (shAmt f.ty.toNat y)) s

def execVrot (f : FmtVR) (s : State) : Host.Outcome State Fault Refusal :=
  vInt (Instr.vrot f) f false (fun x y _ => rotl (tyWidth f.ty.toNat) x.toNat (shAmt f.ty.toNat y)) s

def execVaddi (f : FmtVI) (s : State) : Host.Outcome State Fault Refusal :=
  vi2 (Instr.vaddi f) (capInt f.ty) f (fun x => laneOp f.ty.toNat (fun a _ _ => a + f.imm.toInt) x 0 0) s

def execVandi (f : FmtVI) (s : State) : Host.Outcome State Fault Refusal :=
  vi2 (Instr.vandi f) (capInt f.ty) f (fun x => x &&& immLane f.ty.toNat true f.imm) s

def execVshli (f : FmtVI) (s : State) : Host.Outcome State Fault Refusal :=
  vi2 (Instr.vshli f) (capInt f.ty) f (fun x => laneOp f.ty.toNat (fun a _ _ => a * 2 ^ f.imm.toNat) x 0 0) s

def execVshri (f : FmtVI) (s : State) : Host.Outcome State Fault Refusal :=
  vi2 (Instr.vshri f) (capInt f.ty) f (fun x => laneOp f.ty.toNat (fun a _ _ => asr a f.imm.toNat) x 0 0) s

/-! ### Bit fields and counts (R188, R189) -/

/-- pos and e of R188. -/
def bfPos (y : Word) : Nat := bits y.toNat 0 5
def bfLen (y : Word) : Nat := min (min (bits y.toNat 8 6) 32) (32 - bfPos y)

def execVbfe (f : FmtVR) (s : State) : Host.Outcome State Fault Refusal :=
  vr3 (Instr.vbfe f) (capInt f.ty) false f (fun _ x y _ =>
    let v := bits x.toNat (bfPos y) (bfLen y)
    if f.ty == 0 then sext32 (bfLen y) v else BitVec.ofNat 32 v) s

def execVbfi (f : FmtVR) (s : State) : Host.Outcome State Fault Refusal :=
  vr3 (Instr.vbfi f) [3] true f (fun _ x y z =>
    let m : Word := BitVec.ofNat 32 ((2 ^ bfLen y - 1) * 2 ^ bfPos y)
    (z &&& ~~~m) ||| ((x <<< bfPos y) &&& m)) s

def execVpopc (f : FmtVR) (s : State) : Host.Outcome State Fault Refusal :=
  vr2 (Instr.vpopc f) (capInt f.ty) false f (fun _ x _ =>
    laneOp f.ty.toNat (fun a _ _ => popTo 32 a.toNat) x 0 0) s

def execVclz (f : FmtVR) (s : State) : Host.Outcome State Fault Refusal :=
  vr2 (Instr.vclz f) (capInt f.ty) false f (fun _ x _ =>
    laneOp f.ty.toNat (fun a _ _ => clzTo (tyWidth f.ty.toNat) a.toNat) x 0 0) s

def execVbrev (f : FmtVR) (s : State) : Host.Outcome State Fault Refusal :=
  vr2 (Instr.vbrev f) [3] false f (fun _ x _ => BitVec.ofNat 32 (brevTo 32 x.toNat)) s

/-! ### Packed add-compare-select and half select (R190, R191) -/

/-- Replace the bits of a predicate in the lanes of A; the poison of a predicate goes only where it is written whole (R403). -/
def State.wrPLanes (s : State) (n : Nat) (A : Word) (v : Nat → Bool) : State :=
  let t := s.wrP n ((s.rdP n &&& ~~~A) ||| (laneMask v &&& A))
  if A == 0xFFFFFFFF then t else t.modCrew s.cur.uid fun c => { c with regPoison := s.ccrew.regPoison }

def execVacs (f : FmtVX) (s : State) : Host.Outcome State Fault Refusal :=
  runWord (vecInfo (Instr.vacs f) [4] [f.vd, f.va, f.vb] [f.va, f.vb])
    (fun s =>
      let gt (i l : Nat) : Bool := decide (elem 16 true (s.rdV f.va l) i < elem 16 true (s.rdV f.vb l) i)
      let pick (i l : Nat) : Nat := wrapTo 16 (elem 16 true (if gt i l then s.rdV f.vb l else s.rdV f.va l) i)
      let n := f.x4.toNat
      .done (((s.wrV f.vd s.mask fun l => BitVec.ofNat 32 (packElems 16 [pick 0 l, pick 1 l])).wrPLanes n s.mask (gt 0)).wrPLanes
        (n + 1) s.mask (gt 1))) s

def execVhsel (f : FmtVX) (s : State) : Host.Outcome State Fault Refusal :=
  runWord (vecInfo (Instr.vhsel f) [3] [f.vd, f.va, f.vb] [f.va, f.vb])
    (fun s =>
      let half (l c : Nat) : Nat := bits (if c < 2 then s.rdV f.va l else s.rdV f.vb l).toNat (16 * (c % 2)) 16
      .done (s.wrV f.vd s.mask fun l =>
        BitVec.ofNat 32 (half l (bits f.x4.toNat 0 2) + 65536 * half l (bits f.x4.toNat 2 2)))) s

/-! ### Lane movement (R192 to R194) -/

/-- The lanes of its source that `vperm` reads. -/
def State.permFrom (s : State) (f : FmtVR) : Word :=
  laneMask fun j => (laneList (s.lanes f.gp f.gn)).any fun l => (s.rdV f.vb l).toNat % 32 == j

def execVperm (f : FmtVR) (s : State) : Host.Outcome State Fault Refusal :=
  runWord { vecInfo (Instr.vperm f) [3] [f.vd, f.va, f.vb] [f.vb] with gp := f.gp, gn := f.gn, vread := [(f.va.toNat, s.permFrom f)] }
    (fun s => .done (s.wrV f.vd (s.lanes f.gp f.gn) fun l => s.rdV f.va ((s.rdV f.vb l).toNat % 32))) s

/-- The source lane of `vshfl` (R193). -/
def shflSrc (mode n l : Nat) : Nat :=
  match mode with
  | 0 => Nat.xor l n
  | 1 => if n ≤ l then l - n else l
  | 2 => if l + n ≤ 31 then l + n else l
  | _ => n

/-- The lanes of its source that `vshfl` reads. -/
def State.shflFrom (s : State) (f : FmtVI) : Word :=
  laneMask fun j => (laneList s.mask).any fun l => shflSrc (bits f.imm.toNat 8 2) (bits f.imm.toNat 0 5) l == j

def execVshfl (f : FmtVI) (s : State) : Host.Outcome State Fault Refusal :=
  runWord { vecInfo (Instr.vshfl f) [3] [f.vd, f.va] [] with vread := [(f.va.toNat, s.shflFrom f)] }
    (fun s => .done (s.wrV f.vd s.mask fun l =>
      s.rdV f.va (shflSrc (bits f.imm.toNat 8 2) (bits f.imm.toNat 0 5) l))) s

def execVrdl (f : FmtVS) (s : State) : Host.Outcome State Fault Refusal :=
  runWord { vecInfo (Instr.vrdl f) (capInt f.ty) [f.v] [] with vread := [(f.v.toNat, BitVec.ofNat 32 (2 ^ bits f.x10.toNat 0 5))] }
    (fun s =>
      let x := s.rdV f.v (bits f.x10.toNat 0 5)
      .done (s.wrS f.sr (if f.ty == 0 then x.signExtend 64 else x.setWidth 64))) s

def execVwrl (f : FmtVS) (s : State) : Host.Outcome State Fault Refusal :=
  runWord (vecInfo (Instr.vwrl f) [3] [f.v] [])
    (fun s =>
      let x := bits f.x10.toNat 0 5
      .done (s.wrV f.v (s.mask &&& BitVec.ofNat 32 (2 ^ x)) fun _ => (s.rdS f.sr).setWidth 32)) s

/-! ### Reductions and scans (R195 to R197) -/

/-- Integer operation of OPF on values as T reads them (R195). -/
def opfInt (op : Nat) (x y : Int) : Int :=
  match op with
  | 0 => x + y
  | 1 => min x y
  | 2 => max x y
  | 3 => Nat.land (wrapTo 64 x) (wrapTo 64 y)
  | 4 => Nat.lor (wrapTo 64 x) (wrapTo 64 y)
  | _ => Nat.xor (wrapTo 64 x) (wrapTo 64 y)

/-- Float operation of OPF on F32 codes. -/
def opfFlt (v : FEnv) (op x y : Nat) : Nat :=
  match op with
  | 0 => fmtF32.add v x y
  | 1 => fmtF32.minmax v.ftz true x y
  | _ => fmtF32.minmax v.ftz false x y

/-- Combine neighbours, an absent one passing the other on (R196). -/
def pairUp {α : Type} (f : α → α → α) : List (Option α) → List (Option α)
  | some a :: some b :: t => some (f a b) :: pairUp f t
  | none :: b :: t => b :: pairUp f t
  | a :: none :: t => a :: pairUp f t
  | l => l

/-- The fixed pairwise tree over 32 lanes (R196). -/
def treeReduce {α : Type} (f : α → α → α) (l : List (Option α)) : Option α :=
  (pairUp f (pairUp f (pairUp f (pairUp f (pairUp f l))))).headD none

/-- The identity for an empty mask, as the 64-bit value written (R196). -/
def redIdentity (isF signed : Bool) (op : Nat) : DWord :=
  if isF then (match op with
    | 0 => 0
    | 1 => 0x7F800000
    | _ => 0xFF800000)
  else match op with
    | 1 => if signed then 0x7FFFFFFF else 0xFFFFFFFF
    | 2 => if signed then 0xFFFFFFFF80000000 else 0
    | 3 => if signed then 0xFFFFFFFFFFFFFFFF else 0xFFFFFFFF
    | _ => 0

/-- A lane as T reads it. -/
def laneInt (signed : Bool) (x : Word) : Int := if signed then x.toInt else x.toNat

def execVred (f : FmtVS) (s : State) : Host.Outcome State Fault Refusal :=
  runWord (vecInfo (Instr.vred f) (if f.x10.getLsbD 3 then capFlt f.ty else capInt f.ty) [f.v] [f.v])
    (fun s =>
      let op := bits f.x10.toNat 0 3
      let isF := f.x10.getLsbD 3
      let sg := f.ty == 0
      let ids := List.range 32
      let r : DWord :=
        if isF then
          match treeReduce (opfFlt s.fenv op) (ids.map fun l => if s.mask.getLsbD l then some (s.rdV f.v l).toNat else none) with
          | some x => BitVec.ofNat 64 x
          | none => redIdentity true sg op
        else
          match treeReduce (opfInt op) (ids.map fun l =>
              if s.mask.getLsbD l then some (laneInt sg (s.rdV f.v l)) else none) with
          | some x => BitVec.ofInt 64 x
          | none => redIdentity false sg op
      .done (s.wrS f.sr r)) s

/-- The running prefix of `vscan`: what each lane of A receives (R197). The first lane of A passes its value on as R197's own lines
write it, with no combination and so no flush (R166; log entry 75). -/
def scanFrom (f : Nat → Nat → Nat) (inA : Nat → Bool) (v : Nat → Nat) : Nat → Nat → Option Nat → Store Nat
  | 0, _, _ => []
  | k + 1, l, acc =>
    if inA l then
      let x := match acc with
        | none => v l
        | some a => f a (v l)
      (l, x) :: scanFrom f inA v k (l + 1) (some x)
    else scanFrom f inA v k (l + 1) acc

def execVscan (f : FmtVR) (s : State) : Host.Outcome State Fault Refusal :=
  runWord { vecInfo (Instr.vscan f) (if f.vb.getLsbD 3 then capFlt f.ty else capInt f.ty) [f.vd, f.va] [f.va] with gp := f.gp, gn := f.gn }
    (fun s =>
      let op := bits f.vb.toNat 0 3
      let sg := f.ty == 0
      let comb : Nat → Nat → Nat :=
        if f.vb.getLsbD 3 then opfFlt s.fenv op
        else fun a b => wrapTo 32 (opfInt op (laneInt sg (BitVec.ofNat 32 a)) (laneInt sg (BitVec.ofNat 32 b)))
      let A := s.lanes f.gp f.gn
      let r := scanFrom comb (fun l => A.getLsbD l) (fun l => (s.rdV f.va l).toNat) 32 0 none
      .done (s.wrV f.vd A fun l => BitVec.ofNat 32 (Store.get 0 r l))) s

/-! ### Dot products (R198, R199) -/

def execVdot4 (f : FmtVR) (s : State) : Host.Outcome State Fault Refusal :=
  vr3 (Instr.vdot4 f) [5] true f (fun _ x y z =>
    let g := tySigned f.ty.toNat
    BitVec.ofNat 32 (wrapTo 32 ((z.toNat : Int) +
      ((List.range 4).map fun i => elem 8 g x i * elem 8 g y i).foldl (· + ·) 0))) s

/-- One lane of `vdot2`: R169 with K = 2; FTZ acts on F16 halves, on C and on the result, never on B16 halves. -/
def dot2Lane (g : FFmt) (v : FEnv) (x y z : Word) : Word :=
  let h (w : Word) (i : Nat) : FVal := g.read v (bits w.toNat (16 * i) 16)
  let c := fmtF32.flush v.ftz z.toNat
  BitVec.ofNat 32 (fmtF32.flush v.ftz (dotF c [[(h x 0).mul (h y 0)], [(h x 1).mul (h y 1)]]))

def execVdot2 (f : FmtVR) (s : State) : Host.Outcome State Fault Refusal :=
  vr3 (Instr.vdot2 f) (capFlt f.ty) true f (fun v => dot2Lane (tyFmt f.ty.toNat) v) s

/-! ### Compares (R200) -/

/-- Write pd over MASK: the condition where the guard holds, else 0. -/
def cmpWord (i : Instr) (caps : List Nat) (f : FmtVP) (c : FEnv → Word → Word → Bool) (s : State) :
    Host.Outcome State Fault Refusal :=
  runWord (vecInfo i caps [f.va, f.vb] [f.va, f.vb])
    (fun s => .done (s.wrPLanes f.pd.toNat s.mask fun l =>
      (s.rdP f.gp.toNat).getLsbD l && c s.fenv (s.rdV f.va l) (s.rdV f.vb l))) s

def execVcmp (f : FmtVP) (s : State) : Host.Outcome State Fault Refusal :=
  cmpWord (Instr.vcmp f) (capInt f.ty) f (fun _ => condVP f.cond.toNat (f.ty == 0)) s

def execVfcmp (f : FmtVP) (s : State) : Host.Outcome State Fault Refusal :=
  cmpWord (Instr.vfcmp f) (capFlt f.ty) f (fun v x y =>
    condVF f.cond.toNat (fmtF32.read v x.toNat) (fmtF32.read v y.toNat)) s

/-! ### Floating point (R201 to R206) -/

def execVfadd (f : FmtVR) (s : State) : Host.Outcome State Fault Refusal :=
  vFlt (Instr.vfadd f) f false (fun v g x y _ => g.add v x y) s

def execVfsub (f : FmtVR) (s : State) : Host.Outcome State Fault Refusal :=
  vFlt (Instr.vfsub f) f false (fun v g x y _ => g.sub v x y) s

def execVfmul (f : FmtVR) (s : State) : Host.Outcome State Fault Refusal :=
  vFlt (Instr.vfmul f) f false (fun v g x y _ => g.mul v x y) s

def execVfma (f : FmtVR) (s : State) : Host.Outcome State Fault Refusal :=
  vFlt (Instr.vfma f) f true (fun v g x y z => g.fma v x y z) s

def execVfmin (f : FmtVR) (s : State) : Host.Outcome State Fault Refusal :=
  vFlt (Instr.vfmin f) f false (fun v g x y _ => g.minmax v.ftz true x y) s

def execVfmax (f : FmtVR) (s : State) : Host.Outcome State Fault Refusal :=
  vFlt (Instr.vfmax f) f false (fun v g x y _ => g.minmax v.ftz false x y) s

def execVrcp (f : FmtVR) (s : State) : Host.Outcome State Fault Refusal := vFun (Instr.vrcp f) f 0 s

def execVrsqrt (f : FmtVR) (s : State) : Host.Outcome State Fault Refusal := vFun (Instr.vrsqrt f) f 1 s

def execVsqrt (f : FmtVR) (s : State) : Host.Outcome State Fault Refusal := vFun (Instr.vsqrt f) f 2 s

def execVexp2 (f : FmtVR) (s : State) : Host.Outcome State Fault Refusal := vFun (Instr.vexp2 f) f 3 s

def execVlog2 (f : FmtVR) (s : State) : Host.Outcome State Fault Refusal := vFun (Instr.vlog2 f) f 4 s

def execVfclass (f : FmtVR) (s : State) : Host.Outcome State Fault Refusal :=
  vr2 (Instr.vfclass f) (capFlt f.ty) false f (fun _ x _ =>
    fLane f.ty.toNat (fun g a _ _ => g.classify a) x 0 0) s

def execVround (f : FmtVX) (s : State) : Host.Outcome State Fault Refusal :=
  runWord (vecInfo (Instr.vround f) (capFlt f.ty) [f.vd, f.va] [f.va])
    (fun s =>
      let rm := if f.x4 == 4 then s.fenv.rm else f.x4.toNat
      .done (s.wrV f.vd s.mask fun l =>
        fLane f.ty.toNat (fun g a _ _ => g.roundIntegral rm (g.flush s.fenv.ftz a)) (s.rdV f.va l) 0 0)) s

/-- Merge `n` bits into a lane at bit `at_`. -/
def mergeAt (z : Word) (at_ n v : Nat) : Word :=
  let m : Word := BitVec.ofNat 32 ((2 ^ n - 1) * 2 ^ at_)
  (z &&& ~~~m) ||| (BitVec.ofNat 32 (v * 2 ^ at_) &&& m)

/-- The conversions of R175 on a source lane and the old destination lane. -/
def convert (code : Nat) (v : FEnv) (x z : Word) : Word :=
  let w (n : Nat) : Word := BitVec.ofNat 32 n
  let src (g : FFmt) (at_ : Nat) : FVal := g.read v (bits x.toNat at_ g.width)
  if code = 0x00 then w (fmtF32.write v (.fin (decide (x.toInt < 0)) x.toInt.natAbs 0))
  else if code = 0x01 then w (fmtF32.write v (.fin false x.toNat 0))
  else if code = 0x02 then BitVec.ofInt 32 (toInt v.rm (-2147483648) 2147483647 (src fmtF32 0))
  else if code = 0x03 then BitVec.ofInt 32 (toInt v.rm 0 4294967295 (src fmtF32 0))
  else if code ≤ 0x05 then w (fmtF32.write v (src fmtF16 (16 * (code - 4))))
  else if code ≤ 0x07 then w (fmtF32.write v (src fmtB16 (16 * (code - 6))))
  else if code ≤ 0x09 then mergeAt z (16 * (code - 8)) 16 (fmtF16.write v (src fmtF32 0))
  else if code ≤ 0x0B then mergeAt z (16 * (code - 10)) 16 (fmtB16.write v (src fmtF32 0))
  else if code = 0x0C then w (fmtF16.write v (src fmtB16 0) + 65536 * fmtF16.write v (src fmtB16 16))
  else if code = 0x0D then w (fmtB16.write v (src fmtF16 0) + 65536 * fmtB16.write v (src fmtF16 16))
  else if code ≤ 0x13 then mergeAt z (8 * (code - 0x10)) 8 (fmtE4.write v (src fmtF32 0))
  else if code ≤ 0x17 then mergeAt z (8 * (code - 0x14)) 8 (fmtE5.write v (src fmtF32 0))
  else if code ≤ 0x1B then w (fmtF32.write v (src fmtE4 (8 * (code - 0x18))))
  else w (fmtF32.write v (src fmtE5 (8 * (code - 0x1C))))

/-- The conversion code merges into the old destination (R175). -/
def cvtMerges (code : Nat) : Bool := (0x08 ≤ code && code ≤ 0x0B) || (0x10 ≤ code && code ≤ 0x17)

def execVcvt (f : FmtVR) (s : State) : Host.Outcome State Fault Refusal :=
  vr2 (Instr.vcvt f) [10] (cvtMerges f.vb.toNat) f (fun v x z => convert f.vb.toNat v x z) s

end Sys2Proof.Machine
end

