-- ==== Sys2Proof/Machine/Sca.lean ====
section
/-! DEFINITION. The SCA class (07, R148 to R159): one meaning per word. -/

namespace Sys2Proof.Machine

/-- What R80 asks of a scalar integer word; the predicate words are not for the lead (R37). -/
def scaInfo (i : Instr) : WordInfo := { cls := .sca, caps := [0], wf := i.wf, reads := i.reads }
def scaFInfo (i : Instr) : WordInfo := { cls := .sca, caps := [1], wf := i.wf, reads := i.reads }
def predInfo (i : Instr) : WordInfo := { cls := .sca, caps := [0], wf := i.wf, reads := i.reads, lead := false }

/-- sd := op(sa, sb). -/
def sr3 (i : Instr) (f : FmtSR) (op : DWord → DWord → DWord) (s : State) : Host.Outcome State Fault Refusal :=
  runWord (scaInfo i) (fun s => .done (s.wrS f.sd (op (s.rdS f.sa) (s.rdS f.sb)))) s

/-- sd := op(sa, imm). -/
def si2 (i : Instr) (f : FmtSI) (op : DWord → DWord) (s : State) : Host.Outcome State Fault Refusal :=
  runWord (scaInfo i) (fun s => .done (s.wrS f.sd (op (s.rdS f.sa)))) s

/-! ### Moves (R149, R153) -/

def execSmov (f : FmtSR) (s : State) : Host.Outcome State Fault Refusal :=
  sr3 (Instr.smov f) f (fun x _ => x) s

def execSmovi (f : FmtSL) (s : State) : Host.Outcome State Fault Refusal :=
  runWord (scaInfo (Instr.smovi f)) (fun s => .done (s.wrS f.sd (f.imm.signExtend 64))) s

def execSmovh (f : FmtSL) (s : State) : Host.Outcome State Fault Refusal :=
  runWord (scaInfo (Instr.smovh f)) (fun s => .done (s.wrS f.sd (f.imm ++ (s.rdS f.sd).setWidth 45))) s

/-! ### Integer arithmetic, logic and shifts (R149 to R152) -/

def execSadd (f : FmtSR) (s : State) : Host.Outcome State Fault Refusal := sr3 (Instr.sadd f) f (· + ·) s

def execSsub (f : FmtSR) (s : State) : Host.Outcome State Fault Refusal := sr3 (Instr.ssub f) f (· - ·) s

def execSmul (f : FmtSR) (s : State) : Host.Outcome State Fault Refusal := sr3 (Instr.smul f) f (· * ·) s

/-- The value of a dword, signed unless `u`. -/
def dwInt (u : Bool) (x : DWord) : Int := if u then x.toNat else x.toInt

/-- f7[0] is set. -/
def f7bit (f : FmtSR) : Bool := f.f7.getLsbD 0

def execSmulh (f : FmtSR) (s : State) : Host.Outcome State Fault Refusal :=
  sr3 (Instr.smulh f) f (fun x y => BitVec.ofInt 64 (dwInt (f7bit f) x * dwInt (f7bit f) y / 2 ^ 64)) s

/-- Quotient toward zero with the corners of R150. -/
def divS (u : Bool) (x y : DWord) : DWord :=
  if y = 0 then 0xFFFFFFFFFFFFFFFF else BitVec.ofInt 64 ((dwInt u x).tdiv (dwInt u y))

/-- Remainder with the corners of R150; it takes the sign of the dividend. -/
def remS (u : Bool) (x y : DWord) : DWord :=
  if y = 0 then x else BitVec.ofInt 64 ((dwInt u x).tmod (dwInt u y))

def execSdiv (f : FmtSR) (s : State) : Host.Outcome State Fault Refusal :=
  sr3 (Instr.sdiv f) f (divS (f7bit f)) s

def execSrem (f : FmtSR) (s : State) : Host.Outcome State Fault Refusal :=
  sr3 (Instr.srem f) f (remS (f7bit f)) s

def execSand (f : FmtSR) (s : State) : Host.Outcome State Fault Refusal := sr3 (Instr.sand f) f (· &&& ·) s

def execSor (f : FmtSR) (s : State) : Host.Outcome State Fault Refusal := sr3 (Instr.sor f) f (· ||| ·) s

def execSxor (f : FmtSR) (s : State) : Host.Outcome State Fault Refusal := sr3 (Instr.sxor f) f (· ^^^ ·) s

def execSshl (f : FmtSR) (s : State) : Host.Outcome State Fault Refusal :=
  sr3 (Instr.sshl f) f (fun x y => x <<< (y.toNat % 64)) s

def execSshr (f : FmtSR) (s : State) : Host.Outcome State Fault Refusal :=
  sr3 (Instr.sshr f) f (fun x y => if f7bit f then x.sshiftRight (y.toNat % 64) else x >>> (y.toNat % 64)) s

def execSmin (f : FmtSR) (s : State) : Host.Outcome State Fault Refusal :=
  sr3 (Instr.smin f) f (fun x y => if dwInt (f7bit f) x ≤ dwInt (f7bit f) y then x else y) s

def execSmax (f : FmtSR) (s : State) : Host.Outcome State Fault Refusal :=
  sr3 (Instr.smax f) f (fun x y => if dwInt (f7bit f) x ≤ dwInt (f7bit f) y then y else x) s

def execSpopc (f : FmtSR) (s : State) : Host.Outcome State Fault Refusal :=
  sr3 (Instr.spopc f) f (fun x _ => BitVec.ofNat 64 (popTo 64 x.toNat)) s

def execSclz (f : FmtSR) (s : State) : Host.Outcome State Fault Refusal :=
  sr3 (Instr.sclz f) f (fun x _ => BitVec.ofNat 64 (clzTo 64 x.toNat)) s

def execScmp (f : FmtSR) (s : State) : Host.Outcome State Fault Refusal :=
  sr3 (Instr.scmp f) f (fun x y => BitVec.ofNat 64 (boolNat (condCC f.f7.toNat x y))) s

/-- The field that sb selects, sign-extended where `sg` (R151). -/
def sbfeVal (sg : Bool) (x y : DWord) : DWord :=
  let pos := bits y.toNat 0 6
  let e := min (min (bits y.toNat 8 7) 64) (64 - pos)
  let v := bits x.toNat pos e
  if sg then sext64 e v else BitVec.ofNat 64 v

def execSbfe (f : FmtSR) (s : State) : Host.Outcome State Fault Refusal :=
  sr3 (Instr.sbfe f) f (sbfeVal (f7bit f)) s

def execSaddi (f : FmtSI) (s : State) : Host.Outcome State Fault Refusal :=
  si2 (Instr.saddi f) f (fun x => x + f.imm.signExtend 64) s

def execSandi (f : FmtSI) (s : State) : Host.Outcome State Fault Refusal :=
  si2 (Instr.sandi f) f (fun x => x &&& f.imm.signExtend 64) s

def execSshli (f : FmtSI) (s : State) : Host.Outcome State Fault Refusal :=
  si2 (Instr.sshli f) f (fun x => x <<< (f.imm.toNat % 64)) s

def execSshri (f : FmtSI) (s : State) : Host.Outcome State Fault Refusal :=
  si2 (Instr.sshri f) f (fun x => x >>> (f.imm.toNat % 64)) s

/-! ### Scalar F32 (R154, R155, R176) -/

/-- A scalar F32 word on bits [31:0], RNE, nothing flushed. -/
def sf3 (i : Instr) (f : FmtSR) (op : Nat → Nat → Nat → Nat) (s : State) : Host.Outcome State Fault Refusal :=
  runWord (scaFInfo i) (fun s =>
    let lo (x : DWord) : Nat := bits x.toNat 0 32
    .done (s.wrS f.sd (BitVec.ofNat 64 (op (lo (s.rdS f.sa)) (lo (s.rdS f.sb)) (lo (s.rdS f.sd)))))) s

def execSfadd (f : FmtSR) (s : State) : Host.Outcome State Fault Refusal :=
  sf3 (Instr.sfadd f) f (fun x y _ => fmtF32.add envExact x y) s

def execSfmul (f : FmtSR) (s : State) : Host.Outcome State Fault Refusal :=
  sf3 (Instr.sfmul f) f (fun x y _ => fmtF32.mul envExact x y) s

def execSfma (f : FmtSR) (s : State) : Host.Outcome State Fault Refusal :=
  sf3 (Instr.sfma f) f (fun x y z => fmtF32.fma envExact x y z) s

/-- A scalar conversion: RNE, no flush, F8NAN of the slot; no merge, so the rest of the word is 0 (R155, R176). -/
def scvtVal (code : Nat) (f8nan : Bool) (x : DWord) : DWord :=
  let r := convert code ⟨0, false, f8nan⟩ (x.setWidth 32) 0
  if code = 0x02 then r.signExtend 64 else r.setWidth 64

def execScvt (f : FmtSR) (s : State) : Host.Outcome State Fault Refusal :=
  runWord (scaFInfo (Instr.scvt f)) (fun s =>
    .done (s.wrS f.sd (scvtVal f.f7.toNat (fmtF8NAN s.fmt) (s.rdS f.sa)))) s

/-! ### Special registers and FMT (R116, R156, R157) -/

/-- Decision-queue words that a group has not popped (R116 DQAVAIL). -/
def State.dqAvail (s : State) : Nat :=
  let c := s.ccrew
  if isLead s.cur.tid then Config.dqLen - c.dq.length
  else if isHandler s.cur.tid then 0
  else c.dqBase + c.dq.length - s.cthr.dqPos

/-- The special register `n` (R116, R28). -/
def State.special (s : State) (n : Nat) : DWord :=
  let h := s.chdr
  let c := s.ccrew
  let w (v : Nat) : DWord := BitVec.ofNat 64 v
  let lead := isLead s.cur.tid
  match n with
  | 0x00 => if lead then 1 else (s.mask).setWidth 64
  | 0x01 => if lead then 0 else w (boolNat s.cur.slotB)
  | 0x02 => w s.cslot.depth
  | 0x03 => s.fmt.setWidth 64
  | 0x04 => if lead then 0xFFFFFFFFFFFFFFFF else w s.cur.tid
  | 0x05 => w c.idx
  | 0x06 => w c.core
  | 0x07 => w c.task
  | 0x08 => w s.widBase
  | 0x0F => w h.groups
  | 0x10 => w s.now
  | 0x11 => w (s.cycles + (s.core c.core).skew)
  | 0x12 => (s.core c.core).mask
  | 0x13 => h.uses
  | 0x14 => w h.privw
  | 0x15 => h.paramh.setWidth 64
  | 0x16 => h.resulth.setWidth 64
  | 0x17 => s.carch.trapInfo
  | 0x18 => w h.vregs
  | 0x19 => w s.dqAvail
  | k => w (widField h.widw s.widBase (k - 9))

def execSrd (f : FmtSL) (s : State) : Host.Outcome State Fault Refusal :=
  runWord (scaInfo (Instr.srd f)) (fun s => .done (s.wrS f.sd (s.special f.imm.toNat))) s

/-- Write FMT of the executing slot; bits [31:24] are discarded (R114). -/
def State.wrFmt (s : State) (v : Word) : State := s.modCSlot fun x => { x with fmt := v &&& 0xFFFFFF }

def execSwr (f : FmtSL) (s : State) : Host.Outcome State Fault Refusal :=
  runWord (scaInfo (Instr.swr f)) (fun s => .done (s.wrFmt ((s.rdS f.sd).setWidth 32))) s

def execSfmt (f : FmtSR) (s : State) : Host.Outcome State Fault Refusal :=
  runWord (scaInfo (Instr.sfmt f)) (fun s =>
    let m : Word := (s.rdS f.sb).setWidth 32
    .done (s.wrFmt ((s.fmt &&& ~~~m) ||| ((s.rdS f.sa).setWidth 32 &&& m)))) s

/-! ### Predicate words (R158) -/

/-- pd := op(pa, pb), whole predicates. -/
def pr3 (i : Instr) (f : FmtSR) (op : Word → Word → Word) (s : State) : Host.Outcome State Fault Refusal :=
  runWord (predInfo i) (fun s =>
    .done (s.wrP f.sd.toNat (op (s.rdP f.sa.toNat) (s.rdP f.sb.toNat)))) s

def execPand (f : FmtSR) (s : State) : Host.Outcome State Fault Refusal := pr3 (Instr.pand f) f (· &&& ·) s

def execPor (f : FmtSR) (s : State) : Host.Outcome State Fault Refusal := pr3 (Instr.por f) f (· ||| ·) s

def execPxor (f : FmtSR) (s : State) : Host.Outcome State Fault Refusal := pr3 (Instr.pxor f) f (· ^^^ ·) s

def execPandn (f : FmtSR) (s : State) : Host.Outcome State Fault Refusal :=
  pr3 (Instr.pandn f) f (fun x y => x &&& ~~~y) s

def execPmovsp (f : FmtSR) (s : State) : Host.Outcome State Fault Refusal :=
  runWord (predInfo (Instr.pmovsp f)) (fun s =>
    let x := s.rdS f.sa
    let t := s.wrP f.sd.toNat (x.setWidth 32)
    .done (if f7bit f then t.wrP (f.sd.toNat + 1) ((x >>> 32).setWidth 32) else t)) s

def execPmovps (f : FmtSR) (s : State) : Host.Outcome State Fault Refusal :=
  runWord (predInfo (Instr.pmovps f)) (fun s =>
    let lo := s.rdP f.sa.toNat
    .done (s.wrS f.sd (if f7bit f then s.rdP (f.sa.toNat + 1) ++ lo else lo.setWidth 64))) s

def execPcnt (f : FmtSR) (s : State) : Host.Outcome State Fault Refusal :=
  runWord (predInfo (Instr.pcnt f)) (fun s =>
    .done (s.wrS f.sd (BitVec.ofNat 64 (popTo 32 (s.rdP f.sa.toNat).toNat)))) s

def execPfirst (f : FmtSR) (s : State) : Host.Outcome State Fault Refusal :=
  runWord (predInfo (Instr.pfirst f)) (fun s =>
    .done (s.wrS f.sd (BitVec.ofNat 64 (lowBit 32 (s.rdP f.sa.toNat).toNat)))) s

end Sys2Proof.Machine
end

