-- ==== Sys2Proof/Machine/Ctl.lean ====
section
/-! DEFINITION. The CTL class (07, R129 to R147): the control stack (R125), divergence and fusing (R133 to R139), calls
(R141 to R145), exit (R140, R48, R39), and the waits and queue words (R38, R146). -/

namespace Sys2Proof.Machine

/-! ### The control stack (R125) -/

def Arch.setEntry (a : Arch) (k : Nat) (e : CEntry) : Arch := { a with cstk := Store.set .free a.cstk k e }

def Arch.entry (a : Arch) (k : Nat) : CEntry := Store.get .free a.cstk k

/-- The free entry at the lowest offset, of `cap` entries. -/
def Arch.freeEntry (a : Arch) (cap : Nat) : Option Nat :=
  ((List.range (a.cstk.length + 1)).find? fun k => a.entry k == .free).filter fun k => k < cap

/-- Entries of a thread's control stack; the lead's 16 frames stand in the lead unit (R141). -/
def State.stackCap (s : State) (c : Crew) (tid : Nat) : Nat :=
  if isLead tid then Config.leadFrames else (s.hdrOf c).cstk / 32

/-- The entries in use, by offset. -/
def Arch.entries (a : Arch) : List (Nat × CEntry) := a.cstk.keys.map fun k => (k, a.entry k)

/-- Spilled fragments: entry, fragment, BLK. -/
def Arch.frags (a : Arch) : List (Nat × Slot × Bool) := a.entries.filterMap fun e => match e.2 with
  | .frag x blk => some (e.1, x, blk)
  | _ => none

/-- Divergence records. -/
def Arch.divs (a : Arch) : List (Nat × DivRec) := a.entries.filterMap fun e => match e.2 with
  | .div d => some (e.1, d)
  | _ => none

/-- Call frames. -/
def Arch.calls (a : Arch) : List (Nat × CallRec) := a.entries.filterMap fun e => match e.2 with
  | .call c => some (e.1, c)
  | _ => none

def Arch.findDiv (a : Arch) (id : Nat) : Option (Nat × DivRec) := a.divs.find? fun e => e.2.divid == id

/-- OUTER(m, d) of R137; `ex` is the divergence being fused. -/
def Arch.outer (a : Arch) (m : Word) (d ex : Nat) : Nat :=
  let ok := a.divs.filter fun e => e.2.divid != ex && m &&& ~~~e.2.mask == 0 && e.2.depth ≤ d
  let best := ok.foldl (fun (b : Option DivRec) e => match b with
    | none => some e.2
    | some x => if popTo 32 e.2.mask.toNat < popTo 32 x.mask.toNat then some e.2 else some x) none
  (best.map DivRec.divid).getD 0

/-! ### Fragments entering and leaving slots (R126, R128, R138) -/

/-- A fragment comes from the control stack into a slot: a suspended one reissues its word (R128). -/
def Slot.enters (x old : Slot) : Slot :=
  { x with st := if x.st == .joinwait then .joinwait else .ready, lastIssue := old.lastIssue, issuedHere := false
           entered := true }

/-- The spilled fragment of largest AGE, at the lowest offset on ties, of those that `p` takes. -/
def Arch.oldest (a : Arch) (p : Slot → Bool → Bool) : Option (Nat × Slot) :=
  (a.frags.filter fun e => p e.2.1 e.2.2).foldl (fun b e => match b with
    | none => some (e.1, e.2.1)
    | some x => if x.2.age < e.2.1.age then some (e.1, e.2.1) else some x) none

/-- R126: an EMPTY slot takes the spilled fragment of largest AGE that is not held BLOCKED. -/
def Arch.refill (a : Arch) (b : Bool) : Arch :=
  if (a.slot b).st != .empty then a
  else match a.oldest fun _ blk => !blk with
    | none => a
    | some (k, x) => (a.setEntry k .free).setSlot b (x.enters (a.slot b))

def Arch.refillBoth (a : Arch) : Arch := (a.refill false).refill true

/-- Clear BLK of every entry whose suspended word could proceed, or whose time is up (R128); a slot that stands EMPTY is
refilled. -/
def State.refreshBlk (s : State) (uid tid : Nat) : State :=
  if (s.arch uid tid).frags.all fun e => !e.2.2 then s
  else s.modArch uid tid fun a =>
    Arch.refillBoth { a with cstk := a.cstk.map fun e => match e.2 with
      | .frag x blk => (e.1, .frag (if blk && s.waitOver x then x.expire else x) (blk && !s.waitOver x && !s.canResume uid tid false x))
      | y => (e.1, y) }

/-- Free the call frames to which nothing links any more (R142, R143). -/
def Arch.release : Nat → Arch → Arch
  | 0, a => a
  | n + 1, a =>
    let held : List Nat := ([a.a, a.b].filter fun x => x.st != .empty).filterMap Slot.link ++
      a.frags.filterMap (fun e => e.2.1.link) ++ a.divs.filterMap (fun e => e.2.link) ++
      a.calls.filterMap (fun e => e.2.link)
    match a.calls.find? fun e => !held.contains e.1 with
    | none => a
    | some (k, _) => Arch.release n (a.setEntry k .free)

def Arch.tidy (a : Arch) : Arch := Arch.release a.cstk.length a

/-! ### Divergence (R133, R136 to R138) -/

/-- The next DIVID (R124): 16 bits, skipping 0. -/
def nextDiv (n : Nat) : Nat := if n ≥ 65535 then 1 else n + 1

/-- The split of R133: T goes to `target`, F to `next`. None is R134's STACK_LIMIT. -/
def Arch.split (a : Arch) (b : Bool) (cap : Nat) (T F target next : Word) : Option Arch :=
  let x := a.slot b
  let opened : Option (Arch × Nat × Word) :=
    if x.rpcn == Config.noneAddr then
      some (match a.findDiv x.divid with
        | some (k, e) => (a.setEntry k (.div { e with pending := e.pending + 1 }), x.divid, x.rcv)
        | none => (a, x.divid, x.rcv))
    else if (a.findDiv a.divctr).isSome then none
    else (a.freeEntry cap).map fun k =>
      let e : DivRec := ⟨x.depth, a.divctr, x.rcv, x.rpcn, x.mask, 0, x.fmt, 2, x.link⟩
      ({ a.setEntry k (.div e) with divctr := nextDiv a.divctr }, a.divctr, x.rpcn)
  match opened with
  | none => none
  | some (a, id, rcv) =>
    let x : Slot := { x with rcv := rcv, rpcn := Config.noneAddr, divid := id }
    let n : Slot := { x.at target with mask := T, age := 0, issuedHere := false, dbgStep := false }
    let a := a.setSlot b { x.at next with mask := F }
    let o := a.slot (!b)
    if o.st == .empty then some (a.setSlot (!b) { n with lastIssue := o.lastIssue })
    else (a.freeEntry cap).map fun k => a.setEntry k (.frag n false)

/-- Where a fragment stands. -/
inductive Place where
  | slot (b : Bool)
  | entry (k : Nat)
deriving DecidableEq, Repr

/-- The fragments in JOINWAIT of a divergence. -/
def Arch.waiters (a : Arch) (id : Nat) : List (Place × Slot) :=
  let w (x : Slot) : Bool := x.st == .joinwait && x.divid == id
  ([false, true].filter fun b => w (a.slot b)).map (fun b => (Place.slot b, a.slot b)) ++
    (a.frags.filter fun e => w e.2.1).map fun e => (Place.entry e.1, e.2.1)

def Arch.put (a : Arch) (p : Place) (x : Slot) : Arch :=
  match p with
  | .slot b => a.setSlot b x
  | .entry k => a.setEntry k (.frag x false)

def Arch.vacate (a : Arch) (p : Place) : Arch :=
  match p with
  | .slot b => a.modSlot b fun x => { lastIssue := x.lastIssue }
  | .entry k => a.setEntry k .free

/-- The fuse of R137: the survivor stands in the joiner's slot, or where the latest arrival waits (R138). -/
def Arch.fuse (a : Arch) (e : DivRec) (o : Nat) (joiner : Option Bool) (next : Word) : Arch :=
  let ws := a.waiters e.divid
  let last := ws.foldl (fun (m : Option (Place × Slot)) w => match m with
    | none => some w
    | some x => if x.2.arr < w.2.arr then some w else some x) none
  let chosen : Option (Place × Slot × Word) := match joiner with
    | some b => some (.slot b, a.slot b, next)
    | none => last.map fun w => (w.1, w.2, w.2.joinNext)
  match chosen with
  | none => a
  | some (p, x, pc) =>
    let a := ws.foldl (fun a w => if w.1 == p then a else a.vacate w.1) a
    a.put p { x.at pc with
      mask := e.arrived, fmt := e.fmt, rcv := e.pc, depth := e.depth, rpcn := Config.noneAddr, divid := o, link := e.link }

/-- ARRIVE(id, m) of R137, and whether the divergence fused. -/
def Arch.arrive : Nat → Arch → Nat → Word → Option Bool → Word → Arch × Bool
  | 0, a, _, _, _, _ => (a, false)
  | n + 1, a, id, m, joiner, next =>
    match a.findDiv id with
    | none => (a, false)
    | some (k, e) =>
      let e := { e with arrived := e.arrived ||| m, pending := e.pending - 1 }
      if e.pending > 0 then (a.setEntry k (.div e), false)
      else
        let o := a.outer e.mask e.depth id
        let a := a.setEntry k .free
        if e.arrived == 0 then (if o = 0 then a else (Arch.arrive n a o 0 none next).1, true)
        else (a.fuse e o joiner next, true)

/-- ARRIVE(id, 0) of a fragment that exits or detaches. -/
def Arch.arriveNone (a : Arch) (id : Nat) : Arch := (a.arrive (a.cstk.length + 1) id 0 none 0).1

/-- A slot enters JOINWAIT, and hands over to a sibling that is not in JOINWAIT (R138). -/
def Arch.joinWait (a : Arch) (b : Bool) (next : Word) (now : Nat) : Arch :=
  let x := a.slot b
  let top := (a.waiters x.divid).foldl (fun m w => max m w.2.arr) 0
  let w : Slot := { x with st := .joinwait, arr := top + 1, joinNext := next, started := false, holds := false, wdSince := now }
  match a.oldest fun y _ => y.divid == x.divid && y.st != .joinwait with
  | none => a.setSlot b w
  | some (k, y) => (a.setSlot b (y.enters x)).setEntry k (.frag { w with age := 0 } false)

/-! ### Operands of the class -/

/-- What R80 asks of a CTL word. -/
def ctlInfo (i : Instr) (lead : Bool) : WordInfo := { cls := .ctl, caps := [2], wf := i.wf, reads := i.reads, lead := lead }

/-- A target: the header's address plus four times a signed offset (R63). -/
def State.target (s : State) (off : Int) : Word := s.cur.hdr + BitVec.ofInt 32 (4 * off)

def stackLimit : FaultInfo := { exc := .stackLimit, eng := 3 }

/-- A BRANCH packet that does not split (R425, R426). -/
def State.branchPacket (s : State) (take : Bool) : State :=
  s.wordPacket s.cur.uid s.cur.tid 1 (boolNat s.cur.slotB + 2 * boolNat take) []

/-- An INDIRECT packet (R425, R426). -/
def State.indirectPacket (s : State) (pc : Word) : State :=
  s.wordPacket s.cur.uid s.cur.tid 2 (boolNat s.cur.slotB) (leBytes 4 pc.toNat)

/-- The conditional branches of R131, which write a BRANCH packet. -/
def branchOn (s : State) (take : Bool) (pc : Word) : Res :=
  let s := s.branchPacket take
  if take then .goto s pc true else .done s

/-- The object the pair executes from: its task's code object, or the firmware's (R396). -/
def State.codeEntry (s : State) : HEntry := if s.cslot.priv.isSome then s.fw.code else (s.taskOf s.ccrew).code

/-- The fault of an indirect target (R145). -/
def State.badTarget (s : State) (x : DWord) : Option FaultInfo :=
  let f (e : Exc) : FaultInfo := { exc := e, eng := 3, code := true, hindex := BitVec.ofNat 20 s.chdr.codeh, offset := x }
  if x.toNat % 4 ≠ 0 then some (f .misaligned)
  else if s.codeEntry.size ≤ x.toNat then some (f .handleBounds)
  else none

/-! ### Uniform branches (R131) -/

def execBra (f : FmtCB) (s : State) : Host.Outcome State Fault Refusal :=
  runWord (ctlInfo (Instr.bra f) true) (fun s => .goto s (s.target f.off.toInt) true) s

def execBcnd (f : FmtCC) (s : State) : Host.Outcome State Fault Refusal :=
  runWord (ctlInfo (Instr.bcnd f) true) (fun s =>
    branchOn s (condCC f.cond.toNat (s.rdS f.sa) (s.rdS f.sb)) (s.target f.off.toInt)) s

def execSloop (f : FmtCC) (s : State) : Host.Outcome State Fault Refusal :=
  runWord (ctlInfo (Instr.sloop f) true) (fun s =>
    let s := s.wrS f.sa (s.rdS f.sa + 1)
    branchOn s (condCC f.cond.toNat (s.rdS f.sa) (s.rdS f.sb)) (s.target f.off.toInt)) s

def execBany (f : FmtCB) (s : State) : Host.Outcome State Fault Refusal :=
  runWord (ctlInfo (Instr.bany f) false) (fun s =>
    branchOn s (s.lanes f.gp f.gn != 0) (s.target f.off.toInt)) s

def execBall (f : FmtCB) (s : State) : Host.Outcome State Fault Refusal :=
  runWord (ctlInfo (Instr.ball f) false) (fun s =>
    branchOn s (s.lanes f.gp f.gn == s.mask) (s.target f.off.toInt)) s

/-! ### Divergence -/

def execRcvpt (f : FmtCB) (s : State) : Host.Outcome State Fault Refusal :=
  runWord (ctlInfo (Instr.rcvpt f) false) (fun s =>
    .done (s.modCSlot fun x => { x with rpcn := s.target f.off.toInt })) s

/-- `brp` with T and F of R133. A jump of the whole fragment is no taken branch of R392's list. -/
def brpBody (f : FmtCB) (s : State) : Res :=
  let s := s.refreshBlk s.cur.uid s.cur.tid
  let T := s.lanes f.gp f.gn
  let F := s.mask &&& ~~~T
  let pc := s.target f.off.toInt
  if T == 0 then .done (s.branchPacket false)
  else if F == 0 then .goto (s.branchPacket true) pc false
  else match s.carch.split s.cur.slotB (s.stackCap s.ccrew s.cur.tid) T F pc s.nextClause with
    | none => .trap s stackLimit
    | some a =>
      let s := s.modCArch fun _ => a
      let s := s.wordPacket s.cur.uid s.cur.tid 1 (boolNat s.cur.slotB + 6) (leBytes 4 T.toNat)
      .placed (s.clauseEnd s.pair)

def execBrp (f : FmtCB) (s : State) : Host.Outcome State Fault Refusal :=
  runWord (ctlInfo (Instr.brp f) false) (brpBody f) s

/-- R136: the join acts in this fragment. -/
def State.joinActs (s : State) : Bool :=
  let x := s.cslot
  x.divid != 0 && x.rcv == s.cur.hdr && match s.carch.findDiv x.divid with
    | some (_, e) => x.depth == e.depth
    | none => false

def joinBody (s : State) : Res :=
  let s := s.refreshBlk s.cur.uid s.cur.tid
  if !s.joinActs then .done s
  else
    let a := s.carch
    let (a, fused) := a.arrive (a.cstk.length + 1) s.cslot.divid s.mask (some s.cur.slotB) s.nextClause
    let a := if fused then a else a.joinWait s.cur.slotB s.nextClause s.now
    let s := s.modCArch fun _ => a.refillBoth.tidy
    .placed (if fused then s.clauseEnd s.pair else s.countStep s.pair)

def execJoin (f : FmtCR) (s : State) : Host.Outcome State Fault Refusal :=
  runWord (ctlInfo (Instr.join f) false) joinBody s

/-! ### Exit (R140, R39, R48) -/

/-- A thread has no fragment left (R48): its window empties, it exits, and faults that still wait are fatal (R394). -/
def State.endThread (s : State) (uid tid : Nat) : State :=
  let s := s.drainWindow uid tid
  let t := s.thread uid tid
  let s := s.modThread uid tid fun t => { t with st := .exited, pendA := [], pendB := [] }
  let s := (s.modCrew uid (Crew.unpoison · tid)).afterExit uid
  let s := t.pendA.foldl (fun s f => s.fatal ⟨uid, tid, false⟩ (f.record 0 0 0)) s
  t.pendB.foldl (fun s f => s.fatal ⟨uid, tid, true⟩ (f.record 0 0 0)) s

def exitBody (s : State) : Res :=
  let s := s.refreshBlk s.cur.uid s.cur.tid
  let x := s.cslot
  let a := if x.divid == 0 then s.carch else s.carch.arriveNone x.divid
  let a := ((a.vacate (.slot s.cur.slotB)).refillBoth).tidy
  let s := s.modCArch fun _ => a
  .placed (if a.a.st == .empty && a.b.st == .empty && a.frags.isEmpty then s.endThread s.cur.uid s.cur.tid
    else s.countStep s.pair)

def execExit (f : FmtCR) (s : State) : Host.Outcome State Fault Refusal :=
  runWord (ctlInfo (Instr.exit f) true) exitBody s

/-! ### Calls (R141 to R145) -/

/-- Take a CALL entry and transfer (R141). -/
def callTo (s : State) (pc : Word) (after : State → State) : Res :=
  let x := s.cslot
  match s.carch.freeEntry (s.stackCap s.ccrew s.cur.tid) with
  | none => .trap s stackLimit
  | some k =>
    if x.depth = 255 then .trap s stackLimit
    else
      let s := s.modCArch fun a =>
        (a.setEntry k (.call ⟨x.depth, s.nextClause, x.rcv, x.rpcn, x.link⟩)).setSlot s.cur.slotB
          { x with depth := x.depth + 1, rpcn := Config.noneAddr, link := some k }
      .goto (after s) pc false

def execCall (f : FmtCB) (s : State) : Host.Outcome State Fault Refusal :=
  runWord (ctlInfo (Instr.call f) true) (fun s => callTo s (s.target f.off.toInt) id) s

/-- `callr`. A good target keeps its low 32 bits, as PC has no more (log entry 29). -/
def execCallr (f : FmtCR) (s : State) : Host.Outcome State Fault Refusal :=
  runWord (ctlInfo (Instr.callr f) true) (fun s =>
    let x := s.rdS f.sa
    match s.badTarget x with
    | some e =>
      if s.cslot.depth = 255 || (s.carch.freeEntry (s.stackCap s.ccrew s.cur.tid)).isNone then .trap s stackLimit
      else .trap s e
    | none => callTo s (x.setWidth 32) fun s => s.indirectPacket (x.setWidth 32)) s

/-- `jmp`. A good target keeps its low 32 bits, as PC has no more (log entry 29). -/
def execJmp (f : FmtCR) (s : State) : Host.Outcome State Fault Refusal :=
  runWord (ctlInfo (Instr.jmp f) true) (fun s =>
    let x := s.rdS f.sa
    match s.badTarget x with
    | some e => .trap s e
    | none => .goto (s.indirectPacket (x.setWidth 32)) (x.setWidth 32) true) s

/-- R144's detach: the enclosing divergence gains a fragment, then this one arrives with no lanes. -/
def Arch.detach (a : Arch) (b : Bool) : Arch :=
  let x := a.slot b
  match if x.divid == 0 then none else a.findDiv x.divid with
  | none => a
  | some (_, e) =>
    if e.depth != x.depth then a
    else
      let o := a.outer x.mask (x.depth - 1) 0
      let a := match if o == 0 then none else a.findDiv o with
        | some (k, d) => a.setEntry k (.div { d with pending := d.pending + 1 })
        | none => a
      (a.arriveNone x.divid).modSlot b fun y => { y with divid := o }

def retBody (s : State) : Res :=
  let s := s.refreshBlk s.cur.uid s.cur.tid
  let x := s.cslot
  let fr : Option CallRec := match x.link with
    | none => none
    | some k => (s.carch.calls.find? fun e => e.1 == k).map Prod.snd
  match fr with
  | none => .trap s stackLimit
  | some c =>
    if x.depth = 0 then .trap s stackLimit
    else
      let b := s.cur.slotB
      let a := (s.carch.detach b).modSlot b fun y =>
        { y with depth := c.depth, rcv := c.rcv, rpcn := c.rpcn, link := c.link }
      .goto (s.modCArch fun _ => a.tidy.refillBoth) c.pc true

def execRet (f : FmtCR) (s : State) : Host.Outcome State Fault Refusal :=
  runWord (ctlInfo (Instr.ret f) true) retBody s

/-! ### Waiting and issue (R38 to R40, R146) -/

def execTwait (f : FmtCQ) (s : State) : Host.Outcome State Fault Refusal :=
  runWord (ctlInfo (Instr.twait f) true) (fun s =>
    let m : BitVec 8 := f.f.setWidth 8
    if s.cthr.tokensClear m then .done (s.seeAll s.cur.uid s.cur.tid) else .block s (.twaitWord m)) s

/-- `yield` is a transfer word: the pair ranks as having issued most recently (R146, R60). -/
def execYield (f : FmtCR) (s : State) : Host.Outcome State Fault Refusal :=
  runWord (ctlInfo (Instr.yield f) true) (fun s =>
    .placed (((s.yieldRank s.pair).modCSlot fun x => x.at s.nextClause).clauseEnd s.pair)) s

def execNop (f : FmtCR) (s : State) : Host.Outcome State Fault Refusal :=
  runWord (ctlInfo (Instr.nop f) true) (fun s => .done s) s

def execDqpop (f : FmtCQ) (s : State) : Host.Outcome State Fault Refusal :=
  runWord { ctlInfo (Instr.dqpop f) false with handler := false, old := true } (fun s =>
    let c := s.ccrew
    let p := s.cthr.dqPos
    match c.dq[p - c.dqBase]? with
    | some v =>
      let s := (s.modThread s.cur.uid s.cur.tid fun t => { t with dqPos := p + 1 }).modCrew s.cur.uid Crew.freeDq
      .done ((s.seeAll s.cur.uid s.cur.tid).wrS f.sd v)
    | none => if c.leadRunning then .block s .dqpop else .done (s.wrS f.sd 0xFFFFFFFFFFFFFFFF)) s

def execDqpush (f : FmtCR) (s : State) : Host.Outcome State Fault Refusal :=
  runWord { ctlInfo (Instr.dqpush f) true with group := false, handler := false, old := true } (fun s =>
    let c := s.ccrew
    if c.liveGroups.isEmpty then .done (s.drainLocal s.cur.uid s.cur.tid)
    else if c.dq.length < Config.dqLen then
      let v := s.rdS f.sa
      let push (c : Crew) : Crew := { c with dq := c.dq ++ [v] }
      .done ((s.drainLocal s.cur.uid s.cur.tid).modCrew s.cur.uid push)
    else .block s .dqpush) s

end Sys2Proof.Machine
end

