-- ==== Sys2Proof/Machine/Stops.lean ====
section
/-! DEFINITION. Stopping a crew (R417, R418), the joined name of a source (R412), and what a stop does to the collectives
of its task (R351). -/

namespace Sys2Proof.Machine

/-! ### Names (R412) -/

/-- PROC of a crew: the thread that registered its task's queue. -/
def State.procOf (s : State) (c : Crew) : DWord := (s.queue c.ldev (s.taskOf c).queue).proc

/-- TASKCREW. -/
def Crew.taskCrew (c : Crew) : Nat := c.task * 2 ^ 32 + c.idx

/-- The NAME packet of a crew's stream (R425). -/
def State.namePacket (s : State) (uid : Nat) : State :=
  let c := s.crew uid
  s.emit uid 9 0 (leBytes 8 (s.procOf c).toNat ++ leBytes 2 c.core)

/-! ### Rounds and halts (R347, R351) -/

/-- The members of a collective whose contribution of a round has not been accepted. -/
def Coll.missing (k : Coll) (r : Round) : DWord :=
  r.posts.foldl (fun m q => m &&& ~~~(BitVec.ofNat 64 (2 ^ (q.core % 64)))) k.members

/-- Port 4 of a tree of the partition, where it joins a fabric tree: its core, and whether it leads to the parent (R350). -/
def Part.fabric (p : Part) (tree : Nat) : Option (Nat × Bool) := (p.tree tree).bind fun t => t.fabric

/-- What lies behind port 4 has not supplied its contribution to a round: the partial of a remote child, or, behind a parent, the
result (R348, R350, log entry 71). -/
def Round.farMissing (r : Round) : Option (Nat × Bool) → Bool
  | some (_, false) => r.far.isNone
  | some (_, true) => r.result.isNone
  | none => false

/-- End a round without a result: its partials are discarded (R347). -/
def Coll.endRound (k : Coll) (port : Option (Nat × Bool)) (why : RoundEnd) (r : Round) : Round :=
  { r with ended := some why, missing := k.missing r, remote := r.farMissing port, partials := [], far := none, result := none
           left := [] }

/-- End the rounds in progress that `q` takes. -/
def Part.endRounds (p : Part) (id : Nat) (why : RoundEnd) (q : Round → Bool) : Part :=
  let k := Store.get {} p.colls id
  let f (r : Round) : Round := if r.ended.isNone && q r then k.endRound (p.fabric k.tree) why r else r
  { p with colls := Store.set {} p.colls id { k with rounds := k.rounds.map f } }

/-- A member crew of the collective stands stopped by a hit or a halt, or its fabric tree is halted (R351). -/
def State.collHalted (s : State) (p : PartRef) (k : Coll) : Bool :=
  (s.part p).haltedTrees.contains k.tree ||
    s.crews.any fun e => e.2.ldev == p.ldev && e.2.part == p.part && e.2.task == k.task &&
      (e.2.stop == some .hit || e.2.stop == some .halt) && e.2.st != .retired && k.members.getLsbD (e.2.core % 64)

/-- A timer that stood frozen since `t` goes on from its frozen value. -/
def Round.thaw (r : Round) (t now : Nat) : Round := { r with startNs := r.startNs + (now - max r.startNs t) }

/-- Freeze, thaw or end the rounds of one collective as its halts and the policy ABORTHALT ask (R351). -/
def State.haltRule (s : State) (p : PartRef) (id : Nat) : State :=
  let k := Store.get {} (s.part p).colls id
  let set (k : Coll) (s : State) : State := s.modPart p fun q => { q with colls := Store.set {} q.colls id k }
  if s.collHalted p k then
    if (s.part p).dbgpol.getLsbD 0 then s.modPart p fun q => q.endRounds id .peerHalted fun _ => true
    else if k.frozenAt.isSome then s else set { k with frozenAt := some s.now } s
  else match k.frozenAt with
    | none => s
    | some t =>
      let f (r : Round) : Round := if r.ended.isNone then r.thaw t s.now else r
      set { k with frozenAt := none, rounds := k.rounds.map f } s

/-- The rule for every collective of a partition. -/
def State.haltRules (s : State) (p : PartRef) : State :=
  ((s.part p).colls.filter fun e => e.2.live).foldl (fun s e => s.haltRule p e.1) s

/-! ### Stops (R417, R418) -/

/-- A task's TIMEOUT and the partition's watchdog pause while a crew is stopped (R417). -/
def State.pauseTask (s : State) (c : Crew) : State :=
  (s.modTask c.ldev c.task fun t => { t with pausedAt := some (t.pausedAt.getD s.now) }).modPart c.pref fun q =>
    { q with wdPausedAt := some (q.wdPausedAt.getD s.now) }

/-- The watchdog counts of a partition go on from where they stood at time `t` (R417). -/
def State.thawWatchdog (s : State) (p : PartRef) (t : Nat) : State :=
  let f (x : Slot) : Slot := { x with wdSince := x.wdSince + (s.now - max x.wdSince t) }
  let crew (c : Crew) : Crew :=
    if c.pref == p then { c with threads := c.threads.map fun e => (e.1, e.2.mapArch (Arch.mapSlots · f)) } else c
  let s : State := { s with crews := s.crews.map fun e => (e.1, crew e.2) }
  s.modPart p fun q => { q with wdPausedAt := none }

/-- A pair of the crew waits for the dump that it asked for (R409). -/
def Crew.dumps (c : Crew) : Bool :=
  c.threads.any fun e => [e.2.arch.a, e.2.arch.b].any fun x => match x.wait with
    | some (.dump _ _ _ _ _) => x.st == .blocked
    | _ => false

/-- Stop a crew; its stop record names pair `p` (R418). A crew that is stopped already adds the hits to its record, which names the
first of its hits: of those on one cycle, by group and then by slot. One that stands stopped for a dump stays stopped past its end
(R417). -/
def State.stopCrew (s : State) (p : PairRef) (kind : StopKind) (code : Nat) (hits lanes : Word) : State :=
  let c := s.crew p.uid
  let r : StopRec := ⟨s.procOf c, BitVec.ofNat 64 c.taskCrew, BitVec.ofNat 64 (whereDword c.core p.tid p.slotB), code, hits, lanes, s.cycles⟩
  let old := c.stopRec
  let first := kind == .hit && c.stop == some .hit && old.cyc == s.cycles && r.where_.toNat % 2 ^ 16 < old.where_.toNat % 2 ^ 16
  if c.stop.isSome then
    (s.modCrew p.uid fun c =>
      { c with stop := if c.stop == some .dump then some kind else c.stop
               stopRec := { (if first then r else old) with hits := old.hits ||| hits } }).haltRules c.pref
  else
    let s := s.modCrew p.uid fun c => { c with stop := some kind, stopNs := s.now, stopRec := r }
    (s.pauseTask c).haltRules c.pref

/-- End a crew's stop; the task's TIMEOUT runs on when none of its crews is stopped. -/
def State.unstop (s : State) (uid : Nat) : State :=
  let c := s.crew uid
  let s := s.modCrew uid fun c => { c with stop := none }
  let held := s.crews.any fun e => e.2.ldev == c.ldev && e.2.task == c.task && e.2.stop.isSome
  let s := if held then s else s.modTask c.ldev c.task fun t => match t.pausedAt with
    | some n => { t with pausedAt := none, pausedNs := t.pausedNs + (s.now - n) }
    | none => t
  let any := s.crews.any fun e => e.2.pref == c.pref && e.2.stop.isSome
  let s := match (s.part c.pref).wdPausedAt with
    | some t => if any then s else s.thawWatchdog c.pref t
    | none => s
  s.haltRules c.pref

end Sys2Proof.Machine
end

