-- ==== Sys2Proof/Machine/Mem.lean ====
section
/-! DEFINITION. The MEM class (10): loads, stores, atomics, handle words, fences, flushes and barrier words. -/

namespace Sys2Proof.Machine

/-! ### What an access is and what may stop it -/

/-- A handle register as a MEM word uses it: in privileged code a REGWIN entry carries W (R83). -/
def State.memH (s : State) (n : Nat) : HReg :=
  let h := s.rdH n
  if s.cslot.priv.isSome && h.ent.space == 5 then { h with ent := { h.ent with d2 := h.ent.d2 ||| 0x1000000 } } else h

/-- Kind of an access for watchpoints (R414). -/
inductive AccKind where
  | load | store | atomic
deriving DecidableEq, Repr

/-- An access of a word: its handle register, its kind, its size and alignment, and, of a vector access, its lanes. A vector
access through h1 addresses lane arrays (R210). -/
structure Access where
  hn : Nat
  kind : AccKind
  n : Nat
  align : Nat
  lanes : Option Word
  off : Nat → DWord

def AccKind.want (k : AccKind) (n align : Nat) : Want :=
  match k with
  | .load => ⟨n, align, true, false⟩
  | .store => ⟨n, align, false, true⟩
  | .atomic => ⟨n, align, true, true⟩

/-- Steps 1 to 5 of R86 with R88 and R211, then the pages. -/
def State.checkAccess (s : State) (a : Access) : Chk :=
  let h := s.memH a.hn
  let p := s.ccrew.pref
  let w := a.kind.want a.n a.align
  match a.lanes with
  | some A => s.checkLanes p a.hn h w (if a.hn == 1 then some s.chdr.privw else none) s.ccrew.core 2 A a.off
  | none => s.checkOne p a.hn h w s.ccrew.core 2 (a.off 0)

/-- The place of a lane's access. -/
def State.accLoc (s : State) (a : Access) (l : Nat) : Loc :=
  s.locOf s.cur.uid (s.memH a.hn) (if a.lanes.isSome && a.hn == 1 then some l else none) (a.off l).toNat

/-- The lanes of an access; a scalar one counts as lane 0. -/
def Access.list (a : Access) : List Nat := match a.lanes with
  | some A => laneList A
  | none => [0]

/-- Watchpoint `w` watches accesses of this kind through this handle (R414). Firmware's accesses are watched in vendor-debug alone (R432). -/
def State.wpTakes (s : State) (w : Nat) (a : Access) : Bool :=
  let ctl := Store.get 0 s.ccrew.wp (3 * w + 2)
  let kind := match a.kind with
    | .load => ctl.getLsbD 24
    | .store => ctl.getLsbD 25
    | .atomic => ctl.getLsbD 26
  let here := if ctl.getLsbD 21 then a.hn == 1
    else if ctl.getLsbD 20 then a.hn == 0
    else 2 ≤ a.hn && (s.memH a.hn).idx == ctl.setWidth 20
  ctl.getLsbD 31 && kind && here && (s.cslot.priv.isNone || s.cfg.vendor)

/-- Lanes of an access that cover a byte a watchpoint watches (R416). -/
def State.wpLanes (s : State) (w : Nat) (a : Access) : Word :=
  let lo := (Store.get 0 s.ccrew.wp (3 * w)).toNat
  let hi := (Store.get 0 s.ccrew.wp (3 * w + 1)).toNat
  if !s.wpTakes w a then 0
  else laneMask fun l => a.list.contains l && (a.off l).toNat ≤ hi && lo < (a.off l).toNat + a.n

/-- Some byte the access reads is poisoned (R403). Firmware's reads of registers, which save them, do not consume. -/
def State.accPoison (s : State) (a : Access) : Bool :=
  let eats (l : Loc) : Bool := match l with
    | .reg _ _ => s.cslot.priv.isNone && s.poisoned l a.n
    | _ => s.poisoned l a.n || s.cutOff s.ccrew.die l
  a.kind != .store && (!s.poison.isEmpty || !s.ccrew.scrPoison.isEmpty || !s.links.isEmpty ||
    s.crews.any fun e => !e.2.regPoison.isEmpty) && a.list.any fun l => eats (s.accLoc a l)

/-- The watchpoints that an access hits and that are not suppressed for its pair, bit n for WPn (R416). -/
def State.wpHits (s : State) (a : Access) : Word :=
  laneMask fun w => w < 4 && !s.cslot.skipWp.getLsbD w && s.wpLanes w a != 0

/-- The issuer's pair stops at its word with the watchpoints that its access hits; the record holds the lanes that matched. On
resumption the word reissues with each of them suppressed once (R416, R418). -/
def State.watchHit (s : State) (a : Access) : State :=
  let hits := s.wpHits a
  let lanes := (laneList hits).foldl (fun m w => m ||| s.wpLanes w a) 0
  (s.stopCrew s.pair .hit Exc.watchpoint.code (hits <<< 8) lanes).modCSlot fun x => { x with skipWp := x.skipWp ||| hits }

/-! ### Translation (R89) -/

/-- The pages of an access: their device and first units. -/
def State.accPages (s : State) (a : Access) : List (Nat × Nat) :=
  (a.list.filterMap fun l => match s.accLoc a l with
    | .mem k => some (keyLdev k, (s.pageAt (keyLdev k) (pageOf k)).2)
    | _ => none).eraseDups

/-- A core gains a translation entry; it holds 2,048. -/
def Core.learn (c : Core) (pg : Nat × Nat) : Core :=
  if c.tlb.contains pg then c else { c with tlb := c.tlb.drop (c.tlb.length + 1 - 2048) ++ [pg] }

/-- A miss joins the die's walk of its page, or starts it. -/
def State.startWalk (s : State) (die ldev page : Nat) : State :=
  if s.walks.contains (die, ldev, page) then s else { s with walks := s.walks ++ [(die, ldev, page)] }

/-- Translate an access: a miss is served at once, or, where the move that issues the word has an odd `back`, by a walk that the
pair waits for. -/
def withPages (s : State) (a : Access) (go : State → Res) : Res :=
  let core := s.ccrew.core
  let miss := (s.accPages a).filter fun pg => !(s.core core).tlb.contains pg
  match miss with
  | [] => go s
  | pg :: _ =>
    if s.cur.back % 2 == 1 then .block (s.startWalk s.ccrew.die pg.1 pg.2) (.walk pg.1 pg.2)
    else go (miss.foldl (fun s pg => s.modCore core (Core.learn · pg)) s)

/-! ### The checks together -/

/-- The access is served by the issuer's L1: POLICY 0, a local line, and an arena that caches may hold (R93, R295). -/
def State.inL1 (s : State) (h : HReg) (l : Loc) : Bool :=
  h.ent.policy == 0 && l.die == some s.ccrew.die && (s.arena (h.ent.arenaRef s.ccrew.pref)).cap != 0

/-- The lanes of a load or an atomic that fail step 5 at the slice that performs them, and the fault of the first (R297). A load
that the L1 serves is not performed at a slice. -/
def State.sliceStops (s : State) (a : Access) : List (Nat × Exc) :=
  let h := s.memH a.hn
  a.list.filterMap fun l =>
    let loc := s.accLoc a l
    if a.kind == .load && s.inL1 h loc then none
    else (s.step5 s.ccrew.pref h.ent h.stale (a.kind != .load) loc.slice).map fun e => (l, e)

/-- The precise fault of lanes that failed at their slices. -/
def State.sliceFault (s : State) (a : Access) (bad : List (Nat × Exc)) : FaultInfo :=
  { exc := (bad.headD (0, .arenaStale)).2, lanes := a.lanes.map fun _ => laneMask fun l => bad.any fun x => x.1 == l
    hreg := some a.hn, hindex := (s.memH a.hn).idx, offset := a.off (bad.headD (0, .arenaStale)).1, eng := 2 }

/-- A sector of the access whose fill is pending at its slice (R313, R315). -/
def State.accFill (s : State) (a : Access) : Option Nat :=
  if s.fills.isEmpty then none
  else a.list.findSome? fun l =>
    let loc := s.accLoc a l
    let held : Bool := match loc with
      | .mem k => s.inL1 (s.memH a.hn) loc && a.kind == .load && (Store.get 0 s.sharers (k / 128)).getLsbD (s.ccrew.core % 64)
      | _ => true
    if held then none else s.filling loc a.n

/-- Check an access in R86's order, then the watchpoints, then poison; translate it, wait for a pending fill, and go on. -/
def withAccess (s : State) (a : Access) (go : State → Res) : Res :=
  match s.checkAccess a with
  | .bad f => .trap s f
  | .page d pg f => .block s (.page d pg f)
  | .ok =>
    if s.wpHits a != 0 then .block (s.watchHit a) .stopped
    else if s.accPoison a then .block s .poison
    else withPages s a fun s => match (if a.kind == .store then none else s.accFill a) with
      | some k => .block s (.fill k)
      | none => go (s.modCSlot fun x => { x with skipWp := 0 })

/-! ### Loads -/

/-- The pair is stopped, so that a REGWIN read of its thread returns the current value (R83). -/
def Crew.threadStopped (c : Crew) (tid : Nat) : Bool :=
  let t := c.thread tid
  let still (x : Slot) : Bool := x.st == .empty || x.inTrap
  c.stop.isSome || c.st != .running || t.st != .running || (still t.arch.a && still t.arch.b)

/-- The choice that the move makes for lane `l`, in 16 bits of `back` above bit 0. -/
def State.digit (s : State) (l : Nat) : Nat := s.cur.back / 2 ^ (16 * l + 1) % 2 ^ 16

/-- An element of a nonempty list by a number; 0 is the first. -/
def pick {α : Type} (d : α) (l : List α) (n : Nat) : α := if n = 0 then l.headD d else l.getD (n % l.length) d

/-- Bytes of a REGWIN place: of a running thread, as at one of its last 17 instruction boundaries, which the move chooses; of
a stopped one, the present ones (R83). -/
def State.readReg (s : State) (uid off n choice : Nat) : List Byte :=
  let c := s.crew uid
  let tid := off / 8192
  let t := c.thread tid
  let v := if c.threadStopped tid then t.arch.v else pick t.arch.v (t.arch.v :: t.past) choice
  let a : Arch := { t.arch with v := v }
  (List.range n).map fun k => if stackBase ≤ off then s.peek (.reg uid (off + k))
    else if s.regAlloc c (off + k) then a.regByte (off + k) else 0

/-- Writes of the thread that a load must wait for are performed first (R95). -/
def State.settleOwn (s : State) (l : Loc) (n : Nat) : State :=
  if s.cthr.coveredByOp l n then
    let s := s.drainWindow s.cur.uid s.cur.tid
    let s := s.drainLocal s.cur.uid s.cur.tid
    match l.die with
    | some d => s.drain s.cur.uid s.cur.tid (some d)
    | none => s
  else s

/-- When a load may be performed, as the number of writes it follows: now; or, where its agent's order leaves it open, just
before a write that it may miss; or, for a line whose invalidation is queued at the issuer's L1, when that was queued (R94). -/
def State.viewTimes (s : State) (h : HReg) (l : Loc) (n : Nat) : List Nat :=
  let lo := s.cthr.bound l n
  let old := match l with
    | .mem a => if s.inL1 h l then
        ((s.core s.ccrew.core).inval.filter fun i => i.line == a / 128 && i.at_ < s.writes &&
          (List.range n).all fun k => Store.get 0 s.cthr.seen (l.plus k).key ≤ i.at_).map InvLine.at_
      else []
    | _ => []
  s.writes :: (s.moments l n lo ++ old)

/-- The byte that a load performed at moment `t` finds: the L1's old byte while it serves that, else memory's of the time. -/
def State.viewAt (s : State) (t : Nat) (l : Loc) : Byte :=
  match l with
  | .mem a => match (s.core s.ccrew.core).inval.find? fun i => i.line == a / 128 && i.at_ == t && t < s.writes with
    | some i => i.old.getD (a % 128) 0
    | none => s.byteAt t l
  | _ => s.byteAt t l

/-- What one load of `n` bytes sees at lane `lane`: the issuer's own queued bytes first, else those of the moment that the move
chooses. The L1 gives up an old line once a newer value has been read of it, and shares the line (R94). -/
def State.loadBytes (s : State) (h : HReg) (l : Loc) (n lane : Nat) : List Byte × State :=
  let s := s.settleOwn l n
  let core := s.ccrew.core
  match l with
  | .reg uid off => (((s.readReg uid off n (s.digit lane)).zipIdx.map fun x => (s.cthr.forward (l.plus x.2)).getD x.1), s)
  | _ =>
    let t := pick s.writes (s.viewTimes h l n) (s.digit lane)
    let bs := (List.range n).map fun k => (s.cthr.forward (l.plus k)).getD (s.viewAt t (l.plus k))
    let u := s.modThread s.cur.uid s.cur.tid fun x => x.saw l n t
    match l with
    | .mem a =>
      let line := a / 128
      let u := if (s.core core).inval.any fun i => i.line == line && i.at_ != t then u.applyInval core line else u
      (bs, if s.inL1 h l then u.share core line else u)
    | _ => (bs, u)

/-- The loads of an access, lane by lane: what each lane read. -/
def State.loadLanes (s : State) (a : Access) : List (Nat × Nat) × State :=
  a.list.foldl (fun (r : List (Nat × Nat) × State) l =>
    let (bs, s) := r.2.loadBytes (r.2.memH a.hn) (r.2.accLoc a l) a.n l
    (r.1 ++ [(l, leNat bs)], s)) ([], s)

/-- A load that a pending fence holds: remote, or performed as POLICY 2 is (R104, R295). -/
def State.heldLoad (s : State) (a : Access) : Bool :=
  let h := s.memH a.hn
  s.fencePending.isSome && a.list.any fun l =>
    (s.accLoc a l).remote s.ccrew.die || h.ent.policy == 2 ||
      (h.ent.space != 0 && h.ent.space != 5 && (s.arena (h.ent.arenaRef s.ccrew.pref)).cap == 0)

/-- An acquire: at die scope or wider it applies every queued invalidation, and later loads see every write performed so far;
at crew scope they see what the crew's agents have (R94, R209). -/
def State.acquireAt (s : State) (scope : Nat) : State :=
  if 1 ≤ scope then (s.applyAll s.ccrew.core).seeAll s.cur.uid s.cur.tid else s.seeCrew s.cur.uid s.cur.tid

/-- The value a lane read. -/
def valueOf (vs : List (Nat × Nat)) (l : Nat) : Nat := ((vs.find? fun x => x.1 == l).map Prod.snd).getD 0

/-- Extend `n` bytes to a word or a dword. -/
def extendTo (w : Nat) (sg : Bool) (n v : Nat) : BitVec w :=
  if sg && 2 ^ (8 * n - 1) ≤ v then BitVec.ofInt w ((v : Int) - 2 ^ (8 * n)) else BitVec.ofNat w v

/-- What R80 asks of a vector load or store. -/
def mvInfo (i : Instr) (f : FmtMV) (src : List (BitVec 6)) : WordInfo :=
  { cls := .mem, caps := [11], wf := i.wf, reads := i.reads, lead := false, vregs := [f.v.toNat, f.o.toNat], vsrc := src.map BitVec.toNat
    gp := f.gp }

/-- The access of a format MV word over the lanes A. -/
def State.mvAccess (s : State) (f : FmtMV) (k : AccKind) (A : Word) : Access :=
  let n := 2 ^ f.sz.toNat
  { hn := f.h.toNat, kind := k, n := n, align := n, lanes := some A, off := fun l => (s.rdV f.o l).setWidth 64 }

/-- `vld` and `vlds` (R208, R209). -/
def loadBody (f : FmtMV) (sg : Bool) (s : State) : Res :=
  let A := s.lanes f.gp 0
  if A == 0 then .done s
  else withAccess s (s.mvAccess f .load A) fun s =>
    let a := s.mvAccess f .load A
    if s.heldLoad a then .block s .fence
    else if !(s.sliceStops a).isEmpty then .trap s (s.sliceFault a (s.sliceStops a))
    else
      let first := if f.ord == 1 && 1 ≤ f.scope.toNat then s.acquireAt f.scope.toNat else s
      let (vs, s) := first.loadLanes a
      let s := if f.ord == 1 then s.acquireAt f.scope.toNat else s
      .done (s.wrV f.v A fun l => extendTo 32 sg a.n (valueOf vs l))

def execVld (f : FmtMV) (s : State) : Host.Outcome State Fault Refusal :=
  runWord (mvInfo (Instr.vld f) f [f.o]) (loadBody f false) s

def execVlds (f : FmtMV) (s : State) : Host.Outcome State Fault Refusal :=
  runWord (mvInfo (Instr.vlds f) f [f.o]) (loadBody f true) s

/-- What R80 asks of a scalar load or store. -/
def msInfo (i : Instr) : WordInfo := { cls := .mem, caps := [11], wf := i.wf, reads := i.reads }

/-- The access of a format MS load or store (R213). -/
def State.msAccess (s : State) (f : FmtMS) (k : AccKind) : Access :=
  let n := 2 ^ f.sz.toNat
  { hn := f.h.toNat, kind := k, n := n, align := n, lanes := none
    off := fun _ => s.rdS f.sa + BitVec.ofNat 64 (f.imm.toNat * n) }

/-- `sld` and `slds` (R213). -/
def sloadBody (f : FmtMS) (sg : Bool) (s : State) : Res :=
  withAccess s (s.msAccess f .load) fun s =>
    let a := s.msAccess f .load
    if s.heldLoad a then .block s .fence
    else if !(s.sliceStops a).isEmpty then .trap s (s.sliceFault a (s.sliceStops a))
    else
      let (vs, s) := s.loadLanes a
      .done (s.wrS f.sd (extendTo 64 sg a.n (valueOf vs 0)))

def execSld (f : FmtMS) (s : State) : Host.Outcome State Fault Refusal :=
  runWord (msInfo (Instr.sld f)) (sloadBody f false) s

def execSlds (f : FmtMS) (s : State) : Host.Outcome State Fault Refusal :=
  runWord (msInfo (Instr.slds f)) (sloadBody f true) s

/-! ### Stores -/

/-- The queue entry of an access: `val` gives each lane's bytes, `cmp` its compare value. A write to another die is
posted (R95); it is a release where the word is, or where a fence that orders stores is pending (R209, R220). -/
def State.pendOf (s : State) (a : Access) (kind : WriteKind) (rel : Bool) (no : Nat) (val : Nat → Nat) (cmp : Nat → Word) :
    PendWrite :=
  let h := s.memH a.hn
  let e := h.ent
  let one (l : Nat) : LaneWrite :=
    { lane := a.lanes.map fun _ => l, loc := s.accLoc a l, off := a.off l, bytes := leBytes a.n (val l), cmp := cmp l }
  let away := a.list.any fun l => (s.accLoc a l).remote s.ccrew.die
  { at_ := no, kind := kind, lanes := a.list.map one
    posted := if away then (s.accLoc a (a.list.headD 0)).die else none
    rel := rel || s.fencePending.isSome
    arena := if e.space == 0 || e.space == 5 then none else some (e.arenaRef s.ccrew.pref)
    gen := e.gen, stale := h.stale, hdr := s.cur.hdr, word := s.cur.word, hreg := a.hn, hindex := h.idx
    slotB := s.cur.slotB }

/-- Enter a write in the thread's store queue (R208). -/
def State.enqueue (s : State) (w : PendWrite) : State :=
  s.modThread s.cur.uid s.cur.tid fun t => { t with sq := t.sq ++ [w] }

/-- The issue number of the word in the window's newest entry. -/
def State.issueNo (s : State) : Nat := s.cthr.issued - 1

def execVst (f : FmtMV) (s : State) : Host.Outcome State Fault Refusal :=
  runWord (mvInfo (Instr.vst f) f [f.v, f.o]) (fun s =>
    let A := s.lanes f.gp 0
    if A == 0 then .done s
    else withAccess s (s.mvAccess f .store A) fun s =>
      let a := s.mvAccess f .store A
      .done (s.enqueue (s.pendOf a .store (f.ord == 2) s.issueNo (fun l => (s.rdV f.v l).toNat) fun _ => 0))) s

def execSst (f : FmtMS) (s : State) : Host.Outcome State Fault Refusal :=
  runWord (msInfo (Instr.sst f)) (fun s =>
    withAccess s (s.msAccess f .store) fun s =>
      let a := s.msAccess f .store
      .done (s.enqueue (s.pendOf a .store false s.issueNo (fun _ => (s.rdS f.sd).toNat) fun _ => 0))) s

/-! ### Atomics (R215 to R217) -/

/-- What R80 asks of a vector atomic of element type `ty`; vd is a source of cas alone. -/
def maInfo (i : Instr) (ty : Nat) (f : FmtMA) : WordInfo :=
  { cls := .mem, caps := [if ty ≤ 1 then 12 else 13], wf := i.wf, reads := i.reads, lead := false, old := true
    vregs := [f.vd.toNat, f.o.toNat, f.vb.toNat]
    vsrc := [f.o.toNat, f.vb.toNat] ++ if f.k == 7 then [f.vd.toNat] else [] }

def State.maAccess (s : State) (f : FmtMA) : Access :=
  { hn := f.h.toNat, kind := .atomic, n := 4, align := 4, lanes := some s.mask
    off := fun l => (s.rdV f.o l).setWidth 64 }

/-- What a lane of an atomic leaves: what the lanes found, the fault of those that failed at a slice, the state. -/
abbrev AtomRun := List (Nat × Nat) × Option (Exc × Word × DWord) × State

/-- Perform lane `l` of an atomic with return at its home: step 5 again (R297), after the issuer's writes to the same bytes,
then OP on what the lane finds (R215). -/
def atomLane (a : Access) (ty k : Nat) (val cmp : Nat → Nat) (r : AtomRun) (l : Nat) : AtomRun :=
  let (vs, fault, s) := r
  let loc := s.accLoc a l
  let h := s.memH a.hn
  match s.step5 s.ccrew.pref h.ent h.stale true loc.slice with
  | some e =>
    let (x, m, o) := fault.getD (e, 0, a.off l)
    (vs ++ [(l, 0)], some (x, m ||| BitVec.ofNat 32 (2 ^ l), o), s)
  | none =>
    let s := s.settleOwn loc a.n
    let old := leNat (s.peekN loc a.n)
    let ar := if h.ent.space == 0 || h.ent.space == 5 then none else some (h.ent.arenaRef s.ccrew.pref)
    let s := match atomOp ty k old (val l % 2 ^ (8 * a.n)) (cmp l % 2 ^ (8 * a.n)) with
      | some v => s.coreWrite s.ccrew.core (a.hn == 1) ar loc (leBytes a.n v)
      | none => s
    (vs ++ [(l, old)], fault, s)

/-- Perform the lanes of an atomic with return that are still to come, in ascending order, or as many of them as the move lets
this issue perform; the others follow when the pair issues again, and other agents' accesses may fall between (R98, R216). When
all are done the word completes, or faults precisely for the lanes that failed at their slices (R297). -/
def atomGo (a : Access) (ty k : Nat) (val cmp : Nat → Nat) (fin : List (Nat × Nat) → State → Res) (vs : List (Nat × Nat))
    (fault : Option (Exc × Word × DWord)) (s : State) : Res :=
  let todo := a.list.filter fun l => !vs.any fun x => x.1 == l
  let now := if s.cur.only = 0 then todo else todo.take s.cur.only
  let (vs, fault, s) := now.foldl (atomLane a ty k val cmp) (vs, fault, s)
  if now.length < todo.length then
    .placed (s.modCSlot fun x =>
      { x with st := .ready, pc := s.cur.hdr, word := s.cur.word, started := true, holds := true, wait := some (.atoms vs fault) })
  else
    let s := s.acquireAt 2
    match fault with
    | none => fin vs s
    | some (e, m, o) =>
      .trap s { exc := e, lanes := a.lanes.map fun _ => m, hreg := some a.hn, hindex := (s.memH a.hn).idx, offset := o, eng := 2 }

/-- An atomic with return: the checks and the issuer's earlier local writes come first (R216). -/
def atomBody (a : Access) (ty k : Nat) (val cmp : Nat → Nat) (fin : List (Nat × Nat) → State → Res) (s : State) : Res :=
  match s.cslot.wait with
  | some (.atoms vs fault) => atomGo a ty k val cmp fin vs fault s
  | _ => withAccess s a fun s =>
      if s.fencePending.isSome then .block s .fence
      else atomGo a ty k val cmp fin [] none ((s.drainLocal s.cur.uid s.cur.tid).applyAll s.ccrew.core)

/-- `vatom` (R215, R216). -/
def vatomWord (i : Instr) (ty : Nat) (f : FmtMA) (s : State) : Host.Outcome State Fault Refusal :=
  runWord (maInfo i ty f) (fun s =>
    atomBody (s.maAccess f) ty f.k.toNat (fun l => (s.rdV f.vb l).toNat) (fun l => (s.rdV f.vd l).toNat)
      (fun vs t => .done (t.wrV f.vd t.mask fun l => BitVec.ofNat 32 (valueOf vs l))) s) s

/-- `vatomn` (R215, R216): its lanes go through the store queue, and a remote one is posted (R95). -/
def vatomnWord (i : Instr) (ty : Nat) (f : FmtMA) (s : State) : Host.Outcome State Fault Refusal :=
  runWord (maInfo i ty f) (fun s =>
    withAccess s (s.maAccess f) fun s =>
      if s.fencePending.isSome then .block s .fence
      else
        let w := s.pendOf (s.maAccess f) (.atomic ty f.k.toNat) true s.cthr.issued (fun l => (s.rdV f.vb l).toNat)
          fun l => s.rdV f.vd l
        .done ((s.enqueue w).modThread s.cur.uid s.cur.tid fun t => { t with issued := t.issued + 1 })) s

def execVatomI32 (f : FmtMA) (s : State) : Host.Outcome State Fault Refusal := vatomWord (Instr.vatomI32 f) atI32 f s

def execVatomU32 (f : FmtMA) (s : State) : Host.Outcome State Fault Refusal := vatomWord (Instr.vatomU32 f) atU32 f s

def execVatomF32 (f : FmtMA) (s : State) : Host.Outcome State Fault Refusal := vatomWord (Instr.vatomF32 f) atF32 f s

def execVatomF16x2 (f : FmtMA) (s : State) : Host.Outcome State Fault Refusal :=
  vatomWord (Instr.vatomF16x2 f) atF16 f s

def execVatomB16x2 (f : FmtMA) (s : State) : Host.Outcome State Fault Refusal :=
  vatomWord (Instr.vatomB16x2 f) atB16 f s

def execVatomnI32 (f : FmtMA) (s : State) : Host.Outcome State Fault Refusal :=
  vatomnWord (Instr.vatomnI32 f) atI32 f s

def execVatomnU32 (f : FmtMA) (s : State) : Host.Outcome State Fault Refusal :=
  vatomnWord (Instr.vatomnU32 f) atU32 f s

def execVatomnF32 (f : FmtMA) (s : State) : Host.Outcome State Fault Refusal :=
  vatomnWord (Instr.vatomnF32 f) atF32 f s

def execVatomnF16x2 (f : FmtMA) (s : State) : Host.Outcome State Fault Refusal :=
  vatomnWord (Instr.vatomnF16x2 f) atF16 f s

def execVatomnB16x2 (f : FmtMA) (s : State) : Host.Outcome State Fault Refusal :=
  vatomnWord (Instr.vatomnB16x2 f) atB16 f s

def saInfo (f : FmtSA) : WordInfo :=
  { cls := .mem, caps := [12], wf := (Instr.satom f).wf, reads := (Instr.satom f).reads, old := true }

def State.saAccess (s : State) (f : FmtSA) : Access :=
  { hn := f.h.toNat, kind := .atomic, n := 8, align := 8, lanes := none, off := fun _ => s.rdS f.sa }

def execSatom (f : FmtSA) (s : State) : Host.Outcome State Fault Refusal :=
  runWord (saInfo f) (fun s =>
    atomBody (s.saAccess f) atI64 f.k.toNat (fun _ => (s.rdS f.sb).toNat) (fun _ => (s.rdS f.sd).toNat)
      (fun vs t => .done (t.wrS f.sd (BitVec.ofNat 64 (valueOf vs 0)))) s) s

/-! ### Handles (R218, R219) -/

/-- Why `hsel` refuses an index (R218). -/
def State.hselBad (s : State) (i : Nat) : Bool :=
  let p := s.ccrew.pref
  let e := s.handle p i
  let a := s.arena (e.arenaRef p)
  i ≥ 2 ^ 20 || !e.valid || e.space == 7 || e.policy == 3 || a.st == .free || a.st == .dropping || a.gen != e.gen

/-- `hsel`. The index is a 64-bit sum; one of 2^20 or more is recorded as 0xFFFFF (log entry 76). -/
def execHsel (f : FmtMS) (s : State) : Host.Outcome State Fault Refusal :=
  runWord (msInfo (Instr.hsel f)) (fun s =>
    let i := (s.rdS f.sa + BitVec.ofNat 64 f.imm.toNat).toNat
    if s.hselBad i then
      .trap s { exc := .handleInvalid, eng := 2, hreg := some f.h.toNat
                hindex := if i < 2 ^ 20 then BitVec.ofNat 20 i else 0xFFFFF }
    else
      let h : HReg := ⟨BitVec.ofNat 20 i, s.handle s.ccrew.pref i, false⟩
      .done ((s.cleanReg (hKey f.h)).modCArch fun a => { a with h := Store.set {} a.h f.h.toNat h })) s

def execHinfo (f : FmtMS) (s : State) : Host.Outcome State Fault Refusal :=
  runWord (msInfo (Instr.hinfo f)) (fun s =>
    let e := (s.rdH f.h.toNat).ent
    .done (s.wrS f.sd (match f.imm.toNat with
      | 0 => e.d0
      | 1 => e.d1
      | 2 => e.d2
      | _ => e.d3))) s

/-! ### Fences and flushes (R220 to R222) -/

/-- Some local write of the thread issued before `m` is still queued; `loads`: some local atomic, which is a load too (R220). -/
def Thread.localBefore (t : Thread) (m : Nat) (loads : Bool) : Bool :=
  t.sq.any fun w => !w.gone && w.posted.isNone && w.at_ < m && (!loads || w.kind != .store)

/-- The fence orders loads alone before itself: `.ll` and `.acq` (R220). -/
def fenceLoads (kind : Nat) : Bool := kind == 1 || kind == 3

/-- A fence. It waits for the earlier local events of the kinds it orders that are still to be performed: stores, and for
`.ll` and `.acq` the atomics, since loads are performed when they issue (R221). -/
def execFence (f : FmtMF) (s : State) : Host.Outcome State Fault Refusal :=
  runWord (msInfo (Instr.fence f)) (fun s =>
    if s.fencePending.isSome then .block s .fence
    else if !s.cthr.localBefore s.issueNo (fenceLoads f.kind.toNat) then .done (s.acquireAt f.scope.toNat)
    else .done ((s.acquireAt f.scope.toNat).modThread s.cur.uid s.cur.tid fun t =>
      { t with fence := some (8 * f.scope.toNat + f.kind.toNat, s.issueNo) })) s

/-- The home die that a flush word names, after steps 1 and 2 of R86 on its byte (R222). The offset is a 64-bit sum (log entry 77). -/
def State.flushDie (s : State) (f : FmtMS) : Nat ⊕ FaultInfo :=
  let h := s.rdH f.h.toNat
  let off := s.rdS f.sa + BitVec.ofNat 64 f.imm.toNat
  match [1, 2].findSome? fun k => s.checkStep s.ccrew.pref h ⟨1, 1, false, false⟩ none s.ccrew.core off k with
  | some e => .inr { exc := e, eng := 2, hreg := some f.h.toNat, hindex := h.idx, offset := off }
  | none => .inl (if h.ent.space == 4 then h.ent.pdev else s.ccrew.die)

def execFlsig (f : FmtMS) (s : State) : Host.Outcome State Fault Refusal :=
  runWord { msInfo (Instr.flsig f) with old := true } (fun s =>
    match s.flushDie f with
    | .inr e => .trap s e
    | .inl die =>
      if die == s.ccrew.die then .done (s.wrS f.sd 0)
      else
        let n := Store.get 0 s.cthr.flIssued die + 1
        let sig (t : Thread) : Thread :=
          { t with flIssued := Store.set 0 t.flIssued die n, flushes := t.flushes ++ [(die, n, t.issued)] }
        .done ((s.modThread s.cur.uid s.cur.tid sig).wrS f.sd (BitVec.ofNat 64 n))) s

def execFlwait (f : FmtMS) (s : State) : Host.Outcome State Fault Refusal :=
  runWord (msInfo (Instr.flwait f)) (fun s =>
    match s.flushDie f with
    | .inr e => .trap s e
    | .inl die =>
      let n := min (s.rdS f.sd).toNat (Store.get 0 s.cthr.flIssued die)
      if die == s.ccrew.die || n ≤ Store.get 0 s.cthr.flDone die then .done (s.seeAll s.cur.uid s.cur.tid) else .block s (.flwait die n)) s

/-! ### Barrier words (R225 to R227) -/

/-- The offset a barrier word names, and the watchpoints' view of it. -/
def State.barPlace (s : State) (f : FmtMB) : DWord := s.rdS f.sa + BitVec.ofNat 64 f.imm.toNat
def State.barAccess (s : State) (f : FmtMB) : Access :=
  { hn := 0, kind := .atomic, n := 16, align := 16, lanes := none, off := fun _ => s.barPlace f }

/-- The object a barrier word names, checked as R225 gives; the watchpoint of R416 sees it as an atomic through h0. -/
def withBar (f : FmtMB) (s : State) (go : State → Nat → Res) : Res :=
  let a := s.barPlace f
  let bad (e : Exc) : FaultInfo := { exc := e, eng := 2, hreg := some 0, offset := a }
  if a.toNat % 16 ≠ 0 then .trap s (bad .misaligned)
  else if (s.rdH 0).ent.size < a.toNat + 16 then .trap s (bad .handleBounds)
  else
    let acc := s.barAccess f
    if s.wpHits acc != 0 then .block (s.watchHit acc) .stopped
    else go ((s.modCSlot fun x => { x with skipWp := 0 }).drainLocal s.cur.uid s.cur.tid) a.toNat

def mbInfo (i : Instr) : WordInfo := { cls := .mem, caps := [14], wf := i.wf, reads := i.reads, old := true }

/-- A status in the word's register. -/
def State.barStatus (s : State) (f : FmtMB) (n : Nat) : Res := .done (s.wrS f.sr (BitVec.ofNat 64 n))

/-- The status of a wait; 0 and 1 are an acquire (R227). -/
def State.barEnd (s : State) (f : FmtMB) (v : DWord) : Res :=
  .done ((if v.toNat ≤ 1 then s.seeAll s.cur.uid s.cur.tid else s).wrS f.sr v)

def execBarinit (f : FmtMB) (s : State) : Host.Outcome State Fault Refusal :=
  runWord (mbInfo (Instr.barinit f)) (fun s => withBar f s fun s o =>
    let b := s.rdBar s.cur.uid o
    let v := bits (s.rdS f.sr).toNat 0 32
    if v = 0 then .done ((s.wrBar s.cur.uid o { b with armed := false }).wakeBar s.cur.uid o 3)
    else .done (s.wrBar s.cur.uid o ⟨b.rest, v, v, false, true, false, b.phase, 0⟩)) s

def execBarexp (f : FmtMB) (s : State) : Host.Outcome State Fault Refusal :=
  runWord (mbInfo (Instr.barexp f)) (fun s => withBar f s fun s o =>
    let b := s.rdBar s.cur.uid o
    let v := bits (s.rdS f.sr).toNat 0 32
    if !b.armed then s.barStatus f 3
    else if 0xFFFFFFFF < b.pending + v then (s.wrBar s.cur.uid o { b with overrun := true }).barStatus f 1
    else (s.wrBar s.cur.uid o { b with pending := b.pending + v }).barStatus f 0) s

def execBarrive (f : FmtMB) (s : State) : Host.Outcome State Fault Refusal :=
  runWord (mbInfo (Instr.barrive f)) (fun s => withBar f s fun s o =>
    let armed := (s.rdBar s.cur.uid o).armed
    let (ok, s) := s.arriveBar s.cur.uid o (bits (s.rdS f.sr).toNat 0 32)
    s.barStatus f (if !armed then 3 else if ok then 0 else 1)) s

/-- The status of R226, if the wait ends. -/
def State.waitStatus (s : State) (o : Nat) (ph : Bool) : Option Nat :=
  let b := s.rdBar s.cur.uid o
  if s.ccrew.abandon then some 2
  else if !b.armed then some 3
  else if b.phase != ph then some (boolNat b.overrun)
  else none

/-- Wait at the object (R226). A word that is already waiting returns the status of the moment that released it. -/
def State.barWait (s : State) (f : FmtMB) (o : Nat) (ph : Bool) : Res :=
  match s.waitStatus o ph with
  | some n => s.barEnd f (BitVec.ofNat 64 n)
  | none => .block s (.barrier o ph)

/-- A blocked `bwait` or `bsync` that reissues goes on waiting for the phase it waited for; `first` is a first issue. -/
def State.resumeBar (s : State) (f : FmtMB) (first : Unit → Res) : Res :=
  match s.cslot.wait with
  | some (.released v _) => s.barEnd f v
  | some (.barrier o ph) => s.barWait f o ph
  | _ => first ()

def execBwait (f : FmtMB) (s : State) : Host.Outcome State Fault Refusal :=
  runWord (mbInfo (Instr.bwait f)) (fun s => s.resumeBar f fun _ => withBar f s fun s o =>
    s.barWait f o ((s.rdS f.sr).getLsbD 0)) s

def execBartest (f : FmtMB) (s : State) : Host.Outcome State Fault Refusal :=
  runWord (mbInfo (Instr.bartest f)) (fun s => withBar f s fun s o =>
    let b := s.rdBar s.cur.uid o
    (s.seeAll s.cur.uid s.cur.tid).barStatus f (boolNat b.phase + 2 * boolNat b.overrun + 4 * boolNat b.armed + 8 * boolNat s.ccrew.abandon +
      2 ^ 32 * b.pending)) s

def execBsync (f : FmtMB) (s : State) : Host.Outcome State Fault Refusal :=
  runWord (mbInfo (Instr.bsync f)) (fun s => s.resumeBar f fun _ => withBar f s fun s o =>
    let ph := (s.rdBar s.cur.uid o).phase
    (s.arriveBar s.cur.uid o 1).2.barWait f o ph) s

end Sys2Proof.Machine
end

