-- ==== Sys2Proof/Machine/Eng.lean ====
section
/-! DEFINITION. What the engine contexts share: address dwords and range checks (R233, R234), acceptance (R15, R16, R105),
and the accesses of an accepted operation (R19, R90, R297, R403). -/

namespace Sys2Proof.Machine

/-- The copy and matrix contexts of the crew run (R53, R417). -/
def Crew.mayRun (c : Crew) : Bool := c.st == .running || c.st == .retiring

/-- Operations that pre-emption waits for may end (R246, R254, R343). -/
def Crew.mayFinish (c : Crew) : Bool := c.mayRun || c.st == .preempting

/-- An address dword of an engine command (R233). -/
def addrReg (d : DWord) : Nat := bits d.toNat 61 3
def addrOffset (d : DWord) : Nat := bits d.toNat 0 48

/-- A range that a command names, through a handle register. -/
structure Range where
  hn : Nat
  off : Int
  n : Nat
  align : Nat := 1
  rd : Bool := false
  wr : Bool := false
deriving DecidableEq, Repr

/-- Steps 1 to 4 of R86 over a whole range; an alignment of 1 asks nothing (R234, R263). -/
def State.rangeBad (s : State) (eng : Nat) (r : Range) : Option FaultInfo :=
  let h := s.rdH r.hn
  let off := BitVec.ofInt 64 r.off
  ([1, 2, 3, 4].findSome? fun k => s.checkStep s.ccrew.pref h ⟨r.n, r.align, r.rd, r.wr⟩ none s.ccrew.core off k).map fun e =>
    { exc := e, eng := eng, hreg := some r.hn, hindex := h.idx, offset := off }

/-- R234's check of a barrier offset. -/
def State.barBad (s : State) (eng off : Nat) : Option FaultInfo :=
  let bad (e : Exc) : FaultInfo := { exc := e, eng := eng, hreg := some 0, offset := BitVec.ofNat 64 off }
  if off % 16 ≠ 0 then some (bad .misaligned)
  else if (s.rdH 0).ent.size < off + 16 then some (bad .handleBounds)
  else none

/-- 0xFFFF_FFFF names no barrier (R235). -/
def noBar : Nat := 0xFFFFFFFF

def State.barBad? (s : State) (eng off : Nat) : Option FaultInfo := if off = noBar then none else s.barBad eng off

/-- Accept a command, after its checks, when its context and token take it (R16, R19, R61); the issuer's earlier local
writes are performed first (R105). -/
def acceptCmd (s : State) (x : Ctx) (room : Nat) (tok : BitVec 3) (bad : Option FaultInfo) (go : State → Res) : Res :=
  match bad with
  | some f => .trap s f
  | none => match s.mayAccept x room tok.toNat with
    | some w => .block s w
    | none => go (s.drainLocal s.cur.uid s.cur.tid)

/-- A word that reads the handle registers `hs`; of a poisoned one it is the consumer (R403). -/
def withHandles (s : State) (hs : List Nat) (go : State → Res) : Res :=
  if !s.ccrew.regPoison.isEmpty && hs.any fun n => Store.get false s.ccrew.regPoison (regKey s.cur.tid (128 + n)) then
    .block s .poison
  else go s

/-- What stops an access of an accepted operation. -/
inductive OpStop where
  | err (f : FaultInfo)
  | page (ldev page : Nat) (f : FaultInfo)
  | fill (sector : Nat)
  | poison
deriving DecidableEq, Repr

/-- ENG code of a context (R56). -/
def ctxEng : Ctx → Nat
  | .copy => 5
  | .matrix => 4
  | .arena => 6
  | .message => 7

/-- Steps 5 and 6 of R86, the fill that a read waits for (R315) and the poison check for one access of an operation (R234, R403). -/
def State.opStop (s : State) (o : OpRef) (hn : Nat) (h : HReg) (off n : Nat) (rd wr : Bool) : Option OpStop :=
  let c := s.crew o.uid
  let f (e : Exc) : FaultInfo :=
    { exc := e, eng := ctxEng o.ctx, hreg := some hn, hindex := h.idx, offset := BitVec.ofNat 64 off }
  match s.step5 c.pref h.ent h.stale wr (s.locOf o.uid h none off).slice with
  | some e => some (.err (f e))
  | none => match s.missingPage c.ldev h.ent off n with
    | some (d, p) => some (.page d p (f .pageFatal))
    | none =>
      let l := s.locOf o.uid h none off
      if (rd && s.poisoned l n) || s.cutOff c.die l then some .poison
      else if rd then (s.filling l n).map .fill
      else none

/-- The bytes an operation reads. -/
def State.opRead (s : State) (o : OpRef) (h : HReg) (off n : Nat) : List Byte := s.peekN (s.locOf o.uid h none off) n

/-- The bytes an operation writes are performed at their home, or in the L1 for a private line (R93, R94). -/
def State.opWrite (s : State) (o : OpRef) (h : HReg) (off : Nat) (bs : List Byte) : State :=
  let c := s.crew o.uid
  let ar := if h.ent.space == 0 || h.ent.space == 5 then none else some (h.ent.arenaRef c.pref)
  s.coreWrite c.core (h.ent.space == 1) ar (s.locOf o.uid h none off) bs

/-- The work of an operation has ended in error (R19): it completes when its completion is performed. -/
def State.failOp (s : State) (o : OpRef) (f : FaultInfo) : State :=
  s.modOp o fun p => { p with st := .done, err := some f }

/-- Act on what stopped an access: an error, a page to wait for (R90), a fill that returns first (R315), or consumed poison,
which also kills the issuer (R403). -/
def State.stopOp (s : State) (o : OpRef) (st : OpStop) : State :=
  match st with
  | .err f => s.failOp o f
  | .page d p f => s.modOp o fun x => { x with waitPage := some (d, p, f) }
  | .fill k => s.fillBack k
  | .poison =>
    let tid := ((s.op? o).map Op.tid).getD leadTid
    (s.failOp o { exc := .dataUncorrectable, eng := ctxEng o.ctx }).killConsumer o.uid tid

/-- The first element for which a check answers. -/
def firstSome {α β : Type} (l : List α) (f : α → Option β) : Option β := l.findSome? f

end Sys2Proof.Machine
end

