-- ==== Sys2Proof/Machine/Mtx.lean ====
section
/-! DEFINITION. The MTX class (14): shape records, the eleven words, and one boundary of each operation (R284). -/

namespace Sys2Proof.Machine

/-! ### Tiles and side registers -/

def tileKey (t row col : Nat) : Nat := 16384 * t + 128 * row + col
def negInf : Word := 0xFF800000
def Crew.tile (c : Crew) (t row col : Nat) : Word := Store.get 0 c.tiles (tileKey t row col)

/-- Places of MAX and SUM among a crew's poison marks for tile words, which stand at their tile keys (R403). -/
def maxKey (t row : Nat) : Nat := 2 ^ 20 + 128 * t + row
def sumKey (t row : Nat) : Nat := 2 ^ 21 + 128 * t + row

/-- A tile word, MAX or SUM is written: it holds no poison. -/
def Crew.cleanTile (c : Crew) (k : Nat) : Crew := { c with tilePoison := Store.set false c.tilePoison k false }

def Crew.setTile (c : Crew) (t row col : Nat) (v : Word) : Crew :=
  { c.cleanTile (tileKey t row col) with tiles := Store.set 0 c.tiles (tileKey t row col) v }

/-- MAX resets to −∞ (R108). -/
def Crew.maxOf (c : Crew) (t row : Nat) : Word := Store.get negInf c.maxs (128 * t + row)
def Crew.sumOf (c : Crew) (t row : Nat) : Word := Store.get 0 c.sums (128 * t + row)
def Crew.setMax (c : Crew) (t row : Nat) (v : Word) : Crew :=
  { c.cleanTile (maxKey t row) with maxs := Store.set negInf c.maxs (128 * t + row) v }
def Crew.setSum (c : Crew) (t row : Nat) (v : Word) : Crew :=
  { c.cleanTile (sumKey t row) with sums := Store.set 0 c.sums (128 * t + row) v }

/-- A word of row `row` of tile `t`, in `n` columns from `col`, is poisoned. -/
def Crew.rowPoison (c : Crew) (t row col n : Nat) : Bool :=
  !c.tilePoison.isEmpty && (List.range n).any fun j => Store.get false c.tilePoison (tileKey t row (col + j))

/-! ### Shape records (R260 to R262) -/

structure Shape where
  rows : Nat
  cols : Nat
  hreg : Nat
  colMajor : Bool
  tile : Bool
  pm1 : Nat
  resv : Nat
  offset : Nat
  gather : Bool
  idx : Nat
  pstride : Nat
  stride : Nat
deriving DecidableEq, Repr

def Shape.ofDwords (r : DWord × DWord) : Shape :=
  let a := r.1.toNat
  let b := r.2.toNat
  { rows := bits a 56 8, cols := bits a 48 8, hreg := bits a 45 3, colMajor := r.1.getLsbD 44, tile := r.1.getLsbD 43
    pm1 := bits a 40 3, resv := bits a 32 8 + bits b 61 3, offset := bits a 0 32, gather := r.2.getLsbD 60
    idx := bits b 56 4, pstride := bits b 32 24, stride := bits b 0 32 }

/-- A shape slot's record. -/
def Crew.slotRec (c : Crew) (n : Nat) : DWord × DWord :=
  (Store.get 0 c.shapes (2 * n), Store.get 0 c.shapes (2 * n + 1))

/-- The lines of the record: their number and their length in elements. -/
def Shape.lines (x : Shape) : Nat := if x.colMajor then x.cols else x.rows
def Shape.lineLen (x : Shape) : Nat := if x.colMajor then x.rows else x.cols

/-- The roles of R262. -/
inductive Role where
  | a | aGather | b | bNi | dest | copy2d
deriving DecidableEq, Repr

def dimOk (n : Nat) : Bool := 16 ≤ n && n ≤ 128 && n % 16 == 0

/-- R262, with TILES of the crew; `tileOk` says a TILE record may stand here, `e` is the element size of a drain. -/
def Shape.valid (x : Shape) (role : Role) (tiles : Nat) (tileOk : Bool) (e : Nat) : Bool :=
  dimOk x.rows && dimOk x.cols && x.resv == 0 &&
    (!x.tile || (x.offset % 16 == 0 && x.offset + x.cols ≤ 128 && !x.colMajor && x.hreg < tiles)) &&
    match role with
    | .a => (if x.tile then tileOk else x.hreg == 0) && x.pm1 == 0 && !x.gather
    | .aGather => !x.tile && x.hreg == 0 && x.pm1 == 0 && x.gather && !x.colMajor
    | .b => !x.tile && x.hreg == 0 && x.pm1 == 0 && !x.gather
    | .bNi => !x.tile && x.hreg == 0 && x.pm1 != 0 && !x.gather
    | .dest => !x.tile && x.pm1 == 0 && !x.gather && x.lineLen * e ≤ x.stride
    | .copy2d => !x.tile && x.pm1 == 0 && !x.gather

/-- An index record of `mloopg`: HREG, TILE and OFFSET are read, ROWS must not be 0. -/
def Shape.validIdx (x : Shape) : Bool := x.hreg == 0 && !x.tile && x.rows != 0

/-- Byte of element (i, c) for elements of E bytes, at a step's OFFSET. -/
def Shape.byteOf (x : Shape) (off : Int) (e i c : Nat) : Int :=
  if x.colMajor then off + c * x.stride + i * e else off + i * x.stride + c * e

/-! ### Formats (R113, R261, R264, R265) -/

/-- Bytes of an A or B element. -/
def abBytes (code : Nat) : Nat := if code ≤ 1 then 2 else 1

/-- Bytes of a DFMT or QFMT element. -/
def dqBytes (code : Nat) : Nat := if code = 0 then 4 else if code ≤ 2 then 2 else 1

/-- Float format of an AFMT or BFMT code up to 3. -/
def abFmt (code : Nat) : FFmt :=
  if code = 0 then fmtB16 else if code = 1 then fmtF16 else if code = 2 then fmtE4 else fmtE5

/-- A code's class for the pairing table: 0 16-bit floats, 1 F8, 2 integers, 3 none. -/
def pairClass (code : Nat) : Nat := if code ≤ 1 then 0 else if code ≤ 3 then 1 else if code ≤ 5 then 2 else 3

/-- Integer value of an I8 (4) or U8 (5) byte. -/
def int8 (code v : Nat) : Int := if code == 4 && v ≥ 128 then (v : Int) - 256 else v

/-- Capability bits of an AFMT or BFMT code; a reserved code adds none (R404, R405). -/
def capFmt (code : Nat) : List Nat :=
  if code ≤ 3 then [15 + code] else if code ≤ 5 then [19] else []

/-! ### Fields of the words (R77, R266) -/

def FmtEB.T (f : FmtEB) : Nat := bits f.f.toNat 7 3
def FmtEB.XA (f : FmtEB) : Nat := bits f.f.toNat 3 4
def FmtEB.XB (f : FmtEB) : Nat := bits f.sd.toNat 0 4
def FmtEB.FL (f : FmtEB) (n : Nat) : Bool := f.f.getLsbD n

/-- What R80 asks of an MTX word in format EB. -/
def mtxInfo (i : Instr) (caps tiles : List Nat) : WordInfo :=
  { cls := .mtx, caps := caps, wf := i.wf, reads := i.reads, old := true, tiles := tiles }

/-- R259: wait for every operation accepted so far. -/
def afterMatrix (s : State) (go : State → Res) : Res :=
  let upto := match s.cslot.wait with
    | some (.matrixIdle n) => n
    | _ => s.ccrew.mtx.last
  if upto ≤ s.ccrew.mtx.timeline then go s else .block s (.matrixIdle upto)

def mtxFault (e : Exc) : FaultInfo := { exc := e, eng := 4 }

/-! ### Synchronous words -/

/-- The access of `mshape` without REG. -/
def State.shapeAccess (s : State) (f : FmtEB) : Access :=
  { hn := 0, kind := .load, n := 16, align := 16, lanes := none, off := fun _ => BitVec.ofNat 64 (bits (s.blkS f.sa 0).toNat 0 32) }

/-- `mshape` (R267). Without REG it is a plain load of 16 bytes of scratch, which a watchpoint sees (R416). -/
def execMshape (f : FmtEB) (s : State) : Host.Outcome State Fault Refusal :=
  runWord (mtxInfo (Instr.mshape f) [25] []) (fun s =>
    let put (a b : DWord) (s : State) : Res :=
      .done (s.modCrew s.cur.uid fun c =>
        { c with shapes := Store.set 0 (Store.set 0 c.shapes (2 * FmtEB.XA f) a) (2 * FmtEB.XA f + 1) b })
    if FmtEB.FL f 0 then put (s.blkS f.sa 0) (s.blkS f.sa 1) s
    else
      let off := bits (s.blkS f.sa 0).toNat 0 32
      let bad (e : Exc) : FaultInfo := { exc := e, eng := 4, hreg := some 0, offset := BitVec.ofNat 64 off }
      if off % 16 ≠ 0 then .trap s (bad .misaligned)
      else if (s.rdH 0).ent.size < off + 16 then .trap s (bad .handleBounds)
      else
        withAccess s (s.shapeAccess f) fun s =>
          let (bs, s) := s.loadBytes (s.rdH 0) (.scr s.cur.uid off) 16 0
          put (BitVec.ofNat 64 (leNat (bs.take 8))) (BitVec.ofNat 64 (leNat (bs.drop 8))) s) s

/-- Every row of a tile cleared. -/
def Crew.zeroTile (c : Crew) (t : Nat) : Crew :=
  { c with tilePoison := Store.keep (fun k => !(k / 16384 == t || (2 ^ 20 ≤ k && k % 2 ^ 20 / 128 == t))) c.tilePoison
           tiles := Store.keep (fun k => k / 16384 != t) c.tiles
           maxs := Store.keep (fun k => k / 128 != t) c.maxs
           sums := Store.keep (fun k => k / 128 != t) c.sums }

def execMzero (f : FmtEB) (s : State) : Host.Outcome State Fault Refusal :=
  runWord (mtxInfo (Instr.mzero f) [25] [FmtEB.T f]) (fun s => afterMatrix s fun s =>
    .done (s.modCrew s.cur.uid fun c => c.zeroTile (FmtEB.T f))) s

/-- A[i][k] of R269: register and lane, and half. -/
def State.mmaA (s : State) (va : BitVec 6) (i k : Nat) : Nat :=
  bits (s.rdV (va + BitVec.ofNat 6 (k / 4)) (i + 16 * (k % 4 / 2))).toNat (16 * (k % 2)) 16

/-- B[k][j]. -/
def State.mmaB (s : State) (vb : BitVec 6) (k j : Nat) : Nat :=
  bits (s.rdV (vb + BitVec.ofNat 6 (k / 4)) (j + 16 * (k % 4 / 2))).toNat (16 * (k % 2)) 16

/-- C[i][j] of R270: one group of sixteen products and the old element. -/
def State.mmaC (s : State) (f : FmtVR) (i j : Nat) : Word :=
  let ga := abFmt (fmtA s.fmt)
  let gb := abFmt (fmtB s.fmt)
  let c := (s.rdV (f.vd + BitVec.ofNat 6 (j / 2)) (i + 16 * (j % 2))).toNat
  BitVec.ofNat 32 (dotF c ((List.range 16).map fun k =>
    [(ga.decode (s.mmaA f.va i k)).mul (gb.decode (s.mmaB f.vb k j))]))

/-- The numbers of a run of `k` registers. -/
def regRun (n : BitVec 6) (k : Nat) : List Nat := (List.range k).map fun i => n.toNat + i

/-- What R80 asks of `mma`, whose formats are those of `fmt`; it reads every lane of its sources. -/
def mmaInfo (f : FmtVR) (fmt : Word) : WordInfo :=
  { cls := .mtx, caps := capFmt (fmtA fmt) ++ capFmt (fmtB fmt), wf := (Instr.mma f).wf, reads := (Instr.mma f).reads, lead := false
    vregs := regRun f.vd 8 ++ regRun f.va 4 ++ regRun f.vb 4, vsrc := regRun f.vd 8
    vread := (regRun f.va 4 ++ regRun f.vb 4).map fun n => (n, 0xFFFFFFFF) }

/-- `mma` issues and faults like a VEC word (R270). -/
def execMma (f : FmtVR) (s : State) : Host.Outcome State Fault Refusal :=
  runWord (mmaInfo f s.fmt)
    (fun s =>
      if 1 < fmtA s.fmt || 1 < fmtB s.fmt then .trap s (mtxFault .formatCombination)
      else
        let m := s.mask
        .done ((List.range 8).foldl (fun t j => t.wrV (f.vd + BitVec.ofNat 6 j) m fun l =>
          s.mmaC f (l % 16) (2 * j + l / 16)) s)) s

def execMside (f : FmtEB) (s : State) : Host.Outcome State Fault Refusal :=
  runWord (mtxInfo (Instr.mside f) [25] [FmtEB.T f]) (fun s => afterMatrix s fun s =>
    let row := bits (s.blkS f.sa 0).toNat 0 7
    let t := FmtEB.T f
    let v : Word := (s.blkS f.sa 1).setWidth 32
    if Store.get false s.ccrew.tilePoison (if FmtEB.FL f 1 then sumKey t row else maxKey t row) then .block s .poison
    else
    let old := if FmtEB.FL f 1 then s.ccrew.sumOf t row else s.ccrew.maxOf t row
    let s := if FmtEB.FL f 0 then s.modCrew s.cur.uid fun c => if FmtEB.FL f 1 then c.setSum t row v else c.setMax t row v
      else s
    .done (s.wrS f.sd (old.setWidth 64))) s

def execMstat (f : FmtEB) (s : State) : Host.Outcome State Fault Refusal :=
  runWord (mtxInfo (Instr.mstat f) [25] []) (fun s => afterMatrix s fun s =>
    let c := s.ccrew
    let v := BitVec.ofNat 64 (65536 * min c.reexec 65535 + boolNat c.sat)
    let s := if FmtEB.FL f 0 then s.modCrew s.cur.uid fun c => { c with sat := false } else s
    .done (s.wrS f.sd v)) s

/-! ### Acceptance of the loops (R263, R271 to R274) -/

/-- A line of a record at a step: `n` bytes at `off`. -/
def lineRange (hn : Nat) (off : Int) (n : Nat) (wr : Bool) : List Range :=
  [{ hn := hn, off := off, n := 1, rd := !wr, wr := wr }, { hn := hn, off := off + (n - 1), n := 1, rd := !wr, wr := wr }]

/-- First and last byte of every line of a record whose OFFSET stands at `off`; `len` is a line's bytes. -/
def Shape.ranges (x : Shape) (hn : Nat) (off : Int) (len : Nat) (wr : Bool) : List Range :=
  (List.range x.lines).flatMap fun (k : Nat) => lineRange hn (off + k * x.stride) len wr

/-- The operands of a loop as accepted. -/
structure Loop where
  a : Shape
  b : Shape
  i : Shape
  afmt : Nat
  bfmt : Nat
  steps : Nat
  incA : Int
  incB : Int
  p : Nat
deriving DecidableEq, Repr

/-- A signed 32-bit field in bits [31:0]. -/
def sint32 (d : DWord) : Int := (d.setWidth 32 : Word).toInt

/-- The operands of a loop operation: `opcode` 3 `mloop`, 4 `mloopg`, 5 `mloopn`. -/
def Op.loop (o : Op) : Loop :=
  let b := Shape.ofDwords o.recB
  { a := Shape.ofDwords o.recA, b := b, i := Shape.ofDwords o.recI, afmt := fmtA o.fmt, bfmt := fmtB o.fmt
    steps := bits (o.blk.getD 0 0).toNat 0 32, incA := sint32 (o.blk.getD 1 0), incB := sint32 (o.blk.getD 2 0)
    p := min (fmtNIP o.fmt + 1) (b.pm1 + 1) }

/-- The last step whose ranges are checked. -/
def Loop.last (l : Loop) : Nat := l.steps - 1

/-- Bytes of one line of B: a plane line of NI elements holds one bit each. -/
def Loop.bLine (l : Loop) (op : Nat) : Nat := if op = 5 then l.b.lineLen / 8 else l.b.lineLen * abBytes l.bfmt

/-- R263 for the three loops. -/
def State.loopBad (s : State) (o : Op) (tile : Nat) : Option FaultInfo :=
  let l := o.loop
  let op := o.opcode
  let tiles := s.chdr.tiles
  let isInt := pairClass l.afmt == 2
  let fmtOk := if op = 5 then isInt && l.bfmt == 8 && fmtNIP o.fmt != 0
    else pairClass l.afmt == pairClass l.bfmt && pairClass l.afmt != 3
  let first : Int := l.a.offset
  let lastCol : Int := first + l.last * l.incA
  let tileFits := 0 ≤ lastCol && lastCol + l.a.cols ≤ 128
  let aRole : Role := if op = 4 then .aGather else .a
  let aOk := l.a.valid aRole tiles (op == 3 && !isInt) 0 &&
    (!l.a.tile || (l.a.hreg != tile && l.incA % 16 == 0 && tileFits))
  let bOk := l.b.valid (if op = 5 then .bNi else .b) tiles false 0
  let iOk := op != 4 || l.i.validIdx
  let ea : Int := abBytes l.afmt
  let eb : Int := if op = 5 then 2 else abBytes l.bfmt
  let mult (v e : Int) : Bool := v % e == 0
  let aligned := (l.a.tile || (mult l.a.offset ea && mult l.a.stride ea && mult l.incA ea)) &&
    mult l.b.offset eb && mult l.b.stride eb && mult l.incB eb && (op != 5 || mult l.b.pstride eb) &&
    (op != 4 || l.i.offset % 4 == 0)
  if !fmtOk then some (mtxFault .formatCombination)
  else if !aOk || !bOk || !iOk then some (mtxFault .shapeRange)
  else if l.a.cols != l.b.rows then some (mtxFault .shapeMismatch)
  else if !aligned then some (mtxFault .misaligned)
  else
    let aLen := l.a.lineLen * abBytes l.afmt
    let steps : List Nat := [0, l.last]
    let rA := if l.a.tile || op = 4 then []
      else steps.flatMap fun (k : Nat) => l.a.ranges 0 (l.a.offset + k * l.incA) aLen false
    let planes := if op = 5 then List.range l.p else [0]
    let rB := steps.flatMap fun (k : Nat) => planes.flatMap fun (j : Nat) =>
      l.b.ranges 0 (l.b.offset + k * l.incB + j * l.b.pstride) (l.bLine op) false
    let rI : List Range := if op = 4 then lineRange 0 l.i.offset (4 * l.a.rows) false else []
    match firstSome (rA ++ rB ++ rI) (s.rangeBad 4) with
    | some e => some e
    | none => o.bar.bind (s.barBad 4)

/-- Capability bits of a loop. -/
def loopCaps (op : Nat) (fmt : Word) : List Nat :=
  capFmt (fmtA fmt) ++ capFmt (fmtB fmt) ++ if op = 4 then [21] else if op = 5 then [20] else []

/-- A matrix operation as the word that `cur` names asks for it, with the copies of R257. -/
def State.mtxOp (s : State) (op : Nat) (f : FmtEB) (num : Nat) : Op :=
  let c := s.ccrew
  let rA := c.slotRec (FmtEB.XA f)
  let rB := c.slotRec (FmtEB.XB f)
  let w3 := (s.blkS f.sa 3).toNat
  { s.newOp op f num with
    recA := rA, recB := rB, recI := c.slotRec (Shape.ofDwords rA).idx
    ha := s.rdH (Shape.ofDwords rA).hreg, hb := s.rdH (Shape.ofDwords rB).hreg
    hc := s.rdH (addrReg (s.blkS f.sa 1))
    bar := if FmtEB.FL f 0 then some (bits w3 0 32) else none }

/-- The handle registers that a matrix operation copies (R257). -/
def Op.mtxHandles (o : Op) : List Nat :=
  let q := (Shape.ofDwords o.recB).hreg
  if o.opcode != 7 then [0]
  else [(Shape.ofDwords o.recA).hreg] ++ (if o.f10.getLsbD 2 then [q] else []) ++
    if (o.blk.getD 3 0).getLsbD 33 then [addrReg (o.blk.getD 1 0)] else []

/-- Accept a matrix operation, which writes no register (R258). -/
def mtxStart (op : Nat) (f : FmtEB) (s : State) (bad : Option FaultInfo) : Res :=
  withHandles s (s.mtxOp op f 0).mtxHandles fun s => acceptCmd s .matrix Config.matrixRoom f.tok bad fun s => .done (s.accept .matrix (s.mtxOp op f)).2

/-- The three loop words. -/
def loopWord (i : Instr) (op : Nat) (f : FmtEB) (s : State) : Host.Outcome State Fault Refusal :=
  runWord (mtxInfo i (loopCaps op s.fmt) [FmtEB.T f])
    (fun s => mtxStart op f s (s.loopBad (s.mtxOp op f 0) (FmtEB.T f))) s

def execMloop (f : FmtEB) (s : State) : Host.Outcome State Fault Refusal := loopWord (Instr.mloop f) 3 f s

def execMloopg (f : FmtEB) (s : State) : Host.Outcome State Fault Refusal := loopWord (Instr.mloopg f) 4 f s

def execMloopn (f : FmtEB) (s : State) : Host.Outcome State Fault Refusal := loopWord (Instr.mloopn f) 5 f s

/-! ### Acceptance of `msmx` and `mdrain` (R275, R277) -/

def Op.tileT (o : Op) : Nat := bits o.f10.toNat 7 3

/-- TCOPY of `mdrain`: bit 2 of FL. -/
def Op.tcopy (o : Op) : Bool := o.f10.getLsbD 2

/-- M, NS and NO of `msmx`. -/
def Op.smxDims (o : Op) : Nat × Nat × Nat :=
  let d := (o.blk.getD 1 0).toNat
  (bits d 0 8, bits d 8 8, bits d 16 8)

def State.smxBad (s : State) (o : Op) : Option FaultInfo :=
  let (m, ns, no) := o.smxDims
  if o.tileT == o.xb || !dimOk m || !dimOk ns || !dimOk no then some (mtxFault .shapeRange)
  else o.bar.bind (s.barBad 4)

def execMsmx (f : FmtEB) (s : State) : Host.Outcome State Fault Refusal :=
  runWord (mtxInfo (Instr.msmx f) [22] [FmtEB.T f, FmtEB.XB f % 8])
    (fun s => mtxStart 6 f s (s.smxBad (s.mtxOp 6 f 0))) s

/-- The operands of `mdrain`. -/
structure Drain where
  d : Shape
  q : Shape
  dfmt : Nat
  qfmt : Nat
  norm : Bool
  tcopy : Bool
  cscale : Bool
  amax : Bool
  csOff : Nat
  tscale : Nat
  isInt : Bool
deriving DecidableEq, Repr

def Op.drain (o : Op) : Drain :=
  let w3 := o.blk.getD 3 0
  let w0 := (o.blk.getD 0 0).toNat
  { d := Shape.ofDwords o.recA, q := Shape.ofDwords o.recB, dfmt := fmtD o.fmt, qfmt := fmtQ o.fmt
    norm := o.f10.getLsbD 1, tcopy := o.tcopy, cscale := w3.getLsbD 32, amax := w3.getLsbD 33
    csOff := bits w0 0 32, tscale := bits w0 32 32, isInt := pairClass (fmtA o.fmt) == 2 }

/-- R263 and R277 for `mdrain`. -/
def State.drainBad (s : State) (o : Op) : Option FaultInfo :=
  let x := o.drain
  let tiles := s.chdr.tiles
  let ed := dqBytes x.dfmt
  let eq := dqBytes x.qfmt
  let aligned := x.d.offset % ed == 0 && x.d.stride % ed == 0 &&
    (!x.tcopy || (x.q.offset % eq == 0 && x.q.stride % eq == 0)) && (!x.cscale || x.csOff % 2 == 0)
  if 5 < x.dfmt || (x.tcopy && 5 < x.qfmt) || (x.norm && x.isInt) || pairClass (fmtA o.fmt) == 3 then
    some (mtxFault .formatCombination)
  else if !x.d.valid .dest tiles false ed || (x.tcopy && !x.q.valid .dest tiles false eq) then
    some (mtxFault .shapeRange)
  else if x.tcopy && !(x.q.rows == x.d.cols && x.q.cols == x.d.rows) then some (mtxFault .shapeMismatch)
  else if !aligned then some (mtxFault .misaligned)
  else
    let rD := x.d.ranges x.d.hreg x.d.offset (x.d.lineLen * ed) true
    let rQ := if x.tcopy then x.q.ranges x.q.hreg x.q.offset (x.q.lineLen * eq) true else []
    let rC := if x.cscale then lineRange 0 x.csOff (2 * x.d.cols) false else []
    let w1 := o.blk.getD 1 0
    let am : Range := { hn := addrReg w1, off := addrOffset w1, n := 4, align := 4, rd := true, wr := true }
    match firstSome (rD ++ rQ ++ rC ++ if x.amax then [am] else []) (s.rangeBad 4) with
    | some e => some e
    | none => o.bar.bind (s.barBad 4)

/-- Capability bits of `mdrain` (R404). -/
def drainCaps (f : FmtEB) (fmt : Word) : List Nat :=
  let q (c : Nat) : Bool := 3 ≤ c && c ≤ 5
  [23] ++ if q (fmtD fmt) || (FmtEB.FL f 2 && q (fmtQ fmt)) then [24] else []

def execMdrain (f : FmtEB) (s : State) : Host.Outcome State Fault Refusal :=
  runWord (mtxInfo (Instr.mdrain f) (drainCaps f s.fmt) [FmtEB.T f])
    (fun s => mtxStart 7 f s (s.drainBad (s.mtxOp 7 f 0))) s

/-! ### One boundary of an operation (R272 to R279, R284) -/

/-- OFFSET of a record at a step, which may be negative only for the A of `mloopg` (R272, R273). -/
def stepOff (off : Nat) (inc : Int) (k : Nat) : Int := (off : Int) + k * inc

/-- `n` bytes of a crew's scratch as a number. -/
def State.scrNat (s : State) (uid off n : Nat) : Nat := leNat (s.peekN (.scr uid off) n)

/-- The byte offset of A element (i, k) of a loop step; `rows` holds the gathered row numbers. -/
def Loop.aByte (l : Loop) (rows : List Nat) (k i c : Nat) : Int :=
  l.a.byteOf (stepOff l.a.offset l.incA k) (abBytes l.afmt) (rows.getD i i) c

/-- A element (i, c) as a code of AFMT; a tile element is converted as it is read (R265). -/
def State.aCode (s : State) (uid : Nat) (l : Loop) (f8nan : Bool) (rows : List Nat) (k i c : Nat) : Nat :=
  if l.a.tile then
    let v := ((s.crew uid).tile l.a.hreg i ((stepOff l.a.offset l.incA k).toNat + c)).toNat
    (abFmt l.afmt).encode 0 f8nan (fmtF32.decode v)
  else s.scrNat uid (l.aByte rows k i c).toNat (abBytes l.afmt)

/-- B element (i, c) of a step as a code of BFMT. -/
def State.bCode (s : State) (uid : Nat) (l : Loop) (k i c : Nat) : Nat :=
  s.scrNat uid (l.b.byteOf (stepOff l.b.offset l.incB k) (abBytes l.bfmt) i c).toNat (abBytes l.bfmt)

/-- Bit of NI element (i, c) in plane j (R171). -/
def State.niBit (s : State) (uid : Nat) (l : Loop) (k j i c : Nat) : Nat :=
  let off := (stepOff l.b.offset l.incB k).toNat + j * l.b.pstride
  let (line, e) := if l.b.colMajor then (c, i) else (i, c)
  s.scrNat uid (off + line * l.b.stride + e / 8) 1 / 2 ^ (e % 8) % 2

/-- v_p of R172. -/
def State.niValue (s : State) (uid : Nat) (l : Loop) (k i c : Nat) : Int :=
  (List.range l.p).foldl (fun (v : Int) j =>
    let b : Int := s.niBit uid l k j i c
    v * 2 + (if j = 0 then -b else b)) 0

/-- The new value of T[i][j] after a step, and whether a clamp changed it (R169, R170, R172). -/
def State.loopElem (s : State) (uid : Nat) (o : Op) (l : Loop) (rows : List Nat) (k i j : Nat) : Word × Bool :=
  let c := ((s.crew uid).tile o.tileT i j)
  let ks := List.range l.a.cols
  let ac (m : Nat) : Nat := s.aCode uid l (fmtF8NAN o.fmt) rows k i m
  if pairClass l.afmt == 2 then
    let P := l.b.pm1 + 1
    let terms (m : Nat) : List Int :=
      let a := int8 l.afmt (ac m)
      if o.opcode = 5 then
        [a * s.niValue uid l k m j * 2 ^ (P - l.p)] ++ if fmtNIMID o.fmt && l.p < P then [a * 2 ^ (P - l.p - 1)] else []
      else [a * int8 l.bfmt (s.bCode uid l k m j)]
    let r := dotI c.toInt (ks.map terms)
    (BitVec.ofInt 32 r.1, r.2)
  else
    (BitVec.ofNat 32 (dotF c.toNat (ks.map fun m =>
      [((abFmt l.afmt).decode (ac m)).mul ((abFmt l.bfmt).decode (s.bCode uid l k m j))])), false)

/-- Write rows × cols elements of a tile at once. -/
def Crew.putTile (c : Crew) (t rows cols : Nat) (f : Nat → Nat → Word) : Crew :=
  (List.range rows).foldl (fun c i => (List.range cols).foldl (fun c j => c.setTile t i j (f i j)) c) c

/-- The rows that `mloopg` picks at a step. -/
def State.gatherRows (s : State) (uid : Nat) (o : Op) (l : Loop) : List Nat :=
  if o.opcode = 4 then (List.range l.a.rows).map fun i => s.scrNat uid (l.i.offset + 4 * i) 4 else []

/-- The first gathered row of a step that lies outside h0, by the copy taken at acceptance (R257, R273). -/
def Op.gatherBad (o : Op) (l : Loop) (rows : List Nat) (k : Nat) : Option Int :=
  if o.opcode != 4 then none
  else ((List.range l.a.rows).map fun i => l.aByte rows k i 0).find? fun b =>
    b < 0 || (o.ha.ent.size : Int) < b + (l.a.cols * abBytes l.afmt : Nat)

/-- Tile words that a loop step reads are poisoned: those of its own tile and of an A in a tile (R403). -/
def Crew.loopTilePoison (c : Crew) (o : Op) (l : Loop) (k : Nat) : Bool :=
  (List.range l.a.rows).any fun i => c.rowPoison o.tileT i 0 l.b.cols ||
    (l.a.tile && c.rowPoison l.a.hreg i (stepOff l.a.offset l.incA k).toNat l.a.cols)

/-- Scratch bytes that a loop step reads are poisoned: the index vector's, A's and B's (R403). -/
def State.loopPoison (s : State) (uid : Nat) (o : Op) (l : Loop) (rows : List Nat) (k : Nat) : Bool :=
  let at_ (off n : Nat) : Bool := s.poisoned (.scr uid off) n
  !(s.crew uid).scrPoison.isEmpty &&
    ((o.opcode == 4 && at_ l.i.offset (4 * l.a.rows)) ||
     (!l.a.tile && (List.range l.a.rows).any fun i => (List.range l.a.cols).any fun c =>
      at_ (l.aByte rows k i c).toNat (abBytes l.afmt)) ||
     ((List.range l.b.lines).any fun i => (if o.opcode = 5 then List.range l.p else [0]).any fun j =>
      at_ ((stepOff l.b.offset l.incB k).toNat + j * l.b.pstride + i * l.b.stride) (l.bLine o.opcode)))

/-- One loop step. -/
def State.loopStep (s : State) (o : OpRef) (op : Op) : State :=
  let l := op.loop
  let k := op.prog
  let rows := s.gatherRows o.uid op l
  match op.gatherBad l rows k with
  | some off => s.failOp o { exc := .handleBounds, eng := 4, hreg := some 0, offset := BitVec.ofInt 64 off }
  | none =>
    if s.loopPoison o.uid op l rows k || (s.crew o.uid).loopTilePoison op l k then s.stopOp o .poison
    else
      let v (i j : Nat) : Word × Bool := s.loopElem o.uid op l rows k i j
      let sat := (List.range l.a.rows).any fun i => (List.range l.b.cols).any fun j => (v i j).2
      s.modCrew o.uid fun c =>
        let c := c.putTile op.tileT l.a.rows l.b.cols fun i j => (v i j).1
        { c with sat := c.sat || sat }

/-- 2^y of an exact value rounded to F32 (R276). -/
def exp2F32 (y : FVal) : Nat := fmtF32.func 3 y

/-- Row `i` of an `msmx` reads a poisoned tile word, MAX or SUM (R403). -/
def Crew.smxPoison (c : Crew) (op : Op) (i : Nat) : Bool :=
  let (_, ns, no) := op.smxDims
  let to_ := op.xb % 8
  c.rowPoison op.tileT i 0 ns || c.rowPoison to_ i 0 no || Store.get false c.tilePoison (maxKey to_ i) ||
    Store.get false c.tilePoison (sumKey to_ i)

/-- One row of `msmx` (R276). -/
def Crew.smxRow (c : Crew) (op : Op) (i : Nat) : Crew :=
  let (_, ns, no) := op.smxDims
  let ts := op.tileT
  let to_ := op.xb % 8
  let f32 := fmtF32
  let scale := f32.decode (bits (op.blk.getD 0 0).toNat 0 32)
  let x := (List.range ns).map fun j => f32.encode 0 false ((f32.decode (c.tile ts i j).toNat).mul scale)
  let mx := (c.maxOf to_ i).toNat
  let anyNan := (mx :: x).any fun v => (f32.decode v).isNan
  let m := if anyNan then f32.canonNan else x.foldl (fun a b => f32.minmax false false a b) mx
  let low (v : Nat) : Bool := v == negInf.toNat
  let diff (a : Nat) : FVal := exactSum 0 [f32.decode a, (f32.decode m).neg]
  let f := if low m || low mx then 0 else exp2F32 (diff mx)
  let e := x.map fun v => if low m then 0 else exp2F32 (diff v)
  let mulF (a b : Nat) : Nat := f32.encode 0 false ((f32.decode a).mul (f32.decode b))
  let sum := dotF (mulF (c.sumOf to_ i).toNat f) (e.map fun v => [f32.decode v])
  let c := (List.range ns).foldl (fun c j => c.setTile ts i j (BitVec.ofNat 32 (e.getD j 0))) c
  let c := (List.range no).foldl (fun c j => c.setTile to_ i j (BitVec.ofNat 32 (mulF (c.tile to_ i j).toNat f))) c
  (c.setSum to_ i (BitVec.ofNat 32 sum)).setMax to_ i (BitVec.ofNat 32 m)

/-- A quotient that rounds as the exact one does: 160 extra bits and a sticky bit below them. -/
def FVal.div (x y : FVal) : FVal :=
  match x, y with
  | .nan, _ => .nan
  | _, .nan => .nan
  | .inf _, .inf _ => .nan
  | .inf a, .fin b _ _ => .inf (a != b)
  | .fin a _ _, .inf b => .fin (a != b) 0 0
  | .fin a m e, .fin b n k =>
    if n = 0 then (if m = 0 then .nan else .inf (a != b))
    else
      let w := bitLen n + 160
      let q := m * 2 ^ w
      .fin (a != b) (2 * (q / n) + (if q % n = 0 then 0 else 1)) (e - k - w - 1)

/-- ROUND of R278 to a DFMT or QFMT code: the stored element. -/
def drainRound (code : Nat) (f8nan : Bool) (x : FVal) : Nat :=
  match code with
  | 0 => fmtF32.encode 0 false x
  | 1 => fmtB16.encode 0 false x
  | 2 => fmtF16.encode 0 false x
  | 3 => fmtE4.encode 0 f8nan x
  | 4 => fmtE5.encode 0 f8nan x
  | _ => (BitVec.ofInt 8 (toInt 0 (-128) 127 x)).toNat

/-- acc / s_i of R278 for a tile element, times an exact factor. -/
def State.drainVal (s : State) (uid : Nat) (op : Op) (x : Drain) (i j : Nat) (k : FVal) : FVal :=
  let c := s.crew uid
  let p := c.tile op.tileT i j
  let acc : FVal := if x.isInt then .fin (decide (p.toInt < 0)) p.toInt.natAbs 0 else fmtF32.decode p.toNat
  let n := acc.mul k
  if x.norm then n.div (fmtF32.decode (c.sumOf op.tileT i).toNat) else n

def oneVal : FVal := .fin false 1 0

/-- Column scale j. -/
def State.colScale (s : State) (uid : Nat) (x : Drain) (j : Nat) : FVal :=
  if x.cscale then fmtB16.decode (s.scrNat uid (x.csOff + 2 * j) 2) else oneVal

/-- |RNE_F32(acc / s_i)| as a pattern (R279). -/
def State.amaxVal (s : State) (uid : Nat) (op : Op) (x : Drain) (i j : Nat) : Nat :=
  let v := s.drainVal uid op x i j oneVal
  if v.isNan then 0x7FC00000 else fmtF32.encode 0 false v % 2 ^ 31

/-- The bytes of line k of D or of Q, and the elements (i, j) of the tile that it holds. -/
def Shape.lineElems (x : Shape) (k : Nat) (transposed : Bool) : List (Nat × Nat) :=
  (List.range x.lineLen).map fun e =>
    let (r, c) := if x.colMajor then (e, k) else (k, e)
    if transposed then (c, r) else (r, c)

/-- One line of `mdrain`: D's lines, then Q's; the AMAX merge follows the last (R278, R279). -/
def State.drainStep (s : State) (o : OpRef) (op : Op) : State :=
  let x := op.drain
  let nd := x.d.lines
  let onQ := nd ≤ op.prog
  let sh := if onQ then x.q else x.d
  let k := if onQ then op.prog - nd else op.prog
  let code := if onQ then x.qfmt else x.dfmt
  let h := if onQ then op.hb else op.ha
  let eb := dqBytes code
  let els := sh.lineElems k onQ
  let factor (j : Nat) : FVal := if onQ then fmtF32.decode x.tscale else s.colScale o.uid x j
  let bs := els.flatMap fun e =>
    leBytes eb (drainRound code (fmtF8NAN op.fmt) (s.drainVal o.uid op x e.1 e.2 (factor e.2)))
  let off := sh.offset + k * sh.stride
  let total := nd + if x.tcopy then x.q.lines else 0
  let last := op.prog + 1 == total
  let run := if onQ then op.arun.toNat
    else els.foldl (fun a e => max a (s.amaxVal o.uid op x e.1 e.2)) op.arun.toNat
  let am := op.blk.getD 1 0
  let merge := last && x.amax
  let stop1 := s.opStop o sh.hreg h off bs.length false true
  let stop2 := if merge then s.opStop o (addrReg am) op.hc (addrOffset am) 4 true true else none
  let c := s.crew o.uid
  let eats := (x.cscale && !onQ && s.poisoned (.scr o.uid x.csOff) (2 * x.d.cols)) ||
    (!c.tilePoison.isEmpty && els.any fun e => Store.get false c.tilePoison (tileKey op.tileT e.1 e.2) ||
      (x.norm && Store.get false c.tilePoison (sumKey op.tileT e.1)))
  match if eats then some .poison else stop1.or stop2 with
  | some st => s.stopOp o st
  | none =>
    let s := s.opWrite o h off bs
    let s := if merge then
        let old := leNat (s.opRead o op.hc (addrOffset am) 4)
        s.opWrite o op.hc (addrOffset am) (leBytes 4 (max old run))
      else s
    s.modOp o fun p => { p with arun := BitVec.ofNat 32 run, bytes := p.bytes + bs.length }

/-- Boundaries of an operation. -/
def Op.boundaries (o : Op) : Nat :=
  match o.opcode with
  | 6 => o.smxDims.1
  | 7 => o.drain.d.lines + if o.drain.tcopy then o.drain.q.lines else 0
  | _ => o.loop.steps

/-- A slot or fragment stands in the wait of R259 for operations up to some number below `num`. -/
def Slot.awaits (x : Slot) (num : Nat) : Bool := match x.wait with
  | some (.matrixIdle n) => x.st == .blocked && decide (n < num)
  | _ => false

/-- A synchronous word of the crew must take effect before operation `num` (R259). -/
def Crew.awaited (c : Crew) (num : Nat) : Bool := c.threads.any fun e =>
  let a := e.2.arch
  e.2.st == .running && (a.a.awaits num || a.b.awaits num || a.cstk.any fun y => match y.2 with
    | .frag x _ => x.awaits num
    | _ => false)

/-- The operations numbered below have completed, or, while completions are held, have done their work (R256, R287). -/
def Crew.mtxTurn (c : Crew) (num : Nat) : Bool :=
  c.mtx.timeline + 1 == num || (c.stop.isSome && c.mtx.ops.all fun q => num ≤ q.num || q.st == .done)

/-- The operation may do its next boundary: its turn has come, and nothing holds it (R256, R259, R284). -/
def Crew.mtxReady (c : Crew) (op : Op) : Bool :=
  c.mayRun && !c.mtx.freeze && op.waitPage.isNone && op.st != .done && c.mtxTurn op.num && !c.awaited op.num

def State.mtxReady (s : State) (o : OpRef) (op : Op) : Bool := (s.crew o.uid).mtxReady op

/-- One boundary's work; the last one ends the operation's work. -/
def State.matrixStep (s : State) (o : OpRef) (op : Op) : State :=
  if op.boundaries ≤ op.prog then s.modOp o fun p => { p with st := .done }
  else
    let s := s.modOp o fun p => { p with st := .running }
    let s := match op.opcode with
      | 6 => if (s.crew o.uid).smxPoison op op.prog then s.stopOp o .poison else s.modCrew o.uid fun c => c.smxRow op op.prog
      | 7 => s.drainStep o op
      | _ => s.loopStep o op
    s.modOp o fun p =>
      if p.st == .done || p.waitPage.isSome then p
      else { p with prog := p.prog + 1, residue := 0, st := if p.prog + 1 = op.boundaries then .done else .running }

/-! ### Progress registers (R283) -/

/-- CTRL of an operation: `sh` is the place of the token, `ctl` adds the fields only one class has. An operation whose work has
ended and which has not completed reads as stopped (log entry 68). -/
def Op.ctrl (o : Op) (sh extra : Nat) : DWord :=
  let st := match o.st with
    | .accepted => 1
    | .running => 2
    | .stopped => 3
    | .done => 3
  BitVec.ofNat 64 (st + o.tok * 2 ^ sh + boolNat (isLead o.tid) * 2 ^ 12 + (if isLead o.tid then 0 else o.tid % 64) * 2 ^ 13 +
    o.f10.toNat * 2 ^ 19 + extra)

/-- Write CTRL back. -/
def Op.setCtrl (o : Op) (v : DWord) (sh len : Nat) : Op :=
  { o with st := match bits v.toNat 0 2 with
             | 1 => .accepted
             | 2 => .running
             | 3 => .stopped
             | _ => .done
           tok := bits v.toNat sh len
           tid := if v.getLsbD 12 then leadTid else if bits v.toNat 13 6 = o.tid % 64 then o.tid else bits v.toNat 13 6
           f10 := BitVec.ofNat 10 (bits v.toNat 19 10) }

/-- The dwords of a handle entry copy. -/
def HEntry.dw (e : HEntry) (d : Nat) : DWord := match d with
  | 0 => e.d0
  | 1 => e.d1
  | 2 => e.d2
  | _ => e.d3

/-- The bits of an entry's dword that are no reserved field (R84); those read 0 (R8). -/
def entryBits : Nat → DWord
  | 0 => 0x0000FFFFFFFFFFFF
  | 1 => 0x0000FFFFFFFFFFFF
  | 2 => 0xFFFFFFFFFF9F0000
  | _ => 0x00000000FFFFFFFF

def HEntry.setDw (e : HEntry) (d : Nat) (v : DWord) : HEntry :=
  let v := v &&& entryBits d
  match d with
  | 0 => { e with d0 := v }
  | 1 => { e with d1 := v }
  | 2 => { e with d2 := v }
  | _ => { e with d3 := v }

/-- Register k of an operation's slot in the matrix context. -/
def Op.mtxReg (o : Op) (k : Nat) : DWord :=
  if k = 0 then o.ctrl 9 (o.opcode * 4 + o.xb * 2 ^ 29)
  else if k = 1 then BitVec.ofNat 64 o.num
  else if k ≤ 5 then o.blk.getD (k - 2) 0
  else if k = 6 then BitVec.ofNat 64 o.prog
  else if k = 7 then o.fmt.setWidth 64
  else if k = 8 then o.recA.1
  else if k = 9 then o.recA.2
  else if k = 10 then o.recB.1
  else if k = 11 then o.recB.2
  else if k = 12 then o.recI.1
  else if k = 13 then o.recI.2
  else if k ≤ 17 then o.ha.ent.dw (k - 14)
  else if k ≤ 21 then o.hc.ent.dw (k - 18)
  else if k = 22 then o.arun.setWidth 64
  else 0

/-- The barrier that a matrix operation's S block and BAR flag name (R258). -/
def Op.mtxBar (o : Op) : Op :=
  { o with bar := if o.f10.getLsbD 0 then some (bits (o.blk.getD 3 0).toNat 0 32) else none }

/-- The handle register that a record names. -/
def recReg (r : DWord × DWord) : Nat := (Shape.ofDwords r).hreg

/-- Write register k. The numbers of DENT hold one entry copy: where D and Q name one handle register, it is both (log
entry 68). -/
def Op.setMtxReg (o : Op) (k : Nat) (v : DWord) : Op :=
  if k = 0 then { (o.setCtrl v 9 3).mtxBar with opcode := bits v.toNat 2 7, xb := bits v.toNat 29 4 }
  else if k = 1 then { o with num := v.toNat }
  else if k ≤ 5 then { o with blk := o.blk.set (k - 2) v }.mtxBar
  else if k = 6 then { o with prog := v.toNat }
  else if k = 7 then { o with fmt := v.setWidth 32 }
  else if k = 8 then { o with recA := (v, o.recA.2) }
  else if k = 9 then { o with recA := (o.recA.1, v) }
  else if k = 10 then { o with recB := (v, o.recB.2) }
  else if k = 11 then { o with recB := (o.recB.1, v) }
  else if k = 12 then { o with recI := (v, o.recI.2) }
  else if k = 13 then { o with recI := (o.recI.1, v) }
  else if k ≤ 17 then
    { o with ha := { o.ha with ent := o.ha.ent.setDw (k - 14) v }
             hb := if recReg o.recA == recReg o.recB then { o.hb with ent := o.hb.ent.setDw (k - 14) v } else o.hb }
  else if k ≤ 21 then { o with hc := { o.hc with ent := o.hc.ent.setDw (k - 18) v } }
  else if k = 22 then { o with arun := v.setWidth 32 }
  else o

/-- Write register k of slot i of a context. The first free slot with a state in its CTRL is an operation, of the opcode
`opcode` where no register gives it; a CTRL with state 0 frees the slot. -/
def EngCtx.wrSlot (x : EngCtx) (i k : Nat) (v : DWord) (opcode : Nat) (set : Op → Nat → DWord → Op) : EngCtx :=
  if i < x.ops.length then
    if k == 0 && bits v.toNat 0 2 == 0 then { x with ops := x.ops.eraseIdx i }
    else { x with ops := x.ops.modify i fun o => set o k v }
  else
    let raw := Store.set 0 x.raw (32 * i + k) v
    if i == x.ops.length && bits (Store.get 0 raw (32 * i)).toNat 0 2 != 0 then
      let fresh : Op := { num := 0, opcode := opcode, blk := [0, 0, 0, 0] }
      { x with ops := x.ops ++ [(List.range 32).foldl (fun o j => set o j (Store.get 0 raw (32 * i + j))) fresh]
               raw := Store.keep (fun j => j / 32 != i) raw }
    else { x with raw := raw }

/-- The operation stops at an element boundary; `cpymc` and `qpost`, which `whole` says the context has, do not (R246, R247,
R254). -/
def Op.stops (o : Op) (whole : Bool) : Bool := !(whole && (o.opcode == 2 || o.opcode == 8))

/-- An operation that has not started stands in the way of a later `cpymc` or `qpost`, which pre-emption waits for: it starts and
stops at its first byte, so that the later one may start (R232, R374). -/
def EngCtx.steps (x : EngCtx) (o : Op) : Bool :=
  o.st == .accepted && o.stops true && !o.f10.getLsbD 8 &&
    (x.ops.all fun q => !(q.st == .accepted && q.num < o.num && q.f10.getLsbD 8)) &&
    x.ops.any fun q => q.st == .accepted && o.num < q.num && !q.stops true

/-- FREEZE stops the running operations at their boundary, and lets them go on (R252, R283). -/
def EngCtx.setFreeze (x : EngCtx) (whole v : Bool) : EngCtx :=
  { x with freeze := v
           ops := x.ops.map fun o =>
             if v && ((o.st == .running && o.stops whole) || (whole && x.steps o)) then { o with st := .stopped }
             else if !v && o.st == .stopped then { o with st := .running }
             else o }

/-- FREEZE reads 1 once every running operation has stopped. -/
def EngCtx.frozen (x : EngCtx) : Bool := x.freeze && !x.ops.any fun o => o.st == .running

def State.rdMprog (s : State) (n : Nat) : DWord :=
  let c := s.ccrew
  let tiles := s.chdr.tiles
  let w (v : Nat) : DWord := BitVec.ofNat 64 v
  if n < 0x200 then ((c.mtx.ops[n / 32]?).map fun o => o.mtxReg (n % 32)).getD (if n % 32 ≤ 22 then Store.get 0 c.mtx.raw n else 0)
  else if n = 0x200 then w (c.mtx.last + 1)
  else if n = 0x201 then w c.mtx.timeline
  else if n = 0x202 then w (boolNat c.mtx.frozen)
  else if n = 0x203 then w (boolNat c.sat)
  else if n = 0x204 then w (min c.reexec 65535)
  else if 0x400 ≤ n && n < 0x800 then (if (n - 0x400) / 128 < tiles then (c.maxOf ((n - 0x400) / 128) (n % 128)).setWidth 64 else 0)
  else if 0x800 ≤ n && n < 0xC00 then (if (n - 0x800) / 128 < tiles then (c.sumOf ((n - 0x800) / 128) (n % 128)).setWidth 64 else 0)
  else if 0xC00 ≤ n && n < 0xC20 then Store.get 0 c.shapes (n - 0xC00)
  else if 0x10000 ≤ n && (n - 0x10000) / 16384 < tiles then (Store.get 0 c.tiles (n - 0x10000)).setWidth 64
  else 0

def Crew.wrMprog (c : Crew) (tiles n : Nat) (v : DWord) : Crew :=
  let w : Word := v.setWidth 32
  if n = 0x202 then { c with mtx := c.mtx.setFreeze false (v.getLsbD 0) }
  else if !c.mtx.freeze then c
  else if n < 0x200 then { c with mtx := c.mtx.wrSlot (n / 32) (n % 32) v 0 Op.setMtxReg }
  else if n = 0x200 then { c with mtx := { c.mtx with last := v.toNat - 1 } }
  else if n = 0x201 then { c with mtx := { c.mtx with timeline := v.toNat } }
  else if n = 0x203 then { c with sat := v.getLsbD 0 }
  else if n = 0x204 then { c with reexec := min v.toNat 65535 }
  else if 0x400 ≤ n && n < 0x800 then (if (n - 0x400) / 128 < tiles then c.setMax ((n - 0x400) / 128) (n % 128) w else c)
  else if 0x800 ≤ n && n < 0xC00 then (if (n - 0x800) / 128 < tiles then c.setSum ((n - 0x800) / 128) (n % 128) w else c)
  else if 0xC00 ≤ n && n < 0xC20 then { c with shapes := Store.set 0 c.shapes (n - 0xC00) v }
  else if 0x10000 ≤ n && (n - 0x10000) / 16384 < tiles then
    { c.cleanTile (n - 0x10000) with tiles := Store.set 0 c.tiles (n - 0x10000) w }
  else c

def execMprog (f : FmtEB) (s : State) : Host.Outcome State Fault Refusal :=
  runWord { mtxInfo (Instr.mprog f) [25] [] with priv := true } (fun s =>
    let a := s.blkS f.sa 0
    let n := bits a.toNat 0 20
    let v := s.blkS f.sa 1
    let tiles := s.chdr.tiles
    let t := s.wrS f.sd (s.rdMprog n)
    .done (if a.getLsbD 63 then t.modCrew s.cur.uid fun c => c.wrMprog tiles n v else t)) s

end Sys2Proof.Machine
end

