-- ==== Sys2Proof/Machine/Cpy.lean ====
section
/-! DEFINITION. The CPY class (13): the nine words, and one step of each operation (R243, R245, R247, R254). -/

namespace Sys2Proof.Machine

def cpyFault (e : Exc) : FaultInfo := { exc := e, eng := 5 }

/-- What R80 asks of a CPY word. -/
def cpyInfo (i : Instr) (cap : Nat) : WordInfo := { cls := .cpy, caps := [cap], wf := i.wf, reads := i.reads, old := true }

/-! ### Operands of an accepted operation -/

/-- The byte count of `cpy` and `cpyfill` (R239), and whether it is a parameter error (R241). -/
def Op.count (o : Op) : Nat := bits (o.blk.getD 2 0).toNat 0 41
def Op.badCount (o : Op) : Bool := 2 ^ 40 < o.count

def Op.src (o : Op) : Nat := addrOffset (o.blk.getD 0 0)
def Op.ord (o : Op) : Bool := o.f10.getLsbD 8

/-- Element bytes of `cpy2d` (R236). -/
def Op.esz (o : Op) : Nat := 2 ^ bits o.f10.toNat 4 2

/-- Bytes of a line of `cpy2d`. -/
def Op.line2d (o : Op) : Nat := (Shape.ofDwords o.recA).lineLen * o.esz

/-- Stride of the side that the record does not describe. -/
def Op.stride2d (o : Op) : Nat :=
  let n := bits (o.blk.getD 1 0).toNat 0 48
  if n = 0 then o.line2d else n

/-- The two sides of `cpy2d`, source first: handle register number, entry copy, first byte and stride. -/
structure Side where
  hn : Nat
  h : HReg
  off : Nat
  stride : Nat
deriving DecidableEq, Repr

def Op.sides2d (o : Op) : Side × Side :=
  let x := Shape.ofDwords o.recA
  let rec_ : Side := ⟨x.hreg, o.hb, x.offset, x.stride⟩
  let flat : Side := ⟨addrReg (o.blk.getD 0 0), o.ha, o.src, o.stride2d⟩
  if o.f10.getLsbD 6 then (flat, rec_) else (rec_, flat)

/-- Bytes the operation writes to its destination. -/
def Op.total (o : Op) : Nat :=
  match o.opcode with
  | 1 => (Shape.ofDwords o.recA).lines * o.line2d
  | 2 => bits (o.blk.getD 2 0).toNat 0 32
  | 8 => 64
  | _ => if o.badCount then 0 else o.count

/-- BYTES of `cpymc`, and whether it is a parameter error (R244). -/
def Op.badBytes (o : Op) : Bool := o.total = 0 || 65536 < o.total

/-! ### Acceptance (R233 to R237, R241) -/

/-- What the S block of a copy operation says of its barrier and of its parameters (R235, R241, R244). -/
def Op.cpyParse (o : Op) : Op :=
  let bar := bits (o.blk.getD 3 0).toNat 0 32
  { o with bar := if o.opcode = 2 || bar = noBar then none else some bar
           param := if o.opcode = 2 then o.badBytes else if o.opcode = 1 || o.opcode = 8 then false else o.badCount }

/-- A copy operation as the word that `cur` names asks for it. -/
def State.cpyOp (s : State) (op : Nat) (f : FmtEB) (num : Nat) : Op :=
  let r := s.ccrew.slotRec (bits f.f.toNat 0 4)
  let b0 := s.blkS f.sa 0
  let b1 := s.blkS f.sa 1
  { s.newOp op f num with
    recA := if op = 1 then r else (0, 0)
    ha := s.rdH (addrReg b0), hb := s.rdH (if op = 1 then (Shape.ofDwords r).hreg else addrReg b1) }.cpyParse

/-- A whole range of R234. -/
def wholeRange (hn off n : Nat) (wr : Bool) : Range := { hn := hn, off := off, n := n, rd := !wr, wr := wr }

/-- The ranges of a side of `cpy2d`. -/
def Side.ranges (x : Side) (lines len : Nat) (wr : Bool) : List Range :=
  (List.range lines).flatMap fun (k : Nat) => lineRange x.hn (x.off + k * x.stride) len wr

/-- The checks before acceptance (R234, R241, R253). -/
def State.cpyBad (s : State) (o : Op) : Option FaultInfo :=
  let b0 := o.blk.getD 0 0
  let b1 := o.blk.getD 1 0
  let n := if o.param then 0 else o.total
  let bar := o.bar.bind (s.barBad 5)
  let x := Shape.ofDwords o.recA
  let shapeBad := o.opcode = 1 && (bits o.f10.toNat 4 2 = 3 || !x.valid .copy2d s.chdr.tiles false 0)
  let pk := bits b1.toNat 0 32
  let ranges : List Range := match o.opcode with
    | 0 => [wholeRange (addrReg b0) (addrOffset b0) n false, wholeRange (addrReg b1) (addrOffset b1) n true]
    | 1 => o.sides2d.1.ranges x.lines o.line2d false ++ o.sides2d.2.ranges x.lines o.line2d true
    | 2 => [wholeRange (addrReg b0) (addrOffset b0) n false]
    | 3 => [wholeRange (addrReg b0) (addrOffset b0) n true]
    | _ => [{ hn := addrReg b0, off := addrOffset b0, n := 256, rd := true, wr := true },
            { hn := 0, off := pk, n := 64, align := 8, rd := true }]
  if shapeBad then some (cpyFault .shapeRange)
  else match firstSome ranges (s.rangeBad 5) with
    | some e => some e
    | none => bar

/-- A COPY trace packet (R425, R426). -/
def State.copyPacket (s : State) (uid num : Nat) (ended err : Bool) : State :=
  s.emit uid 3 (boolNat ended + 2 * boolNat err) (leBytes 4 num)

/-- YIELD (R237): the pair stands BLOCKED at the continuation until the operation has completed. -/
def State.yieldTo (s : State) (cont : Int) (num : Nat) : State :=
  let pc := s.target cont
  (s.modCSlot fun x =>
    { x.at pc with st := .blocked, wait := some (.copyYield num), waitSince := s.now, wdSince := s.now
                   blockedCyc := s.cycles }).clauseEnd s.pair

/-- The handle registers that a copy command reads. -/
def Op.cpyHandles (o : Op) : List Nat :=
  let b (k : Nat) : Nat := addrReg (o.blk.getD k 0)
  match o.opcode with
  | 0 => [b 0, b 1]
  | 1 => [b 0, (Shape.ofDwords o.recA).hreg]
  | _ => [b 0]

/-- The commands that start a copy operation. -/
def cpyStart (i : Instr) (cap op : Nat) (f : FmtEB) (s : State) : Host.Outcome State Fault Refusal :=
  runWord (cpyInfo i cap) (fun s =>
    withHandles s (s.cpyOp op f 0).cpyHandles fun s => acceptCmd s .copy Config.copyRoom f.tok (s.cpyBad (s.cpyOp op f 0)) fun s =>
      let cont := bits (s.blkS f.sa 3).toNat 32 32
      let (n, s) := s.accept .copy (s.cpyOp op f)
      let s := (s.wrS f.sd (BitVec.ofNat 64 n)).copyPacket s.cur.uid n false false
      if f.f.getLsbD 9 then .placed (s.yieldTo (BitVec.ofNat 32 cont).toInt n) else .done s) s

def execCpy (f : FmtEB) (s : State) : Host.Outcome State Fault Refusal := cpyStart (Instr.cpy f) 26 0 f s

def execCpy2d (f : FmtEB) (s : State) : Host.Outcome State Fault Refusal := cpyStart (Instr.cpy2d f) 26 1 f s

def execCpymc (f : FmtEB) (s : State) : Host.Outcome State Fault Refusal := cpyStart (Instr.cpymc f) 27 2 f s

def execCpyfill (f : FmtEB) (s : State) : Host.Outcome State Fault Refusal := cpyStart (Instr.cpyfill f) 26 3 f s

def execQpost (f : FmtEB) (s : State) : Host.Outcome State Fault Refusal := cpyStart (Instr.qpost f) 28 8 f s

/-! ### Records and timelines (R249 to R251) -/

/-- The record of an operation that a context does not know: NONE (R249, R342). -/
def noRecord (n : Nat) : OpRecord := ⟨n, 0, 0xFF, 0, 0, 0⟩

/-- The record of operation `n` in a context (R249). -/
def EngCtx.record (x : EngCtx) (n : Nat) : OpRecord :=
  match x.recs.find? fun r => r.num == n with
  | some r => r
  | none => match x.ops.find? fun o => o.num == n with
    | some o => ⟨n, o.opcode, 0xFE, 0, 0, 0⟩
    | none => noRecord n

def OpRecord.dw (r : OpRecord) (d : Nat) : DWord := match d with
  | 0 => BitVec.ofNat 64 (r.opcode * 256 + r.status)
  | 1 => BitVec.ofNat 64 r.bytes
  | 2 => r.acc
  | _ => r.ref_

def execCpyrec (f : FmtEB) (s : State) : Host.Outcome State Fault Refusal :=
  runWord (cpyInfo (Instr.cpyrec f) 26) (fun s =>
    let r := s.ccrew.cpy.record (s.blkS f.sa 0).toNat
    .done (s.wrS f.sd (r.dw (bits (s.blkS f.sa 1).toNat 0 2)))) s

/-- The context that `tlrd` and `tlwait` select. -/
def ctxOf (d : DWord) : Ctx := match bits d.toNat 0 2 with
  | 0 => .copy
  | 1 => .matrix
  | 2 => .arena
  | _ => .message

def execTlrd (f : FmtEB) (s : State) : Host.Outcome State Fault Refusal :=
  runWord (cpyInfo (Instr.tlrd f) 26) (fun s =>
    let sel := s.blkS f.sa 0
    let x := s.ccrew.ctx (ctxOf sel)
    if sel.getLsbD 2 then .done (s.wrS f.sd (BitVec.ofNat 64 x.last))
    else .done ((s.seeAll s.cur.uid s.cur.tid).wrS f.sd (BitVec.ofNat 64 x.timeline))) s

/-- The status a suspended word was released with, if it was. -/
def State.releasedWith (s : State) : Option (DWord × DWord) := match s.cslot.wait with
  | some (.released v w) => some (v, w)
  | _ => none

def execTlwait (f : FmtEB) (s : State) : Host.Outcome State Fault Refusal :=
  runWord (cpyInfo (Instr.tlwait f) 26) (fun s =>
    let ctx := ctxOf (s.blkS f.sa 0)
    let n := s.blkS f.sa 1
    let c := (s.ccrew.ctx ctx).timeline
    if n.toNat ≤ c || s.releasedWith.isSome then .done ((s.seeAll s.cur.uid s.cur.tid).wrS f.sd (BitVec.ofNat 64 c))
    else .block s (.timeline ctx n (bits (s.blkS f.sa 2).toNat 0 32))) s

/-! ### Progress registers (R252) -/

def Op.cpyReg (o : Op) (k : Nat) : DWord :=
  if k = 0 then o.ctrl 8 0
  else if k = 1 then BitVec.ofNat 64 o.num
  else if k ≤ 5 then o.blk.getD (k - 2) 0
  else if k = 6 then BitVec.ofNat 64 o.prog
  else if k = 7 then BitVec.ofNat 64 o.row
  else if k ≤ 11 then o.ha.ent.dw (k - 8)
  else o.hb.ent.dw (k - 12)

def Op.setCpyReg (o : Op) (k : Nat) (v : DWord) : Op :=
  if k = 0 then o.setCtrl v 8 4
  else if k = 1 then { o with num := v.toNat }
  else if k ≤ 5 then { o with blk := o.blk.set (k - 2) v }.cpyParse
  else if k = 6 then { o with prog := v.toNat }
  else if k = 7 then { o with row := v.toNat }
  else if k ≤ 11 then { o with ha := { o.ha with ent := o.ha.ent.setDw (k - 8) v } }
  else { o with hb := { o.hb with ent := o.hb.ent.setDw (k - 12) v } }

/-- Operations that are complete but not counted stand in the slots after the others. -/
def State.rdCprog (s : State) (n : Nat) : DWord :=
  let x := s.ccrew.cpy
  let w (v : Nat) : DWord := BitVec.ofNat 64 v
  let len := x.ops.length
  if n < 0x200 then
    match x.ops[n / 16]? with
    | some o => o.cpyReg (n % 16)
    | none => if n % 16 = 1 && n / 16 - len < x.done.length then w (x.done.getD (n / 16 - len) 0)
      else if n % 16 = 0 then 0 else Store.get 0 x.raw (32 * (n / 16) + n % 16)
  else if n = 0x200 then w (x.last + 1)
  else if n = 0x201 then w x.timeline
  else if n = 0x202 then w (boolNat x.frozen)
  else if n = 0x203 then w ((2 ^ x.done.length - 1) * 2 ^ len)
  else 0

/-- A write of DONEMAP: the operations complete but not counted are those of the slots it marks, by the OPNUM that each slot
holds; an operation that it marks in its slot is complete. -/
def EngCtx.setDone (x : EngCtx) (v : DWord) : EngCtx :=
  let len := x.ops.length
  let num (i : Nat) : Nat :=
    if i < len then ((x.ops[i]?).map Op.num).getD 0
    else if i - len < x.done.length then x.done.getD (i - len) 0
    else (Store.get 0 x.raw (32 * i + 1)).toNat
  { x with done := ((List.range 32).filter fun i => v.getLsbD i).map num
           ops := (x.ops.zipIdx.filter fun e => !v.getLsbD e.2).map Prod.fst }

/-- Write a copy register. `opcode` is what an operation made by the write is, which no register gives (log entry 68). -/
def EngCtx.wrCprog (x : EngCtx) (n : Nat) (v : DWord) (opcode : Nat) : EngCtx :=
  if n = 0x202 then x.setFreeze true (v.getLsbD 0)
  else if !x.freeze then x
  else if n < 0x200 then x.wrSlot (n / 16) (n % 16) v opcode Op.setCpyReg
  else if n = 0x200 then { x with last := v.toNat - 1 }
  else if n = 0x201 then { x with timeline := v.toNat }
  else if n = 0x203 then x.setDone v
  else x

def execCprog (f : FmtEB) (s : State) : Host.Outcome State Fault Refusal :=
  runWord { cpyInfo (Instr.cprog f) 26 with priv := true } (fun s =>
    let a := s.blkS f.sa 0
    let n := bits a.toNat 0 16
    let v := s.blkS f.sa 1
    let t := s.wrS f.sd (s.rdCprog n)
    let (opcode, u) := t.choose 0 [0, 1, 2, 3, 8]
    .done (if a.getLsbD 63 then u.modCrew s.cur.uid fun c => { c with cpy := c.cpy.wrCprog n v opcode } else t)) s

/-! ### One step of an operation -/

/-- Operations start in ascending number, an ORD one after every lower one has completed (R232, R236), or, where a stop holds
the completions, has done its work (R20, R417). -/
def EngCtx.mayStart (x : EngCtx) (op : Op) (held : Bool) : Bool :=
  x.ops.all (fun q => op.num ≤ q.num || q.st != .accepted) &&
    (!op.ord || x.timeline + 1 == op.num || (held && x.ops.all fun q => op.num ≤ q.num || q.st == .done))

/-- The operation may go on; multicasts and queue posts also while the crew is being pre-empted, and, once started, while the
context is frozen (R246, R252, R254, R374). -/
def State.cpyReady (s : State) (o : OpRef) (op : Op) : Bool :=
  let c := s.crew o.uid
  (if !op.stops true then c.mayFinish && (op.st != .accepted || !c.cpy.freeze || c.st == .preempting) else c.mayRun && !c.cpy.freeze) && op.waitPage.isNone && op.st != .done &&
    c.cpy.mayStart op c.stop.isSome

/-- Read `n` bytes on one side and write them on the other; none where an access stops the operation. Bytes of one step are
read before any of them is written (log entry 68). -/
def State.moveBytes (s : State) (o : OpRef) (x y : Side) (i j n : Nat) : State × Bool :=
  match (s.opStop o x.hn x.h i n true false).or (s.opStop o y.hn y.h j n false true) with
  | some st => (s.stopOp o st, false)
  | none => (s.opWrite o y.h j (s.opRead o x.h i n), true)

/-- Bytes to the end of the destination sector. -/
def sectorLeft (off left : Nat) : Nat := min (32 - off % 32) left

/-- Record progress; the operation's work ends with its last byte. -/
def Op.progress (p : Op) (n : Nat) : Op :=
  let q := p.prog + n
  { p with prog := q, row := if p.opcode = 1 && p.line2d != 0 then q / p.line2d else p.row
           bytes := q, st := if p.total ≤ q then .done else .running }

/-- The queue header and ring that `qpost` names: capacity, ring base, write and read index. The ring is the object that the
header's RINGH names, with no check of its own (log entry 68). -/
def State.postQueue (s : State) (o : OpRef) (op : Op) : Nat × Nat × Nat × Nat :=
  let c := s.crew o.uid
  let rd (k : Nat) : Nat := leNat (s.opRead o op.ha (op.src + k) 8)
  let cfg := rd 0x90
  let ring := rd 0x88
  let e := op.ha.ent
  let p : PartRef := if e.space == 4 then ⟨e.pdev, e.ppart⟩ else c.pref
  (2 ^ bits cfg 24 4, memKey (e.home c.ldev) ((s.handle p (bits ring 32 32)).base + bits ring 0 32), rd 0, rd 0x80)

/-- One step of `qpost` (R254): claim, write bytes 1 to 63, publish byte 0. -/
def State.postStep (s : State) (o : OpRef) (op : Op) : State :=
  let c := s.crew o.uid
  let hn := addrReg (op.blk.getD 0 0)
  match s.opStop o hn op.ha op.src 256 true true with
  | some st => s.stopOp o st
  | none =>
    let (cap, ring, wr, rd) := s.postQueue o op
    let pk := bits (op.blk.getD 1 0).toNat 0 32
    let bytes := s.peekN (.scr o.uid pk) 64
    let slot := ring + 64 * (op.accMask.toNat % cap)
    let ar := some (op.ha.ent.arenaRef c.pref)
    match op.prog with
    | 0 =>
      if cap ≤ wr - rd then s
      else
        let s := s.opWrite o op.ha op.src (leBytes 8 (wr + 1))
        s.modOp o fun p => { p with prog := 1, accMask := BitVec.ofNat 64 wr }
    | 1 =>
      if s.poisoned (.scr o.uid pk) 64 then s.stopOp o .poison
      else (s.homeWrite (some c.core) ar (.mem (slot + 1)) (bytes.drop 1)).modOp o fun p => { p with prog := 2 }
    | _ =>
      (s.homeWrite (some c.core) ar (.mem slot) (bytes.take 1)).modOp o fun p => { p with bytes := 64, st := .done }

/-- The source and destination of byte `i` of a copy, and the bytes to the end of its element (R240, R247). -/
def Op.elem (op : Op) (i : Nat) : Side × Side × Nat × Nat × Nat :=
  let b0 := op.blk.getD 0 0
  let b1 := op.blk.getD 1 0
  if op.opcode = 1 then
    let (x, y) := op.sides2d
    let k := i / op.line2d
    let j := i % op.line2d
    let d := y.off + k * y.stride + j
    (x, y, x.off + k * x.stride + j, d, sectorLeft d (op.line2d - j))
  else
    let d := addrOffset b1 + i
    (⟨addrReg b0, op.ha, 0, 0⟩, ⟨addrReg b1, op.hb, 0, 0⟩, addrOffset b0 + i, d, sectorLeft d (op.total - i))

/-- Copy or fill bytes from byte `i` on: the rest of its element, or that byte alone. -/
def State.copyBytes (s : State) (o : OpRef) (op : Op) (i : Nat) (one : Bool) : State × Nat × Bool :=
  if op.opcode = 3 then
    let d := op.src + i
    let n := if one then 1 else sectorLeft d (op.total - i)
    let bs := (List.range n).map fun k => (op.blk.getD 1 0).extractLsb' (8 * ((d + k) % 8)) 8
    match s.opStop o (addrReg (op.blk.getD 0 0)) op.ha d n false true with
    | some st => (s.stopOp o st, n, false)
    | none => (s.opWrite o op.ha d bs, n, true)
  else
    let (x, y, a, d, left) := op.elem i
    let n := if one then 1 else left
    let (s, ok) := s.moveBytes o x y a d n
    (s, n, ok)

/-- The tile of a multicast (R244): where a receiver's bytes go, its barrier, and its crew. -/
def Op.tileDst (op : Op) : Nat × Nat :=
  let w3 := (op.blk.getD 3 0).toNat
  (bits w3 0 32, bits w3 32 32)

def State.tileCrew (s : State) (o : OpRef) (op : Op) (bit : Nat) : Option Nat :=
  let c := s.crew o.uid
  s.crewOf c.ldev c.task (bits (op.blk.getD 2 0).toNat 32 32 + bit)

/-- Write bytes of the tile into a receiver's scratch; false where an access stops the operation. -/
def State.tileBytes (s : State) (o : OpRef) (op : Op) (u i n : Nat) : State × Bool :=
  match s.opStop o (addrReg (op.blk.getD 0 0)) op.ha (op.src + i) n true false with
  | some st => (s.stopOp o st, false)
  | none => (s.homeWrite none none (.scr u (op.tileDst.1 + i)) (s.opRead o op.ha (op.src + i) n), true)

/-- One step of a copy operation (R240, R247). `n` 0 is the rest of the element at BYTESDONE. Any other `n` is byte `n` - 1 beyond
it, written alone and not counted: bytes are written in any order, one by one, and again when their element is (R243); of a
multicast, byte `n` - 1 of the tiles laid end to end by receiver. -/
def State.copyStep (s : State) (o : OpRef) (op : Op) (n : Nat) : State :=
  let s := if op.st == .accepted then s.modOp o fun p => { p with st := .running, since := s.now } else s
  let op := if op.st == .accepted then { op with st := .running, since := s.now } else op
  let b1 := op.blk.getD 1 0
  if op.opcode = 2 then
    if op.param then s.modOp o fun p => { p with st := .done, refMask := b1 }
    else if b1 == op.accMask ||| op.refMask then s.modOp o fun p => { p with st := .done }
    else
      let bit := (n - 1) / op.total
      match s.tileCrew o op bit with
      | some u => if n != 0 && op.heard.getLsbD bit && !op.wrote.getLsbD bit then (s.tileBytes o op u ((n - 1) % op.total) 1).1 else s
      | none => s
  else if op.opcode = 8 then s.postStep o op
  else if op.param || op.total ≤ op.prog then s.modOp o fun p => { p with st := .done }
  else if n = 0 then
    let (s, m, ok) := s.copyBytes o op op.prog false
    if ok then s.modOp o fun p => p.progress m else s
  else if op.prog + n ≤ op.total then (s.copyBytes o op (op.prog + n - 1) true).1
  else s

/-- A receiver refuses a tile as it stands (R245). -/
def State.tileRefused (s : State) (op : Op) (u : Nat) : Bool :=
  let r := s.crew u
  let h := s.hdrOf r
  let (doff, rbar) := op.tileDst
  let b := s.rdBar u rbar
  !r.mayRun || h.scratch < doff + op.total || rbar % 16 ≠ 0 || h.scratch + 128 * h.hslots < rbar + 16 ||
    !b.armed || b.pending != b.expect

/-- The next thing that a receiver does with a multicast (R245): it decides; having accepted, it writes the tile; and then it
arrives and acknowledges. One that is killed before it acknowledges has refused (R246). -/
def State.receive (s : State) (o : OpRef) (op : Op) (bit : Nat) : State :=
  let mask : DWord := BitVec.ofNat 64 (2 ^ bit)
  let refuse (s : State) : State := s.modOp o fun p => { p with refMask := p.refMask ||| mask }
  match s.tileCrew o op bit with
  | none => refuse s
  | some u =>
    if !op.heard.getLsbD bit then
      if s.tileRefused op u then refuse s else s.modOp o fun p => { p with heard := p.heard ||| mask }
    else if !(s.crew u).mayFinish then refuse s
    else if !op.wrote.getLsbD bit then
      let (s, ok) := s.tileBytes o op u 0 op.total
      if ok then s.modOp o fun p => { p with wrote := p.wrote ||| mask } else s
    else
      let (ok, s) := s.arriveBar u op.tileDst.2 op.total
      s.modOp o fun p =>
        { p with accMask := p.accMask ||| mask, bytes := op.total, row := if ok then p.row else 1 }

end Sys2Proof.Machine
end

