-- ==== Sys2Proof/Machine/Brew.lean ====
section
/-! DEFINITION. What the brewhouse does for every requester: interrupts (R389), answers to commands (R385, R386), and the
arena and handle tables (R291 to R310), on which the ARN words, the commands and the task engine act. -/

namespace Sys2Proof.Machine

/-! ### Interrupts and responses -/

/-- A register of the brewhouse window by its offset (R388). -/
def State.winReg (s : State) (off : Nat) : DWord := Store.get 0 s.win off
def State.setWin (s : State) (off : Nat) (v : DWord) : State := { s with win := Store.set 0 s.win off v }

/-- Raise an interrupt vector; one that is not bound is dropped and counted in VECDROP (R389). -/
def State.raise (s : State) (vec : Nat) : State :=
  match Store.get none s.vecs vec with
  | some (hart, id) => { s with msis := s.msis ++ [(vec, hart, id)] }
  | none => s.setWin 0xC020 (s.winReg 0xC020 + 1)

/-- STATUS of a response (R386). -/
def stOK : Nat := 0
def stDENIED : Nat := 1
def stBUSY : Nat := 2
def stPARAM : Nat := 3
def stDOWN : Nat := 4
def stBADSIG : Nat := 5
def stUNKNOWN : Nat := 6
def stNOSPACE : Nat := 7
def stERROR : Nat := 8

/-- Write a dword list at a window offset. -/
def State.setWins (s : State) (off : Nat) : List DWord → State
  | [] => s
  | v :: l => State.setWins (s.setWin off v) (off + 8) l

/-- The 64 bytes of a response, as dwords (R386). -/
def Resp.dwords (r : Resp) : List DWord :=
  BitVec.ofNat 64 (r.seq.toNat * 2 ^ 32 + r.opcode.toNat * 2 ^ 16 + r.status) :: (List.range 7).map fun i => r.results.getD i 0

/-- Send a response. The operating system's is written at slot RSPWR of the response ring, RSPWR rises, and vector 0 is raised
(R385, R388). -/
def State.respond (s : State) (c : Cmd) (status : Nat) (results : List Nat) (tail : List Byte) : State :=
  let r : Resp := ⟨c.source, c.seq, c.opcode, status, results.map (BitVec.ofNat 64), tail⟩
  let s := { s with resps := s.resps ++ [r] }
  match c.source with
  | .os =>
    let k := s.winReg 0xC010
    ((s.setWins (0x8000 + 64 * (k.toNat % 256)) r.dwords).setWin 0xC010 (k + 1)).raise 0
  | _ => s

def State.answer (s : State) (c : Cmd) (status : Nat) (results : List Nat) : State := s.respond c status results []

/-- Answer the outstanding commands that `p` takes, with a status and no result. -/
def State.answerAll (s : State) (p : PendCmd → Bool) (status : Nat) : State :=
  let s' := { s with cmds := s.cmds.filter fun c => !p c }
  (s.cmds.filter p).foldl (fun s c => s.answer c.cmd status []) s'

/-- The partition a command names. -/
def cmdPart (c : Cmd) : PartRef := ⟨c.ldev.toNat, c.part.toNat⟩

/-! ### The arena table (R291 to R294) -/

/-- An arena of a partition by index. -/
def arenaAt (p : PartRef) (i : Nat) : ArenaRef := ⟨p.ldev, p.part, i⟩
def arenaPart (a : ArenaRef) : PartRef := ⟨a.ldev, a.part⟩

/-- STATE of R291. -/
def ArenaSt.code : ArenaSt → Nat
  | .free => 0
  | .live => 1
  | .sealing => 2
  | .sealed_ => 3
  | .dropping => 4

/-- The indices from an arena to the root, both included (R294). DEPTH is at most 8. -/
def State.arenaPath (s : State) (p : PartRef) : Nat → Nat → List Nat
  | 0, i => [i]
  | n + 1, i => if i = 0 then [0] else i :: s.arenaPath p n (s.arena (arenaAt p i)).parent

def State.pathOf (s : State) (p : PartRef) (i : Nat) : List Nat := s.arenaPath p 8 i

/-- Indices of a partition's table that are not FREE, ascending. -/
def State.usedArenas (s : State) (p : PartRef) : List Nat :=
  (s.arenas.filter fun e => e.1 / 4096 == partKey p && e.2.st != .free).map fun e => e.1 % 4096

/-- An arena and its descendants that are not FREE. -/
def State.subtree (s : State) (p : PartRef) (i : Nat) : List Nat :=
  (s.usedArenas p).filter fun j => (s.pathOf p j).contains i

/-- A dword of R291's layout. -/
def Arena.dw (a : Arena) (idx k : Nat) : Nat := match k with
  | 0 => a.gen * 2 ^ 44 + idx * 2 ^ 32 + a.parent * 2 ^ 20 + a.depth * 2 ^ 16 + a.st.code * 2 ^ 13 +
      boolNat a.held * 2 ^ 12 + boolNat a.retired * 2 ^ 11
  | 1 => a.quota
  | 2 => a.used
  | _ => a.occ.toNat * 2 ^ 32 + a.cap.toNat

/-- Bytes charged for an allocation (R294). -/
def chargeOf (n : Nat) : Nat := (n + 127) / 128 * 128

/-- The refusing arena nearest the root, if R294 refuses a charge. -/
def State.quotaRefuses (s : State) (p : PartRef) (i c : Nat) : Option Nat :=
  (s.pathOf p i).reverse.find? fun j => decide ((s.arena (arenaAt p j)).quota < (s.arena (arenaAt p j)).used + c)

/-- Add a charge to USED of every arena of a path. -/
def State.charge (s : State) (p : PartRef) (i c : Nat) : State :=
  (s.pathOf p i).foldl (fun s j => s.modArena (arenaAt p j) fun a => { a with used := a.used + c }) s

/-- The index that `arnew` takes (R293). -/
def State.freeArena (s : State) (p : PartRef) : Option Nat :=
  ((List.range 4095).map (· + 1)).find? fun i => (s.arena (arenaAt p i)).st == .free && !(s.arena (arenaAt p i)).retired

/-- Create a LIVE child (R303), or a PRIVATE arena with HELD set (R33). None when no index is available. -/
def State.newArena (s : State) (p : PartRef) (parent quota : Nat) (cap : Word) (held : Bool) : Option (Nat × State) :=
  (s.freeArena p).map fun i =>
    let up := s.arena (arenaAt p parent)
    (i, s.modArena (arenaAt p i) fun a =>
      { gen := a.gen + 1, parent := parent, depth := up.depth + 1, st := .live, held := held, quota := quota, cap := cap })

/-- ARENA_STALE of R302 (with R310's exception for `ardrop`), then ARENA_STATE in the states that `bad` names. -/
def State.arenaBad (s : State) (p : PartRef) (name : DWord) (dropping : Bool) (bad : Arena → Bool) : Option Exc :=
  let a := s.arena (arenaAt p (nameIdx name))
  if a.st == .free || a.gen != nameGen name || (a.st == .dropping && !dropping) then some .arenaStale
  else if bad a then some .arenaState
  else none

/-- The table of R302. -/
def badNew (a : Arena) : Bool := a.st == .sealing || a.st == .sealed_ || a.held || a.depth == 8
def badAlloc (a : Arena) : Bool := a.st == .sealing || a.st == .sealed_ || a.held
def badRoot (a : Arena) : Bool := a.depth == 0 || a.held

/-- `arnew` (R303): STATUS and RESULT of R300. -/
def State.arNew (s : State) (p : PartRef) (parent : Nat) (quota cap : DWord) : (Nat × Nat) × State :=
  match s.newArena p parent (bits quota.toNat 0 48) (cap.setWidth 32) false with
  | none => ((3, 0), s)
  | some (i, s) => ((0, makeName i (s.arena (arenaAt p i)).gen), s)

/-- `arquota` (R306). -/
def State.arQuota (s : State) (p : PartRef) (i : Nat) (quota cap : DWord) : State :=
  s.modArena (arenaAt p i) fun a =>
    { a with quota := if quota.getLsbD 63 then a.quota else bits quota.toNat 0 48
             cap := if cap.getLsbD 63 then a.cap else cap.setWidth 32 }

/-! ### Allocation (R304, R305) -/

/-- Set a range of memory to zero; zeroed sectors are not poisoned (R403). -/
def State.zeroRange (s : State) (lo n : Nat) : State :=
  ({ s with mem := s.mem.filter fun e => !(lo ≤ e.1 && e.1 < lo + n) } : State).clearPoison (.mem lo) n

/-- The valid handle entries of a partition, by index. -/
def State.validHandles (s : State) (p : PartRef) : List (Nat × HEntry) :=
  (s.handles.filter fun e => e.1 / 2 ^ 20 == partKey p && e.2.valid).map fun e => (e.1 % 2 ^ 20, e.2)

/-- A free handle index, which the manual does not fix: a free value, among those that no object has had yet while there are any
(R317, log entry 72). None when the table is full. -/
def State.freeHandle (s : State) (p : PartRef) : Option Nat × State :=
  let had := (s.handles.filter fun e => e.1 / 2 ^ 20 == partKey p).map fun e => e.1 % 2 ^ 20
  let used := if had.length < 2 ^ 20 then had else (s.validHandles p).map Prod.fst
  let (f, s) := s.free
  (((List.range (used.length + 1)).map fun (k : Nat) => (f + k) % 2 ^ 20).find? fun i => !used.contains i, s)

/-- Bytes of second-tier objects of a list of handle entries. -/
def secondBytes (l : List HEntry) : Nat := (l.filter fun e => e.space == 3).foldl (fun n e => n + chargeOf e.size) 0

/-- Where `c` bytes may lie: fresh addresses while the device's 48-bit space has them, or a range that a dropped object of the
partition left (R89, R305). -/
def State.basesFor (s : State) (p : PartRef) (c : Nat) : List (Option (Nat × Nat)) :=
  (if Store.get 0 s.vaNext p.ldev + c ≤ 2 ^ 48 then [none] else []) ++
    ((Store.get [] s.freeVa (partKey p)).filter fun r => c ≤ r.2).map some

/-- The space has free backing memory for `c` bytes: the partition's pseudo-channels hold DEVICE bytes in proportion
(R377), the second tier is the package's (R12); and there are addresses for them. -/
def State.hasBacking (s : State) (p : PartRef) (second : Bool) (c : Nat) : Bool :=
  !(s.basesFor p c).isEmpty && if second then
    secondBytes ((s.handles.filter fun e => e.2.valid).map Prod.snd) + c ≤ Config.secondBytes
  else
    let held := (s.arena (arenaAt p 0)).used - secondBytes ((s.validHandles p).map Prod.snd)
    held + c ≤ Config.hbmBytes * (s.part p).pcs / 32

/-- A base for `c` bytes: fresh addresses, or a range that a dropped object of the partition left; which of them is a
free value (R305, R312). -/
def State.newBase (s : State) (p : PartRef) (c : Nat) : Nat × State :=
  let ranges := Store.get [] s.freeVa (partKey p)
  let fresh := Store.get 0 s.vaNext p.ldev
  let (pick, s) := s.choose none (s.basesFor p c)
  match pick with
  | none => (fresh, { s with vaNext := Store.set 0 s.vaNext p.ldev ((fresh + c + 65535) / 65536 * 65536) })
  | some r =>
    let rest := if r.2 = c then [] else [(r.1 + c, r.2 - c)]
    (r.1, { s with freeVa := Store.set [] s.freeVa (partKey p) (ranges.erase r ++ rest) })

/-- `halloc` (R304): STATUS and RESULT of R300. -/
def State.hAlloc (s : State) (p : PartRef) (i : Nat) (bytes attr : DWord) : (Nat × Nat) × State :=
  let n := bytes.toNat
  let a := attr.toNat
  let c := chargeOf n
  let second := attr.getLsbD 0
  if n = 0 || 2 ^ 48 ≤ n || bits a 1 2 = 3 || 2 ^ 5 ≤ a then ((5, 0), s)
  else match s.quotaRefuses p i c with
    | some j => ((1, j), s)
    | none =>
      if !s.hasBacking p second c then ((2, 0), s)
      else match s.freeHandle p with
        | (none, _) => ((4, 0), s)
        | (some h, s) =>
          let (base, s) := (s.charge p i c).newBase p c
          let e := HEntry.make base n (s.arena (arenaAt p i)).gen i (if second then 3 else 2) (bits a 1 2)
            (attr.getLsbD 3) (attr.getLsbD 4) false 0 0 0
          ((0, h), s.setHandle p h e)

/-- The status dword of R300. -/
def statusDword (r : Nat × Nat) : Nat := r.1 * 2 ^ 56 + r.2

/-! ### Seals (R307, R308) -/

/-- Change the accepted arena operations of every crew of a partition. -/
def State.mapArn (s : State) (p : PartRef) (f : Op → Op) : State :=
  { s with crews := s.crews.map fun e =>
      if e.2.pref == p then (e.1, { e.2 with arn := { e.2.arn with ops := e.2.arn.ops.map f } }) else e }

/-- The indices an arena operation names. -/
def Op.names (o : Op) (l : List Nat) : Bool := match o.arena with
  | some a => l.contains a.idx
  | none => false

/-- Complete the arena operations of one opcode that name an arena of `l`. -/
def State.endArn (s : State) (p : PartRef) (opcode : Nat) (l : List Nat) : State :=
  s.mapArn p fun o => if o.opcode == opcode && o.st != .done && o.names l then { o with st := .done } else o

/-- Start a seal (R307 step 2): the named arena and its LIVE descendants are SEALING. -/
def State.startSeal (s : State) (p : PartRef) (i : Nat) : State :=
  let set := (s.subtree p i).filter fun j => (s.arena (arenaAt p j)).st == .live
  let s := set.foldl (fun s j => s.modArena (arenaAt p j) fun a => { a with st := .sealing }) s
  s.modPart p fun q => { q with sealOps := q.sealOps ++ [(i, set)] }

/-- The addresses of an arena set's objects, as memory ranges: of the valid entries of the partition's table. -/
def State.setRanges (s : State) (p : PartRef) (set : List Nat) : List (Nat × Nat) :=
  ((s.validHandles p).filter fun e => e.2.space != 4 && set.contains e.2.arena).map fun e =>
    (memKey p.ldev e.2.base, chargeOf e.2.size)

def inRanges (l : List (Nat × Nat)) (a n : Nat) : Bool := l.any fun r => r.1 < a + n && a < r.1 + r.2

/-- Private memory of a partition's arena set: the blocks of the tasks whose arenas it holds (R33). -/
def State.blockRanges (s : State) (p : PartRef) (set : List Nat) : List (Nat × Nat) :=
  (s.tasks.filter fun e => e.1 / 2 ^ 32 == p.ldev && e.2.part == p.part && e.2.st != .none && e.2.st != .ended && set.contains e.2.arena).map fun e =>
    (memKey p.ldev e.2.blockBase, chargeOf (e.2.blocks * e.2.hdr.blockBytes))

/-- Every address of an arena set. -/
def State.setBytes (s : State) (p : PartRef) (set : List Nat) : List (Nat × Nat) := s.setRanges p set ++ s.blockRanges p set

/-- An L1 is made to hold no old copy of a line in some ranges: queued invalidations of them are applied. -/
def Core.freshen (c : Core) (l : List (Nat × Nat)) : Core :=
  { c with inval := c.inval.filter fun i => !inRanges l (128 * i.line) 128 }

/-- The seal broadcast of the set that `i` names reaches one cache, or all that it has not reached, which set the SEAL bits. An
L1 has then written its dirty lines of the set home, and what it holds of the set is the home's (R307 step 3). -/
def State.sealBits (s : State) (p : PartRef) (i : Nat) (cache : Option Nat) : State :=
  match (s.part p).sealOps.find? fun e => e.1 == i with
  | none => s
  | some (_, set) =>
    let l := s.setBytes p set
    let home (s : State) (k : Nat) : State :=
      (s.writeBack k fun n => inRanges l (128 * n) 128).modCore k (Core.freshen · l)
    match cache with
    | some k =>
      let s := set.foldl (fun s j => s.modArena (arenaAt p j) fun a => { a with sealAt := k :: a.sealAt }) s
      if k < 256 then home s k else s
    | none =>
      let s := set.foldl (fun s j => s.modArena (arenaAt p j) fun a => { a with sealBit := true, sealAt := [] }) s
      s.cores.keys.foldl home s

/-- Every acknowledgement of the set that `i` names can come: the broadcast has been made. -/
def State.sealAcked (s : State) (p : PartRef) (i : Nat) : Bool :=
  match (s.part p).sealOps.find? fun e => e.1 == i with
  | none => false
  | some (_, set) => set.all fun j => (s.arena (arenaAt p j)).sealBit

/-- Seal-complete (R307 step 4): the set is SEALED; the operations and commands that wait for it complete. -/
def State.endSeal (s : State) (p : PartRef) (i : Nat) : State :=
  match (s.part p).sealOps.find? fun e => e.1 == i with
  | none => s
  | some (k, set) =>
    let s := set.foldl (fun s j => s.modArena (arenaAt p j) fun a => { a with st := .sealed_ }) s
    let s := (s.modPart p fun q => { q with sealOps := q.sealOps.erase (k, set) }).endArn p 2 set
    s.answerAll (fun c => c.cmd.opcode == 0x32 && cmdPart c.cmd == p && set.contains c.ref_) stOK

/-! ### Drops (R310, R311) -/

def staleArena : FaultInfo := { exc := .arenaStale, eng := 6 }

/-- A seal whose set loses an arena to a drop completes in error; so does one that names a dropped arena (R308). The
members that stay are sealed at their own acknowledgement. -/
def State.breakSeals (s : State) (p : PartRef) (set : List Nat) : State :=
  let hit := (s.part p).sealOps.filter fun e => e.2.any set.contains
  let heads := hit.map Prod.fst
  let s := s.modPart p fun q =>
    { q with sealOps := (q.sealOps.map fun e => (e.1, e.2.filter fun j => !set.contains j)).filter fun e => !e.2.isEmpty }
  let s := s.mapArn p fun o =>
    if o.opcode == 2 && o.st != .done && ((o.row == 1 && o.names heads) || o.names set) then
      { o with st := .done, err := some staleArena }
    else o
  s.answerAll (fun c => c.cmd.opcode == 0x32 && cmdPart c.cmd == p &&
    ((c.uids == [1] && heads.contains c.ref_) || set.contains c.ref_)) stERROR

/-- Start a drop (R310 steps 2 and 3): the arenas of the set that no drop holds are DROPPING; they join the mask in flight
if none is, else the next one. -/
def State.startDrop (s : State) (p : PartRef) (i : Nat) : State :=
  let set := (s.subtree p i).filter fun j => (s.arena (arenaAt p j)).st != .dropping
  if set.isEmpty then s
  else
    let s := set.foldl (fun s j => s.modArena (arenaAt p j) fun a => { a with st := .dropping }) s
    (s.breakSeals p set).modPart p fun q =>
      if q.dropMask.isEmpty then { q with dropMask := set } else { q with dropNext := q.dropNext ++ set }

/-- A copy of an entry of partition `p` names an arena of partition `q`'s set. -/
def HEntry.inSet (e : HEntry) (p q : PartRef) (set : List Nat) : Bool :=
  e.space != 0 && e.space != 5 && arenaPart (e.arenaRef p) == q && set.contains e.arena

/-- Set the STALE bit of a copy of the set (R296). -/
def HReg.stain (h : HReg) (p q : PartRef) (set : List Nat) : HReg :=
  if h.ent.inSet p q set then { h with stale := true } else h

/-- The core and its contexts set the STALE bits of their copies (R310 step 4). -/
def Crew.stain (c : Crew) (q : PartRef) (set : List Nat) : Crew :=
  let p := c.pref
  let f (a : Arch) : Arch := { a with h := a.h.map fun e => (e.1, e.2.stain p q set) }
  let o (x : Op) : Op := { x with ha := x.ha.stain p q set, hb := x.hb.stain p q set, hc := x.hc.stain p q set }
  let g (x : EngCtx) : EngCtx := { x with ops := x.ops.map o }
  let w (x : PendWrite) : PendWrite := match x.arena with
    | some a => if arenaPart a == q && set.contains a.idx then { x with stale := true } else x
    | none => x
  { c with threads := c.threads.map fun e => (e.1, { e.2.mapArch f with sq := e.2.sq.map w })
           cpy := g c.cpy, mtx := g c.mtx, arn := g c.arn, msg := g c.msg }

/-- The drop mask reaches a core: its L1 gives up every line of the set, dirty ones without a write-back, and the STALE bits of
its copies are set (R310 step 4). -/
def State.dropAtCore (s : State) (p : PartRef) (set : List Nat) (l : List (Nat × Nat)) (core : Nat) : State :=
  let s := (s.discard core fun n => inRanges l (128 * n) 128).modCore core (Core.freshen · l)
  { s with crews := s.crews.map fun e => if e.2.core == core then (e.1, e.2.stain p set) else e
           sharers := s.sharers.map fun e =>
             if inRanges l (128 * e.1) 128 && keyLdev (128 * e.1) == coreDie core then
               (e.1, e.2 &&& ~~~BitVec.ofNat 64 (2 ^ (core % 64)))
             else e }

/-- The drop mask reaches one cache, or every one that it has not reached. When all slices have it, sectors of the set whose
fills are pending are gone with their masks (R310 step 4, R316). -/
def State.dropBits (s : State) (p : PartRef) (cache : Option Nat) : State :=
  let set := (s.part p).dropMask
  let l := s.setBytes p set
  match cache with
  | some k =>
    let s := set.foldl (fun s j => s.modArena (arenaAt p j) fun a => { a with staleAt := k :: a.staleAt }) s
    if k < 256 then s.dropAtCore p set l k else s
  | none =>
    let s := set.foldl (fun s j => s.modArena (arenaAt p j) fun a => { a with staleBit := true, staleAt := [] }) s
    let s := s.cores.keys.foldl (fun s k => s.dropAtCore p set l k) s
    { s with crews := s.crews.map fun e => (e.1, e.2.stain p set)
             sharers := s.sharers.filter fun e => !inRanges l (128 * e.1) 128
             fills := s.fills.filter fun e => !inRanges l (32 * e.1) 32
             absent := s.absent.filter fun e => !inRanges l (32 * e.1) 32 }

/-- What drop-complete leaves in the memory of a set: the bytes of a line as they were some number of writes ago, which `back`
chooses, in 16 bits for each of 64 lines (R312: any value of the generation's life); 0 leaves the last. The history of the set's
memory ends with it. -/
def State.settleDropped (s : State) (l : List (Nat × Nat)) (back : Nat) : State :=
  let ofSet (w : PastWrite) : Bool := match w.loc with
    | .mem a => inRanges l a w.old.length
    | _ => false
  let undone (w : PastWrite) : Bool := match w.loc with
    | .mem a => decide (s.writes ≤ w.at_ + back / 2 ^ (16 * (a / 128 % 64)) % 2 ^ 16)
    | _ => false
  let past := s.hist.filter ofSet
  let s := (past.filter undone).foldl (fun s w => s.poke w.loc w.old) s
  { s with hist := s.hist.filter fun w => !ofSet w }

/-- The mask in flight has reached everything. -/
def State.dropAcked (s : State) (p : PartRef) : Bool :=
  let set := (s.part p).dropMask
  !set.isEmpty && set.all fun j => (s.arena (arenaAt p j)).staleBit

/-- Drop-complete for the table (R310 step 5, R293, R294): handle entries lose VALID, their ranges may be used again, the
surviving ancestors lose the charge, and the indices are FREE or RETIRED. The next mask is then in flight. -/
def State.endDropTable (s : State) (p : PartRef) (back : Nat) : State :=
  let set := (s.part p).dropMask
  let s := s.settleDropped (s.setBytes p set) back
  let dead (e : Nat × HEntry) : Bool :=
    e.2.valid && e.2.inSet ⟨e.1 / 2 ^ 20 / 8, e.1 / 2 ^ 20 % 8⟩ p set
  let own (e : Nat × HEntry) : Bool := dead e && e.1 / 2 ^ 20 == partKey p && e.2.space != 4
  let ranges := (s.handles.filter own).map fun e => (e.2.base, chargeOf e.2.size)
  let s := { s with
    handles := s.handles.map fun e => if dead e then (e.1, e.2.invalidate) else e
    maps := s.maps.filter fun m => !m.ent.inSet ⟨m.ldev, m.part⟩ p set
    freeVa := Store.set [] s.freeVa (partKey p) (Store.get [] s.freeVa (partKey p) ++ ranges) }
  let tops := set.filter fun j => !set.contains (s.arena (arenaAt p j)).parent
  let s := tops.foldl (fun s j =>
    let u := (s.arena (arenaAt p j)).used
    (s.pathOf p (s.arena (arenaAt p j)).parent).foldl (fun s k => s.modArena (arenaAt p k) fun a => { a with used := a.used - u }) s) s
  let s := set.foldl (fun s j => s.modArena (arenaAt p j) fun a =>
    { gen := a.gen, retired := a.gen == 0xFFFFF, staleBit := true, sealBit := false }) s
  s.modPart p fun q => { q with dropMask := q.dropNext, dropNext := [] }

/-- Drop-complete: the table, then the operations and commands that wait for it (R310 step 5). -/
def State.endDrop (s : State) (p : PartRef) (back : Nat) : State :=
  let set := (s.part p).dropMask
  let s := (s.endDropTable p back).endArn p 3 set
  s.answerAll (fun c => c.cmd.opcode == 0x33 && cmdPart c.cmd == p && set.contains c.ref_) stOK

end Sys2Proof.Machine
end

