-- ==== Sys2Proof/Machine/Arn.lean ====
section
/-! DEFINITION. The ARN class (16): the four synchronous words and the two engine commands (R298 to R310). -/

namespace Sys2Proof.Machine

/-- What R80 asks of an ARN word. -/
def arnInfo (i : Instr) : WordInfo := { cls := .arn, caps := [29], wf := i.wf, reads := i.reads, old := true }

def arnFault (e : Exc) : FaultInfo := { exc := e, eng := 6 }

/-- A synchronous word: the checks of R302, then the answer in sd (R301). -/
def arnSync (i : Instr) (f : FmtEB) (bad : Arena → Bool) (go : State → PartRef → Nat → DWord × State) (s : State) :
    Host.Outcome State Fault Refusal :=
  runWord (arnInfo i) (fun s =>
    let p := s.ccrew.pref
    let name := s.blkS f.sa 0
    match s.arenaBad p name false bad with
    | some e => .trap s (arnFault e)
    | none =>
      let (v, s) := go s p (nameIdx name)
      .done (s.wrS f.sd v)) s

def execArnew (f : FmtEB) (s : State) : Host.Outcome State Fault Refusal :=
  arnSync (Instr.arnew f) f badNew (fun s p i =>
    let (r, s) := s.arNew p i (s.blkS f.sa 1) (s.blkS f.sa 2)
    (BitVec.ofNat 64 (statusDword r), s)) s

def execHalloc (f : FmtEB) (s : State) : Host.Outcome State Fault Refusal :=
  arnSync (Instr.halloc f) f badAlloc (fun s p i =>
    let (r, s) := s.hAlloc p i (s.blkS f.sa 1) (s.blkS f.sa 2)
    (BitVec.ofNat 64 (statusDword r), s)) s

def execArquota (f : FmtEB) (s : State) : Host.Outcome State Fault Refusal :=
  arnSync (Instr.arquota f) f badRoot (fun s p i => (0, s.arQuota p i (s.blkS f.sa 1) (s.blkS f.sa 2))) s

/-- `arinfo` makes no ARENA_STALE check (R302, R306). -/
def execArinfo (f : FmtEB) (s : State) : Host.Outcome State Fault Refusal :=
  runWord (arnInfo (Instr.arinfo f)) (fun s =>
    let i := nameIdx (s.blkS f.sa 0)
    let a := s.arena (arenaAt s.ccrew.pref i)
    .done (s.wrS f.sd (BitVec.ofNat 64 (a.dw i (bits (s.blkS f.sa 1).toNat 0 2))))) s

/-- Dies to which a thread has posted a write to an arena of the set. -/
def Thread.postedTo (t : Thread) (p : PartRef) (set : List Nat) : List (Option Nat) :=
  [some 0, some 1, some 2, some 3].filter fun d => t.sq.any fun w => !w.gone && w.posted == d && match w.arena with
    | some a => arenaPart a == p && set.contains a.idx
    | none => false

/-- R307 step 1: the issuer's earlier stores to the set, posted ones included, are performed. -/
def State.performSet (s : State) (p : PartRef) (set : List Nat) : State :=
  (s.cthr.postedTo p set).foldl (fun s d => s.drain s.cur.uid s.cur.tid d) s

/-- R310 step 1: the issuer's earlier accesses to the set raise no fault any more, nor does one whose late fault still waits. -/
def State.absorb (s : State) (p : PartRef) (set : List Nat) : State :=
  let hit (a : Option ArenaRef) : Bool := a.any fun a => arenaPart a == p && set.contains a.idx
  let w (x : PendWrite) : PendWrite := if !x.gone && hit x.arena then { x with absorbed := true } else x
  let left (l : List FaultInfo) : List FaultInfo := l.filter fun f => !hit f.arena
  s.modThread s.cur.uid s.cur.tid fun t => { t with sq := t.sq.map w, pendA := left t.pendA, pendB := left t.pendB }

/-- An arena operation of the word that `cur` names. `row` 1 marks the operation that started a seal. -/
def State.arnOp (s : State) (opcode : Nat) (f : FmtEB) (i : Nat) (st : OpSt) (row num : Nat) : Op :=
  let bar := bits (s.blkS f.sa 3).toNat 0 32
  { s.newOp opcode f num with
    st := st, arena := some (arenaAt s.ccrew.pref i), bar := if bar = noBar then none else some bar, row := row }

/-- An asynchronous word: R302's checks, then acceptance by the arena context (R301). -/
def arnAsync (i : Instr) (f : FmtEB) (dropping : Bool) (go : State → PartRef → Nat → Res) (s : State) :
    Host.Outcome State Fault Refusal :=
  runWord (arnInfo i) (fun s =>
    let p := s.ccrew.pref
    let name := s.blkS f.sa 0
    let bad := ((s.arenaBad p name dropping badRoot).map arnFault).or
      (s.barBad? 6 (bits (s.blkS f.sa 3).toNat 0 32))
    match bad with
    | some e => .trap s e
    | none => match s.mayAccept .arena Config.arenaRoom f.tok.toNat with
      | some w => .block s w
      | none => go s p (nameIdx name)) s

def execArseal (f : FmtEB) (s : State) : Host.Outcome State Fault Refusal :=
  arnAsync (Instr.arseal f) f false (fun s p i =>
    let st := (s.arena (arenaAt p i)).st
    let set := (s.subtree p i).filter fun j => (s.arena (arenaAt p j)).st == .live
    let s := (s.drainLocal s.cur.uid s.cur.tid).performSet p set
    let op : Nat → Op := s.arnOp 2 f i (if st == .sealed_ then .done else .running) (boolNat (st == .live))
    let (n, s) := s.accept .arena op
    let s := s.wrS f.sd (BitVec.ofNat 64 n)
    .done (if st == .live then s.startSeal p i else s)) s

def execArdrop (f : FmtEB) (s : State) : Host.Outcome State Fault Refusal :=
  arnAsync (Instr.ardrop f) f true (fun s p i =>
    let s := (s.absorb p (s.subtree p i)).drainLocal s.cur.uid s.cur.tid
    let (n, s) := s.accept .arena (s.arnOp 3 f i .running 0)
    .done ((s.wrS f.sd (BitVec.ofNat 64 n)).startDrop p i)) s

end Sys2Proof.Machine
end

