-- ==== Sys2Proof/Machine/Msg.lean ====
section
/-! DEFINITION. The MSG class (18): the twelve words, and what the routers do with messages and rounds (R326 to R349). -/

namespace Sys2Proof.Machine

/-- What R80 asks of an MSG word. -/
def msgInfo (i : Instr) (cap : Nat) : WordInfo := { cls := .msg, caps := [cap], wf := i.wf, reads := i.reads, old := true }

def msgFault (e : Exc) : FaultInfo := { exc := e, eng := 7 }

/-- The refusal form of R323. -/
def refusal (code : Nat) : DWord := BitVec.ofNat 64 (2 ^ 63 + code)

/-- A fault that names h0 and an offset (R324, R333). -/
def State.h0Fault (s : State) (e : Exc) (off : Nat) : FaultInfo :=
  { msgFault e with hreg := some 0, hindex := (s.rdH 0).idx, offset := BitVec.ofNat 64 off }

/-- The checks of R324 on `n` bytes of scratch. -/
def State.scratchBad (s : State) (off n align : Nat) : Option FaultInfo :=
  if off % align ≠ 0 then some (s.h0Fault .misaligned off)
  else if (s.rdH 0).ent.size < off + n then some (s.h0Fault .handleBounds off)
  else none

/-! ### Handler groups (R42, R327, R328) -/

/-- h0 of a crew's threads (R35). -/
def State.scratchReg (s : State) (c : Crew) : HReg :=
  let h := s.hdrOf c
  { ent := HEntry.make 0 (h.scratch + 128 * h.hslots) 0 0 0 0 true true false 0 0 0 }

/-- Handler slots reserved by SPAWN readiness, or by a message assigned to one (R333, R338). -/
def State.reservedSlots (s : State) (uid : Nat) : List Nat :=
  let c := s.crew uid
  c.ready.flatMap (fun e => e.2.slots) ++ (s.part c.pref).groups.flatMap fun g => g.2.msgs.filterMap fun m =>
    match m.at_ with
    | .spawn u k _ => if u == uid then some k else none
    | _ => none

/-- Handler slots that are neither running nor reserved (R333). -/
def State.openSlots (s : State) (uid : Nat) : List Nat :=
  let c := s.crew uid
  let held := s.reservedSlots uid
  (List.range (s.hdrOf c).hslots).filter fun n =>
    (c.thread (32 + n)).st != .running && !held.contains n

/-- A fresh thread whose slot A starts at `pc` with all lanes of `mask` (R35, R42). -/
def freshThread (pc mask : Word) (h0 h1 : HReg) (ctr : Nat) : Thread where
  st := .running
  arch := { h := Store.set {} (Store.set {} [] 0 h0) 1 h1, a := { st := .ready, pc := pc, mask := mask, lastIssue := ctr } }

/-- Operations of an earlier handler of the slot no longer have an issuer. -/
def EngCtx.orphan (x : EngCtx) (tid : Nat) : EngCtx :=
  { x with ops := x.ops.map fun o => if o.tid == tid then { o with tid := 64 + tid } else o }

/-- Spawn a handler group in a slot with the registers of R328; the payload is in its landing area. Of an earlier handler of the
slot only the stores still to be performed are left. The spawn is the message's delivery, an acquire at device scope (R106, R111). -/
def State.spawn (s : State) (uid slot handler : Nat) (from_ : Nat × Nat × Nat) (len : Nat) (payload : List Byte)
    (s7 : DWord) : State :=
  let c := s.crew uid
  let h := s.hdrOf c
  let area := h.scratch + 128 * slot
  let s := s.homeWrite none none (.scr uid area) ((payload ++ List.replicate 128 0).take 128)
  let t := freshThread (h.handTbl.getD handler Config.noneAddr) 0xFFFFFFFF (s.scratchReg c) {} s.issueCtr
  let vals : List Nat := [area, len, from_.1, from_.2.1, from_.2.2, handler, s7.toNat]
  let regs := vals.zipIdx.foldl (fun m e => Store.set 0 m (e.2 + 1) (BitVec.ofNat 64 e.1)) ([] : Store DWord)
  let tid := 32 + slot
  let old := c.thread tid
  let t := { t.modArch fun a => { a with s := regs } with
    sq := old.sq.map fun w => { w with gone := true }, issued := old.issued, floor := s.writes }
  let put (c : Crew) : Crew :=
    { (c.setThread tid t).unpoison tid with
      cpy := c.cpy.orphan tid, mtx := c.mtx.orphan tid, arn := c.arn.orphan tid, msg := c.msg.orphan tid }
  (s.modCrew uid put).applyAll c.core

/-! ### Active messages (R326, R327) -/

/-- The core belongs to the partition (R377, R5). -/
def State.coreIn (s : State) (p : PartRef) (core : Nat) : Bool :=
  let x := core % 8
  let y := core % 64 / 8
  core / 64 == p.ldev && (s.part p).regions.getLsbD (y / 4 * 4 + x / 2)

/-- The destination router's check: the refusal code, or the target crew. -/
def State.sendCheck (s : State) (p : PartRef) (core task crew handler : Nat) : Except Nat Nat :=
  match if s.coreIn p core then s.crewOf p.ldev task crew else none with
  | none => .error 2
  | some u =>
    let c := s.crew u
    let h := s.hdrOf c
    if c.core ≠ core || c.part ≠ p.part || c.st != .running || c.cause.isSome || !c.spawning then .error 2
    else if h.handTbl.getD handler Config.noneAddr == Config.noneAddr || h.hslots = 0 then .error 3
    else .ok u

/-- Add an entry to a router's cellar. -/
def State.park (s : State) (core : Nat) (m : Parked) : State := s.modCore core fun c => { c with cellar := c.cellar ++ [m] }

/-- Release cellar entries of a core. -/
def State.unpark (s : State) (core : Nat) (p : Parked → Bool) : State :=
  s.modCore core fun c => { c with cellar := c.cellar.filter fun m => !p m }

def State.cellarFull (s : State) (core : Nat) : Bool := Config.cellarLen ≤ (s.core core).cellar.length

/-- A payload is read from the sender's scratch: none where it is poisoned (R403). -/
def State.takePayload (s : State) (uid off len : Nat) : Option (List Byte) :=
  if s.poisoned (.scr uid off) len then none else some (s.peekN (.scr uid off) len)

/-- The work of an operation is done; it completes at its completion. -/
def State.opDone (s : State) (o : OpRef) : State := s.modOp o fun p => { p with st := .done }

/-- The payload of a `send` is read and the message arrives: it joins the end of the arrived ones (R324, R327), or stays
with the crew it waits for, where that crew has been SAVED meanwhile (R329). -/
def State.readSend (s : State) (o : OpRef) (op : Op) : State :=
  let d2 := (op.blk.getD 2 0).toNat
  let mine (m : Parked) : Bool := m.sender == some o && m.group.isNone
  let core := ((s.cores.find? fun e => e.2.cellar.any mine).map Prod.fst).getD (bits (op.blk.getD 0 0).toNat 0 8)
  match s.takePayload o.uid (bits (op.blk.getD 3 0).toNat 0 32) (bits d2 8 8) with
  | none => (s.unpark core mine).stopOp o .poison
  | some bs =>
    let fill (m : Parked) : Parked := { m with payload := bs, arrived := true }
    let moved := ((s.core core).cellar.filter mine).map fill
    let saved (c : Crew) : Crew :=
      { c with savedMsgs := c.savedMsgs.map fun m => if mine m then fill m else m }
    let s := s.unpark core mine
    let s := s.modCore core fun c => { c with cellar := c.cellar ++ moved }
    let s := if moved.isEmpty then { s with crews := s.crews.map fun (e : Nat × Crew) => (e.1, saved e.2) } else s
    s.opDone o

def execSend (f : FmtEB) (s : State) : Host.Outcome State Fault Refusal :=
  runWord (msgInfo (Instr.send f) 30) (fun s =>
    let c := s.ccrew
    let d (k : Nat) : Nat := (s.blkS f.sa k).toNat
    let core := bits (d 0) 0 8
    let handler := bits (d 2) 0 4
    let len := bits (d 2) 8 8
    let refuse (n : Nat) : Res := .done (s.wrS f.sd (refusal n))
    if 128 < len then refuse 4
    else match s.scratchBad (bits (d 3) 0 32) len 4 with
      | some e => .trap s e
      | none => match s.sendCheck c.pref core (bits (d 0) 32 32) (bits (d 1) 0 32) handler with
        | .error n => refuse n
        | .ok u =>
          if s.releasedWith.isSome then refuse 1
          else if s.cellarFull core then .block s (.cellar core (bits (d 2) 32 32))
          else acceptCmd s .message Config.messageRoom f.tok none fun s =>
            let (n, s) := s.accept .message (s.newOp 0 f)
            let m : Parked :=
              { sender := some ⟨s.cur.uid, .message, n⟩, core := c.core, task := c.task, crew := c.idx, dest := u
                handler := handler, len := len, payload := [], s7 := 0xFFFFFFFFFFFFFFFF, arrived := false }
            .done ((s.park core m).wrS f.sd (BitVec.ofNat 64 n))) s

/-- The oldest message for a crew in its core's cellar: the first to have arrived, else the first accepted. -/
def State.oldestFor (s : State) (uid : Nat) : Option Parked :=
  let l := (s.core (s.crew uid).core).cellar.filter fun m => m.dest == uid && m.group.isNone
  (l.find? Parked.arrived).or l.head?

/-- Spawn the handler of a cellar message in the lowest open slot; its payload is read now if it has not been (R327). -/
def State.spawnParked (s : State) (uid : Nat) (m : Parked) (slot : Nat) : State :=
  let core := (s.crew uid).core
  let s := match m.sender, m.arrived with
    | some o, false => match s.op? o with
      | some op => s.readSend o op
      | none => s
    | _, _ => s
  let same (x : Parked) : Bool :=
    x.sender == m.sender && x.dest == uid && x.group.isNone && x.handler == m.handler && x.s7 == m.s7
  match (s.core core).cellar.find? fun x => same x && x.arrived with
  | none => s
  | some x =>
    let s := s.modCore core fun c => { c with cellar := c.cellar.erase x }
    s.spawn uid slot x.handler (x.core, x.task, x.crew) x.len x.payload x.s7

/-! ### Consumer groups (R325, R330, R331) -/

def State.group (s : State) (p : PartRef) (gid : Nat) : CGroup := Store.get {} (s.part p).groups gid
def State.modGroup (s : State) (p : PartRef) (gid : Nat) (f : CGroup → CGroup) : State :=
  s.modPart p fun q => { q with groups := Store.set {} q.groups gid (f (Store.get {} q.groups gid)) }

def CGroup.name (g : CGroup) (gid : Nat) : Nat := g.gen * 256 + gid

/-- The group that a name dword names, if it is live at that GEN (R325). -/
def State.groupOf (s : State) (p : PartRef) (name : DWord) : Option Nat :=
  let gid := bits name.toNat 0 6
  let g := s.group p gid
  if g.st == .live && bits name.toNat 6 2 = 0 && g.gen = bits name.toNat 8 24 then some gid else none

def State.ready (s : State) (uid gid : Nat) : Ready := Store.get {} (s.crew uid).ready gid
def State.modReady (s : State) (uid gid : Nat) (f : Ready → Ready) : State :=
  s.modCrew uid fun c => { c with ready := Store.set {} c.ready gid (f (Store.get {} c.ready gid)) }

/-- The core is on the tree of a group. -/
def State.onTree (s : State) (p : PartRef) (tree core : Nat) : Bool :=
  (((s.part p).tree tree).bind fun t => treeNode t core).isSome

/-- The root core of a tree. -/
def State.rootOf (s : State) (p : PartRef) (tree : Nat) : Nat := match (s.part p).tree tree with
  | some t => t.root
  | none => 0

/-- The record of R342 for a group. -/
def CGroup.record (g : CGroup) (root : Nat) : List DWord :=
  let st := match g.st with
    | .free => 0
    | .live => 1
    | .deleting => 2
    | .deleted => 3
  let parked := (g.msgs.filter fun m => m.at_ == .parked).length
  [g.gen * 256 + g.tree * 4 + st, parked + (Store.get {} g.nodes root).total * 65536, g.discarded + g.handed * 2 ^ 32,
    g.bounces + g.parkings * 2 ^ 32].map (BitVec.ofNat 64)

/-- A crew's record of R342 in a group. -/
def Ready.record (r : Ready) : List DWord :=
  [r.amount % 65536 + boolNat r.spawn * 65536 + (r.wpos - r.cpos) * 2 ^ 17 + r.wpos % 2 ^ 32 * 2 ^ 32,
    r.ring + r.cpos % 2 ^ 32 * 2 ^ 32].map (BitVec.ofNat 64)

/-- An ID that `grpnew` may take (R330, R325). -/
def CGroup.isFree (g : CGroup) : Bool := (g.st == .free || g.st == .deleted) && g.gen < 2 ^ 24 - 1

def execGrpnew (f : FmtEB) (s : State) : Host.Outcome State Fault Refusal :=
  runWord (msgInfo (Instr.grpnew f) 31) (fun s =>
    let p := s.ccrew.pref
    let tree := bits (s.blkS f.sa 0).toNat 0 3
    if ((s.part p).tree tree).isNone then .trap s (msgFault .groupInvalid)
    else match (List.range 64).find? fun i => (s.group p i).isFree with
      | none => .done (s.wrS f.sd (refusal 7))
      | some gid =>
        let g := s.group p gid
        let old := if g.st == .deleted then g.record (s.rootOf p g.tree) else []
        let new : CGroup :=
          { st := .live, gen := g.gen + 1, tree := tree, orphanD := s.blkS f.sa 1, orphanC := s.blkS f.sa 2, old := old }
        let s := s.modGroup p gid fun _ => new
        let clear (c : Crew) : Crew :=
          if c.pref == p then
            let old := (Store.get {} c.ready gid).record
            { c with ready := Store.set {} c.ready gid {}, readyOld := Store.set [] c.readyOld gid (if old.all (· == 0) then [] else old) }
          else c
        let s : State := { s with crews := s.crews.map fun e => (e.1, clear e.2) }
        .done (s.wrS f.sd (BitVec.ofNat 64 (new.name gid)))) s

/-- A deleted group with no message left and no operation to complete is DELETED (R331). -/
def CGroup.tryEnd (g : CGroup) : CGroup :=
  if g.st == .deleting && g.msgs.isEmpty && g.delOp.isNone then { g with st := .deleted } else g

def execGrpdel (f : FmtEB) (s : State) : Host.Outcome State Fault Refusal :=
  runWord (msgInfo (Instr.grpdel f) 31) (fun s =>
    let p := s.ccrew.pref
    match s.groupOf p (s.blkS f.sa 0) with
    | none => .trap s (msgFault .groupInvalid)
    | some gid =>
      acceptCmd s .message Config.messageRoom f.tok none fun s =>
        let (n, s) := s.accept .message fun n => { s.newOp 6 f n with st := .running, ref_ := gid }
        let has (r : Ready) : Bool := r.amount != 0 || r.saved != 0
        let members := s.crews.filter fun e => e.2.pref == p && has (Store.get {} e.2.ready gid)
        let s := members.foldl (fun s e => (s.withdraw e.1 gid).modReady e.1 gid fun r => { r with saved := 0 }) s
        let s := s.modGroup p gid fun g => { g with st := .deleting, delOp := some ⟨s.cur.uid, .message, n⟩ }
        .done (s.wrS f.sd (BitVec.ofNat 64 n))) s

/-! ### Readiness (R333, R334) -/

/-- The checks of R333 after the group's: a fault, a refusal code, or nothing. -/
def State.rdyCheck (s : State) (gid n handler ring : Nat) (spawn : Bool) : Option (FaultInfo ⊕ Nat) :=
  let uid := s.cur.uid
  let r := s.ready uid gid
  let h := s.chdr
  let unclaimed := r.wpos - r.cpos
  let absent := h.handTbl.getD handler Config.noneAddr == Config.noneAddr
  let differs := r.spawn != spawn || (if spawn then r.handler != handler else r.ring != ring)
  if n = 0 || (spawn && absent) then some (.inr 4)
  else match if spawn then none else s.scratchBad ring 2560 32 with
    | some e => some (.inl e)
    | none =>
      if (r.amount != 0 || unclaimed != 0) && differs then some (.inr 6)
      else if !spawn && 16 < r.amount + unclaimed + n then some (.inr 5)
      else if spawn && (s.openSlots uid).length < n then some (.inr 5)
      else none

/-- `rdy`. A crew that spawns no more has its SPAWN readiness withdrawn as it is advertised: it adds nothing (R43, log entry 69). -/
def execRdy (f : FmtEB) (s : State) : Host.Outcome State Fault Refusal :=
  runWord (msgInfo (Instr.rdy f) 31) (fun s =>
    let c := s.ccrew
    let p := c.pref
    let n := bits (s.blkS f.sa 1).toNat 0 16
    let mode := (s.blkS f.sa 2).toNat
    let spawn := mode % 2 == 1
    let handler := bits mode 8 4
    let ring := bits (s.blkS f.sa 3).toNat 0 32
    match s.groupOf p (s.blkS f.sa 0) with
    | none => .trap s (msgFault .groupInvalid)
    | some gid =>
      if !s.onTree p (s.group p gid).tree c.core then .trap s (msgFault .groupInvalid)
      else match s.rdyCheck gid n handler ring spawn with
        | some (.inl e) => .trap s e
        | some (.inr k) => .done (s.wrS f.sd (refusal k))
        | none =>
          acceptCmd s .message Config.messageRoom f.tok none fun s =>
            let (num, s) := s.accept .message fun k => { s.newOp 2 f k with st := .done }
            let n := if spawn && !c.spawning then 0 else n
            let take := if spawn then (s.openSlots s.cur.uid).take n else []
            let s := s.modReady s.cur.uid gid fun r =>
              { r with amount := r.amount + n, spawn := spawn, handler := if spawn then handler else r.handler
                       ring := if spawn then r.ring else ring, used := true, slots := r.slots ++ take }
            let s := s.modPart p fun q => q.modNode gid c.core fun x => { x with l := x.l + n }
            .done (s.wrS f.sd (BitVec.ofNat 64 num))) s

def execUnrdy (f : FmtEB) (s : State) : Host.Outcome State Fault Refusal :=
  runWord (msgInfo (Instr.unrdy f) 31) (fun s =>
    match s.groupOf s.ccrew.pref (s.blkS f.sa 0) with
    | none => .trap s (msgFault .groupInvalid)
    | some gid =>
      let n := (s.ready s.cur.uid gid).amount
      .done ((s.withdraw s.cur.uid gid).wrS f.sd (BitVec.ofNat 64 n))) s

/-! ### Steering (R336 to R339) -/

def CGroup.msg? (g : CGroup) (id : Nat) : Option GMsg := g.msgs.find? fun m => m.id == id
def msgPart (m : MsgRef) : PartRef := ⟨m.ldev, m.part⟩
def State.gmsg? (s : State) (m : MsgRef) : Option GMsg := (s.group (msgPart m) m.gid).msg? m.id

def State.modMsg (s : State) (m : MsgRef) (f : GMsg → GMsg) : State :=
  s.modGroup (msgPart m) m.gid fun g => { g with msgs := g.msgs.map fun x => if x.id == m.id then f x else x }

/-- A message leaves the group: its cellar entry at the root is released (R336). -/
def State.dropMsg (s : State) (m : MsgRef) : State :=
  let p := msgPart m
  let root := s.rootOf p (s.group p m.gid).tree
  (s.unpark root fun x => x.group == some m).modGroup p m.gid fun g =>
    { g with msgs := g.msgs.filter fun x => x.id != m.id }.tryEnd

def execAsend (f : FmtEB) (s : State) : Host.Outcome State Fault Refusal :=
  runWord (msgInfo (Instr.asend f) 31) (fun s =>
    let c := s.ccrew
    let p := c.pref
    let d (k : Nat) : Nat := (s.blkS f.sa k).toNat
    let len := bits (d 2) 0 8
    match s.groupOf p (s.blkS f.sa 0) with
    | none => .trap s (msgFault .groupInvalid)
    | some gid =>
      if 128 < len then .done (s.wrS f.sd (refusal 4))
      else match s.scratchBad (bits (d 1) 0 32) len 4 with
        | some e => .trap s e
        | none =>
          let g := s.group p gid
          let root := s.rootOf p g.tree
          if s.releasedWith.isSome then .done (s.wrS f.sd (refusal 1))
          else if s.cellarFull root then .block s (.cellar root (bits (d 3) 32 32))
          else acceptCmd s .message Config.messageRoom f.tok none fun s =>
            let (n, s) := s.accept .message fun k => { s.newOp 1 f k with ref_ := gid }
            let o : OpRef := ⟨s.cur.uid, .message, n⟩
            let start := if s.onTree p g.tree c.core then c.core else root
            let m : GMsg :=
              { id := g.nextId, sender := o, core := c.core, task := c.task, crew := c.idx, ord := d 3 % 2 == 1, len := len
                payload := [], at_ := .up start }
            let hold : Parked :=
              { sender := some o, core := c.core, task := c.task, crew := c.idx, dest := 0, handler := 0, len := len
                payload := [], s7 := 0, arrived := false, group := some ⟨p.ldev, p.part, gid, g.nextId⟩ }
            let s := s.modGroup p gid fun g => { g with msgs := g.msgs ++ [m], nextId := g.nextId + 1 }
            .done ((s.park root hold).wrS f.sd (BitVec.ofNat 64 n))) s

/-- The payload of an `asend` is read (R324); poisoned, the message is withdrawn (R403). -/
def State.readAsend (s : State) (o : OpRef) (op : Op) : State :=
  let p := (s.crew o.uid).pref
  match (s.group p op.ref_).msgs.find? fun m => m.sender == o with
  | none => s.opDone o
  | some m =>
    let r : MsgRef := ⟨p.ldev, p.part, op.ref_, m.id⟩
    match s.takePayload o.uid (bits (op.blk.getD 1 0).toNat 0 32) m.len with
    | none => (s.dropMsg r).stopOp o .poison
    | some bs => (s.modMsg r fun m => { m with payload := bs }).opDone o

/-- Read a message's payload if its operation still holds it. -/
def State.loadMsg (s : State) (m : GMsg) : State := match s.op? m.sender with
  | some op => if op.st == .done then s else s.readAsend m.sender op
  | none => s

/-- The crew of a core that steering picks, rotating by crew slot (R337). -/
def State.pickCrew (s : State) (p : PartRef) (gid core rot : Nat) : Option Nat :=
  let l := s.crews.filter fun e => e.2.pref == p && e.2.core == core && (Store.get {} e.2.ready gid).amount != 0
  let low (l : List (Nat × Crew)) : Option (Nat × Crew) := l.foldl (fun b e => match b with
    | none => some e
    | some x => if e.2.cslot < x.2.cslot then some e else some x) none
  ((low (l.filter fun e => rot ≤ e.2.cslot)).or (low l)).map Prod.fst

/-- A message is assigned to a crew: a ring position or a reserved slot, and the readiness falls (R337, R338). -/
def State.assign (s : State) (m : MsgRef) (uid : Nat) : State :=
  let c := s.crew uid
  let r := s.ready uid m.gid
  let at_ : MsgAt := if r.spawn then .spawn uid (r.slots.headD 0) r.handler else .ring uid r.wpos r.ring
  let s := s.modReady uid m.gid fun r =>
    if r.spawn then { r with amount := r.amount - 1, slots := r.slots.drop 1 }
    else { r with amount := r.amount - 1, wpos := r.wpos + 1 }
  let s := s.modCrew uid fun c => { c with asg := c.asg + 1 }
  let s := s.modPart (msgPart m) fun q => q.modNode m.gid c.core fun n => { n with l := n.l - 1, crewRot := c.cslot + 1 }
  s.modMsg m fun x => { x with at_ := at_, asg := c.asg }

/-- STEER of R337 at a node; `down` says the message came from the parent. -/
def State.steer (s : State) (m : MsgRef) (core : Nat) (down : Bool) : State :=
  let p := msgPart m
  let g := s.group p m.gid
  let n := Store.get {} g.nodes core
  match (s.part p).tree g.tree with
  | none => s
  | some t =>
    let node := (treeNode t core).getD {}
    let up := node.parent
    match if n.l > 0 then s.pickCrew p m.gid core n.crewRot else none with
    | some u => s.assign m u
    | none =>
      let ports := (List.range 5).map fun k => (n.portRot + k) % 5
      let kid (k : Nat) : Option Nat := (node.kids.find? fun e => e.1 == k).map Prod.snd
      match ports.find? fun k => decide (Store.get 0 n.c k > 0) && (kid k).isSome with
      | some k =>
        let s := s.modPart p fun q => q.modNode m.gid core fun n =>
          { n with c := Store.set 0 n.c k (Store.get 0 n.c k - 1), portRot := (k + 1) % 5 }
        s.modMsg m fun x => { x with at_ := .down ((kid k).getD 0) }
      | none => match up with
        | none => s.modMsg m fun x => { x with at_ := .parked }
        | some (parent, port) =>
          if down then
            let s := s.modGroup p m.gid fun g => { g with bounces := g.bounces + 1 }
            s.modMsg m fun x => { x with at_ := .bounced parent port, bounces := x.bounces + 1 }
          else s.modMsg m fun x => { x with at_ := .up parent }

/-- An ORD message is first of its pair's queue (R339). -/
def CGroup.firstOfPair (g : CGroup) (m : GMsg) : Bool :=
  !g.msgs.any fun x => x.ord && x.sender.uid == m.sender.uid && x.sender.num < m.sender.num

/-- The message at the root that may be steered next: the oldest in the group's order (R337). -/
def CGroup.nextAtRoot (g : CGroup) (root : Nat) : Option GMsg :=
  if (Store.get {} g.nodes root).total = 0 || g.st != .live then none
  else
    (g.msgs.filter fun m => m.at_ == .parked && (!m.ord || g.firstOfPair m)).foldl (fun b m => match b with
      | none => some m
      | some x => if m.order.getD 0 < x.order.getD 0 then some m else some x) none

/-- A message reaches the root: it keeps or takes its place in the group's order, and is steered if it may be, else it
is parked (R337, R339). -/
def State.atRoot (s : State) (m : MsgRef) : State :=
  let p := msgPart m
  let root := s.rootOf p (s.group p m.gid).tree
  let n := (s.group p m.gid).nextOrder
  let fresh := ((s.gmsg? m).bind GMsg.order).isNone
  let s := s.modGroup p m.gid fun g => { g with nextOrder := if fresh then g.nextOrder + 1 else g.nextOrder }
  let s := s.modMsg m fun x =>
    { x with order := some (x.order.getD n), at_ := .parked, bounces := if x.bounces < 8 then x.bounces else 0 }
  if ((s.group p m.gid).nextAtRoot root).map GMsg.id == some m.id then s.steer m root false
  else s.modGroup p m.gid fun g => { g with parkings := g.parkings + 1 }

/-- One event of a message's way: arriving at a node, or being released at the root. -/
def State.steerMsg (s : State) (m : MsgRef) : State :=
  let p := msgPart m
  match s.gmsg? m with
  | none => s
  | some x =>
    let s := s.loadMsg x
    let g := s.group p m.gid
    let root := s.rootOf p g.tree
    match x.at_ with
    | .up core =>
      if core = root then s.atRoot m
      else if x.ord then s.modMsg m fun y => { y with at_ := .climbing }
      else s.steer m core false
    | .down core => s.steer m core true
    | .climbing => s.atRoot m
    | .parked => if (g.nextAtRoot root).map GMsg.id == some m.id then s.steer m root false else s
    | _ => s

/-- A bounced message is back at the parent (R337): the child's count is 0, and STEER runs again; an ORD message, and one
that has bounced 8 times, climbs to the root. -/
def State.bounceMsg (s : State) (m : MsgRef) : State :=
  match s.gmsg? m with
  | none => s
  | some x => match x.at_ with
    | .bounced core port =>
      let s := s.modPart (msgPart m) fun q => q.modNode m.gid core fun n => { n with c := Store.set 0 n.c port 0 }
      if x.ord || 8 ≤ x.bounces then s.modMsg m fun y => { y with at_ := .climbing }
      else if core = s.rootOf (msgPart m) (s.group (msgPart m) m.gid).tree then s.atRoot m
      else s.steer m core false
    | _ => s

/-- No message assigned to the crew earlier is still on its way (R338). -/
def State.firstAssigned (s : State) (uid asg : Nat) : Bool :=
  (s.part (s.crew uid).pref).groups.all fun g => g.2.msgs.all fun x => match x.at_ with
    | .ring u _ _ => u != uid || asg ≤ x.asg
    | .spawn u _ _ => u != uid || asg ≤ x.asg
    | _ => true

/-- A message has been delivered: with ORD its acknowledgement is still to come (R339). -/
def State.delivered (s : State) (m : MsgRef) (ord : Bool) : State :=
  if ord then
    let p := msgPart m
    let root := s.rootOf p (s.group p m.gid).tree
    (s.unpark root fun x => x.group == some m).modMsg m fun y => { y with at_ := .unacked }
  else s.dropMsg m

/-- A slot of the receive ring (R340). -/
def ringSlot (x : GMsg) (name pos : Nat) : List Byte :=
  leBytes 8 (x.task * 2 ^ 32 + x.core % 256 * 256 + x.len) ++ leBytes 8 (x.crew % 2 ^ 32) ++
    leBytes 8 ((pos + 1) % 2 ^ 32 * 2 ^ 32 + name) ++ leBytes 8 0 ++ (x.payload ++ List.replicate 128 0).take 128

/-- RECV delivery (R340): the slot is written whole, and a `recv` that has claimed it has done its work. -/
def State.ringWriteMsg (s : State) (m : MsgRef) : State :=
  match s.gmsg? m with
  | none => s
  | some x => match x.at_ with
    | .ring uid pos ring =>
      if !s.firstAssigned uid x.asg then s
      else
        let s := s.loadMsg x
        match s.gmsg? m with
        | none => s
        | some x =>
          let name := (s.group (msgPart m) m.gid).name m.gid
          let s := s.homeWrite none none (.scr uid (ring + 160 * (pos % 16))) (ringSlot x name pos)
          let s := s.modReady uid m.gid fun r => { r with written := pos + 1 }
          let claim (o : Op) : Op :=
            if o.opcode == 4 && o.ref_ == m.gid && o.prog == pos then { o with st := .done } else o
          let s := s.modCrew uid fun c => { c with msg := { c.msg with ops := c.msg.ops.map claim } }
          s.delivered m x.ord
    | _ => s

/-- SPAWN delivery (R338) in the slot reserved for the message. -/
def State.spawnMsg (s : State) (m : MsgRef) : State :=
  match s.gmsg? m with
  | none => s
  | some x => match x.at_ with
    | .spawn uid slot h =>
      let s := s.loadMsg x
      match s.gmsg? m with
      | none => s
      | some x =>
        let name := (s.group (msgPart m) m.gid).name m.gid
        let s := s.spawn uid slot h (x.core, x.task, x.crew) x.len x.payload (BitVec.ofNat 64 name)
        s.delivered m x.ord
    | _ => s

/-- Messages assigned to handler slots of a crew whose turn it is. -/
def State.spawnable (s : State) (uid : Nat) : List MsgRef :=
  let c := s.crew uid
  (s.part c.pref).groups.flatMap fun g => g.2.msgs.filterMap fun x => match x.at_ with
    | .spawn u k _ =>
      if u == uid && s.firstAssigned uid x.asg && (c.thread (32 + k)).st != .running then some ⟨c.ldev, c.part, g.1, x.id⟩
      else none
    | _ => none

/-- Hand a message of a deleted group over, once it is at the root (R331 steps 4 and 5). -/
def State.handover (s : State) (m : MsgRef) : State :=
  let p := msgPart m
  let g := s.group p m.gid
  let root := s.rootOf p g.tree
  match s.gmsg? m with
  | none => s
  | some x =>
    if g.st != .deleting || !(x.at_ == .parked || x.at_ == .climbing || x.at_ == .up root) then s
    else
      let s := s.loadMsg x
      let discard (s : State) : State := (s.modGroup p m.gid fun g => { g with discarded := g.discarded + 1 }).dropMsg m
      match s.gmsg? m with
      | none => s
      | some x =>
        let d := g.orphanD.toNat
        let core := bits d 0 8
        let k := bits g.orphanC.toNat 32 4
        if !g.orphanC.getLsbD 63 then discard s
        else match s.sendCheck p core (bits d 32 32) (bits g.orphanC.toNat 0 32) k with
          | .error _ => discard s
          | .ok u =>
            if s.cellarFull core then s
            else
              let e : Parked :=
                { sender := none, core := x.core, task := x.task, crew := x.crew, dest := u, handler := k, len := x.len
                  payload := x.payload, s7 := BitVec.ofNat 64 (g.name m.gid), arrived := true }
              ((s.park core e).modGroup p m.gid fun g => { g with handed := g.handed + 1 }).dropMsg m

/-! ### recv and msgstat (R341, R342) -/

def execRecv (f : FmtEB) (s : State) : Host.Outcome State Fault Refusal :=
  runWord (msgInfo (Instr.recv f) 31) (fun s =>
    let p := s.ccrew.pref
    let bar := bits (s.blkS f.sa 2).toNat 0 32
    match s.groupOf p (s.blkS f.sa 0) with
    | none => .trap s (msgFault .groupInvalid)
    | some gid => match s.barBad? 7 bar with
      | some e => .trap s e
      | none =>
        let r := s.ready s.cur.uid gid
        if r.wpos ≤ r.cpos then
          if s.releasedWith.isSome then .done (s.wrS f.sd (refusal 9))
          else .block s (.recv gid (bits (s.blkS f.sa 1).toNat 0 32))
        else acceptCmd s .message Config.messageRoom f.tok none fun s =>
          let st : OpSt := if r.cpos < r.written then .done else .running
          let (_, s) := s.accept .message fun n =>
            { s.newOp 4 f n with st := st, ref_ := gid, prog := r.cpos, bar := if bar = noBar then none else some bar }
          let s := s.modReady s.cur.uid gid fun r => { r with cpos := r.cpos + 1 }
          .done (s.wrS f.sd (BitVec.ofNat 64 (r.ring + 160 * (r.cpos % 16))))) s

/-- The record that `msgstat` reads; none is the refusal of kind 3. -/
def State.msgRecord (s : State) (kind : Nat) (name : DWord) : Option (List DWord) :=
  let c := s.ccrew
  let p := c.pref
  let gid := bits name.toNat 0 6
  let gen := bits name.toNat 8 24
  let g := s.group p gid
  let named := bits name.toNat 6 2 = 0
  match kind with
  | 0 =>
    if !named then some []
    else if g.gen = gen && g.st != .free then some (g.record (s.rootOf p g.tree))
    else if bits (g.old.getD 0 0).toNat 8 24 = gen then some g.old
    else some []
  | 1 =>
    if !named then some []
    else if g.gen = gen then some (s.ready s.cur.uid gid).record
    else if bits (g.old.getD 0 0).toNat 8 24 = gen then some (Store.get [] c.readyOld gid)
    else some []
  | 2 =>
    let n := bits name.toNat 0 32
    let r := if c.msg.last < n + 64 then c.msg.record n else noRecord n
    some [BitVec.ofNat 64 (r.opcode * 256 + if r.status < 0xFE then 0 else r.status)]
  | _ => none

def execMsgstat (f : FmtEB) (s : State) : Host.Outcome State Fault Refusal :=
  runWord (msgInfo (Instr.msgstat f) 31) (fun s =>
    match s.msgRecord (bits (s.blkS f.sa 0).toNat 0 2) (s.blkS f.sa 1) with
    | none => .done (s.wrS f.sd (refusal 4))
    | some l => .done (s.wrS f.sd (l.getD (bits (s.blkS f.sa 2).toNat 0 2) 0))) s

/-! ### Collectives (R344 to R349) -/

def State.coll (s : State) (p : PartRef) (id : Nat) : Coll := Store.get {} (s.part p).colls id
def State.modColl (s : State) (p : PartRef) (id : Nat) (f : Coll → Coll) : State :=
  s.modPart p fun q => { q with colls := Store.set {} q.colls id (f (Store.get {} q.colls id)) }

/-- The collective that a name dword names, if it is live at that GEN (R325). -/
def State.collOf (s : State) (p : PartRef) (name : DWord) : Option Nat :=
  let id := bits name.toNat 0 4
  let k := s.coll p id
  if k.live && bits name.toNat 4 4 = 0 && k.gen = bits name.toNat 8 24 then some id else none

/-- What `colnew` refuses as COLLECTIVE_INVALID (R344). -/
def State.colBad (s : State) (c : Crew) (tree : Nat) (members : DWord) (op e timeout res rbar : Nat) : Bool :=
  ((s.part c.pref).tree tree).isNone || members == 0 ||
    ((List.range 64).any fun i => members.getLsbD i && !s.onTree c.pref tree (64 * c.die + i)) ||
    5 < op || e = 0 || 32 < e || timeout = 0 || res % 4 ≠ 0 || (rbar ≠ noBar && rbar % 16 ≠ 0)

def execColnew (f : FmtEB) (s : State) : Host.Outcome State Fault Refusal :=
  runWord (msgInfo (Instr.colnew f) 32) (fun s =>
    let c := s.ccrew
    let p := c.pref
    let d (k : Nat) : Nat := (s.blkS f.sa k).toNat
    let tree := bits (d 0) 0 3
    let op := bits (d 2) 0 3
    let e := bits (d 2) 8 6
    let res := bits (d 3) 0 32
    let rbar := bits (d 3) 32 32
    if s.colBad c tree (s.blkS f.sa 1) op e (bits (d 2) 32 32) res rbar then .trap s (msgFault .collectiveInvalid)
    else
      let (pick, s) := s.choose none (((List.range 16).filter fun i =>
        !(s.coll p i).live && (s.coll p i).gen < 2 ^ 24 - 1).map some)
      match pick with
      | none => .done (s.wrS f.sd (refusal 8))
      | some id =>
        let fabric := ((s.part p).tree tree).any fun t => t.fabric.isSome
        let nth := Store.get 0 (s.part p).colCount tree + boolNat fabric
        let s := s.modPart p fun q => { q with colCount := Store.set 0 q.colCount tree nth }
        let new : Coll :=
          { live := true, nth := nth, gen := (s.coll p id).gen + 1, task := c.task, tree := tree, members := s.blkS f.sa 1, op := op
            e := e, timeoutUs := bits (d 2) 32 32, resOff := res, rbar := BitVec.ofNat 32 rbar }
        .done ((s.modColl p id fun _ => new).wrS f.sd (BitVec.ofNat 64 (new.gen * 256 + id)))) s

/-- A crew's contribution joins the round of index `k` in progress, or opens one; an ended round of `k` is then no longer
its most recent (R345, R348). -/
def Coll.post (c : Coll) (k now : Nat) (q : Post) : Coll :=
  let open_ (r : Round) : Bool := r.k == k && r.ended.isNone
  let forget (r : Round) : Round :=
    if r.k == k && r.ended.isSome then { r with posts := r.posts.filter fun x => x.uid != q.uid } else r
  let rs := (c.rounds.map forget).filter fun r => r.ended.isNone || !r.posts.isEmpty
  { c with rounds := if c.rounds.any open_ then rs.map fun r => if open_ r then { r with posts := r.posts ++ [q] } else r
                     else rs ++ [{ k := k, startNs := now, posts := [q] }] }

def execRedpost (f : FmtEB) (s : State) : Host.Outcome State Fault Refusal :=
  runWord (msgInfo (Instr.redpost f) 32) (fun s =>
    let c := s.ccrew
    let p := c.pref
    let k := bits (s.blkS f.sa 1).toNat 0 16
    let off := bits (s.blkS f.sa 2).toNat 0 32
    match s.collOf p (s.blkS f.sa 0) with
    | none => .trap s (msgFault .collectiveInvalid)
    | some id =>
      let x := s.coll p id
      let size := (s.rdH 0).ent.size
      let bar := x.rbar.toNat
      if !x.members.getLsbD (c.core % 64) || c.task ≠ x.task then .trap s (msgFault .collectiveInvalid)
      else match s.scratchBad off (4 * x.e) 4 with
        | some e => .trap s e
        | none =>
          if size < x.resOff + 4 * x.e then .trap s (s.h0Fault .handleBounds x.resOff)
          else if bar ≠ noBar && size < bar + 16 then .trap s (s.h0Fault .handleBounds bar)
          else
            let live := x.rounds.filter fun r => r.ended.isNone
            let mine := live.find? fun r => r.k == k
            if mine.isNone && 4 ≤ live.length then .block s (.rounds id)
            else acceptCmd s .message Config.messageRoom f.tok none fun s =>
              let again := (mine.map fun r => r.posts.any fun q => q.core == c.core).getD false
              let (n, s) := s.accept .message fun n => { s.newOp 8 f n with ref_ := id, prog := k }
              let s := (s.modColl p id fun x => x.post k s.now ⟨c.core, s.cur.uid, n, [], again⟩).haltRules p
              .done (s.wrS f.sd (BitVec.ofNat 64 n))) s

/-- The words of a contribution are read (R345). -/
def State.readPost (s : State) (o : OpRef) (op : Op) : State :=
  let p := (s.crew o.uid).pref
  let e := (s.coll p op.ref_).e
  match s.takePayload o.uid (bits (op.blk.getD 2 0).toNat 0 32) (4 * e) with
  | none => s.stopOp o .poison
  | some bs =>
    let ws := (List.range e).map fun i => BitVec.ofNat 32 (leNat ((bs.drop (4 * i)).take 4))
    let fill (q : Post) : Post := if q.uid == o.uid && q.num == op.num then { q with words := ws } else q
    (s.modColl p op.ref_ fun c => { c with rounds := c.rounds.map fun r => { r with posts := r.posts.map fill } }).opDone o

/-- What `redwait` writes for a round that has ended (R348). -/
def Round.answer (r : Round) : DWord × DWord :=
  let no (code : Nat) : DWord × DWord := (refusal (code + 256 * boolNat r.remote), r.missing)
  match r.ended with
  | some .timeout => no 9
  | some .aborted => no 10
  | some .peerHalted => no 11
  | _ => (BitVec.ofNat 64 r.k, 0)

/-- The most recent round of index `k` that a crew posted into. -/
def Coll.roundOf (c : Coll) (k uid : Nat) : Option Round :=
  c.rounds.reverse.find? fun r => r.k == k && r.posts.any fun q => q.uid == uid

def execRedwait (f : FmtEB) (s : State) : Host.Outcome State Fault Refusal :=
  runWord (msgInfo (Instr.redwait f) 32) (fun s =>
    let c := s.ccrew
    let k := bits (s.blkS f.sa 1).toNat 0 16
    let give (s : State) (v : DWord × DWord) : Res := .done ((s.wrS f.sd v.1).wrS (f.sd + 1) v.2)
    match s.releasedWith with
    | some v => give s v
    | none => match s.collOf c.pref (s.blkS f.sa 0) with
      | none => .trap s (msgFault .collectiveInvalid)
      | some id => match (s.coll c.pref id).roundOf k s.cur.uid with
        | none => give s (refusal 12, 0)
        | some r =>
          if r.ended.isNone then .block s (.round id k)
          else give (if r.ended == some .ok then (s.applyAll c.core).seeAll s.cur.uid s.cur.tid else s) r.answer) s

/-- A collective is freed: every round ends as ABORTED, and the `redwait`s blocked on it return (R344, R349). -/
def State.freeColl (s : State) (p : PartRef) (id : Nat) : State :=
  let s := s.modPart p fun q => q.endRounds id .aborted fun _ => true
  let x := s.coll p id
  let f (uid : Nat) (y : Slot) : Slot := match y.wait with
    | some (.round i k) => if i == id then match x.roundOf k uid with
        | some r => { y with wait := some (.released r.answer.1 r.answer.2) }
        | none => y
      else y
    | _ => y
  let wake (e : Nat × Crew) : Nat × Crew :=
    if e.2.pref == p then
      (e.1, { e.2 with threads := e.2.threads.map fun t => (t.1, t.2.mapArch fun a => a.mapSlots (f e.1)) })
    else e
  { s with crews := s.crews.map wake }.modColl p id fun c => { gen := c.gen }

def execColabort (f : FmtEB) (s : State) : Host.Outcome State Fault Refusal :=
  runWord (msgInfo (Instr.colabort f) 32) (fun s =>
    let p := s.ccrew.pref
    let d := s.blkS f.sa 1
    let k := bits d.toNat 0 16
    match s.collOf p (s.blkS f.sa 0) with
    | none => .trap s (msgFault .collectiveInvalid)
    | some id =>
      let hit (r : Round) : Bool := r.k == k || d.getLsbD 16 || d.getLsbD 17
      let n := ((s.coll p id).rounds.filter fun r => r.ended.isNone && hit r).length
      let s := s.modPart p fun q => q.endRounds id .aborted hit
      let s := if d.getLsbD 17 then s.freeColl p id else s
      .done (s.wrS f.sd (BitVec.ofNat 64 n))) s

/-! ### Rounds at the nodes (R346) -/

/-- The subtree below a node holds a member: a core, or one of another chip behind port 4 (R346, R350). -/
def holdsMember (t : Config.Tree) (members : DWord) : Nat → Nat → Bool
  | 0, _ => false
  | n + 1, core => members.getLsbD (core % 64) || t.fabric == some (core, false) ||
      ((treeNode t core).getD {}).kids.any fun e => holdsMember t members n e.2

/-- COMBINE of R346 on one element. -/
def combineWord (op : Nat) (x y : Word) : Word :=
  let f (ty k : Nat) : Word := BitVec.ofNat 32 ((atomOp ty k x.toNat y.toNat 0).getD 0)
  match op with
  | 0 => f atF32 0
  | 1 => f atI32 0
  | 2 => f atF32 2
  | 3 => f atF32 1
  | 4 => f atI32 2
  | _ => f atI32 1

def combine (op : Nat) (x y : List Word) : List Word := List.zipWith (combineWord op) x y

/-- The values a node combines, in order: its own, if it is a member, then its children's by port, port 4's remote subtree last;
none while one is missing (R346, R350). -/
def Coll.inputs (c : Coll) (t : Config.Tree) (r : Round) (core : Nat) : Option (List (List Word)) :=
  let own : Option (List (List Word)) :=
    if c.members.getLsbD (core % 64) then
      match r.posts.find? fun q => q.core == core && !q.extra with
      | some q => if q.words.isEmpty then none else some [q.words]
      | none => none
    else some []
  let node := (treeNode t core).getD {}
  let kid (k : Nat) : Option (List (List Word)) := match node.kids.find? fun e => e.1 == k with
    | none => some []
    | some (_, x) =>
      if !holdsMember t c.members t.nodes.length x then some []
      else (r.partials.find? fun e => e.1 == x).map fun e => [e.2]
  let far : Option (List (List Word)) := if t.fabric == some (core, false) then r.far.map fun w => [w] else some []
  ([0, 1, 2, 3].map kid ++ [far]).foldl (fun a b => match a, b with
    | some x, some y => some (x ++ y)
    | _, _ => none) own

/-- The cores that a result goes to. -/
def Coll.memberCores (c : Coll) (ldev : Nat) : List Nat :=
  (List.range 64).filterMap fun i => if c.members.getLsbD i then some (64 * ldev + i) else none

/-- A node forms its partial. The root's is the result, unless port 4 is its parent: then it goes on to the other chips (R346,
R350). -/
def State.partial_ (s : State) (p : PartRef) (id k core : Nat) : State :=
  let c := s.coll p id
  match (s.part p).tree c.tree with
  | none => s
  | some t =>
    let go (r : Round) : Round :=
      if r.k != k || r.ended.isSome || (treeNode t core).isNone || r.partials.any (fun e => e.1 == core) then r
      else match c.inputs t r core with
        | none => r
        | some [] => r
        | some (x :: xs) =>
          let v := xs.foldl (combine c.op) x
          if core == t.root && t.fabric != some (core, true) then
            { r with partials := r.partials ++ [(core, v)], result := some v, left := c.memberCores p.ldev }
          else { r with partials := r.partials ++ [(core, v)] }
    s.modColl p id fun c => { c with rounds := c.rounds.map go }

/-- The fabric gateway of a collective is at port 4 of the core, which leads to its parent or to a child. -/
def State.gateway (s : State) (p : PartRef) (c : Coll) (core : Nat) (up : Bool) : Bool :=
  ((s.part p).tree c.tree).any fun t => t.fabric == some (core, up)

/-- The partial of a remote subtree arrives at the node of its port 4. It belongs to the collective of that number on the fabric
tree, and its index may have no round in progress here yet, which it opens (R350, log entry 71). -/
def State.remotePartial (s : State) (p : PartRef) (id k core nth : Nat) (v : List Word) : State :=
  let c := s.coll p id
  let live := c.rounds.filter fun r => r.ended.isNone
  let mine (r : Round) : Bool := r.k == k && r.ended.isNone
  let fill (r : Round) : Round := if mine r && r.far.isNone then { r with far := some v } else r
  if !c.live || !s.gateway p c core false || c.nth ≠ nth || v.length ≠ c.e then s
  else if live.any mine then s.modColl p id fun c => { c with rounds := c.rounds.map fill }
  else if 4 ≤ live.length then s
  else (s.modColl p id fun c => { c with rounds := c.rounds ++ [{ k := k, startNs := s.now, far := some v }] }).haltRules p

/-- The result of a fabric tree's round comes down to the root through port 4, once the root's partial has gone up (R350). -/
def State.remoteResult (s : State) (p : PartRef) (id k core nth : Nat) (v : List Word) : State :=
  let c := s.coll p id
  let go (r : Round) : Round :=
    if r.k == k && r.ended.isNone && r.result.isNone && r.partials.any (fun e => e.1 == core) then
      { r with result := some v, left := c.memberCores p.ldev }
    else r
  if !c.live || !s.gateway p c core true || c.nth ≠ nth || v.length ≠ c.e then s
  else s.modColl p id fun c => { c with rounds := c.rounds.map go }

/-- A member writes the result and arrives at its barrier; the round ends once every member has (R346, R347). -/
def State.roundResult (s : State) (p : PartRef) (id k core : Nat) : State :=
  let c := s.coll p id
  match c.rounds.find? fun r => r.k == k && r.ended.isNone && r.left.contains core with
  | none => s
  | some r =>
    let uid := ((r.posts.find? fun q => q.core == core).map Post.uid).getD 0
    let m := s.crew uid
    let bs := (r.result.getD []).flatMap fun w => leBytes 4 w.toNat
    if !m.mayFinish && m.st != .killing && m.st != .retired then s
    else
    let s := if !m.mayFinish then s
      else
        let s := s.homeWrite none none (.scr uid c.resOff) bs
        if c.rbar.toNat = noBar then s else (s.arriveBar uid c.rbar.toNat (4 * c.e)).2
    s.modColl p id fun c =>
      { c with rounds := c.rounds.map fun r =>
          if r.k == k && r.ended.isNone then
            let l := r.left.erase core
            { r with left := l, ended := if l.isEmpty then some .ok else none }
          else r }

end Sys2Proof.Machine
end

