-- ==== Sys2Proof/Machine/Sys.lean ====
section
/-! DEFINITION. The SYS class (22): software faults, privileged access, dumps, RESULT, trace marks and the kiln's word. -/

namespace Sys2Proof.Machine

/-- What R80 asks of a SYS word. -/
def sysInfo (i : Instr) (priv : Bool) : WordInfo := { cls := .sys, caps := [33], wf := i.wf, reads := i.reads, priv := priv, old := true }

/-! ### trap, brk, eret (R397, R398) -/

/-- `trap` and `brk`: a release at crew scope, then the fault with the code in INFO. -/
def softFault (i : Instr) (e : Exc) (code : Nat) (s : State) : Host.Outcome State Fault Refusal :=
  runWord (sysInfo i false) (fun s =>
    .trap (s.drainLocal s.cur.uid s.cur.tid) { exc := e, eng := 8, info := BitVec.ofNat 32 code }) s

def execTrap (f : FmtSL) (s : State) : Host.Outcome State Fault Refusal :=
  softFault (Instr.trap f) .softwareTrap f.imm.toNat s

def execBrk (f : FmtSL) (s : State) : Host.Outcome State Fault Refusal :=
  softFault (Instr.brk f) .breakpoint f.imm.toNat s

/-- The slot leaves privileged code for word `j` of the clause at `hdr` (R398). -/
def Slot.returns (x : Slot) (hdr : Word) (j : Nat) : Slot :=
  { x.at hdr with
    word := j, priv := none, inTrap := false }

/-- An armed count starts with the slot's `eret` (R400). -/
def Arch.startSteps (a : Arch) (b : Bool) : Arch :=
  let n := Store.get 0 a.stepArm (boolNat b)
  if n = 0 then a
  else { a with stepArm := Store.set 0 a.stepArm (boolNat b) 0, stepLeft := Store.set 0 a.stepLeft (boolNat b) (n + 1) }

def execEret (f : FmtCR) (s : State) : Host.Outcome State Fault Refusal :=
  runWord (sysInfo (Instr.eret f) true) (fun s =>
    let x := s.rdS f.sa
    let hdr := BitVec.ofNat 32 (bits x.toNat 32 32)
    let s := (s.indirectPacket hdr).clauseEnd s.pair
    .placed ((s.modCSlot fun y => y.returns hdr (bits x.toNat 12 4)).modCArch (Arch.startSteps · s.cur.slotB))) s

/-! ### Privileged registers (R399) -/

def SlotSt.code : SlotSt → Nat
  | .empty => 0
  | .ready => 1
  | .blocked => 2
  | .joinwait => 3

def SlotSt.ofCode (n : Nat) : SlotSt := match n % 4 with
  | 0 => .empty
  | 1 => .ready
  | 2 => .blocked
  | _ => .joinwait

/-- A field of a slot as `prd` numbers them; of a slot in privileged code, the tenant's place it left. -/
def Slot.field (x : Slot) (k : Nat) : Nat := match k with
  | 0 => x.st.code
  | 1 => if x.priv.isSome then x.retPc.toNat * 2 ^ 32 + x.retWord * 2 ^ 12 else x.pc.toNat * 2 ^ 32 + x.word * 2 ^ 12
  | 2 => x.mask.toNat
  | 3 => x.depth
  | 4 => x.rpcn.toNat
  | 5 => x.rcv.toNat
  | 6 => x.divid
  | 7 => x.fmt.toNat
  | _ => x.age

def Slot.setField (x : Slot) (k v : Nat) : Slot := match k with
  | 0 => { x with st := SlotSt.ofCode v }
  | 1 =>
    if x.priv.isSome then { x with retPc := BitVec.ofNat 32 (bits v 32 32), retWord := bits v 12 4 }
    else { x with pc := BitVec.ofNat 32 (bits v 32 32), word := bits v 12 4, started := false }
  | 2 => { x with mask := BitVec.ofNat 32 v }
  | 3 => { x with depth := v % 256 }
  | 4 => { x with rpcn := BitVec.ofNat 32 v }
  | 5 => { x with rcv := BitVec.ofNat 32 v }
  | 6 => { x with divid := v % 65536 }
  | 7 => { x with fmt := BitVec.ofNat 32 (v % 2 ^ 24) }
  | _ => { x with age := v % 512 }

/-- A privileged register of a thread. -/
def State.privReg (s : State) (uid tid n : Nat) : DWord :=
  let c := s.crew uid
  let t := c.thread tid
  let a := t.arch
  let w (v : Nat) : DWord := BitVec.ofNat 64 v
  if n < 0x40 then Store.get 0 a.s n
  else if n < 0x48 then w (a.pred (n - 0x40)).toNat
  else if n < 0x68 then (Store.get {} a.h ((n - 0x48) / 4)).ent.dw ((n - 0x48) % 4)
  else if n < 0x70 then
    let h := Store.get {} a.h (n - 0x68)
    w (h.idx.toNat + boolNat h.stale * 2 ^ 63)
  else if n < 0x78 then
    let k := t.token (n - 0x70)
    w (boolNat k.set + k.cnt * 16)
  else if 0x80 ≤ n && n ≤ 0x88 then w (a.a.field (n - 0x80))
  else if 0x90 ≤ n && n ≤ 0x98 then w (if isLead tid then 0 else a.b.field (n - 0x90))
  else if n = 0xA0 then w a.divctr
  else if n = 0xA1 then a.trec.d0
  else if n = 0xA2 then a.trec.d1
  else if n = 0xA3 then a.trec.d2
  else if n = 0xA4 then a.trec.d3
  else if n = 0xA5 then w (boolNat a.a.inTrap + 2 * boolNat (a.b.inTrap && !isLead tid))
  else if n = 0xA6 then w a.cause
  else if 0xB0 ≤ n && n ≤ 0xB3 then w (Store.get 0 t.flIssued (n - 0xB0) + 1)
  else if n = 0xC0 then w (if isLead tid then c.dqBase + c.dq.length else t.dqPos)
  else 0

/-- STALE of a restored handle register (R296): its GEN differs from its arena's. -/
def State.staleCopy (s : State) (p : PartRef) (e : HEntry) : Bool :=
  e.space != 0 && e.space != 5 && e.valid && (s.arena (e.arenaRef p)).gen != e.gen

/-- The bits of a trap record's dword that are no reserved field (R393); those read 0 (R8). -/
def trecBits : Nat → DWord
  | 0 => 0xFFFFFFFF000FF0FF
  | 1 => 0xFFFFFFFFFC0FFFFF
  | 2 => 0xFFFFFFFFFFFFFFFF
  | _ => 0xF0000000FFFFFFFF

/-- Write a privileged register of a thread; an s register or a predicate written so holds no poison (R403). -/
def State.setPrivReg (s : State) (uid tid n : Nat) (v : DWord) : State :=
  let c := s.crew uid
  let m := v.toNat
  let arch (f : Arch → Arch) : State := s.modArch uid tid f
  let hreg (i : Nat) (f : HReg → HReg) : State :=
    arch fun a => { a with h := Store.set {} a.h i (f (Store.get {} a.h i)) }
  let clean (k : Nat) (s : State) : State :=
    s.modCrew uid fun c => { c with regPoison := Store.set false c.regPoison (regKey tid k) false }
  if n < 0x40 then clean n (arch fun a => { a with s := Store.set 0 a.s n v })
  else if n = 0x40 then s
  else if n < 0x48 then clean (64 + (n - 0x40)) (arch fun a => { a with p := Store.set 0 a.p (n - 0x40) (v.setWidth 32) })
  else if n < 0x68 then hreg ((n - 0x48) / 4) fun h => { h with ent := h.ent.setDw ((n - 0x48) % 4) v }
  else if n < 0x70 then hreg (n - 0x68) fun h => { h with idx := v.setWidth 20, stale := s.staleCopy c.pref h.ent }
  else if n < 0x78 then
    s.modThread uid tid fun t => { t with toks := Store.set {} t.toks (n - 0x70) ⟨v.getLsbD 0, bits m 4 4⟩ }
  else if 0x80 ≤ n && n ≤ 0x88 then arch fun a => { a with a := a.a.setField (n - 0x80) m }
  else if 0x90 ≤ n && n ≤ 0x98 then
    if isLead tid then s else arch fun a => { a with b := a.b.setField (n - 0x90) m }
  else if n = 0xA0 then arch fun a => { a with divctr := m % 65536 }
  else if n = 0xA1 then arch fun a => { a with trec := { a.trec with d0 := v &&& trecBits 0 } }
  else if n = 0xA2 then arch fun a => { a with trec := { a.trec with d1 := v &&& trecBits 1 } }
  else if n = 0xA3 then arch fun a => { a with trec := { a.trec with d2 := v &&& trecBits 2 } }
  else if n = 0xA4 then arch fun a => { a with trec := { a.trec with d3 := v &&& trecBits 3 } }
  else if n = 0xA5 then arch fun a =>
    { a with a := { a.a with inTrap := v.getLsbD 0 }, b := { a.b with inTrap := v.getLsbD 1 && !isLead tid } }
  else if n = 0xA6 then arch fun a => { a with cause := m }
  else if 0xB0 ≤ n && n ≤ 0xB3 then
    s.modThread uid tid fun t => { t with flIssued := Store.set 0 t.flIssued (n - 0xB0) (m - 1) }
  else if n = 0xC0 then
    if isLead tid then s.modCrew uid fun c => { c with dqBase := m - c.dq.length }
    else s.modThread uid tid fun t => { t with dqPos := m }
  else s

def execPrd (f : FmtSL) (s : State) : Host.Outcome State Fault Refusal :=
  runWord (sysInfo (Instr.prd f) true) (fun s => .done (s.wrS f.sd (s.privReg s.cur.uid s.cur.tid f.imm.toNat))) s

def execPwr (f : FmtSL) (s : State) : Host.Outcome State Fault Refusal :=
  runWord (sysInfo (Instr.pwr f) true) (fun s =>
    .done (s.setPrivReg s.cur.uid s.cur.tid f.imm.toNat (s.rdS f.sd))) s

/-- `sstep` arms stepping for the slot's next `eret` (R400); 0 disarms it. -/
def execSstep (f : FmtSL) (s : State) : Host.Outcome State Fault Refusal :=
  runWord (sysInfo (Instr.sstep f) true) (fun s =>
    let n := f.imm.toNat
    let k := boolNat s.cur.slotB
    .done (s.modCArch fun a =>
      { a with stepArm := Store.set 0 a.stepArm k n, stepLeft := if n = 0 then Store.set 0 a.stepLeft k 0 else a.stepLeft })) s

/-! ### capmask, tmark, respost, dump, kiln -/

def execCapmask (f : FmtCQ) (s : State) : Host.Outcome State Fault Refusal :=
  runWord (sysInfo (Instr.capmask f) false) (fun s => .done (s.wrS f.sd (s.core s.ccrew.core).mask)) s

def execTmark (f : FmtSL) (s : State) : Host.Outcome State Fault Refusal :=
  runWord (sysInfo (Instr.tmark f) false) (fun s =>
    .done (s.packet s.cur.uid s.cur.tid 5 (boolNat s.cur.slotB)
      (leBytes 3 f.imm.toNat ++ leBytes 8 (s.rdS f.sd).toNat))) s

def execRespost (f : FmtCR) (s : State) : Host.Outcome State Fault Refusal :=
  runWord (sysInfo (Instr.respost f) false) (fun s =>
    let v := s.rdS f.sa
    let c := s.ccrew
    let s := s.drainAll s.cur.uid s.cur.tid
    .done (s.modTask c.ldev c.task fun t => { t with result := some v })) s

/-- `dump` (R409): the range is checked, the crew stops, and the pair stands suspended until the dump is written; while the
crew is stopped already the pair waits for the end of that stop. -/
def execDump (f : FmtEB) (s : State) : Host.Outcome State Fault Refusal :=
  runWord (sysInfo (Instr.dump f) false) (fun s =>
    let a := s.blkS f.sa 0
    let n := bits (s.blkS f.sa 1).toNat 0 32
    match s.releasedWith with
    | some v => .done (s.wrS f.sd v.1)
    | none => withHandles s [addrReg a] fun s => match s.rangeBad 8 { hn := addrReg a, off := addrOffset a, n := n, wr := true } with
      | some e => .trap s e
      | none =>
        if s.ccrew.stop.isSome then .block s .stopped
        else
          let w : Wait := .dump (s.rdH (addrReg a)) (addrReg a) (addrOffset a) n (bits (s.blkS f.sa 2).toNat 0 7)
          let code := (Config.freeByte s.freeCtr).toNat
          .block (({ s with freeCtr := s.freeCtr + 1 } : State).stopCrew s.pair .dump code 0 0) w) s

/-- Classes that no fence takes, and bits that are no class (R404, R405). -/
def neverFenced (k : Nat) : Bool := k == 0 || k == 2 || k == 11 || 33 ≤ k

def kilnKey (core k : Nat) : Nat := 64 * core + k
def State.kilnOf (s : State) (core k : Nat) : KilnPair := Store.get {} s.kiln (kilnKey core k)
def State.modKiln (s : State) (core k : Nat) (f : KilnPair → KilnPair) : State :=
  { s with kiln := Store.set {} s.kiln (kilnKey core k) (f (s.kilnOf core k)) }

def execKiln (f : FmtEB) (s : State) : Host.Outcome State Fault Refusal :=
  runWord (sysInfo (Instr.kiln f) true) (fun s =>
    let core := bits (s.blkS f.sa 0).toNat 0 8
    let k := bits (s.blkS f.sa 1).toNat 0 6
    let give (s : State) (n : Nat) : Res := .done (s.wrS f.sd (BitVec.ofNat 64 n))
    if core / 64 ≠ s.ccrew.ldev || neverFenced k then give s 1
    else if (s.kilnOf core k).st == .fenced then give s 2
    else
      let fence := (s.blkS f.sa 2).getLsbD 0
      give (s.modKiln core k fun x =>
        { x with st := if fence then .fenced else .suspect, since := s.now, draining := fence }) 0) s

end Sys2Proof.Machine
end

