-- ==== Sys2Proof/Machine/GroupEv.lean ====
section
/-! DEFINITION. Steps of the groups that no word encodes: resuming (R61), the replay window (R120, R401, R402), swaps
(R127, R128), delivery of faults (R391, R395), limits of waiting words (R61), stops (R415, R416), and poison (R403). -/

namespace Sys2Proof.Machine

/-- The answer of a step that has no effect now. -/
def still (s : State) : Host.Outcome State Fault Refusal := .next s

/-- The answer of a step that acts where `on` holds. -/
def when_ (on : Bool) (s t : State) : Host.Outcome State Fault Refusal := .next (if on then t else s)

/-- The crew runs its pairs: it is not being pre-empted, stopped or killed. -/
def Crew.goes (c : Crew) : Bool := c.st == .running && c.cause.isNone && c.stop.isNone

/-- The thread is running. -/
def State.runs (s : State) (uid tid : Nat) : Bool := (s.thread uid tid).st == .running

/-! ### Resuming a suspended pair (R61, R128) -/

/-- A pair whose word could proceed is READY again and reissues it; a fault that waited for the other slot is taken now
(R392). -/
def State.resume (s : State) (p : PairRef) : State :=
  let x := s.slot p
  match x.wait with
  | some (.trapClear f) => (s.drainWindow p.uid p.tid).take p f x.pc x.word
  | _ => s.modSlot p fun x => { if s.waitOver x && !s.canResume p.uid p.tid p.slotB x then x.expire else x with st := .ready }

/-- The pair stands suspended, and what it waits for has come or its time is up. -/
def State.wakes (s : State) (p : PairRef) : Bool :=
  let x := s.slot p
  x.st == .blocked && (s.canResume p.uid p.tid p.slotB x || s.waitOver x)

def execBlockedWordResume (p : PairRef) (s : State) : Host.Outcome State Fault Refusal :=
  let x := s.slot p
  let c := s.crew p.uid
  if x.st == .empty then .next (if c.goes then s.refreshBlk p.uid p.tid else s)
  else when_ (c.goes && s.runs p.uid p.tid && s.wakes p) s (s.resume p)

/-! ### The replay window -/

/-- The oldest word of a window has stood there for D cycles. -/
def Thread.retires (t : Thread) (cyc : Nat) : Bool := match t.window.head? with
  | some e => decide (e.cyc + Config.dCycles ≤ cyc)
  | none => false

def execWindowRetire (t : ThreadRef) (s : State) : Host.Outcome State Fault Refusal :=
  when_ ((s.thread t.uid t.tid).retires s.cycles) s
    (s.modThread t.uid t.tid fun x => { x with window := x.window.drop 1 })

/-- A thread discards its window and its held plain stores, and goes back to the oldest word of the window (R121). -/
def Thread.replay (t : Thread) : Thread :=
  match t.window.head? with
  | none => t
  | some e =>
    { t with arch := e.before, window := [], issued := e.no
             sq := t.sq.filter fun w => w.kind != .store || w.at_ < e.no
             fence := match t.fence with
               | some (k, m) => if e.no ≤ m then none else some (k, m)
               | none => none }

/-- Every thread of a core replays (R401); a matrix operation in progress re-executes a boundary, which only REEXEC shows
(R285). -/
def Crew.replay (c : Crew) : Crew :=
  let gone (h : HeldPacket) : Bool := !c.isFinal h
  { c with threads := c.threads.map fun e => (e.1, e.2.replay)
           trace := { c.trace with held := c.trace.held.filter fun h => !gone h }
           reexec := if c.mtx.ops.any c.mtxReady then c.reexec + 1 else c.reexec }

def State.replayCore (s : State) (core : Nat) : State :=
  { s with crews := s.crews.map fun e => if e.2.core == core && e.2.st != .retired then (e.1, e.2.replay) else e }

def execStrike (cores : List Nat) (s : State) : Host.Outcome State Fault Refusal :=
  .next (cores.foldl State.replayCore s)

/-- A residue event of a class on a core (R402, R407): the third within one second makes the pair SUSPECT. A mismatch is one
event of every class of its word. -/
def KilnPair.event (x : KilnPair) (now : Nat) : KilnPair :=
  let l := now :: x.events.filter fun t => now ≤ t + 1000000000
  if x.st == .clear && 3 ≤ l.length then { x with st := .suspect, events := l, since := now } else { x with events := l }

def State.residueEvents (s : State) (core : Nat) (caps : List Nat) : State :=
  caps.eraseDups.foldl (fun s k => s.modKiln core k fun x => x.event s.now) s

/-- Capability classes of an accepted matrix operation (R404). -/
def Op.mtxCaps (o : Op) : List Nat :=
  let ab := capFmt (fmtA o.fmt) ++ capFmt (fmtB o.fmt)
  match o.opcode with
  | 3 => ab
  | 4 => 21 :: ab
  | 5 => 20 :: ab
  | 6 => [22]
  | 7 => if 3 ≤ fmtD o.fmt || (o.tcopy && 3 ≤ fmtQ o.fmt) then [23, 24] else [23]
  | _ => [25]

/-- The words of a thread before issue number `n` stand as they have executed again: the window ends before that word, and no
store of it or of a later one is held. -/
def Thread.stopAt (t : Thread) (n : Nat) (before : Arch) : Thread :=
  { t with arch := before, window := t.window.filter fun e => e.no < n, issued := n
           sq := t.sq.filter fun w => w.kind != .store || w.at_ < n
           fence := t.fence.filter fun f => f.2 < n }

/-- A residue mismatch (R402, R285): the core replays, the classes count an event, and the third in a row on one word or
one boundary is RESIDUE_PERSISTENT. The words before a word that faults so have executed again. -/
def execResidueMismatch (site : ResidueSite) (s : State) : Host.Outcome State Fault Refusal :=
  match site with
  | .word t k =>
    let x := s.thread t.uid t.tid
    match x.window[k]? with
    | none => still s
    | some e =>
      let core := (s.crew t.uid).core
      let n := if x.residueNo = e.no then x.residue + 1 else 1
      let u := (s.replayCore core).residueEvents core e.caps
      if n < 3 then .next (u.modThread t.uid t.tid fun x => { x with residue := n, residueNo := e.no })
      else
        let u := u.modThread t.uid t.tid fun _ => { x.stopAt e.no e.before with residue := 0 }
        .next ((u.drainWindow t.uid t.tid).take ⟨t.uid, t.tid, e.slotB⟩ { exc := .residuePersistent, eng := e.eng } e.hdr e.word)
  | .matrix uid num =>
    let o : OpRef := ⟨uid, .matrix, num⟩
    match s.op? o with
    | none => still s
    | some op =>
      if !s.mtxReady o op then still s
      else
        let s := s.residueEvents (s.crew uid).core op.mtxCaps
        if op.residue + 1 < 3 then
          .next ((s.modCrew uid fun c => { c with reexec := c.reexec + 1 }).modOp o fun p => { p with residue := p.residue + 1 })
        else .next (s.failOp o { exc := .residuePersistent, eng := 4 })

/-! ### Ageing (R127) -/

/-- Some spilled fragment has waited 256 opportunities, and a resident slot can make room: the entry and the slot. The swap
comes at the end of an opportunity, when neither slot is inside a clause that it issues. -/
def Arch.swapDue (a : Arch) : Option (Nat × Slot × Bool) :=
  let e := a.oldest fun x blk => !blk && x.st != .joinwait && 256 ≤ x.age
  let free (b : Bool) : Bool :=
    let x := a.slot b
    (x.st == .ready || x.st == .joinwait) && !x.started && x.issuedHere
  let b? : Option Bool := match free false, free true with
    | true, true => some (decide (a.b.age ≤ a.a.age))
    | true, false => some false
    | false, true => some true
    | false, false => none
  match e, b? with
  | some (k, x), some b => if a.a.holds || a.b.holds then none else some (k, x, b)
  | _, _ => none

/-- The swap: the entering fragment ranks as having waited longest. -/
def Arch.ageSwap (a : Arch) : Arch :=
  match a.swapDue with
  | none => a
  | some (k, x, b) =>
    let y := a.slot b
    (a.setSlot b { x.enters y with lastIssue := 0 }).setEntry k (.frag { y with age := 0 } false)

def Slot.older (x : Slot) : Slot := { x with age := min 511 (x.age + 1) }

/-- AGE of the spilled fragments counts one opportunity. -/
def Arch.ageFrags (a : Arch) : Arch :=
  let f (e : CEntry) : CEntry := match e with
    | .frag x blk => .frag (if blk || x.st == .joinwait then x else x.older) blk
    | y => y
  { a with cstk := a.cstk.map fun e => (e.1, f e.2) }

/-- AGE counts of an issue opportunity in which slot `b` issues. -/
def Arch.countAge (a : Arch) (b : Bool) : Arch :=
  let other := a.slot (!b)
  (a.ageFrags.modSlot b fun x => { x with age := 0 }).setSlot (!b) (if other.st == .ready then other.older else other)

def execAgeSwap (t : ThreadRef) (s : State) : Host.Outcome State Fault Refusal :=
  let x := s.thread t.uid t.tid
  when_ (x.st == .running && !x.swapped && x.arch.swapDue.isSome) s
    (s.modThread t.uid t.tid fun x => { x with swapped := true, arch := x.arch.ageSwap })

/-! ### Starvation swaps (R128) -/

/-- The slot a starvation swap takes: the one that has been BLOCKED longest, slot B on ties. -/
def Arch.starved (a : Arch) : Option Bool :=
  match a.a.st == .blocked, a.b.st == .blocked with
  | true, true => some (decide (a.b.blockedCyc ≤ a.a.blockedCyc))
  | true, false => if a.b.st == .ready then none else some false
  | false, true => if a.a.st == .ready then none else some true
  | false, false => none

/-- The three conditions of R128 hold: the entry and slot of a starvation swap. -/
def Arch.starving (a : Arch) : Option (Nat × Slot × Bool) :=
  match a.starved, a.oldest fun x blk => !blk && x.st != .joinwait with
  | some b, some (k, x) => some (k, x, b)
  | _, _ => none

/-- Note since when they have held. -/
def Arch.starveMark (a : Arch) (cyc : Nat) : Arch :=
  { a with starveCyc := if a.starving.isSome then some (a.starveCyc.getD cyc) else none }

/-- They have held for 64 cycles in a row. -/
def Arch.starveDue (a : Arch) (cyc : Nat) : Option (Nat × Slot × Bool) := match a.starveCyc with
  | some c => if c + 64 ≤ cyc then a.starving else none
  | none => none

/-- The swap (R128). The entering fragment keeps its AGE: whether the swap's own opportunity ages it is open (log entry 40). -/
def Arch.starveSwap (a : Arch) (cyc : Nat) : Arch :=
  match a.starveDue cyc with
  | none => a
  | some (k, x, b) =>
    let y := a.slot b
    { ((a.setEntry k .free).ageFrags.setSlot b (x.enters y)).setEntry k (.frag { y with age := 0 } true) with starveCyc := none }

/-- A thread's entries whose words could proceed lose BLK, and a starvation swap is made if one is due. -/
def execStarvationSwap (t : ThreadRef) (s : State) : Host.Outcome State Fault Refusal :=
  let s' := (s.refreshBlk t.uid t.tid).modArch t.uid t.tid fun a => a.starveMark s.cycles
  let x := s'.thread t.uid t.tid
  when_ (x.st == .running) s
    (if (x.arch.starveDue s.cycles).isNone then s'
    else s'.modThread t.uid t.tid fun x => { x with swapped := false, arch := x.arch.starveSwap s.cycles })

/-! ### Delivery of late and asynchronous faults (R391, R392) -/

/-- The faults that wait at a slot. -/
def Thread.pendOf (t : Thread) (b : Bool) : List FaultInfo := if b then t.pendB else t.pendA

/-- The slot stands at a clause boundary: before a clause's first word, or suspended there. A pair that has yielded to a copy
is held until that has completed (R237). -/
def Slot.atBoundary (x : Slot) : Bool :=
  !x.started && x.word == 0 && (x.st == .ready || (x.st == .blocked && match x.wait with
    | some (.copyYield _) => false
    | _ => true))

/-- Deliver the first fault that waits at a slot: it names the clause at whose boundary it is delivered. -/
def State.deliver (s : State) (p : PairRef) : State :=
  match (s.thread p.uid p.tid).pendOf p.slotB with
  | [] => s
  | f :: _ =>
    let s := s.modThread p.uid p.tid fun t =>
      if p.slotB then { t with pendB := t.pendB.drop 1 } else { t with pendA := t.pendA.drop 1 }
    (s.drainWindow p.uid p.tid).take p f (s.slot p).pc 0

def execTrapDelivery (p : PairRef) (s : State) : Host.Outcome State Fault Refusal :=
  let x := s.slot p
  let waits := match x.wait with
    | some (.trapClear _) => true
    | some .halted => true
    | _ => false
  when_ ((s.crew p.uid).goes && s.runs p.uid p.tid && x.atBoundary && x.priv.isNone && !waits) s (s.deliver p)

/-- WATCHDOG (R395): the pair has stood suspended at one word for longer than the partition's limit. -/
def State.watchdogDue (s : State) (p : PairRef) : Bool :=
  let c := s.crew p.uid
  let x := s.slot p
  let ms := (s.part c.pref).watchdogMs
  let atWord := x.st == .joinwait || (x.st == .blocked && match x.wait with
    | some (.trapClear _) => false
    | some .halted => false
    | some (.page _ _ _) => true
    | _ => x.started)
  ms != 0 && c.goes && s.runs p.uid p.tid && atWord && x.priv.isNone &&
    (s.part c.pref).wdPausedAt.isNone && ms * 1000000 < s.now - x.wdSince

/-- A waiting `join` that faults has no effect: its fragment has not arrived (R137, R395). -/
def Arch.unjoin (a : Arch) (b : Bool) : Arch :=
  let x := a.slot b
  if x.st != .joinwait then a
  else match a.findDiv x.divid with
    | none => a
    | some (k, e) => a.setEntry k (.div { e with arrived := e.arrived &&& ~~~x.mask, pending := e.pending + 1 })

def execWatchdogExpiry (p : PairRef) (s : State) : Host.Outcome State Fault Refusal :=
  let x := s.slot p
  let eng := if x.started || x.st == .joinwait then (x.hw.extractLsb' 24 4).toNat else 0
  when_ (s.watchdogDue p) s
    (((s.drainWindow p.uid p.tid).modArch p.uid p.tid (Arch.unjoin · p.slotB)).take p { exc := .watchdog, eng := eng } x.pc x.word)

/-! ### Limits of waiting words (R61) -/

/-- The limit of a pair's suspended word has passed: the word is released. -/
def execLimit (p : PairRef) (s : State) : Host.Outcome State Fault Refusal :=
  let x := s.slot p
  when_ (x.st == .blocked && s.waitOver x) s (s.modSlot p Slot.expire)

def execCellarLimit (p : PairRef) (s : State) : Host.Outcome State Fault Refusal :=
  match (s.slot p).wait with
  | some (.cellar _ _) => execLimit p s
  | _ => still s

def execRecvLimit (p : PairRef) (s : State) : Host.Outcome State Fault Refusal :=
  match (s.slot p).wait with
  | some (.recv _ _) => execLimit p s
  | _ => still s

def execTlwaitLimit (p : PairRef) (s : State) : Host.Outcome State Fault Refusal :=
  match (s.slot p).wait with
  | some (.timeline _ _ _) => execLimit p s
  | _ => still s

/-! ### Words without a meaning (R81) -/

def execReservedOpcodeWord (c : Cls) (w : Word) (s : State) : Host.Outcome State Fault Refusal :=
  if !s.issuerReady then .fault .noIssuer
  else when_ (decode c w).isNone s (s.faultWord { exc := .illegalInstruction, eng := engOfCls c })

/-! ### Poison (R403) -/

/-- A pair of the thread stands at a word that would read poisoned bytes. -/
def Arch.eatsPoison (a : Arch) : Bool :=
  [a.a, a.b].any fun x => x.st == .blocked && x.wait == some .poison

def execPoisonConsume (t : ThreadRef) (s : State) : Host.Outcome State Fault Refusal :=
  when_ (s.arch t.uid t.tid).eatsPoison s (s.killConsumer t.uid t.tid)

/-- A register of a thread becomes poisoned, by its key. -/
def State.spoil (s : State) (uid key : Nat) : State :=
  s.modCrew uid fun c => { c with regPoison := Store.set false c.regPoison key true }

/-- A scratch or memory byte, a register lane, a scalar, predicate or handle register, or a tile word becomes poisoned (R403). -/
def execUncorrectableError (site : EccSite) (s : State) : Host.Outcome State Fault Refusal :=
  match site with
  | .mem a => .next { s with poison := Store.set false s.poison a true }
  | .scratch uid off => .next (s.modCrew uid fun c => { c with scrPoison := Store.set false c.scrPoison off true })
  | .vreg t reg lane => .next (s.spoil t.uid (regOff t.tid reg lane))
  | .sreg t n => .next (s.spoil t.uid (regKey t.tid n))
  | .preg t n => .next (s.spoil t.uid (regKey t.tid (64 + n)))
  | .hreg t n => .next (s.spoil t.uid (regKey t.tid (128 + n)))
  | .tile uid k => .next (s.modCrew uid fun c => { c with tilePoison := Store.set false c.tilePoison k true })

/-! ### Breakpoints (R414, R415) -/

/-- Breakpoints that match a clause header of a pair. -/
def Crew.bpHits (c : Crew) (p : PairRef) (pc : Word) : Word :=
  laneMask fun n =>
    let v := Store.get 0 c.bp n
    n < 8 && v.getLsbD 31 && bits v.toNat 32 32 == pc.toNat &&
      (!v.getLsbD 30 || bits v.toNat 24 6 == p.tid) && (!v.getLsbD 23 || v.getLsbD 22 == p.slotB)

end Sys2Proof.Machine
end

