-- ==== Sys2Proof/Machine/Fetch.lean ====
section
/-! DEFINITION. Choosing and fetching: which pairs may issue (R44, R61, R66), the clause header and the words of a clause
(R54 to R58, R62 to R64), what happens at a clause boundary (R391, R415, R127, R426), and ageing (R127). -/

namespace Sys2Proof.Machine

/-! ### The code object (R63, R86) -/

/-- The device whose memory holds the code that a slot runs. -/
def State.codeDev (s : State) (c : Crew) (x : Slot) : Nat := if x.priv.isSome then s.fw.ldev else c.ldev

/-- The code object that a slot runs from. -/
def State.codeOf (s : State) (c : Crew) (x : Slot) : HEntry := if x.priv.isSome then s.fw.code else (s.taskOf c).code

/-- What fetching the word at offset `off` of a code object gives. -/
inductive CodeWord where
  | word (w : Word)
  | bad (f : FaultInfo)
  | page (ldev page : Nat) (f : FaultInfo)
deriving DecidableEq, Repr

/-- Fetch a word (R63): inside the object, its arena not dropped as the core's L1 knows it, its page mapped. A fault names the code
handle. -/
def State.fetchWord (s : State) (c : Crew) (x : Slot) (eng off : Nat) : CodeWord :=
  let e := s.codeOf c x
  let d := s.codeDev c x
  let idx := BitVec.ofNat 20 (s.hdrOf c).codeh
  let f (k : Exc) : FaultInfo := { exc := k, eng := eng, code := true, hindex := idx, offset := BitVec.ofNat 64 off }
  let bad (k : Exc) : CodeWord := .bad (f k)
  if e.size < off + 4 then bad .handleBounds
  else if x.priv.isNone && (s.step5 c.pref e false false c.core).isSome then bad .arenaStale
  else match s.missingPage d e off 4 with
    | some (a, b) => .page a b (f .pageFatal)
    | none => .word (s.rd32 (memKey d (e.base + off)))

/-! ### Eligible pairs (R44, R61, R66) -/

/-- The scheduler of a thread: 0 to 3, or 4 + the crew for a lead unit (R34). -/
def State.schedOf (s : State) (uid tid : Nat) : Nat :=
  if isLead tid then 4 + uid
  else if isHandler tid then ((s.hdrOf (s.crew uid)).groups + (tid - 32)) % 4
  else tid % 4

/-- The slots a thread has. -/
def slotsOf (tid : Nat) : List Bool := if isLead tid then [false] else [false, true]

/-- Every pair of the crews of a core. -/
def State.corePairs (s : State) (core : Nat) : List PairRef :=
  (s.crews.filter fun e => e.2.core == core && (e.2.st == .running || e.2.st == .preempting)).flatMap fun e =>
    (e.2.threads.filter fun t => t.2.st == .running).flatMap fun t =>
      (slotsOf t.1).map fun b => ⟨e.1, t.1, b⟩

/-- The partition of a crew runs: it is not gated, and the package is not on standby (R455). -/
def State.powered (s : State) (c : Crew) : Bool := (s.part c.pref).power != .gated && !s.standby

/-- A suspended pair whose word could go on now: it reissues it. A fault that waits for the other slot is taken by its own step. -/
def State.reissues (s : State) (p : PairRef) : Bool := s.wakes p && match (s.slot p).wait with
  | some (.trapClear _) => false
  | _ => true

/-- The pair could issue: inside a clause that it holds (R66), or at a boundary or a suspended word, which may go on, of a crew
that is running and not stopped, pre-empted or being killed; a debugger's step lets one pair of a stopped crew issue. -/
def State.mayIssue (s : State) (p : PairRef) : Bool :=
  let c := s.crew p.uid
  let t := c.thread p.tid
  let x := t.arch.slot p.slotB
  t.st == .running && (x.st == .ready || s.reissues p) && s.powered c && (x.priv.isNone || s.fw.code.size != 0) &&
    (((c.st == .running || c.st == .preempting) && x.holds) ||
      (c.st == .running && c.cause.isNone && (c.stop.isNone || x.dbgStep)))

/-- The pairs of one scheduler that may issue next: the one that holds it inside a clause, else those that have waited
longest since they last issued (R44, R61). -/
def State.schedPicks (s : State) (l : List PairRef) : List PairRef :=
  match l.filter fun p => (s.slot p).holds with
  | p :: t => p :: t
  | [] =>
    let low := l.foldl (fun m p => min m (s.slot p).lastIssue) ((l.head?.map fun p => (s.slot p).lastIssue).getD 0)
    l.filter fun p => (s.slot p).lastIssue == low

/-- The pairs of a core that its schedulers and lead units may pick. -/
def State.picks (s : State) (core : Nat) : List PairRef :=
  let l := (s.corePairs core).filter s.mayIssue
  let keys := (l.map fun p => s.schedOf p.uid p.tid).eraseDups
  keys.flatMap fun k => s.schedPicks (l.filter fun p => s.schedOf p.uid p.tid == k)

/-- A pair that its scheduler may pick now. -/
def State.eligible (s : State) (p : PairRef) : Bool := (s.picks (s.crew p.uid).core).contains p

/-! ### SYNC packets (R426) -/

/-- The occupied slots of a crew, and the lead where it is traced. -/
def Crew.syncPairs (c : Crew) : List (Nat × Bool) :=
  (c.threads.filter fun t => t.2.st == .running && (c.trace.lead || !isLead t.1)).flatMap fun t =>
    ((slotsOf t.1).filter fun b => (t.2.arch.slot b).st != .empty).map fun b => (t.1, b)

/-- A 2^s tick that has passed makes every pair owe a SYNC. -/
def Crew.syncTick (c : Crew) (cyc : Nat) : Crew :=
  let n := cyc / 2 ^ c.trace.syncLog
  if !c.trace.on || n ≤ c.trace.tick then c else { c with trace := { c.trace with tick := n, sync := c.syncPairs } }

/-- Write the SYNC that a pair owes, at clause `pc`, word `word`; 0 is the clause's start. -/
def State.payTrace (s : State) (p : PairRef) (pc : Word) (word : Nat) : State :=
  if !(s.crew p.uid).trace.on then s
  else
    let s := s.modCrew p.uid (Crew.syncTick · s.cycles)
    let c := s.crew p.uid
    let x := s.slot p
    let owes := c.trace.sync.contains (p.tid, p.slotB) || x.entered
    let s := (s.modCrew p.uid fun c =>
      { c with trace := { c.trace with sync := c.trace.sync.erase (p.tid, p.slotB), mute := c.trace.mute.erase (p.tid, p.slotB) } }).modSlot p fun x =>
        { x with entered := false }
    if !owes then s
    else s.packet p.uid p.tid 8 (boolNat p.slotB)
      ([BitVec.ofNat 8 word] ++ leBytes 4 pc.toNat ++ leBytes 4 x.mask.toNat ++ leBytes 8 s.now)

/-! ### One issue -/

/-- What happens when a pair is selected: an instruction is executed at a state, its crew stops at a breakpoint, or a step without an
encoding answers. -/
inductive Fetched where
  | run (i : Instr) (s : State)
  | stop (s : State)
  | does (o : Host.Outcome State Fault Refusal)

/-- Set `cur` to word `word` of the clause at the slot's PC; what the memory system makes of it stays as the move said. -/
def State.setCur (s : State) (p : PairRef) (hdr : Word) (word : Nat) (h : Header) : State :=
  { s with cur := { s.cur with uid := p.uid, tid := p.tid, slotB := p.slotB, hdr := hdr, word := word, count := h.count
                               cls := h.cls } }

/-- Word `word` of a clause issues: the last one of a clause with YLD ranks its pair as having issued most recently (R60). -/
def State.rankAt (s : State) (p : PairRef) (word : Nat) (h : Header) : State :=
  if h.yld && word = h.count then s.yieldRank p else s

/-- Fetch word `word` of the clause and check its place in it (R62); a word that is no legal word of its class is executed
as such (R80, R81). -/
def State.fetchAt (s : State) (p : PairRef) (word : Nat) (h : Header) : Fetched :=
  let c := s.crew p.uid
  let x := s.slot p
  let t := (s.setCur p x.pc word h).rankAt p word h
  match s.fetchWord c x (engOfCls h.cls) (x.pc.toNat + 4 * word) with
  | .bad f => .does (.next (t.faultWord f))
  | .page d g f => .does (.next (t.suspend (.page d g f)))
  | .word w =>
    if isTransferWord h.cls w && word < h.count then
      .does (.next (t.faultWord { exc := .clauseFormat, eng := engOfCls h.cls }))
    else match decode h.cls w with
      | some i => .run i t
      | none => .does (execReservedOpcodeWord h.cls w t)

/-- The clause starts to issue (R44, R127): ranks, ages and the SYNC packet. Its TWAIT has observed the completions of the tokens it
names: what they acquire is seen from here on (R17, R103). -/
def State.startClause (s : State) (p : PairRef) (hw : Word) (h : Header) : State :=
  let x := s.slot p
  let s := if h.twait == 0 then s else s.seeAll p.uid p.tid
  let s := { s with issueCtr := s.issueCtr + 1 }
  let s := s.modThread p.uid p.tid fun t => { t with swapped := false }
  let s := s.modArch p.uid p.tid fun a =>
    (a.countAge p.slotB).modSlot p.slotB fun y =>
      { y with lastIssue := s.issueCtr, issuedHere := true, hw := hw, holds := true, started := true, word := max 1 y.word
               wait := none, waitSince := 0 }
  s.payTrace p x.pc x.word

/-- The pair waits at its clause boundary. -/
def State.waitAt (s : State) (p : PairRef) (w : Wait) : State :=
  s.modSlot p fun x =>
    { x with st := .blocked, wait := some w, waitSince := s.now, wdSince := s.now, blockedCyc := s.cycles }

/-- The crew stops at the breakpoints that match the pair's clause header; on resumption the clause issues (R415). -/
def State.breakHit (s : State) (p : PairRef) : State :=
  let x := s.slot p
  (s.stopCrew p .hit Exc.breakpoint.code ((s.crew p.uid).bpHits p x.pc) x.mask).modSlot p fun x => { x with skipBp := true }

/-- The pair is at a clause boundary: late and asynchronous faults (R391), ageing swaps (R127), an armed step (R400), the header
(R57), TWAIT (R58), breakpoints (R415), then the first word. A place inside a clause that `eret` has returned to is no boundary: TWAIT
alone is evaluated there (R398). -/
def State.atBoundary (s : State) (p : PairRef) : Fetched :=
  let c := s.crew p.uid
  let t := c.thread p.tid
  let x := t.arch.slot p.slotB
  let hd (f : FaultInfo) : Fetched := .does (.next ((s.setCur p x.pc 0 ⟨.vec, 0, 0, false⟩).faultWord f))
  let inside := x.word != 0
  if !inside && x.priv.isNone && !(t.pendOf p.slotB).isEmpty then .does (execTrapDelivery p s)
  else if !t.swapped && t.arch.swapDue.isSome then .does (execAgeSwap ⟨p.uid, p.tid⟩ s)
  else if !inside && x.priv.isNone && Store.get 0 t.arch.stepLeft (boolNat p.slotB) = 1 then .does (.next (s.singleStep p))
  else match s.fetchWord c x 0 x.pc.toNat with
    | .bad f => hd f
    | .page d g f => .does (.next (s.waitAt p (.page d g f)))
    | .word w => match decodeHeader w with
      | none => hd { exc := .clauseFormat }
      | some h =>
        if !t.tokensClear h.twait then .does (.next (s.waitAt p (.twaitHdr h.twait)))
        else if h.count < x.word then hd { exc := .clauseFormat }
        else if !inside && x.priv.isNone && !x.skipBp && c.bpHits p x.pc != 0 then .stop (s.breakHit p)
        else (s.startClause p w h).fetchAt p (max 1 x.word) h

/-- A selected pair issues its next word; one that stood suspended reissues it, and writes the SYNC that it owes (R426). While a slot of
a thread issues, no starvation swap comes nearer (R128). -/
def State.issueNext (s : State) (p : PairRef) : Fetched :=
  let s := (s.refreshBlk p.uid p.tid).modArch p.uid p.tid fun a => { a with starveCyc := none }
  let s := if s.wakes p then s.resume p else s
  let x := s.slot p
  if x.started then match decodeHeader x.hw with
    | some h => (if x.holds then s else s.payTrace p x.pc x.word).fetchAt p x.word h
    | none => .does (.next s)
  else s.atBoundary p

/-! ### Hits (R415, R416) -/

/-- The selected pair's clause header matches a breakpoint, with its TWAIT clear. -/
def execBreakpointHit (p : PairRef) (s : State) : Host.Outcome State Fault Refusal :=
  if !s.eligible p then still s
  else match s.issueNext p with
    | .stop t => .next t
    | _ => still s

/-- A word that makes an access through a handle: what R80 asks of it, and the access (R416). -/
def State.accessOf (s : State) : Instr → Option (WordInfo × Access)
  | .vld f => some (mvInfo (Instr.vld f) f [f.o], s.mvAccess f .load (s.lanes f.gp 0))
  | .vlds f => some (mvInfo (Instr.vlds f) f [f.o], s.mvAccess f .load (s.lanes f.gp 0))
  | .vst f => some (mvInfo (Instr.vst f) f [f.v, f.o], s.mvAccess f .store (s.lanes f.gp 0))
  | .sld f => some (msInfo (Instr.sld f), s.msAccess f .load)
  | .slds f => some (msInfo (Instr.slds f), s.msAccess f .load)
  | .sst f => some (msInfo (Instr.sst f), s.msAccess f .store)
  | .vatomI32 f => some (maInfo (Instr.vatomI32 f) atI32 f, s.maAccess f)
  | .vatomU32 f => some (maInfo (Instr.vatomU32 f) atU32 f, s.maAccess f)
  | .vatomF32 f => some (maInfo (Instr.vatomF32 f) atF32 f, s.maAccess f)
  | .vatomF16x2 f => some (maInfo (Instr.vatomF16x2 f) atF16 f, s.maAccess f)
  | .vatomB16x2 f => some (maInfo (Instr.vatomB16x2 f) atB16 f, s.maAccess f)
  | .vatomnI32 f => some (maInfo (Instr.vatomnI32 f) atI32 f, s.maAccess f)
  | .vatomnU32 f => some (maInfo (Instr.vatomnU32 f) atU32 f, s.maAccess f)
  | .vatomnF32 f => some (maInfo (Instr.vatomnF32 f) atF32 f, s.maAccess f)
  | .vatomnF16x2 f => some (maInfo (Instr.vatomnF16x2 f) atF16 f, s.maAccess f)
  | .vatomnB16x2 f => some (maInfo (Instr.vatomnB16x2 f) atB16 f, s.maAccess f)
  | .satom f => some (saInfo f, s.saAccess f)
  | .barinit f => some (mbInfo (Instr.barinit f), s.barAccess f)
  | .barexp f => some (mbInfo (Instr.barexp f), s.barAccess f)
  | .barrive f => some (mbInfo (Instr.barrive f), s.barAccess f)
  | .bwait f => some (mbInfo (Instr.bwait f), s.barAccess f)
  | .bartest f => some (mbInfo (Instr.bartest f), s.barAccess f)
  | .bsync f => some (mbInfo (Instr.bsync f), s.barAccess f)
  | .mshape f => if FmtEB.FL f 0 then none else some (mtxInfo (Instr.mshape f) [25] [], s.shapeAccess f)
  | _ => none

/-- The word that is about to execute does not only go on with what an earlier issue of it began. -/
def State.begins (s : State) : Bool := match s.cslot.wait with
  | some (.atoms _ _) => false
  | some (.barrier _ _) => false
  | some (.released _ _) => false
  | _ => true

/-- The word gets as far as its access: R80 finds nothing, no source is poisoned, no fence holds it, and the access passes R86. -/
def State.reaches (s : State) (w : WordInfo) (a : Access) : Bool :=
  s.issuerReady && (s.wordFault w).isNone && !s.readsPoison w && !(s.fencePending.any fun k => fenceHolds k w.cls) && s.begins &&
    s.checkAccess a == .ok

/-- The selected pair's next word makes an access in which the lanes `lanes` match watchpoint `n`. -/
def execWatchpointHit (p : PairRef) (n : Nat) (lanes : Word) (s : State) : Host.Outcome State Fault Refusal :=
  if !s.eligible p then still s
  else match s.issueNext p with
    | .run i t => match t.accessOf i with
      | some (w, a) =>
        if t.reaches w a && (t.wpHits a).getLsbD n && t.wpLanes n a == lanes then
          runWord w (fun u => .block (u.watchHit a) .stopped) t
        else still s
      | none => still s
    | _ => still s

end Sys2Proof.Machine
end

