-- ==== Sys2Proof/Machine/MemEv.lean ====
section
/-! DEFINITION. Steps of the memory system that no word encodes: page faults and mappings (R89 to R91), stores and fills at
their homes (R94, R95, R297, R314), fences and flushes (R221, R222), OCC (R291), and link failures (R353). -/

namespace Sys2Proof.Machine

/-! ### Pages (R89 to R91) -/

/-- Map or unmap the page of a size that begins at a 64 KiB unit; operations that wait for a mapped page go on (R89, R90). -/
def State.mapPage (s : State) (ldev page size : Nat) (present : Bool) : State :=
  let n := pageUnits size
  let op (o : Op) : Op := match o.waitPage with
    | some (d, g, _) => if present && d == ldev && page ≤ g && g < page + n then { o with waitPage := none } else o
    | none => o
  let ctx (x : EngCtx) : EngCtx := { x with ops := x.ops.map op }
  let crew (c : Crew) : Crew := { c with cpy := ctx c.cpy, mtx := ctx c.mtx, arn := ctx c.arn, msg := ctx c.msg }
  let inside (k : Nat) : Bool := pageKey ldev page ≤ k && k < pageKey ldev page + n
  let gone : Store Bool := if present then [] else (List.range n).map fun k => (pageKey ldev page + k, true)
  { s with absentPages := (s.absentPages.filter fun e => e.1 < pageKey ldev page) ++ gone ++
             s.absentPages.filter fun e => pageKey ldev page + n ≤ e.1
           pageSize := Store.set 0 (Store.keep (fun k => !inside k) s.pageSize) (pageKey ldev page) size
           crews := s.crews.map fun e => (e.1, crew e.2) }

/-- The fault of a unit is resolved: the page that holds it is mapped (R90). -/
def State.resolvePage (s : State) (ldev page : Nat) : State :=
  let (size, base) := s.pageAt ldev page
  s.mapPage ldev base size true

/-- A mapping changes, of the page of a size (64 KiB, 2 MiB, 1 GiB) that begins at a unit: the cores of the device lose the
entries of what it covers first; the bytes keep their values (R89, R91). -/
def execMappingChange (ldev page : Nat) (to_ : Mapping) (s : State) : Host.Outcome State Fault Refusal :=
  let inside (x : Nat × Nat) : Bool := x.1 == ldev && page ≤ x.2 && x.2 < page + pageUnits to_.size
  let old := (s.pageAt ldev page).2
  let s' := (s.cores.keys.filter fun k => coreDie k == ldev).foldl (fun s k =>
    s.modCore k fun c => { c with tlb := c.tlb.filter fun x => !inside x && x != (ldev, old) }) s
  when_ (page % pageUnits to_.size == 0) s
    (({ s' with pageSize := Store.set 0 s'.pageSize (pageKey ldev old) 0 } : State).mapPage ldev page to_.size to_.on)

/-- A walk of a page ends, which serves every miss of the die to it: each core of the die with a pair that waits for it holds
a translation entry, one of 2,048 (R89). -/
def execTranslationWalk (die ldev page : Nat) (s : State) : Host.Outcome State Fault Refusal :=
  let waits (x : Slot) : Bool := x.st == .blocked && x.wait == some (.walk ldev page)
  let cores := ((s.crews.filter fun e => e.2.die == die && e.2.threads.any fun t =>
    waits t.2.arch.a || waits t.2.arch.b).map fun e => e.2.core).eraseDups
  when_ (s.walks.contains (die, ldev, page)) s
    (cores.foldl (fun s k => s.modCore k (Core.learn · (ldev, page))) { s with walks := s.walks.erase (die, ldev, page) })

/-! ### Writes and copies at their homes (R95, R297, R314) -/

/-- The head of a thread's queue to `die` may be performed: its word has left the window, and a posted release follows
every earlier local write (R95, R209). -/
def Thread.mayPerform (t : Thread) (die : Option Nat) : Bool := match t.head die with
  | none => false
  | some w => t.retired w && !(w.rel && w.posted.isSome && t.localBefore w.at_ false)

/-- The slice holds none of a sector any more, unless its fill is pending. -/
def State.evict (s : State) (k : Nat) : State :=
  if Store.get 0 s.fills k == 0 then { s with absent := Store.set false s.absent k true } else s

/-- The sectors of a lane's write leave the slice first. -/
def State.evictFor (s : State) (l : LaneWrite) : State := match l.loc with
  | .mem a => (unitsOf 32 a l.bytes.length).foldl State.evict s
  | _ => s

/-- A thread's atomic whose sector's fill is pending waits for it (R313). -/
def State.fillHolds (s : State) (w : PendWrite) : Bool := w.kind != .store && match w.lanes.head? with
  | some l => (s.filling l.loc l.bytes.length).isSome
  | none => false

/-- Perform the next write of a thread's queue to `die`, or the next element of a copy operation; a slice evicts a sector, or an
L1 writes a dirty private line back (R93, R314). -/
def execAccessAtHome (a : HomeAccess) (s : State) : Host.Outcome State Fault Refusal :=
  match a with
  | .store t die absent =>
    let x := s.thread t.uid t.tid
    let s' := match (x.head die).bind fun w => w.lanes.head? with
      | some l => if absent then s.evictFor l else s
      | none => s
    let held := match x.head die with
      | some w => s.fillHolds w
      | none => false
    when_ (x.mayPerform die && !held) s (s'.performHead t.uid t.tid die)
  | .copy uid num n =>
    let o : OpRef := ⟨uid, .copy, num⟩
    match s.op? o with
    | some op => when_ (s.cpyReady o op) s (s.copyStep o op n)
    | none => still s
  | .evict ldev sector => .next (s.evict (ldev * 2 ^ 43 + sector % 2 ^ 43))
  | .writeBack core line => .next (s.writeBack core fun k => k == line)

/-- A fill returns: the bytes of the mask keep what was written, the others take the memory's (R314). -/
def execFillReturn (ldev sector : Nat) (s : State) : Host.Outcome State Fault Refusal :=
  .next (s.fillBack (ldev * 2 ^ 43 + sector % 2 ^ 43))

/-! ### Fences and flushes (R221, R222) -/

/-- The pending fence of a thread has every earlier local write behind it. -/
def Thread.fenceDone (t : Thread) : Bool := match t.fence with
  | some (k, m) => !t.localBefore m (fenceLoads (k % 8))
  | none => false

def execFenceComplete (t : ThreadRef) (s : State) : Host.Outcome State Fault Refusal :=
  let x := s.thread t.uid t.tid
  let scope := ((x.fence.map Prod.fst).getD 0) / 8
  let s' := s.modThread t.uid t.tid fun y => { y with fence := none }
  when_ x.fenceDone s
    (if 1 ≤ scope then (s'.applyAll (s.crew t.uid).core).seeAll t.uid t.tid else s'.seeCrew t.uid t.tid)

/-- The oldest flush of a thread to a die: its number, once every posted write before it has been performed. -/
def Thread.flushDue (t : Thread) (die : Nat) : Option Nat :=
  match t.flushes.find? fun f => f.1 == die with
  | some (_, n, m) => if t.sq.any fun w => !w.gone && w.posted == some die && w.at_ < m then none else some n
  | none => none

def execFlushComplete (t : ThreadRef) (die : Nat) (s : State) : Host.Outcome State Fault Refusal :=
  match (s.thread t.uid t.tid).flushDue die with
  | none => still s
  | some n => .next (s.modThread t.uid t.tid fun x =>
      { x with flDone := Store.set 0 x.flDone die n, flushes := x.flushes.filter fun f => !(f.1 == die && f.2.1 == n) })

/-! ### OCC (R291) -/

/-- Lines of an arena that the slices of four dies may hold under a cap: ceil(CAP / 64) in each of 64 slices (R295). -/
def capLines (cap : Word) : Nat := 256 * ((cap.toNat + 63) / 64)

/-- OCC as the slices report it, within what CAP lets them hold; lines that a lowered CAP finds stay until they are evicted, so a
report does not rise above the last one for that. -/
def execOccReport (a : ArenaRef) (lines : Word) (s : State) : Host.Outcome State Fault Refusal :=
  let x := s.arena a
  when_ (x.st != .free && lines.toNat ≤ max (capLines x.cap) x.occ.toNat) s
    (s.modArena a fun x => { x with occ := lines, occNs := s.now })

/-- The slices report an arena at least every microsecond: then some number that they may hold, a free value. -/
def State.occStep (a : ArenaRef) (s : State) : Host.Outcome State Fault Refusal :=
  let x := s.arena a
  if x.st == .free || s.now < x.occNs + 1000 then still s
  else
    let (f, t) := s.free
    execOccReport a (BitVec.ofNat 32 (f % (max (capLines x.cap) x.occ.toNat + 1))) t

/-! ### Links (R11, R353) -/

/-- Hearth dies to which no path remains from the brewhouse. -/
def lostDevs (down : List Link) : List Nat :=
  (List.range 4).filter fun d => !joined down 4 d

/-- A link fails: packets are sent again on another path, which nothing observes; a device to which no path remains is
failed. The journal says both. -/
def execLinkFailure (l : Link) (s : State) : Host.Outcome State Fault Refusal :=
  let e := linkEnds l
  let known := (s.links.map linkEnds).contains e
  let dead := lostDevs (s.links ++ [l])
  let t : State := { s with links := s.links ++ [l], deadDevs := dead }
  let failed := dead.filter fun d => !s.deadDevs.contains d
  when_ (isLink l && !known) s
    (t.log jLINK 0 0xFF 0xFF [e.1 * 8 + e.2, failed.foldl (fun m d => m + 2 ^ d) 0])

end Sys2Proof.Machine
end

