-- ==== Sys2Proof/Machine/EngEv.lean ====
section
/-! DEFINITION. Steps of the engine contexts that no word encodes: boundaries and receptions (R245, R284), completion (R18,
R19, R249), FREEZE (R252, R283), the room limit of `qpost` (R254), and the broadcasts of seals and drops (R307, R310). -/

namespace Sys2Proof.Machine

/-! ### Completion (R18) -/

/-- STATUS of a copy operation before its arrival (R249): the first of FAULT, PARAM, QFULL; else BARRIER where a receiver's
arrival returned ERROR. -/
def Op.cpyStatus (o : Op) : Nat :=
  if o.err.isSome then 2
  else if o.param then 4
  else if o.qfull then 3
  else if o.opcode = 2 && o.row = 1 then 1
  else 0

/-- The record of a completed copy operation (R249). -/
def Op.cpyRecord (o : Op) : OpRecord :=
  { num := o.num, opcode := o.opcode, status := o.cpyStatus, bytes := o.bytes
    acc := if o.opcode = 2 || (o.opcode = 8 && 1 ≤ o.prog) then o.accMask else 0
    ref_ := if o.opcode = 2 then o.refMask else 0 }

/-- Complete a copy operation: its arrival with its bytes, its record, its END packet (R249, R426). A parameter error and a
full queue arrive at no barrier. -/
def State.endCopy (s : State) (o : OpRef) (op : Op) : State :=
  let op := if op.param || op.qfull then { op with bar := none } else op
  let r := op.cpyRecord
  let s := s.finishOp o op op.bytes op.err (some r)
  let status := (((s.crew o.uid).cpy.recs.find? fun q => q.num == op.num).map OpRecord.status).getD 0
  s.copyPacket o.uid op.num true (status != 0)

/-- Complete a matrix operation (R258): `mdrain` arrives with its bytes, the others with 1. -/
def State.endMatrix (s : State) (o : OpRef) (op : Op) : State :=
  s.finishOp o op (if op.opcode = 7 then op.bytes else 1) op.err none

/-- The crew that a `send` names: CORE, TASK and CREW of its block (R326). -/
def Op.target (o : Op) : Nat × Nat × Nat :=
  (bits (o.blk.getD 0 0).toNat 0 8, bits (o.blk.getD 0 0).toNat 32 32, bits (o.blk.getD 1 0).toNat 0 32)

/-- The sends of a context to one crew are delivered in number order (R327). -/
def EngCtx.sendTurn (x : EngCtx) (op : Op) : Bool :=
  x.ops.all fun q => !(q.opcode == 0 && q.num < op.num && q.st != .done && q.target == op.target)

/-- A message operation has done its work, or can do it now: payloads are read, a claimed slot is written, a deleted
group has no message left (R324, R331, R341). -/
def State.msgReady (s : State) (o : OpRef) (op : Op) : Bool :=
  let c := s.crew o.uid
  if op.st == .done then true
  else match op.opcode with
    | 0 => c.msg.sendTurn op
    | 1 => true
    | 6 => (s.group c.pref op.ref_).msgs.isEmpty
    | 8 => true
    | _ => false

/-- Do what is left of a message operation. -/
def State.msgWork (s : State) (o : OpRef) (op : Op) : State :=
  if op.st == .done then s
  else match op.opcode with
    | 0 => s.readSend o op
    | 1 => s.readAsend o op
    | 8 => s.readPost o op
    | _ => s

/-- Complete a message operation and keep its record (R342); a `recv` arrives with the bytes of its slot, and its completion is
the acquire at device scope that R106 pairs with the sender's release (R341). -/
def State.endMessage (s : State) (o : OpRef) (op : Op) : State :=
  let s := s.msgWork o op
  let op := (s.op? o).getD op
  let s := if op.opcode = 4 then s.applyAll (s.crew o.uid).core else s
  let s := s.finishOp o op 160 op.err (some ⟨op.num, op.opcode, 0, 0, 0, 0⟩)
  if op.opcode = 6 then s.modGroup (s.crew o.uid).pref op.ref_ fun g => { g with delOp := none }.tryEnd else s

/-- The operation's completion may be performed: its work has ended and the crew is not stopped (R20, R374, R417). -/
def State.mayComplete (s : State) (o : OpRef) : Bool :=
  let c := s.crew o.uid
  c.mayFinish && c.stop.isNone && match s.op? o with
    | some op => if o.ctx == .message then s.msgReady o op else op.st == .done
    | none => false

def execAsyncComplete (o : OpRef) (s : State) : Host.Outcome State Fault Refusal :=
  match s.op? o with
  | none => still s
  | some op =>
    when_ (s.mayComplete o) s (match o.ctx with
      | .copy => s.endCopy o op
      | .matrix => s.endMatrix o op
      | .arena => s.finishOp o op 1 op.err none
      | .message => s.endMessage o op)

/-! ### Boundaries and receptions (R245, R284) -/

/-- The receivers a multicast has not settled. -/
def Op.openBits (op : Op) : List Nat :=
  (List.range 64).filter fun i => (op.blk.getD 1 0).getLsbD i && !(op.accMask ||| op.refMask).getLsbD i

def execMulticastReceive (uid num bit : Nat) (s : State) : Host.Outcome State Fault Refusal :=
  let o : OpRef := ⟨uid, .copy, num⟩
  match s.op? o with
  | none => still s
  | some op =>
    let s' := s.modOp o fun p => { p with st := .running }
    when_ (op.opcode == 2 && !op.param && s.cpyReady o op && op.openBits.contains bit) s (s'.receive o op bit)

def execMatrixBoundary (uid num : Nat) (s : State) : Host.Outcome State Fault Refusal :=
  let o : OpRef := ⟨uid, .matrix, num⟩
  match s.op? o with
  | none => still s
  | some op => when_ (s.mtxReady o op) s (s.matrixStep o op)

/-! ### FREEZE (R252, R283) -/

def execCpyFreeze (uid : Nat) (v : Bool) (s : State) : Host.Outcome State Fault Refusal :=
  when_ ((s.crew uid).st != .retired) s (s.modCrew uid fun c => { c with cpy := c.cpy.setFreeze true v })

def execMtxFreeze (uid : Nat) (v : Bool) (s : State) : Host.Outcome State Fault Refusal :=
  when_ ((s.crew uid).st != .retired) s (s.modCrew uid fun c => { c with mtx := c.mtx.setFreeze false v })

/-! ### The room limit of a queue post (R253, R254) -/

/-- A queue post has claimed nothing and its limit, which runs from the start of the operation, has passed (log entry 68). -/
def State.roomLate (s : State) (op : Op) : Bool :=
  let us := bits (op.blk.getD 2 0).toNat 0 32
  op.opcode == 8 && op.st == .running && op.prog == 0 && us != 0 && op.since + us * 1000 ≤ s.now

def execQpostRoomLimit (uid num : Nat) (s : State) : Host.Outcome State Fault Refusal :=
  let o : OpRef := ⟨uid, .copy, num⟩
  match s.op? o with
  | none => still s
  | some op =>
    let (cap, _, wr, rd) := s.postQueue o op
    when_ (s.roomLate op && cap ≤ wr - rd && (s.crew uid).mayFinish) s
      (s.modOp o fun p => { p with st := .done, qfull := true })

/-! ### Seals and drops (R307, R310) -/

/-- A seal of the partition that the arena heads is running. -/
def State.sealing (s : State) (a : ArenaRef) : Bool := (s.part (arenaPart a)).sealOps.any fun e => e.1 == a.idx

/-- A cache that a broadcast can name: the L1 of a core, or a slice (R296). -/
def cacheOk (c : Option Nat) : Bool := match c with
  | some k => decide (k < 512)
  | none => true

/-- The broadcast of a seal reaches one cache, or all that it has not reached; an L1's dirty lines of the set are written back
(R307). -/
def execSealBroadcast (b : SealCast) (s : State) : Host.Outcome State Fault Refusal :=
  let p := arenaPart b.arena
  when_ (s.sealing b.arena && !s.sealAcked p b.arena.idx && cacheOk b.cache) s (s.sealBits p b.arena.idx b.cache)

def execSealComplete (a : ArenaRef) (s : State) : Host.Outcome State Fault Refusal :=
  when_ (s.sealAcked (arenaPart a) a.idx) s (s.endSeal (arenaPart a) a.idx)

/-- The drop mask in flight reaches one cache, or all that it has not reached (R310). -/
def execDropBroadcast (b : DropCast) (s : State) : Host.Outcome State Fault Refusal :=
  when_ (!(s.part b.part).dropMask.isEmpty && !s.dropAcked b.part && cacheOk b.cache) s (s.dropBits b.part b.cache)

end Sys2Proof.Machine
end

