-- ==== Sys2Proof/Machine/MsgEv.lean ====
section
/-! DEFINITION. Steps of the routers that no word encodes: readiness reports (R332), the way of group-addressed messages
(R336 to R340), spawns (R327, R338), deleted groups (R331), rounds (R346, R347), and halts (R351). -/

namespace Sys2Proof.Machine

/-! ### Readiness (R332) -/

/-- A total that a node has sent reaches its parent and overwrites the count of that port. -/
def State.report (s : State) (p : PartRef) (gid core : Nat) : State :=
  let g := s.group p gid
  let n := Store.get {} g.nodes core
  match n.sent, ((s.part p).tree g.tree).bind fun t => (treeNode t core).bind Config.TreeNode.parent with
  | total :: rest, some (up, port) =>
    let s := s.modGroup p gid fun g => { g with nodes := Store.set {} g.nodes core { n with sent := rest } }
    s.modPart p fun q => q.modNode gid up fun m => { m with c := Store.set 0 m.c port total }
  | _, _ => s

def execReadinessReport (p : PartRef) (gid core : Nat) (s : State) : Host.Outcome State Fault Refusal :=
  .next (s.report p gid core)

/-! ### Group-addressed messages (R336 to R340) -/

def execMessageSteer (m : MsgRef) (s : State) : Host.Outcome State Fault Refusal := .next (s.steerMsg m)

def execMessageBounce (m : MsgRef) (s : State) : Host.Outcome State Fault Refusal := .next (s.bounceMsg m)

/-- The acknowledgement of an ORD delivery: the next message of its pair may be steered (R339). -/
def execOrdAck (m : MsgRef) (s : State) : Host.Outcome State Fault Refusal :=
  when_ ((s.gmsg? m).any fun x => x.at_ == .unacked) s (s.dropMsg m)

def execRingDelivery (m : MsgRef) (s : State) : Host.Outcome State Fault Refusal := .next (s.ringWriteMsg m)

/-! ### Spawns (R327, R338) -/

/-- What a crew could spawn now: messages assigned to reserved slots, and the oldest parked one where a slot is open. -/
def State.spawnChoices (s : State) (uid : Nat) : List (MsgRef ⊕ (Parked × Nat)) :=
  let c := s.crew uid
  let parked : List (MsgRef ⊕ (Parked × Nat)) := match s.oldestFor uid, s.openSlots uid with
    | some m, k :: _ => if c.spawning then [.inr (m, k)] else []
    | _, _ => []
  if c.goes then (s.spawnable uid).map .inl ++ parked else []

def execHandlerSpawn (uid : Nat) (s : State) : Host.Outcome State Fault Refusal :=
  let (x, t) := s.choose none ((s.spawnChoices uid).map some)
  match x with
  | none => still s
  | some (.inl m) => .next (t.spawnMsg m)
  | some (.inr (m, k)) => .next (t.spawnParked uid m k)

/-! ### Deleted groups (R331) -/

def execGrpdelHandover (m : MsgRef) (s : State) : Host.Outcome State Fault Refusal := .next (s.handover m)

/-! ### Rounds (R346, R347) -/

def roundPart (r : RoundRef) : PartRef := ⟨r.ldev, r.part⟩

/-- A node forms its partial, or `far`: a remote subtree's arrives, for the collective of a number on the fabric tree (R350). -/
def execReductionPartial (m : RoundMove) (s : State) : Host.Outcome State Fault Refusal :=
  let r := m.round
  .next (match m.far with
    | none => s.partial_ (roundPart r) r.coll r.k r.core
    | some (nth, v) => s.remotePartial (roundPart r) r.coll r.k r.core nth v)

/-- A member writes the result; one that is SAVED or being pre-empted writes it later. Or `far`: the result of a fabric tree comes
down to the root (R350). -/
def execReductionResult (m : RoundMove) (s : State) : Host.Outcome State Fault Refusal :=
  let r := m.round
  .next (match m.far with
    | none => s.roundResult (roundPart r) r.coll r.k r.core
    | some (nth, v) => s.remoteResult (roundPart r) r.coll r.k r.core nth v)

/-- The timer of a round in progress has run out, no halt freezes it, and no member has its result yet (R347, R351). -/
def State.roundLate (s : State) (p : PartRef) (id : Nat) (r : Round) : Bool :=
  let c := s.coll p id
  r.ended.isNone && c.frozenAt.isNone && r.startNs + c.timeoutUs * 1000 ≤ s.now &&
    (r.result.isNone || r.left.length == ((List.range 64).filter c.members.getLsbD).length)

def execRoundTimeout (r : RoundRef) (s : State) : Host.Outcome State Fault Refusal :=
  let p := roundPart r
  .next (s.modPart p fun q => q.endRounds r.coll .timeout fun x => x.k == r.k && s.roundLate p r.coll x)

/-! ### Halts of member chips (R351) -/

def execHaltedNotice (p : PartRef) (tree : Nat) (s : State) : Host.Outcome State Fault Refusal :=
  let q := s.part p
  when_ ((q.fabric tree).isSome && !q.haltedTrees.contains tree) s
    ((s.modPart p fun q => { q with haltedTrees := q.haltedTrees ++ [tree] }).haltRules p)

def execHaltEnd (p : PartRef) (tree : Nat) (s : State) : Host.Outcome State Fault Refusal :=
  when_ ((s.part p).haltedTrees.contains tree) s
    ((s.modPart p fun q => { q with haltedTrees := q.haltedTrees.erase tree }).haltRules p)

end Sys2Proof.Machine
end

