-- ==== Sys2Proof/Machine/TaskOps.lean ====
section
/-! DEFINITION. What the task engine's steps share: which crews fit a core (R32, R34), levels and waiting (R369 to R371),
retiring packets (R361, R365), the private arena (R33), and taking a crew off its core (R49, R112, R370, R374, R379). -/

namespace Sys2Proof.Machine

/-! ### Fitting a core (R32, R34) -/

/-- Group slots that a crew takes on scheduler `k`. -/
def Hdr.schedSlots (h : Hdr) (k : Nat) : Nat :=
  ((List.range h.groups).filter fun g => g % 4 == k).length +
    ((List.range h.hslots).filter fun n => (h.groups + n) % 4 == k).length

/-- Crews with these headers fit one core's store, crew slots and schedulers together. -/
def fitTogether (l : List Hdr) : Bool :=
  l.length ≤ 4 && (l.map Hdr.regBytes).sum ≤ 512 * 1024 && (l.map Hdr.storeBytes).sum + 256 * 1024 ≤ Config.coreStore &&
    [0, 1, 2, 3].all fun k => (l.map fun h => h.schedSlots k).sum ≤ 16

/-- The crews that hold a slot of a core. -/
def State.residents (s : State) (core : Nat) : List Nat := (s.core core).cslots.map Prod.snd

/-- The mask contains USES. -/
def maskHolds (mask uses : DWord) : Bool := uses &&& ~~~mask == 0

/-- The kiln keeps crews that hold the class off the core (R407). -/
def KilnPair.closed (x : KilnPair) : Bool := x.draining || x.st == .testing || x.st == .retest

def State.kilnOpen (s : State) (core : Nat) (uses : DWord) : Bool :=
  (List.range 34).all fun k => !(uses.getLsbD k && (s.kilnOf core k).closed)

/-- The cores of a partition (R377). -/
def State.partCores (s : State) (p : PartRef) : List Nat :=
  ((List.range 64).map fun (i : Nat) => 64 * p.ldev + i).filter (s.coreIn p)

/-- The crews that hold a slot of a core; with `soon`, those that will after the pre-emptions under way. -/
def State.staying (s : State) (core : Nat) (soon : Bool) : List Nat :=
  (s.residents core).filter fun u => !(soon && (s.crew u).st == .preempting)

/-- A core takes one more crew of a header beside `extra` others of it (R34), now or `soon`. -/
def State.fitsCore (s : State) (h : Hdr) (core extra : Nat) (soon : Bool := false) : Bool :=
  maskHolds (s.core core).mask h.uses && s.kilnOpen core h.uses &&
    fitTogether ((s.staying core soon).map (fun u => s.hdrOf (s.crew u)) ++ List.replicate (extra + 1) h)

/-- The core lies on the tree of every group that a SAVED crew advertises to again (R335). -/
def State.readyFits (s : State) (c : Crew) (core : Nat) : Bool :=
  c.ready.all fun e => e.2.saved == 0 || s.onTree c.pref (s.group c.pref e.1).tree core

/-! ### Tasks and their crews -/

def Task.pref (t : Task) (ldev : Nat) : PartRef := ⟨ldev, t.part⟩

/-- The crews of a task that the package holds. -/
def State.taskCrews (s : State) (ldev task : Nat) : List (Nat × Crew) :=
  s.crews.filter fun e => e.2.ldev == ldev && e.2.task == task && e.2.st != .retired

/-- The number of a task filed under a key. -/
def taskNo (key : Nat) : Nat := key % 2 ^ 32

/-- The running tasks of a queue, by number. -/
def State.queueTasks (s : State) (ldev q : Nat) : List (Nat × Task) :=
  (s.tasks.filter fun e => e.1 / 2 ^ 32 == ldev && e.2.queue == q && e.2.st == .running).map fun e => (taskNo e.1, e.2)

/-- The queues of a partition, by number. -/
def State.partQueues (s : State) (p : PartRef) : List (Nat × Queue) :=
  (s.queues.filter fun e => e.1 / 4096 == p.ldev && e.2.part == p.part &&
    (e.2.reg || !(s.queueTasks p.ldev (e.1 % 4096)).isEmpty)).map fun e => (e.1 % 4096, e.2)

/-- Base and effective level (R369). -/
def Task.base (t : Task) (q : Queue) : Nat := min t.hdr.prio q.prioMax
def Task.level (t : Task) (q : Queue) : Nat := min 7 (t.base q + boolNat q.aged)

/-- The SAVED crew of lowest index, and the next PENDING one, of a task: the one of them that is placed next (R372). -/
def State.nextCrewOf (s : State) (ldev task : Nat) : Option (Nat × Option Nat) :=
  let t := s.task ldev task
  let pending := if t.st == .running && t.nextCrew < t.crews then some t.nextCrew else none
  let saved := ((s.taskCrews ldev task).filter fun e => e.2.st == .saved && e.2.cause.isNone).foldl
    (fun (b : Option (Nat × Nat)) e => match b with
      | none => some (e.2.idx, e.1)
      | some x => if e.2.idx < x.1 then some (e.2.idx, e.1) else some x) none
  match pending, saved with
  | some i, some (j, u) => if i < j then some (i, none) else some (j, some u)
  | some i, none => some (i, none)
  | none, some (j, u) => some (j, some u)
  | none, none => none

/-- A block of the task's private arena that no crew holds (R33). -/
def State.freeBlock (s : State) (ldev task : Nat) : Option Nat :=
  let held := (s.taskCrews ldev task).filterMap fun e => e.2.block
  (List.range (s.task ldev task).blocks).find? fun b => !held.contains b

/-! ### The private arena (R33) -/

/-- Create a private arena for `blocks` blocks: its index and the first address, if the root's quota and the memory take
it. Its private memory and control stacks read 0. -/
def State.newPrivate (s : State) (p : PartRef) (h : Hdr) (blocks : Nat) : Option (Nat × Nat × State) :=
  let c := chargeOf (blocks * h.blockBytes)
  if (s.quotaRefuses p 0 c).isSome || !s.hasBacking p false c then none
  else match s.newArena p 0 c 0xFFFFFFFF true with
    | none => none
    | some (i, t) =>
      let (base, t) := (t.charge p i c).newBase p c
      some (i, base, t.zeroRange (memKey p.ldev base) c)

/-! ### Packets (R361, R365) -/

/-- Memory key of a queue's header and of a slot of its ring. -/
def State.queueHdr (s : State) (ldev : Nat) (q : Queue) : Nat :=
  memKey ldev ((s.handle ⟨ldev, q.part⟩ q.hdrH).base + q.hdrOff)
def State.queueSlot (s : State) (ldev : Nat) (q : Queue) (i : Nat) : Nat :=
  memKey ldev ((s.handle ⟨ldev, q.part⟩ q.ringH).base + q.ringOff + 64 * (i % 2 ^ q.capLog))

/-- Every slot below this index has been freed. -/
def Queue.rdIdx (q : Queue) : Nat := (q.pkts.head?.map Pkt.index).getD q.next

/-- Every packet started so far has retired. -/
def Queue.allRetired (q : Queue) : Bool := q.pkts.all fun k => k.st == .retired

/-- The packet of an index has retired. -/
def Queue.isRetired (q : Queue) (i : Nat) : Bool :=
  i < q.rdIdx || q.pkts.any fun k => k.index == i && k.st == .retired

/-- The packet of an index of a queue's life has retired: one that a reset or removal found unconsumed belongs to the next life. -/
def Queue.retiredIn (q : Queue) (i : Nat) : List Nat → Nat → Bool
  | [], _ => q.isRetired i
  | n :: rest, life =>
    if i < n then !q.orphans.any fun k => k.index == i && k.life == life && k.st == .started
    else q.retiredIn i rest (life + 1)

def Queue.hasRetired (q : Queue) (life i : Nat) : Bool := q.retiredIn i (q.ends.drop life) life

/-- Write a completion word (R365); a failing address is journalled (log entry 46). -/
def State.completion (s : State) (p : PartRef) (k : Pkt) (status : Nat) : State :=
  if addrH k.comp = 0xFFFFFFFF then s
  else match s.brewDword p k.comp 8 8 false true with
    | some a => s.wr64 a (k.task * 2 ^ 32 + k.ty * 256 + status)
    | none => s.log jFAULT 0 p.ldev p.part [k.task, 0, 0, 2]

/-- TYPE := 0 in the slot of a packet (R361). -/
def State.clearType (s : State) (ldev qn index : Nat) : State :=
  s.homeWrite none none (.mem (s.queueSlot ldev (s.queue ldev qn) index)) [0]

/-- A life of a queue ends: the packets that have started go on without it, and their slots are free (R358, R361, log entry
73). -/
def Queue.release (q : Queue) : Queue :=
  { q with orphans := q.orphans ++ q.pkts.filter (fun k => k.st == .started), pkts := [], skip := 0, ends := q.ends ++ [q.next] }

def State.releaseQueue (s : State) (ldev qn : Nat) : State :=
  ((s.queue ldev qn).pkts.foldl (fun s k => if k.st == .started then s.clearType ldev qn k.index else s) s).modQueue ldev qn
    Queue.release

/-- Free a slot: TYPE := 0, and RDIDX passes the freed slots (R361). -/
def State.freeSlot (s : State) (ldev qn index : Nat) : State :=
  let f (k : Pkt) : Pkt := if k.index == index then { k with st := .retired } else k
  let s := s.clearType ldev qn index
  let s := s.modQueue ldev qn fun q => { q with pkts := (q.pkts.map f).dropWhile fun k => k.st == .retired }
  let q := s.queue ldev qn
  s.wr64 (s.queueHdr ldev q + 0x80) q.rdIdx

/-- Retire a started packet of a queue with a status: the journal, the completion word, the slot. An orphan's slot has been
freed already. -/
def State.retirePkt (s : State) (ldev qn : Nat) (k : Pkt) (status : Nat) : State :=
  let q := s.queue ldev qn
  let s := s.log jRETIRE 0 ldev q.part [qn, k.index, k.ty, status]
  let s := s.completion ⟨ldev, q.part⟩ k status
  if q.pkts.contains k then s.freeSlot ldev qn k.index
  else s.modQueue ldev qn fun q => { q with orphans := q.orphans.erase k }

/-- The LAUNCH packet of a task. -/
def Queue.launchOf (q : Queue) (task : Nat) : Option Pkt :=
  (q.orphans ++ q.pkts).find? fun k => k.ty == 1 && k.task == task && k.st == .started

/-! ### Charges, ages, power -/

/-- Charge a queue the cycles a crew held its core (R370); a charge of 2^QLOG since it aged ends its age (R371). -/
def State.chargeQueue (s : State) (c : Crew) : State :=
  let n := s.cycles - c.placedCyc
  s.modQueue c.ldev (s.taskOf c).queue fun q =>
    let a := q.agedCharge + n
    { q with deficit := q.deficit - n, agedCharge := if q.aged then a else 0, aged := q.aged && a < 2 ^ q.qLog }

/-- Power states in the journal's POWER record (R382). -/
def PowerSt.code : PowerSt → Nat
  | .active => 0
  | .idle => 1
  | .gated => 2

/-- An idle partition is active again (R455). -/
def State.wakePart (s : State) (p : PartRef) : State :=
  if (s.part p).power != .idle then s
  else (s.log jPOWER 0 p.ldev p.part [p.part, 1, 0, 0]).modPart p fun q => { q with power := .active }

/-- Some core of the partition holds a crew. -/
def State.partBusy (s : State) (p : PartRef) : Bool := (s.partCores p).any fun c => !(s.residents c).isEmpty

/-! ### Leaving a core -/

/-- The line is one of a crew's private block. -/
def State.blockLine (s : State) (c : Crew) (line : Nat) : Bool :=
  c.block.isSome && inRanges [s.blockOf c] (128 * line) 128

/-- The crew gives up its core slot (R32), its dirty private lines are written home (R93, R374), and its queue is charged. -/
def State.leaveCore (s : State) (uid : Nat) : State :=
  let c := s.crew uid
  if !(s.residents c.core).contains uid then s
  else
    let s := s.writeBack c.core (s.blockLine c)
    let s := s.modCore c.core fun k => { k with cslots := Store.set 0 k.cslots c.cslot 0 }
    let s := s.chargeQueue c
    if s.partBusy c.pref then s else s.modPart c.pref fun q => { q with idleSince := s.now }

/-- Withdraw every readiness of a crew; the amounts are kept for a resumption if `keep` says so (R335). -/
def State.withdrawAll (s : State) (uid : Nat) (keep : Bool) : State :=
  (s.crew uid).ready.foldl (fun s e =>
    let n := e.2.amount
    (s.withdraw uid e.1).modReady uid e.1 fun r => { r with saved := if keep then n else 0 }) s

/-- Messages on their way to a crew are lost with it (R335, R343). -/
def State.dropAssigned (s : State) (uid : Nat) : State :=
  let p := (s.crew uid).pref
  let l := (s.part p).groups.flatMap fun g => (g.2.msgs.filter fun m => match m.at_ with
    | .ring u _ _ => u == uid
    | .spawn u _ _ => u == uid
    | _ => false).map fun m => (⟨p.ldev, p.part, g.1, m.id⟩ : MsgRef)
  l.foldl State.dropMsg s

/-- The bytes of a crew's open frame are sent. -/
def State.sendOpen (s : State) (uid : Nat) : State :=
  let b := (s.crew uid).trace.buf
  if b.isEmpty then s
  else (s.sendFrame uid b).modCrew uid fun c => { c with trace := { c.trace with buf := [] } }

/-- A stream ends: the packets that wait go out, and its open frame. -/
def State.closeFrame (s : State) (uid : Nat) : State := (s.traceWhile uid (s.crew uid).isFinal).sendOpen uid

/-- A crew is gone: its trace frame closes, its readiness and messages end, its REGWIN handle and its place are free, and
nothing of it remains (R49, R379). -/
def State.removeCrew (s : State) (uid : Nat) : State :=
  let s := s.closeFrame uid
  let s := (s.withdrawAll uid false).dropAssigned uid
  let c := s.crew uid
  let s := s.unpark c.core fun m => m.dest == uid && m.group.isNone
  let s := match c.regwin with
    | some i => s.setHandle c.pref i (s.handle c.pref i).invalidate
    | none => s
  let s := if c.stop.isSome then s.unstop uid else s
  (s.leaveCore uid).setCrew uid {}

end Sys2Proof.Machine
end

