-- ==== Sys2Proof/Machine/PktEv.lean ====
section
/-! DEFINITION. The packets of the task engine (R29 to R34, R360 to R368). -/

namespace Sys2Proof.Machine

def pktPart (s : State) (k : PktRef) : PartRef := ⟨k.ldev, (s.queue k.ldev k.queue).part⟩

/-- Dword `d` of a packet's slot. -/
def State.pktD (s : State) (k : PktRef) (d : Nat) : DWord :=
  s.rd64 (s.queueSlot k.ldev (s.queue k.ldev k.queue) k.index + 8 * d)

/-- TYPE of the slot, 0 while it is claimed and not published. -/
def State.pktType (s : State) (k : PktRef) : Nat := bits (s.pktD k 0).toNat 0 8

/-- The packet is the queue's next one, and it is published (R360, R361). -/
def State.pktNext (s : State) (k : PktRef) : Bool :=
  let q := s.queue k.ldev k.queue
  q.reg && k.index == q.next && decide (k.index < (s.rd64 (s.queueHdr k.ldev q)).toNat) && s.pktType k != 0

/-- No partition change holds the partition's admission (R378). -/
def changes (c : PartChange) (part : Nat) (old : Nat → Part) : Bool :=
  let b (d : DWord) : Nat := bits d.toNat (8 * part) 8
  b c.regions != (old part).regions.toNat || b c.ways != (old part).ways || b c.pcs != (old part).pcs

def State.admits (s : State) (p : PartRef) : Bool := match Store.get none s.change p.ldev with
  | some c => !changes c p.part fun i => s.part ⟨p.ldev, i⟩
  | none => true

/-- The packet may start (R364). LAUNCH also waits for admission and for power (R378, R455). -/
def State.pktStarts (s : State) (k : PktRef) : Bool :=
  let q := s.queue k.ldev k.queue
  let ty := s.pktType k
  let free := ty == 1 || ty == 6 || ty == 7 || 9 ≤ ty
  s.pktNext k && (0 < q.skip || q.allRetired || (free && !(s.pktD k 0).getLsbD 8)) &&
    (ty != 1 || 0 < q.skip || (s.admits (pktPart s k) && (s.part (pktPart s k)).power != .gated && !s.standby))

/-- A reserved field of the packet is set: of the common dword, and the bits of the body that its type does not use
(R362, R363). -/
def State.pktBad (s : State) (k : PktRef) (used : List DWord) : Bool :=
  bits (s.pktD k 0).toNat 9 55 != 0 ||
    (List.range 6).any fun i => s.pktD k (i + 2) &&& ~~~(used.getD i 0) != 0

/-- The started packet as the engine keeps it. -/
def State.newPkt (s : State) (k : PktRef) (task : Nat) : Pkt :=
  { index := k.index, st := .started, ty := s.pktType k, task := task, comp := s.pktD k 1, startNs := s.now
    body := (List.range 4).map fun i => s.pktD k (i + 2), life := (s.queue k.ldev k.queue).ends.length }

/-- Dword `d` of a started packet. -/
def Pkt.d (p : Pkt) (d : Nat) : DWord := p.body.getD (d - 2) 0

/-- Start a packet: the ACCEPT record, then it is the queue's newest started one. -/
def State.startPkt (s : State) (k : PktRef) (p : Pkt) : State :=
  let s := s.log jACCEPT 0 k.ldev (pktPart s k).part [k.queue, k.index, p.ty, p.task]
  s.modQueue k.ldev k.queue fun q => { q with next := k.index + 1, pkts := q.pkts ++ [p] }

/-- Start a packet and retire it at once. -/
def State.instant (s : State) (k : PktRef) (task status : Nat) : State :=
  let p := s.newPkt k task
  (s.startPkt k p).retirePkt k.ldev k.queue p status

def psSKIPPED : Nat := 8
def psBADPACKET : Nat := 9
def psEXPIRED : Nat := 10
def psERROR : Nat := 11

/-- The frame of a packet's step: it acts when its packet may start, is skipped, or is malformed. -/
def pktStep (k : PktRef) (ty : Nat) (used : List DWord) (s : State) (go : State → State) : State :=
  if s.pktType k != ty || !s.pktStarts k then s
  else if 0 < (s.queue k.ldev k.queue).skip then
    (s.instant k 0 psSKIPPED).modQueue k.ldev k.queue fun q => { q with skip := q.skip - 1 }
  else if s.pktBad k used then s.instant k 0 psBADPACKET
  else go s

/-- All bits of a dword, and its low ones. -/
def allBits : DWord := 0xFFFFFFFFFFFFFFFF
def lowBits (n : Nat) : DWord := BitVec.ofNat 64 (2 ^ n - 1)

/-! ### LAUNCH (R29 to R34) -/

/-- The header's fields (R29) from its sixteen dwords. -/
def readHdr (d : Nat → Nat) : Hdr :=
  { codeh := bits (d 0) 0 32, groupPc := BitVec.ofNat 32 (bits (d 1) 32 32), leadPc := BitVec.ofNat 32 (d 1)
    trapPc := BitVec.ofNat 32 (d 2), widw := (List.range 6).map fun i => bits (d 3) (6 * i) 6, lvl := bits (d 3) 36 3
    widCount := d 4, vregs := bits (d 5) 0 8, groups := bits (d 5) 8 8, tiles := bits (d 5) 16 4
    hslots := bits (d 5) 20 4, scratch := bits (d 5) 32 32, privw := bits (d 6) 0 32, cstk := bits (d 6) 32 32
    uses := BitVec.ofNat 64 (d 7), prio := bits (d 8) 0 3, cosched := bits (d 8) 3 1 == 1
    timeoutUs := bits (d 8) 32 32, paramh := BitVec.ofNat 32 (d 9), resulth := BitVec.ofNat 32 (bits (d 9) 32 32) }

/-- B of R25. -/
def Hdr.crewBits (h : Hdr) : Nat := (h.widw.take h.lvl).sum

/-- VERSION and the reserved fields of R29, and the reserved bits of USES (R404). -/
def hdrRaw (d : Nat → Nat) : Bool :=
  bits (d 7) 34 30 != 0 ||
  bits (d 0) 32 8 != 1 || bits (d 0) 40 24 != 0 || bits (d 3) 39 25 != 0 || bits (d 5) 24 8 != 0 ||
    bits (d 8) 4 28 != 0 || [10, 11, 12, 13, 14, 15].any fun i => d i != 0

/-- A handle index of the header names no VALID entry of the partition; 0xFFFF_FFFF names none. -/
def State.badHandle (s : State) (p : PartRef) (h : Word) : Bool :=
  h.toNat != 0xFFFFFFFF && (h.toNat ≥ 2 ^ 20 || !(s.handle p h.toNat).valid)

/-- An entry offset of R30. -/
def badEntry (size : Nat) (pc : Word) : Bool := pc.toNat % 4 != 0 || size < pc.toNat + 8

/-- HEADER_INVALID of R30, but for the handler table. -/
def State.badHeader (s : State) (p : PartRef) (d : Nat → Nat) (h : Hdr) : Bool :=
  let e := s.handle p h.codeh
  let b := h.crewBits
  let table := bits (d 2) 32 32
  hdrRaw d || 64 < h.widw.sum || 2 ^ h.widw.sum < h.widCount || h.lvl == 0 || h.lvl == 7 || b < 5 || 10 < b ||
    h.groups != 2 ^ (b - 5) || h.vregs == 0 || 64 < h.vregs || 8 < h.tiles || 8 < h.hslots || h.scratch % 1024 != 0 ||
    h.cstk % 32 != 0 || 2 ^ 24 < h.privw || h.codeh ≥ 2 ^ 20 || !e.valid || e.space != 6 || !e.x ||
    s.badHandle p h.paramh || s.badHandle p h.resulth || badEntry e.size h.leadPc || badEntry e.size h.groupPc ||
    (h.trapPc != Config.noneAddr && badEntry e.size h.trapPc) ||
    (h.hslots != 0 && (table % 4 != 0 || e.size < table + 64))

/-- The handler table of a header with handler slots. -/
def State.handTable (s : State) (p : PartRef) (d : Nat → Nat) (h : Hdr) : List Word :=
  if h.hslots = 0 then []
  else
    let base := (s.handle p h.codeh).base + bits (d 2) 32 32
    (List.range 16).map fun i => s.rd32 (memKey p.ldev (base + 4 * i))

/-- Crews of a task (R27). -/
def Hdr.crewCount (h : Hdr) : Nat := (h.widCount + 2 ^ h.crewBits - 1) / 2 ^ h.crewBits

/-- Crews of a header that one empty core holds. -/
def Hdr.perCore (h : Hdr) : Nat := ([1, 2, 3, 4].filter fun n => fitTogether (List.replicate n h)).length

/-- The status with which a launch fails before its arena, in the order of R34. -/
def State.launchFails (s : State) (p : PartRef) (h : Hdr) : Option Nat :=
  let capable := (s.partCores p).filter fun c => maskHolds (s.core c).mask h.uses
  if h.perCore = 0 then some 2
  else if capable.isEmpty then some 3
  else if h.cosched && h.perCore * capable.length < h.crewCount then some 2
  else none

/-- Note, for every queue of a partition, since when it has had a placeable crew (R371). -/
def State.noteWait (s : State) (ldev qn : Nat) (placeable : Bool) : State :=
  s.modQueue ldev qn fun q => { q with waitSince := if placeable then some (q.waitSince.getD s.now) else none }

/-- Start a task whose header has been accepted (R31, R33, R34, R365). -/
def State.launchTask (s : State) (k : PktRef) (p : PartRef) (h : Hdr) : State :=
  let n := Store.get 0 s.nextTask k.ldev + 1
  let s : State := { s with nextTask := Store.set 0 s.nextTask k.ldev n }
  let t : Task :=
    { part := p.part, queue := k.queue, index := k.index, hdr := h, code := s.handle p h.codeh, crews := h.crewCount }
  let failed (s : State) (status : Nat) : State :=
    (s.modTask k.ldev n fun _ => { t with st := .ended, status := status }).instant k n status
  if h.crewCount = 0 then failed s 0
  else match s.launchFails p h with
    | some e => failed s e
    | none =>
      let blocks := min h.crewCount (4 * (s.partCores p).length)
      match s.newPrivate p h blocks with
      | none => failed s 4
      | some (i, base, s) =>
        let s := s.startPkt k (s.newPkt k n)
        s.modTask k.ldev n fun _ =>
          { t with st := .running, blocks := blocks, arena := i, arenaGen := (s.arena (arenaAt p i)).gen, blockBase := base }

/-- LAUNCH: the header's address, the header, the task. -/
def State.launchPkt (s : State) (k : PktRef) : State :=
  let p := pktPart s k
  match s.brewDword p (s.pktD k 2) 128 128 true false with
  | none => s.instant k 0 psERROR
  | some a =>
    let d (i : Nat) : Nat := (s.rd64 (a + 8 * i)).toNat
    let h := readHdr d
    if s.badHeader p d h then s.instant k 0 1
    else
      let h := { h with handTbl := s.handTable p d h }
      let size := (s.handle p h.codeh).size
      if h.handTbl.any fun pc => pc != Config.noneAddr && badEntry size pc then s.instant k 0 1
      else s.launchTask k p h

/-! ### BRANCH, SIGNAL, MARKER, packets of no type -/

def execBranch (k : PktRef) (s : State) : Host.Outcome State Fault Refusal :=
  .next (pktStep k 2 [allBits, allBits, allBits, 0x0000FFFF00000007] s fun s =>
    let c := (s.pktD k 5).toNat
    if 6 ≤ bits c 0 3 then s.instant k 0 psBADPACKET
    else match s.brewDword (pktPart s k) (s.pktD k 2) 8 8 true false with
      | none => s.instant k 0 psERROR
      | some a =>
        let hit := condCC (bits c 0 3) (s.rd64 a &&& s.pktD k 3) (s.pktD k 4)
        (s.instant k 0 0).modQueue k.ldev k.queue fun q => { q with skip := if hit then bits c 32 16 else 0 })

/-- The word a SIGNAL leaves. -/
def signalWord (kind : Nat) (old v : DWord) : DWord := match kind with
  | 0 => v
  | 1 => old + v
  | _ => if old.toNat < v.toNat then v else old

def execSignal (k : PktRef) (s : State) : Host.Outcome State Fault Refusal :=
  .next (pktStep k 5 [allBits, allBits, 0xFFFF0007] s fun s =>
    let c := (s.pktD k 4).toNat
    if bits c 0 2 = 3 then s.instant k 0 psBADPACKET
    else match s.brewDword (pktPart s k) (s.pktD k 2) 8 8 true true with
      | none => s.instant k 0 psERROR
      | some a =>
        let v := signalWord (bits c 0 2) (s.rd64 a) (s.pktD k 3)
        let s := s.wr64 a v.toNat
        (if bits c 2 1 = 1 then s.raise (bits c 16 16) else s).instant k 0 0)

def execMarker (k : PktRef) (s : State) : Host.Outcome State Fault Refusal :=
  .next (pktStep k 8 [allBits, allBits, allBits, allBits, allBits] s fun s =>
    let tag := (List.range 5).map fun i => (s.pktD k (i + 2)).toNat
    (s.log jMARKER 0 k.ldev (pktPart s k).part (k.queue :: k.index :: tag)).instant k 0 0)

def execBadpacket (k : PktRef) (s : State) : Host.Outcome State Fault Refusal :=
  .next (if s.pktType k < 9 then s else pktStep k (s.pktType k) [] s fun s => s.instant k 0 psBADPACKET)

/-! ### WAITTL and DEPEND -/

/-- The started packet that an event names. -/
def State.startedPkt (s : State) (k : PktRef) (ty : Nat) : Option Pkt :=
  let q := s.queue k.ldev k.queue
  (q.orphans ++ q.pkts).find? fun p => p.index == k.index && p.ty == ty && p.st == .started

/-- The word of a WAITTL, read again: it retires once the word is VALUE or more; an address that fails its checks ends
it with ERROR. -/
def State.rereadWait (s : State) (k : PktRef) (p : Pkt) : State :=
  match s.brewDword (pktPart s k) (p.d 2) 8 8 true false with
  | none => s.retirePkt k.ldev k.queue p psERROR
  | some a => if (p.d 3).toNat ≤ (s.rd64 a).toNat then s.retirePkt k.ldev k.queue p 0 else s

def execWaittl (k : PktRef) (s : State) : Host.Outcome State Fault Refusal :=
  .next (pktStep k 3 [allBits, allBits, lowBits 32] s fun s =>
    let p := s.newPkt k 0
    (s.startPkt k p).rereadWait k p)

def execWaittlNotify (k : PktRef) (s : State) : Host.Outcome State Fault Refusal :=
  match s.startedPkt k 3 with
  | some p => .next (s.rereadWait k p)
  | none => still s

/-- A DEPEND retires once its packet has; its queue is one of the same device, at the life that the DEPEND found it in. -/
def State.rereadDepend (s : State) (k : PktRef) (p : Pkt) : State :=
  let q := s.queue k.ldev (bits (p.d 2).toNat 0 12)
  if q.hasRetired p.ref_ (p.d 3).toNat then s.retirePkt k.ldev k.queue p 0 else s

/-- DEPEND starts, and, once started, looks again. -/
def execDepend (k : PktRef) (s : State) : Host.Outcome State Fault Refusal :=
  match s.startedPkt k 4 with
  | some p => .next (s.rereadDepend k p)
  | none => .next (pktStep k 4 [lowBits 12, allBits, lowBits 32] s fun s =>
      if !(s.queue k.ldev (bits (s.pktD k 2).toNat 0 12)).reg then s.instant k 0 psBADPACKET
      else
        let p := { s.newPkt k 0 with ref_ := (s.queue k.ldev (bits (s.pktD k 2).toNat 0 12)).ends.length }
        (s.startPkt k p).rereadDepend k p)

/-- LIMIT of a WAITTL or DEPEND has passed. -/
def execPacketLimit (k : PktRef) (s : State) : Host.Outcome State Fault Refusal :=
  match (s.startedPkt k 3).or (s.startedPkt k 4) with
  | some p =>
    let us := bits (p.d 4).toNat 0 32
    when_ (us != 0 && p.startNs + us * 1000 ≤ s.now) s (s.retirePkt k.ldev k.queue p psEXPIRED)
  | none => still s

/-! ### COPY and DROP -/

/-- The first page of `n` bytes at a key that is not mapped. -/
def State.goneUnit (s : State) (a n : Nat) : Option (Nat × Nat) :=
  if regBase ≤ a then none
  else ((unitsOf 65536 (a % 2 ^ 48) n).find? fun g => !s.pagePresent (keyLdev a) g).map fun g => (keyLdev a, g)

/-- The keys that a COPY reads and writes `n` bytes at, from byte `i`, while its checks hold. -/
def State.copyKeys (s : State) (k : PktRef) (x : Pkt) (i n : Nat) : Option (Nat × Nat) :=
  let p := pktPart s k
  let at_ (d : DWord) (rd wr : Bool) : Option Nat := s.brewAddr p (addrH d) (addrOff d + i) n 1 rd wr
  match at_ (x.d 2) true false, at_ (x.d 3) false true with
  | some a, some b => some (a, b)
  | _, _ => none

/-- Bytes of a COPY's next element, to the end of a destination sector (R240). -/
def Pkt.elem (p : Pkt) : Nat := sectorLeft (addrOff (p.d 3) + p.prog) (bits (p.d 4).toNat 0 41 - p.prog)

/-- The page that a started COPY waits for (R90). -/
def State.pktPage (s : State) (k : PktRef) : Option (Nat × Nat) :=
  (s.startedPkt k 6).bind fun p => (s.copyKeys k p p.prog p.elem).bind fun e =>
    (s.goneUnit e.1 p.elem).or (s.goneUnit e.2 p.elem)

/-- One element of a COPY. A page that is not mapped holds it. -/
def State.copyElem (s : State) (k : PktRef) (p : Pkt) : State :=
  let total := bits (p.d 4).toNat 0 41
  let n := p.elem
  match s.copyKeys k p p.prog n with
  | none => s.retirePkt k.ldev k.queue p psERROR
  | some (a, b) =>
    if (s.goneUnit a n).isSome || (s.goneUnit b n).isSome then s
    else if s.poisoned (keyLoc a) n then s.retirePkt k.ldev k.queue p psERROR
    else
      let s := s.homeWrite none none (.mem b) (s.peekN (keyLoc a) n)
      let p' := { p with prog := p.prog + n }
      let f (x : Pkt) : Pkt := if x == p then p' else x
      let s := s.modQueue k.ldev k.queue fun q => { q with pkts := q.pkts.map f, orphans := q.orphans.map f }
      if total ≤ p'.prog then s.retirePkt k.ldev k.queue p' 0 else s

/-- COPY starts, its whole ranges checked, and then copies element by element. -/
def execCopy (k : PktRef) (s : State) : Host.Outcome State Fault Refusal :=
  match s.startedPkt k 6 with
  | some p => .next (s.copyElem k p)
  | none => .next (pktStep k 6 [allBits, allBits, lowBits 41] s fun s =>
      let n := bits (s.pktD k 4).toNat 0 41
      if n = 0 || 2 ^ 40 < n then s.instant k 0 psBADPACKET
      else if (s.copyKeys k (s.newPkt k 0) 0 n).isNone then s.instant k 0 psERROR
      else s.startPkt k (s.newPkt k 0))

/-- A waiter's fault is resolved, and its word reissues whole, or it is PAGE_FATAL (R90): precise for a word, R19's for an
operation, ERROR for a COPY packet (R363). A pair of a crew that is being pre-empted keeps its word for the resumption. -/
def execPageFaultResolve (w : FaultWaiter) (ldev page : Nat) (ok : Bool) (s : State) :
    Host.Outcome State Fault Refusal :=
  match w with
  | .pair p =>
    let x := s.slot p
    match x.wait with
    | some (.page d g f) =>
      let here := x.st == .blocked && d == ldev && g == page && s.runs p.uid p.tid
      if ok then when_ here s ((s.resolvePage ldev page).modSlot p fun x => { x with st := .ready })
      else when_ (here && (s.crew p.uid).goes) s ((s.drainWindow p.uid p.tid).take p f x.pc x.word)
    | _ => still s
  | .op o => match (s.op? o).bind Op.waitPage with
    | some (d, g, f) =>
      let here := d == ldev && g == page
      if ok then when_ here s (s.resolvePage ldev page)
      else when_ here s ((s.modOp o fun q => { q with waitPage := none }).failOp o f)
    | none => still s
  | .packet k =>
    let here := (s.pktPage k) == some (ldev, page)
    match s.startedPkt k 6 with
    | some p => when_ here s (if ok then s.resolvePage ldev page else s.retirePkt k.ldev k.queue p psERROR)
    | none => still s

/-- DROP starts the drop as `ardrop` does; it retires at its drop-complete. -/
def execDrop (k : PktRef) (s : State) : Host.Outcome State Fault Refusal :=
  .next (pktStep k 7 [lowBits 32] s fun s =>
    let p := pktPart s k
    let name := s.pktD k 2
    if (s.arenaBad p name true badRoot).isSome then s.instant k 0 psERROR
    else (s.startPkt k { s.newPkt k 0 with ref_ := nameIdx name }).startDrop p (nameIdx name))

/-- The DROP packets of a partition that wait for an arena of a set. -/
def State.dropWaiters (s : State) (p : PartRef) (set : List Nat) : List (Nat × Pkt) :=
  (s.queues.filter fun e => e.1 / 4096 == p.ldev && e.2.part == p.part).flatMap fun e =>
    ((e.2.orphans ++ e.2.pkts).filter fun k => k.ty == 7 && k.st == .started && set.contains k.ref_).map fun k =>
      (e.1 % 4096, k)

/-- Drop-complete (R310 step 5): the table, the operations and commands, then the DROP packets that wait for it. -/
def execDropComplete (d : DropEnd) (s : State) : Host.Outcome State Fault Refusal :=
  let p := d.part
  let l := s.dropWaiters p (s.part p).dropMask
  when_ (s.dropAcked p) s (l.foldl (fun s e => s.retirePkt p.ldev e.1 e.2 0) (s.endDrop p d.back))

end Sys2Proof.Machine
end

