-- ==== Sys2Proof/Machine/PlaceEv.lean ====
section
/-! DEFINITION. Placement and pre-emption (R47, R369 to R376), and the ends of crews and tasks (R49 to R52, R379, R380). -/

namespace Sys2Proof.Machine

/-! ### Who is placed next (R369, R370, R372) -/

/-- A crew to place: its index, and its uid if it is SAVED. -/
abbrev Placing := Nat × Option Nat

/-- The crews of a task that are placed together: the next one, or with COSCHED every one that holds no core, once none is on its
way from one (R47). -/
def State.toPlace (s : State) (ldev task : Nat) : List Placing :=
  let t := s.task ldev task
  match s.nextCrewOf ldev task with
  | none => []
  | some x =>
    if !t.hdr.cosched then [x]
    else if (s.taskCrews ldev task).any fun e => e.2.st == .preempting then []
    else
      ((s.taskCrews ldev task).filter fun e => e.2.st == .saved).map (fun e => (e.2.idx, some e.1)) ++
        (List.range (t.crews - t.nextCrew)).map fun i => (t.nextCrew + i, none)

/-- The fitting cores with the fewest resident crews, beside those already chosen (R372); with `soon`, once the pre-emptions under
way have ended. -/
def State.bestCores (s : State) (p : PartRef) (h : Hdr) (x : Placing) (chosen : List Nat) (soon : Bool := false) : List Nat :=
  let n (c : Nat) : Nat := (chosen.filter fun k => k == c).length
  let fit := (s.partCores p).filter fun c =>
    s.fitsCore h c (n c) soon && (match x.2 with
      | some u => s.readyFits (s.crew u) c
      | none => true)
  let size (c : Nat) : Nat := (s.staying c soon).length + n c
  let low := fit.foldl (fun m c => min m (size c)) 1000
  fit.filter fun c => size c == low

/-- Choose a core for each crew of a list, as far as they fit; which of several is a free value. -/
def State.plan (s : State) (p : PartRef) (h : Hdr) (soon : Bool := false) : List Placing → List Nat → List Nat × State
  | [], chosen => (chosen, s)
  | x :: rest, chosen => match s.choose none ((s.bestCores p h x chosen soon).map some) with
    | (none, _) => (chosen, s)
    | (some c, t) => t.plan p h soon rest (chosen ++ [c])

/-- The cores that a list of crews will have once the pre-emptions under way have ended, as far as they reach (R373). -/
def State.planSoon (s : State) (p : PartRef) (h : Hdr) (l : List Placing) : List Nat := (s.plan p h true l []).1

/-- Blocks for the crews of a list that have none (R33). -/
def State.blocksFor (s : State) (ldev task : Nat) (l : List Placing) : Bool :=
  let held := ((s.taskCrews ldev task).filterMap fun e => e.2.block).length
  held + (l.filter fun x => x.2.isNone).length ≤ (s.task ldev task).blocks

/-! ### Victims (R373) -/

/-- Sort by insertion. -/
def insertBy {α : Type} (le : α → α → Bool) (x : α) : List α → List α
  | [] => [x]
  | y :: t => if le x y then x :: y :: t else y :: insertBy le x t
def sortBy {α : Type} (le : α → α → Bool) (l : List α) : List α := l.foldr (insertBy le) []

/-- The effective level of a crew. -/
def State.crewLevel (s : State) (c : Crew) : Nat :=
  let t := s.taskOf c
  t.level (s.queue c.ldev t.queue)

/-- Crews that a crew of base level `lvl` may pre-empt, in order: lowest level, most recently placed, highest core. -/
def State.victims (s : State) (p : PartRef) (lvl : Nat) : List (Nat × Crew) :=
  let ok (e : Nat × Crew) : Bool :=
    e.2.pref == p && e.2.st == .running && e.2.cause.isNone && s.crewLevel e.2 < lvl && e.2.placedNs + 20000 ≤ s.now
  let le (x y : Nat × Crew) : Bool :=
    let a := s.crewLevel x.2
    let b := s.crewLevel y.2
    a < b || (a == b && (y.2.placedNs < x.2.placedNs || (y.2.placedNs == x.2.placedNs && y.2.core ≤ x.2.core)))
  sortBy le (s.crews.filter ok)

/-- The first crews of a list whose leaving lets one more crew of a header fit a core. -/
def State.enough (s : State) (h : Hdr) (core extra : Nat) : List Nat → List Nat → Option (List Nat)
  | [], _ => none
  | u :: rest, gone =>
    let gone := gone ++ [u]
    let left := (s.staying core true).filter fun v => !gone.contains v
    if fitTogether (left.map (fun v => s.hdrOf (s.crew v)) ++ List.replicate (extra + 1) h) then some gone
    else s.enough h core extra rest gone

/-- The victims on a core, if enough of them would let the crew fit there. -/
def State.victimsOn (s : State) (h : Hdr) (l : List (Nat × Crew)) (core extra : Nat) : Option (List Nat) :=
  if !(maskHolds (s.core core).mask h.uses && s.kilnOpen core h.uses) then none
  else s.enough h core extra ((l.filter fun e => e.2.core == core).map Prod.fst) []

/-- The core whose victims come first in the order, and its victims. -/
def State.victimCore (s : State) (p : PartRef) (h : Hdr) (lvl : Nat) (chosen : List Nat) : Option (Nat × List Nat) :=
  let l := s.victims p lvl
  l.findSome? fun e =>
    (s.victimsOn h l e.2.core (chosen.filter fun k => k == e.2.core).length).map fun v => (e.2.core, v)

/-! ### Pre-emption (R374) -/

/-- Start to pre-empt a crew: its pairs stop at boundaries, its contexts freeze. -/
def State.preempt (s : State) (uid : Nat) : State :=
  s.modCrew uid fun c =>
    if c.st != .running then c
    else { c with st := .preempting, cpy := c.cpy.setFreeze true true, mtx := c.mtx.setFreeze false true }

/-- Pre-empt a crew, and with it every crew of a COSCHED task (R47). -/
def State.preemptAll (s : State) (uid : Nat) : State :=
  let c := s.crew uid
  if (s.hdrOf c).cosched then (s.taskCrews c.ldev c.task).foldl (fun s e => s.preempt e.1) s else s.preempt uid

/-- No pair of the crew is inside a clause, and no operation is left that pre-emption waits for (R246, R254, R343). -/
def Crew.quiet (c : Crew) : Bool := c.threads.all fun e => !e.2.arch.a.holds && !e.2.arch.b.holds

def Crew.opsSettled (c : Crew) : Bool :=
  c.msg.ops.all (fun o => o.opcode == 6) && c.cpy.ops.all fun o => o.stops true || (o.st == .accepted && !c.cpy.mayStart o false)

/-- The crew has accepted a tile of a multicast that it has not acknowledged (R246). -/
def State.hearsTile (s : State) (uid : Nat) : Bool := s.crews.any fun e => e.2.cpy.ops.any fun o =>
  o.opcode == 2 && (List.range 64).any fun b =>
    o.heard.getLsbD b && !(o.accMask ||| o.refMask).getLsbD b && s.tileCrew ⟨e.1, .copy, o.num⟩ o b == some uid

/-! ### Placeable crews, levels and turns (R369 to R371) -/

/-- A queue's candidate at a level: the oldest task of that level with a crew to place. -/
def State.candidate (s : State) (p : PartRef) (lvl qn : Nat) (q : Queue) : Option Nat :=
  ((s.queueTasks p.ldev qn).find? fun e => e.2.level q == lvl && (match s.nextCrewOf p.ldev e.1 with
    | some (_, none) => s.admits p
    | some _ => true
    | none => false)).map Prod.fst

/-- The candidate can be placed now, or can pre-empt (R372). -/
def State.placeable (s : State) (p : PartRef) (lvl qn : Nat) (q : Queue) : Bool :=
  (s.part p).power != .gated && !s.standby && match s.candidate p lvl qn q with
  | none => false
  | some n =>
    let t := s.task p.ldev n
    let l := s.toPlace p.ldev n
    let chosen := (s.plan p t.hdr false l []).1
    let later := s.planSoon p t.hdr l
    !l.isEmpty && s.blocksFor p.ldev n l && (chosen.length == l.length ||
      (q.preempt && (later.length == l.length || (s.victimCore p t.hdr (t.base q) later).isSome)))

/-- The queues of a partition with a placeable crew at a level. -/
def State.ready? (s : State) (p : PartRef) (lvl : Nat) : List (Nat × Queue) :=
  (s.partQueues p).filter fun e => s.placeable p lvl e.1 e.2

/-- Queues without a placeable crew have no deficit and no wait; the others wait from now on if they did not (R370,
R371). -/
def State.noteWaits (s : State) (p : PartRef) : State :=
  (s.partQueues p).foldl (fun s e =>
    let on := (List.range 8).any fun l => s.placeable p l e.1 (s.queue p.ldev e.1)
    (s.noteWait p.ldev e.1 on).modQueue p.ldev e.1 fun q => if on then q else { q with deficit := 0 }) s

/-- LAUNCH; an accepted one is a placement opportunity, at which its queue begins to wait (R369, R371). -/
def execLaunch (k : PktRef) (s : State) : Host.Outcome State Fault Refusal :=
  .next (pktStep k 1 [allBits] s fun s => (s.launchPkt k).noteWaits (pktPart s k))

/-- The next queue of a level after the current one, in number order with wrap (R370). -/
def nextQueue (cur : Option Nat) (l : List (Nat × Queue)) : Option Nat :=
  match cur with
  | none => l.head?.map Prod.fst
  | some c => ((l.find? fun e => c < e.1).or l.head?).map Prod.fst

/-- A turn: the next queue is current, and its deficit rises by 2^QLOG, at most to twice that. -/
def State.turn (s : State) (p : PartRef) (lvl : Nat) (l : List (Nat × Queue)) : State :=
  match nextQueue (Store.get none (s.part p).curQueue lvl) l with
  | none => s
  | some n =>
    let s := s.modPart p fun q => { q with curQueue := Store.set none q.curQueue lvl (some n) }
    s.modQueue p.ldev n fun q => { q with deficit := min (q.deficit + 2 ^ q.qLog) (2 * 2 ^ q.qLog) }

/-- A level whose current queue has lost its last placeable crew has none (R370). -/
def State.dropCurrent (s : State) (p : PartRef) (lvl : Nat) (l : List (Nat × Queue)) : State :=
  match Store.get none (s.part p).curQueue lvl with
  | some n => if l.any fun e => e.1 == n then s
      else s.modPart p fun q => { q with curQueue := Store.set none q.curQueue lvl none }
  | none => s

/-! ### Placing (R35, R372, R375) -/

/-- The mask of a group's slot A (R27). -/
def startMask (h : Hdr) (first : Nat) : Word := laneMask fun l => decide (first + l < h.widCount)

/-- h1 of a group: its private memory in the crew's block (R33, R35); with PRIVW 0 the entry has VALID 0 (R219). The order of the
parts of a block, private memory first, and of the blocks in the arena is the model's choice (log entry 67). -/
def blockReg (t : Task) (block g : Nat) : HReg :=
  let n := t.hdr.privw * 128
  let e := HEntry.make (t.blockBase + block * t.hdr.blockBytes + g * n) n t.arenaGen t.arena 1 0 true true false 0 0 0
  { ent := if n = 0 then e.invalidate else e }

/-- The started groups and the lead of a new crew (R27, R35). -/
def State.newThreads (s : State) (c : Crew) (t : Task) : Store Thread :=
  let h := t.hdr
  let base := c.idx * 2 ^ h.crewBits
  let groups := (List.range h.groups).filterMap fun g =>
    let m := startMask h (base + 32 * g)
    if m == 0 then none
    else some (g, freshThread h.groupPc m (s.scratchReg c) (blockReg t (c.block.getD 0) g) s.issueCtr)
  (groups ++ [(leadTid, freshThread h.leadPc 1 (s.scratchReg c) {} s.issueCtr)]).map fun (e : Nat × Thread) =>
    (e.1, { e.2 with floor := s.writes })

/-- Trace of a crew starts: every occupied slot owes a SYNC (R426). -/
def Crew.traceOn (c : Crew) (t : Task) (cyc : Nat) : Crew :=
  let x : TraceSt := { on := true, lead := t.traceLead, port := t.tracePort, syncLog := t.traceLog, tick := cyc / 2 ^ t.traceLog }
  let c := { c with trace := x }
  { c with trace := { x with sync := c.syncPairs } }

/-- The lowest free crew slot of a core. -/
def State.freeCslot (s : State) (core : Nat) : Nat :=
  ([0, 1, 2, 3].find? fun k => Store.get 0 (s.core core).cslots k == 0).getD 0

/-- A crew takes a slot of a core (R32, R372): what the core's L1 holds is written back and invalidated first. -/
def State.takeCore (s : State) (uid core : Nat) : State :=
  let k := s.freeCslot core
  let p := (s.crew uid).pref
  let s := ((s.wakePart p).applyAll core).writeBack core fun _ => true
  let s := s.modCore core fun c => { c with cslots := Store.set 0 c.cslots k uid }
  s.modCrew uid fun c => { c with core := core, cslot := k, placedNs := s.now, placedCyc := s.cycles }

/-- Make the crew's REGWIN entry (R83). -/
def State.makeRegwin (s : State) (uid : Nat) : State :=
  let c := s.crew uid
  let t := s.taskOf c
  match s.freeHandle c.pref with
  | (none, s) => s
  | (some i, s) =>
    let e := HEntry.make 0 327680 t.arenaGen t.arena 5 0 true false false 0 0 0
    (s.setHandle c.pref i e).modCrew uid fun c => { c with regwin := some i }

/-- Place a PENDING crew: it runs with the state of R35; the private memory and control stacks of its block read 0 (R33). -/
def State.placeNew (s : State) (p : PartRef) (task idx core : Nat) : State :=
  let t := s.task p.ldev task
  let uid := s.nextUid
  let block := s.freeBlock p.ldev task
  let c : Crew := { ldev := p.ldev, part := p.part, task := task, idx := idx, st := .running, block := block }
  let s : State := { s with nextUid := uid + 1 }
  let s := (s.setCrew uid c).takeCore uid core
  let s := s.makeRegwin uid
  let own := s.blockOf (s.crew uid)
  let s := if block.isSome then s.zeroRange own.1 own.2 else s
  let threads := s.newThreads (s.crew uid) t
  let s := s.modCrew uid fun c => { c with threads := threads }
  let s := if t.traced then (s.modCrew uid fun c => c.traceOn t s.cycles).namePacket uid else s
  s.modTask p.ldev task fun t => { t with nextCrew := max t.nextCrew (idx + 1), firstNs := some (t.firstNs.getD s.now) }

/-- Place a SAVED crew: the restore routine takes it from here. -/
def State.placeSaved (s : State) (uid core : Nat) : State :=
  (s.takeCore uid core).modCrew uid fun c => { c with st := .placing }

/-- Place the crews of a list on the cores of a plan. -/
def State.placeList (s : State) (p : PartRef) (task : Nat) : List (Placing × Nat) → State
  | [] => s
  | ((idx, none), core) :: rest => (s.placeNew p task idx core).placeList p task rest
  | ((_, some u), core) :: rest => (s.placeSaved u core).placeList p task rest

/-- Serve the current queue of a level (R370, R372): place its candidate with the first crew on `core`, or pre-empt the
victims of `core`, unless the pre-emptions under way make room (R373); nothing where `core` is not one the engine may take. -/
def State.serve (s : State) (p : PartRef) (lvl qn core : Nat) : State :=
  let q := s.queue p.ldev qn
  match s.candidate p lvl qn q with
  | none => s
  | some n =>
    let t := s.task p.ldev n
    match s.toPlace p.ldev n with
    | [] => s
    | x :: rest =>
      if !s.blocksFor p.ldev n (x :: rest) then s
      else
        let chosen := if (s.bestCores p t.hdr x []).contains core then s.plan p t.hdr false rest [core] else ([], s)
        if chosen.1.length == rest.length + 1 then
          let s := chosen.2.placeList p n ((x :: rest).zip chosen.1)
          (s.modQueue p.ldev qn fun q => { q with waitSince := none }).noteWaits p
        else
          let some_ := s.planSoon p t.hdr (x :: rest)
          if some_.length == rest.length + 1 || !q.preempt then s
          else match s.victimCore p t.hdr (t.base q) some_ with
            | some (k, v) => if k == core then (v.foldl State.preemptAll s).noteWaits p else s
            | none => s

/-- A placement opportunity (R369 to R373): the highest level with a placeable crew; its current queue is served while
its deficit is positive, else the next queue takes a turn. -/
def execPlacement (p : PartRef) (core : Nat) (s : State) : Host.Outcome State Fault Refusal :=
  match [7, 6, 5, 4, 3, 2, 1, 0].find? fun l => !(s.ready? p l).isEmpty with
  | none => still s
  | some lvl =>
    let l := s.ready? p lvl
    let s := s.dropCurrent p lvl l
    match Store.get none (s.part p).curQueue lvl with
    | none => .next (s.turn p lvl l)
    | some n => if 0 < (s.queue p.ldev n).deficit then .next (s.serve p lvl n core) else .next (s.turn p lvl l)

def execQueueAged (ldev queue : Nat) (s : State) : Host.Outcome State Fault Refusal :=
  let q := s.queue ldev queue
  let due := match q.waitSince with
    | some t => decide (t + q.ageUs * 1000 ≤ s.now)
    | none => false
  when_ (due && !q.aged) s (s.modQueue ldev queue fun q => { q with aged := true, agedCharge := 0 })

/-! ### Saving and resuming (R374, R375) -/

/-- Every word of a crew has left its windows, and every store of it has been performed, posted ones too (R112). -/
def State.settleCrew (s : State) (uid : Nat) : State :=
  ((s.crew uid).threads.map Prod.fst).foldl (fun s t => (s.drainWindow uid t).drainAll uid t) s

/-- Its parked messages leave the core's cellar with the crew (R329). -/
def State.saveMessages (s : State) (uid : Nat) : State :=
  let c := s.crew uid
  let mine (m : Parked) : Bool := m.dest == uid && m.group.isNone
  let l := (s.core c.core).cellar.filter mine
  (s.unpark c.core mine).modCrew uid fun c => { c with savedMsgs := c.savedMsgs ++ l }

/-- The groups and the lead of a crew have entered privileged code for a cause: 0 the save routine, 1 the restore routine (R374,
R375, R399). -/
def Crew.entered (c : Crew) (cause : Nat) : Crew :=
  let f (t : Thread) : Thread := if t.st == .running then t.modArch fun a => { a with cause := cause } else t
  { c with threads := c.threads.map fun (e : Nat × Thread) => (e.1, f e.2) }

def execSaveComplete (uid : Nat) (s : State) : Host.Outcome State Fault Refusal :=
  let c := s.crew uid
  when_ (c.st == .preempting && c.cause.isNone && c.quiet && c.opsSettled && !s.hearsTile uid && c.cpy.frozen && c.mtx.frozen) s
    (((((s.settleCrew uid).withdrawAll uid true).saveMessages uid).leaveCore uid).modCrew uid (fun c =>
      { c.entered 0 with st := .saved }) |>.noteWaits c.pref)

/-- Advertise a crew's saved readiness again, with handler slots reserved anew for SPAWN mode (R335). -/
def State.readvertise (s : State) (uid : Nat) : State :=
  (s.crew uid).ready.foldl (fun s e =>
    let n := e.2.saved
    if n = 0 then s
    else
      let c := s.crew uid
      let take := if e.2.spawn then (s.openSlots uid).take n else []
      let s := s.modReady uid e.1 fun r => { r with amount := n, saved := 0, slots := take }
      s.modPart c.pref fun q => q.modNode e.1 c.core fun x => { x with l := x.l + n }) s

/-- Ages restart at 0 (R112); what was performed before is before what follows (R107). -/
def Thread.restored (t : Thread) (writes : Nat) : Thread :=
  { t with swapped := false, arch := t.arch.mapSlots fun x => { x with age := 0 }, floor := writes, seen := [] }

/-- The restore routine ends: the crew runs on its new core (R375), or is RETIRING if nothing of it runs any more (R53). -/
def State.restoreCrew (s : State) (uid : Nat) : State :=
  let c := s.crew uid
  let msgs := c.savedMsgs
  let s := s.modCore c.core fun k => { k with cellar := msgs ++ k.cellar }
  let s := s.modCrew uid fun c =>
    { c with st := .running, savedMsgs := [], cpy := c.cpy.setFreeze true false, mtx := c.mtx.setFreeze false false
             threads := (c.entered 1).threads.map fun (e : Nat × Thread) => (e.1, e.2.restored s.writes)
             trace := { c.trace with sync := if c.trace.on then c.syncPairs else [] } }
  ((s.namePacket uid).readvertise uid).retireIdle uid

/-- The crews that resume with one: those of a COSCHED task that are PLACING with it (R47). -/
def State.resumesWith (s : State) (uid : Nat) : List Nat :=
  let c := s.crew uid
  if (s.hdrOf c).cosched then
    ((s.taskCrews c.ldev c.task).filter fun e => e.2.st == .placing && e.2.cause.isNone).map Prod.fst
  else [uid]

def execCrewResume (uid core : Nat) (s : State) : Host.Outcome State Fault Refusal :=
  let c := s.crew uid
  when_ (c.st == .placing && c.core == core && c.cause.isNone) s ((s.resumesWith uid).foldl State.restoreCrew s)

/-! ### Retirement (R49, R50, R366, R367) -/

/-- R49's conditions on operations and stores. -/
def Crew.idleWork (c : Crew) : Bool :=
  c.cpy.ops.isEmpty && c.mtx.ops.isEmpty && c.arn.ops.isEmpty && c.msg.ops.isEmpty && c.threads.all fun e => e.2.sq.isEmpty

/-- Every crew of a task has ended, and none is still to be placed. -/
def State.crewsEnded (s : State) (ldev task : Nat) : Bool :=
  let t := s.task ldev task
  (s.taskCrews ldev task).isEmpty && (t.st == .ending || (t.st == .running && t.nextCrew == t.crews))

/-- Once every crew of a task has ended, its collectives end: the rounds in progress are ABORTED and the IDs are free (R344). -/
def State.endColls (s : State) (ldev task : Nat) : State :=
  let p : PartRef := ⟨ldev, (s.task ldev task).part⟩
  if !s.crewsEnded ldev task then s
  else ((s.part p).colls.filter fun e => e.2.live && e.2.task == task).foldl (fun s e => s.freeColl p e.1) s

/-- Note when the last crew of a task has ended (R52). -/
def State.noteEnd (s : State) (ldev task : Nat) : State :=
  if s.crewsEnded ldev task then s.modTask ldev task fun t => { t with endNs := some s.now } else s

def execCrewRetire (uid : Nat) (s : State) : Host.Outcome State Fault Refusal :=
  let c := s.crew uid
  when_ (c.st == .retiring && c.cause.isNone && c.quiet && c.idleWork && !s.hearsTile uid) s
    ((((s.removeCrew uid).endColls c.ldev c.task).noteEnd c.ldev c.task).noteWaits c.pref)

/-- The commands that wait for the end of a task's kill (R387). -/
def State.answerKills (s : State) (ldev task : Nat) : State :=
  let part := (s.task ldev task).part
  let more := s.tasks.any fun e =>
    e.1 / 2 ^ 32 == ldev && e.2.part == part && e.2.st == .ending && taskNo e.1 != task
  s.answerAll (fun c => c.cmd.ldev.toNat == ldev && ((c.cmd.opcode == 0x21 && c.ref_ == task) ||
    (c.cmd.opcode == 0x22 && c.cmd.part.toNat == part && !more))) stOK

/-- The end of a task: RESULT is written (R367), then its packet retires. -/
def State.endTask (s : State) (ldev task : Nat) : State :=
  let t := s.task ldev task
  let p : PartRef := ⟨ldev, t.part⟩
  let (s, status) := match t.result with
    | some v =>
      if t.status ≠ 0 || t.hdr.resulth.toNat = 0xFFFFFFFF then (s, t.status)
      else match s.brewAddr p t.hdr.resulth.toNat 0 8 8 false true with
        | some a => (s.wr64 a v.toNat, 0)
        | none => (s, psERROR)
    | none => (s, t.status)
  let s := s.modTask ldev task fun t => { t with st := .ended, status := status }
  match (s.queue ldev t.queue).launchOf task with
  | some k => s.retirePkt ldev t.queue k status
  | none => s

/-- The private arena of a task is gone. -/
def State.arenaGone (s : State) (ldev task : Nat) : Bool :=
  let t := s.task ldev task
  let a := s.arena ⟨ldev, t.part, t.arena⟩
  a.st == .free || a.gen != t.arenaGen

/-- A task whose crews have ended drops its private arena; once that is gone, it ends (R50, R51). -/
def execTaskRetire (ldev task : Nat) (s : State) : Host.Outcome State Fault Refusal :=
  let t := s.task ldev task
  if s.crewsEnded ldev task then
    .next ((((s.endColls ldev task).startDrop ⟨ldev, t.part⟩ t.arena).modTask ldev task fun t => { t with st := .dropping }).answerKills ldev task)
  else when_ (t.st == .dropping && s.arenaGone ldev task) s (s.endTask ldev task)

/-- TIMEOUT (R52): device time since the first placement, but for the time a crew of the task stood stopped (R417). After the last
crew has ended it counts only if that was not before its microsecond. -/
def State.timedOut (s : State) (ldev task : Nat) : Bool :=
  let t := s.task ldev task
  match t.firstNs with
  | some f =>
    let due := f + t.pausedNs + t.hdr.timeoutUs * 1000
    t.st == .running && t.hdr.timeoutUs != 0 && t.pausedAt.isNone && due ≤ s.now && match t.endNs with
      | some e => due / 1000 ≤ e / 1000
      | none => true
  | none => false

def execTaskTimeout (ldev task : Nat) (s : State) : Host.Outcome State Fault Refusal :=
  when_ (s.timedOut ldev task) s (s.killTask 0 ldev task 5 .timeout)

/-! ### Kills (R248, R286, R343, R379, R380) -/

/-- The crew waits for its fatal dump (R411). -/
def State.waitsDump (s : State) (uid : Nat) : Bool :=
  let q := s.part (s.crew uid).pref
  q.dumping == some uid || q.dumpQueue.contains uid

/-- Withdraw a message operation whose payload has not been read (R329, R343). -/
def State.withdrawOp (s : State) (uid : Nat) (op : Op) : State :=
  let o : OpRef := ⟨uid, .message, op.num⟩
  let p := (s.crew uid).pref
  if op.opcode == 6 then s.modGroup p op.ref_ fun g => { g with delOp := none }.tryEnd
  else if op.st == .done then s
  else match op.opcode with
    | 0 =>
      let mine (m : Parked) : Bool := m.sender == some o && m.group.isNone && !m.arrived
      let crew (c : Crew) : Crew := { c with savedMsgs := c.savedMsgs.filter fun m => !mine m }
      let s := (s.cores.map Prod.fst).foldl (fun s k => s.unpark k mine) s
      { s with crews := s.crews.map fun (e : Nat × Crew) => (e.1, crew e.2) }
    | 1 => match (s.group p op.ref_).msgs.find? fun m => m.sender == o with
      | some m => s.dropMsg ⟨p.ldev, p.part, op.ref_, m.id⟩
      | none => s
    | 8 => s.modColl p op.ref_ fun c =>
        { c with rounds := c.rounds.map fun r =>
            { r with posts := r.posts.filter fun q => !(q.uid == uid && q.num == op.num) } }
    | _ => s

/-- The crew's engines are stopped and its unperformed writes are discarded; from here on it is KILLING. -/
def State.stopEngines (s : State) (uid : Nat) : State :=
  let s := (s.crew uid).msg.ops.foldl (fun s op => s.withdrawOp uid op) s
  s.modCrew uid fun c =>
    { c with
      st := .killing
      cpy := { c.cpy with ops := [] }
      mtx := { c.mtx with ops := [] }
      msg := { c.msg with ops := [] }
      threads := c.threads.map fun (e : Nat × Thread) =>
        (e.1, { e.2 with sq := [], window := [], pendA := [], pendB := [], fence := none }) }

def execKill (uid : Nat) (s : State) : Host.Outcome State Fault Refusal :=
  let c := s.crew uid
  when_ (c.cause.isSome && c.st != .killing && c.st != .retired && c.quiet && !s.waitsDump uid) s (s.stopEngines uid)

/-- The acknowledgements have come: what the crew held is scrubbed, and it is RETIRED. -/
def execKillComplete (uid : Nat) (s : State) : Host.Outcome State Fault Refusal :=
  let c := s.crew uid
  when_ (c.st == .killing) s (((s.removeCrew uid).endColls c.ldev c.task).noteWaits c.pref)

end Sys2Proof.Machine
end

