-- ==== Sys2Proof/Machine/DumpEv.lean ====
section
/-! DEFINITION. Dumps (R409 to R411): the image of a crew, requested dumps and fatal dumps. -/

namespace Sys2Proof.Machine

/-! ### Sections (R410) -/

def dwordBytes (d : DWord) : List Byte := leBytes 8 d.toNat

/-- PRIV: each dirty line of the crew's block, with its offset there (log entry 67). -/
def State.privSection (s : State) (c : Crew) : List Byte :=
  ((s.core c.core).dirty.filter fun e => s.blockLine c e.1).flatMap fun e =>
    leBytes 8 (128 * e.1 - (s.blockOf c).1) ++ s.peekN (.mem (128 * e.1)) 128

/-- A section of a crew's dump. -/
def State.dumpSection (s : State) (uid k : Nat) : List Byte :=
  let c := s.crew uid
  let h := s.hdrOf c
  let t : State := { s with cur := { uid := uid } }
  match k with
  | 0 => h.tids.flatMap fun g => s.peekN (.reg uid (g * 8192)) 8192
  | 1 => (h.tids ++ [leadTid]).flatMap fun g => (List.range 256).flatMap fun i => dwordBytes (s.privReg uid g i)
  | 2 => s.peekN (.scr uid 0) (h.scratch + 128 * h.hslots)
  | 3 => (List.range h.groups).flatMap fun g =>
      (List.range (h.cstk / 32)).flatMap fun i => (Store.get .free (c.thread g).arch.cstk i).bytes
  | 4 => (List.range 0x204).flatMap (fun i => dwordBytes (t.rdCprog i)) ++
      (List.range 0x205).flatMap (fun i => dwordBytes (t.rdMprog i)) ++
      (List.range 0x800).flatMap fun i => dwordBytes (t.rdMprog (0x400 + i))
  | 5 => (List.range (h.tiles * 16384)).flatMap fun i => leBytes 4 (Store.get 0 c.tiles i).toNat
  | _ => s.privSection c

/-- The sections of a mask with their numbers, in order. -/
def State.dumpBody (s : State) (uid mask : Nat) : List (Nat × List Byte) :=
  ((List.range 7).filter fun k => bits mask k 1 == 1).map fun k => (k, s.dumpSection uid k)

/-- Bytes that the full dump needs. -/
def dumpNeeds (l : List (Nat × List Byte)) : Nat := 256 + (l.map fun x => x.2.length).sum

/-- The (offset, length) pairs of the sections as far as `room` bytes reach. -/
def dumpSects : List (Nat × List Byte) → Nat → Nat → List (Nat × Nat × Nat)
  | [], _, _ => []
  | (k, b) :: rest, off, room =>
    let n := min b.length (room - off)
    (k, off, n) :: dumpSects rest (off + n) room

/-- What a header says beside its sections. -/
structure DumpHead where
  fatal : Bool
  time : Nat
  proc : DWord
  taskCrew : Nat
  where_ : Nat
  rec_ : TrapRec
  nested : Nat
  nrec : TrapRec

def recBytes (r : TrapRec) : List Byte := dwordBytes r.d0 ++ dwordBytes r.d1 ++ dwordBytes r.d2 ++ dwordBytes r.d3

/-- The 256-byte header (R410). -/
def DumpHead.bytes (h : DumpHead) (size : Nat) (sects : List (Nat × Nat × Nat)) : List Byte :=
  let sect (k : Nat) : List Byte := match sects.find? fun e => e.1 == k with
    | some (_, off, n) => if n = 0 then List.replicate 16 0 else leBytes 8 off ++ leBytes 8 n
    | none => List.replicate 16 0
  leBytes 8 (0x41534850 * 2 ^ 32 + 65536) ++ leBytes 8 size ++ leBytes 8 (boolNat h.fatal) ++ leBytes 8 h.time ++
    dwordBytes h.proc ++ leBytes 8 h.taskCrew ++ leBytes 8 h.where_ ++ leBytes 8 0 ++ recBytes h.rec_ ++
    leBytes 8 h.nested ++ recBytes h.nrec ++ (List.range 7).flatMap sect ++ leBytes 8 0

/-- The bytes of the sections of a dump in `room` bytes. -/
def dumpSectBytes (l : List (Nat × List Byte)) (room : Nat) : List Byte := (l.flatMap Prod.snd).take (room - 256)

/-- The bytes of a dump in `room` bytes: the sections while room remains, then the header. -/
def dumpImage (h : DumpHead) (l : List (Nat × List Byte)) (room : Nat) : List Byte :=
  let body := dumpSectBytes l room
  let size := min room (256 + body.length)
  ((h.bytes size (dumpSects l 256 room)) ++ body).take room

/-- The crew has come to rest: no pair is inside a clause, and its copy and matrix operations have done their work
(R417). -/
def Crew.atRest (c : Crew) : Bool :=
  c.quiet && c.cpy.ops.all (fun o => o.st == .done) && c.mtx.ops.all fun o => o.st == .done

/-! ### Requested dumps (R409) -/

/-- Whether the ashpit can write a range of an entry of a crew: steps 1 to 5, the last at the home, and the pages. -/
def State.dumpWritable (s : State) (uid : Nat) (h : HReg) (off n : Nat) : Bool :=
  match s.checkOne (s.crew uid).pref 0 h ⟨n, 1, false, true⟩ (s.locOf uid h none off).slice 8 (BitVec.ofNat 64 off) with
  | .ok => true
  | _ => false

/-- The header of a requested dump of a pair. -/
def State.askedHead (s : State) (p : PairRef) : DumpHead :=
  let c := s.crew p.uid
  { fatal := false, time := c.stopNs, proc := s.procOf c, taskCrew := c.taskCrew
    where_ := whereDword c.core p.tid p.slotB, rec_ := {}, nested := 0, nrec := {} }

/-- The dump that a pair asked for is written, whole or as far as it fits, and the crew's dirty private lines are written home; the
crew resumes unless a hit or a halt has stopped it meanwhile, and the word reissues with its status. Where a write of the dump fails, the bytes of its
sections that were written before, ahead of the header, stay. -/
def execRequestedDumpComplete (p : PairRef) (e : DumpEnd) (s : State) : Host.Outcome State Fault Refusal :=
  let c := s.crew p.uid
  match (s.slot p).wait with
  | some (.dump h _ off room mask) =>
    if !(c.stop.isSome && c.atRest && c.cause.isNone) then still s
    else
      let l := s.dumpBody p.uid mask
      let need := dumpNeeds l
      let open_ := room = 0 || s.dumpWritable p.uid h off room
      let status := if !(e.ok && open_) then 2 else if room < need then 1 else 0
      let ar := if h.ent.space == 0 || h.ent.space == 5 then none else some (h.ent.arenaRef c.pref)
      let put (at_ : Nat) (bs : List Byte) : State := s.homeWrite (some c.core) ar (s.locOf p.uid h none at_) bs
      let t := if !open_ then s
        else if e.ok then put off (dumpImage (s.askedHead p) l room) else put (off + 256) ((dumpSectBytes l room).take e.n)
      let t := t.writeBack c.core (s.blockLine c)
      .next ((if c.stop == some .dump then t.unstop p.uid else t).modSlot p fun x =>
        { x with st := .ready, wait := some (.released (BitVec.ofNat 64 (status * 2 ^ 56 + need % 2 ^ 32)) 0) })
  | _ => still s

/-! ### Fatal dumps (R411) -/

/-- The header of a fatal dump. -/
def State.fatalHead (s : State) (uid : Nat) : DumpHead :=
  let c := s.crew uid
  { fatal := true, time := c.stopNs, proc := s.procOf c, taskCrew := c.taskCrew, where_ := c.fatalWhere.toNat
    rec_ := c.fatalRec.getD {}, nested := c.nested, nrec := c.nrec }

/-- The ashpit goes on to the next queued dump. -/
def Part.nextDump (q : Part) : Part := { q with dumping := q.dumpQueue.head?, dumpQueue := q.dumpQueue.drop 1 }

/-- The fatal dump in progress ends: it is written, or a write of it faults and the bytes of its sections that were written
before stay; so or where its target fails the checks, only the journal record follows. The rest of the task is killed then. -/
def execDumpWritten (p : PartRef) (e : DumpEnd) (s : State) : Host.Outcome State Fault Refusal :=
  let q := s.part p
  match q.dumping, q.dumpTarget with
  | some uid, some (addr, room) =>
    let c := s.crew uid
    if !c.quiet then still s
    else
      let l := s.dumpBody uid 127
      let code := bits ((c.fatalRec.getD {}).d0).toNat 0 8
      let t := match s.brewDword p addr room 1 false true, e.ok with
        | some a, true => (s.homeWrite none none (.mem a) (dumpImage (s.fatalHead uid) l room)).logFault c code 0
        | some a, false => (s.homeWrite none none (.mem (a + 256)) ((dumpSectBytes l room).take e.n)).logFault c code 2
        | none, _ => s.logFault c code 2
      let t := t.writeBack c.core (s.blockLine c)
      .next ((t.modPart p Part.nextDump).killCrews 0 c.ldev c.task .fatal)
  | some uid, none =>
    let c := s.crew uid
    let code := bits ((c.fatalRec.getD {}).d0).toNat 0 8
    .next (((s.logFault c code 2).modPart p Part.nextDump).killCrews 0 c.ldev c.task .fatal)
  | _, _ => still s

end Sys2Proof.Machine
end

