-- ==== Sys2Proof/Machine/CmdEv.lean ====
section
/-! DEFINITION. The command interface (R383 to R389, R459): the frame of every command, ownership, queues, kills, arenas,
memory, the host windows, interrupts, the journal, power requests and partition changes. -/

namespace Sys2Proof.Machine

/-! ### The frame of a command (R385, R386, R459) -/

/-- Who may issue a command. -/
inductive Needs where
  | any | owner | os | mgmt
deriving DecidableEq, Repr

def State.allowed (s : State) (n : Needs) (m : Master) : Bool := match n with
  | .any => true
  | .owner => s.owner == some m
  | .os => m == .os
  | .mgmt => m == .mgmt

/-- A command's rule: opcode, DEBUG subcode, who issues it, whether it is signed, what it names (0 the package, 1 a device,
2 a partition), and whether its arguments are in range. -/
structure CmdRule where
  op : Nat
  sub : Option Nat := none
  who : Needs := .owner
  signed : Bool := false
  scope : Nat := 2
  range : Bool := true

/-- Argument `i` of a command. -/
def cArg (c : Cmd) (i : Nat) : DWord := c.args.getD i 0
def cArgN (c : Cmd) (i : Nat) : Nat := (cArg c i).toNat

/-- The master's commands that have not been answered. -/
def State.outstanding (s : State) (m : Master) : Nat := (s.cmds.filter fun p => p.cmd.source == m).length

/-- The brewhouse takes a command; the operating system's advances CMDRD, which CMDWR is never behind (R388). -/
def State.takeCmd (s : State) (c : Cmd) : State := match c.source with
  | .os =>
    let k := s.winReg 0xC008 + 1
    (s.setWin 0xC008 k).setWin 0xC000 (if (s.winReg 0xC000).toNat < k.toNat then k else s.winReg 0xC000)
  | _ => s

/-- Owner code of the journal's OWNER record, 0 for none. -/
def ownerCode (m : Option Master) : Nat := (m.map masterCode).getD 0

/-- A refused command is journalled as an OWNER record of the unchanged owner (log entry 47). -/
def State.logRefused (s : State) (c : Cmd) (why : Nat) : State :=
  s.log jOWNER (masterCode c.source) 0xFF 0xFF [ownerCode s.owner, ownerCode s.owner, why, c.opcode.toNat]

/-- The scope is legal, and a named partition exists. -/
def scopeOk (c : Cmd) (scope : Nat) : Bool := scope = 0 || (c.ldev.toNat < 4 && (scope = 1 || c.part.toNat < 8))

/-- In recovery only the management port answers (R456). -/
def State.unheard (s : State) (c : Cmd) : Bool := s.cfg.recovery && c.source != .mgmt

/-- Run a command: its record, its issuer, its signature, its arguments, then its effect. An event whose record is another
command's is none. -/
def cmdFrame (r : CmdRule) (c : Cmd) (s : State) (go : State → State) : Host.Outcome State Fault Refusal :=
  let mine := c.opcode.toNat == r.op && (match r.sub with
    | some k => cArgN c 0 == k
    | none => true)
  if !mine || s.unheard c then still s
  else
    let s := s.takeCmd c
    if c.resvHi != 0 || c.resvMid != 0 then .next (s.answer c stPARAM [])
    else if 256 ≤ s.outstanding c.source then .next (s.answer c stBUSY [])
    else if !s.allowed r.who c.source then .next ((s.logRefused c 4).answer c stDENIED [])
    else if r.signed && !(c.sigLen != 0 && c.sigOk) then .next ((s.logRefused c 5).answer c stBADSIG [])
    else if !(scopeOk c r.scope && r.range) then .next (s.answer c stPARAM [])
    else if r.scope = 2 && !(s.part (cmdPart c)).live then .next (s.answer c stERROR [])
    else .next (go s)

/-- Hold a command until its effect completes. -/
def State.hold (s : State) (c : Cmd) (ref_ : Nat) (uids : List Nat) : State :=
  { s with cmds := s.cmds ++ [{ cmd := c, sinceNs := s.now, ref_ := ref_, uids := uids }] }

/-- The opcodes of R387, and the subcodes of R390. -/
def knownOpcodes : List Nat :=
  [1, 2, 3, 0x10, 0x11, 0x12, 0x13, 0x20, 0x21, 0x22, 0x23, 0x24, 0x25, 0x30, 0x31, 0x32, 0x33, 0x34, 0x35, 0x38, 0x39, 0x3A,
    0x3C, 0x3D, 0x40, 0x41, 0x48, 0x49, 0x4A]

/-- A record that R387 does not list is UNKNOWN; a DEBUG subcode that R390 does not list is an argument out of range. -/
def execUnknownCommand (c : Cmd) (s : State) : Host.Outcome State Fault Refusal :=
  let k := cArgN c 0
  let sub := c.opcode.toNat == 0x40 && (k = 0 || 15 < k)
  if (knownOpcodes.contains c.opcode.toNat && !sub) || s.unheard c then still s
  else
    let bad := c.resvHi != 0 || c.resvMid != 0 || sub
    .next ((s.takeCmd c).answer c (if bad then stPARAM else stUNKNOWN) [])

/-! ### Ownership (R383, R384) -/

/-- Grant ownership: `how` is 1 election, 2 hand-over, 3 override. -/
def State.grant (s : State) (m : Master) (how src : Nat) : State :=
  { s.log jOWNER src 0xFF 0xFF [ownerCode s.owner, masterCode m, how] with owner := some m, claims := [], windowOpen := false }

/-- The highest-priority master of a list. -/
def State.firstOf (s : State) (l : List Master) : Option Master := s.cfg.priority.find? fun m => l.contains m

def execClaim (c : Cmd) (s : State) : Host.Outcome State Fault Refusal :=
  cmdFrame { op := 1, who := .any, signed := true, scope := 0 } c s fun s =>
    let m := c.source
    if s.owner == some m then s.answer c stOK [1]
    else if s.owner.isSome then s.answer c stDENIED []
    else if s.cfg.priority.head? == some m || !s.windowOpen then (s.grant m 1 (masterCode m)).answer c stOK [1]
    else (if s.claims.contains m then s else { s with claims := s.claims ++ [m] }).answer c stOK [0]

def execElectionWindowEnd (s : State) : Host.Outcome State Fault Refusal :=
  let t : State := { s with windowOpen := false }
  when_ (s.windowOpen && s.windowNs + s.cfg.windowSec * 1000000000 ≤ s.now) s (match s.firstOf s.claims with
    | some m => t.grant m 1 0
    | none => t)

/-- The master that A0 of HANDOVER and OVERRIDE names. -/
def newOwner (c : Cmd) : Option Master := match bits (cArgN c 0) 0 2 with
  | 1 => some .os
  | 2 => some .mgmt
  | 3 => some .remote
  | _ => none

def execHandover (c : Cmd) (s : State) : Host.Outcome State Fault Refusal :=
  cmdFrame { op := 2, signed := true, scope := 0, range := (newOwner c).isSome } c s fun s => match newOwner c with
    | some m => (s.grant m 2 (masterCode c.source)).answer c stOK []
    | none => s

def execOverride (c : Cmd) (s : State) : Host.Outcome State Fault Refusal :=
  cmdFrame { op := 3, who := .mgmt, signed := true, scope := 0, range := (newOwner c).isSome } c s fun s =>
    match newOwner c with
    | some m => (s.grant m 3 (masterCode c.source)).answer c stOK []
    | none => s

/-! ### Queues (R358 to R360) -/

/-- The configuration fields of a header (R359), or none where registration fails. -/
def State.readQueue (s : State) (p : PartRef) (a : Nat) : Option Queue :=
  let d (off : Nat) : Nat := (s.rd64 (a + off)).toNat
  let ring := d 0x88
  let cfg := d 0x90
  let h := bits ring 32 32
  let off := bits ring 0 32
  let cap := bits cfg 24 4
  let qlog := bits cfg 12 6
  let zero (off len : Nat) : Bool := bits cfg off len == 0
  let rest := (List.range 13).all fun i => d (0x98 + 8 * i) == 0
  let line0 := (List.range 15).all fun i => d (8 + 8 * i) == 0
  if !(rest && line0 && zero 48 16 && zero 28 4 && zero 18 6 && zero 9 3 && zero 3 5) || cap = 0 || bits cfg 32 16 = 0 ||
      off % 64 ≠ 0 || !(qlog = 0 || (10 ≤ qlog && qlog ≤ 40)) || (s.brewAddr p h off (64 * 2 ^ cap) 1 true true).isNone then
    none
  else some
    { reg := true, part := p.part, ringH := h, ringOff := off, ageUs := bits cfg 32 16, capLog := cap
      qLog := if qlog = 0 then 20 else qlog, preempt := bits cfg 8 1 == 1, prioMax := bits cfg 0 3, next := d 0x80 }

/-- QUEUE record: 1 registered, 2 reset, 3 removed. -/
def State.logQueue (s : State) (c : Cmd) (what : Nat) : State :=
  s.log jQUEUE (masterCode c.source) c.ldev.toNat c.part.toNat [cArgN c 0, what]

/-- A queue that is registered in the command's partition. -/
def State.hasQueue (s : State) (c : Cmd) : Bool :=
  let q := s.queue c.ldev.toNat (cArgN c 0)
  q.reg && q.part == c.part.toNat

def execCmdQreg (c : Cmd) (s : State) : Host.Outcome State Fault Refusal :=
  cmdFrame { op := 0x10, range := cArgN c 0 ≤ 4095 } c s fun s =>
    let p := cmdPart c
    let n := cArgN c 0
    match s.brewDword p (cArg c 1) 256 256 true true with
    | none => s.answer c stERROR []
    | some a =>
      if (s.handle p (addrH (cArg c 1))).space ≠ 2 then s.answer c stERROR []
      else match s.readQueue p a with
        | none => s.answer c stPARAM []
        | some q =>
          let old := s.queue p.ldev n
          let s := if old.reg then s else s.releaseQueue p.ldev n
          let old := s.queue p.ldev n
          let q := { q with hdrH := addrH (cArg c 1), hdrOff := addrOff (cArg c 1), proc := cArg c 2, orphans := old.orphans
                            ends := old.ends }
          let q := if old.reg then
              { q with next := old.next, pkts := old.pkts, skip := old.skip, deficit := old.deficit }
            else q
          ((s.logQueue c 1).modQueue p.ldev n fun _ => q).answer c stOK []

/-- Retire every published packet of a queue that has not started, as SKIPPED. -/
def State.skipRest (s : State) (ldev qn : Nat) : State :=
  let q := s.queue ldev qn
  let wr := (s.rd64 (s.queueHdr ldev q)).toNat
  (List.range (min (wr - q.next) (2 ^ q.capLog))).foldl (fun s i =>
    let k : PktRef := ⟨ldev, qn, q.next + i⟩
    if s.pktType k = 0 then s else s.instant k 0 psSKIPPED) s


/-- Unregister a queue: what has started goes on in it (R387). -/
def State.dropQueue (s : State) (ldev n : Nat) : State :=
  (s.skipRest ldev n).modQueue ldev n fun q => { q with reg := false, waitSince := none, skip := 0 }

def execQreset (c : Cmd) (s : State) : Host.Outcome State Fault Refusal :=
  cmdFrame { op := 0x11, range := cArgN c 0 ≤ 4095 } c s fun s =>
    if !s.hasQueue c then s.answer c stERROR []
    else
      let ldev := c.ldev.toNat
      let n := cArgN c 0
      let s := (s.logQueue c 2).skipRest ldev n
      let s := (s.releaseQueue ldev n).modQueue ldev n fun q => { q with next := 0 }
      let h := s.queueHdr ldev (s.queue ldev n)
      ((s.wr64 h 0).wr64 (h + 0x80) 0).answer c stOK []

def execQremove (c : Cmd) (s : State) : Host.Outcome State Fault Refusal :=
  cmdFrame { op := 0x12, range := cArgN c 0 ≤ 4095 } c s fun s =>
    if !s.hasQueue c then s.answer c stERROR []
    else ((s.logQueue c 3).dropQueue c.ldev.toNat (cArgN c 0)).answer c stOK []

/-- Claim, write and publish a packet (R360), if the queue has room: the index. -/
def State.append (s : State) (ldev n : Nat) (bs : List Byte) : Option (Nat × State) :=
  let q := s.queue ldev n
  let h := s.queueHdr ldev q
  let w := (s.rd64 h).toNat
  if 2 ^ q.capLog ≤ w - (s.rd64 (h + 0x80)).toNat then none
  else
    let s := s.wr64 h (w + 1)
    let a := s.queueSlot ldev q w
    some (w, (s.homeWrite none none (.mem (a + 1)) (bs.drop 1)).homeWrite none none (.mem a) (bs.take 1))

/-- The bytes of arguments from `i` on. -/
def argBytes (c : Cmd) (i n : Nat) : List Byte := (List.range n).flatMap fun k => leBytes 8 (cArgN c (i + k))

/-- QAPPEND appends its packet, or waits while its queue is full; `fresh` says that it has not waited yet. -/
def State.qappend (s : State) (c : Cmd) (fresh : Bool) : State :=
  let ends (s : State) (status : Nat) (results : List Nat) : State :=
    ({ s with cmds := if fresh then s.cmds else s.cmds.eraseP fun p => p.cmd == c } : State).answer c status results
  if !s.hasQueue c then ends s stERROR []
  else match s.append c.ldev.toNat (cArgN c 0) (argBytes c 1 8) with
    | some (w, s) => ends s stOK [w]
    | none => if fresh then s.hold c 0 [] else s

/-- A QAPPEND record is taken. -/
def State.takeQappend (c : Cmd) (s : State) : Host.Outcome State Fault Refusal :=
  cmdFrame { op := 0x13, who := .any, range := cArgN c 0 ≤ 4095 } c s fun s => s.qappend c true

/-- A QAPPEND record is taken, or one that waits tries again. -/
def execQappend (c : Cmd) (s : State) : Host.Outcome State Fault Refusal :=
  if c.opcode == 0x13 && s.cmds.any (fun p => p.cmd == c) then .next (s.qappend c false) else State.takeQappend c s

def execQappendBusy (source : Master) (seq : Word) (s : State) : Host.Outcome State Fault Refusal :=
  .next (s.answerAll (fun p => p.cmd.opcode == 0x13 && p.cmd.source == source && p.cmd.seq == seq &&
    p.sinceNs + 1000000 ≤ s.now) stBUSY)

/-! ### Partition changes (R378) -/

/-- Byte `i` of a dword. -/
def byteOf (d : DWord) (i : Nat) : Nat := bits d.toNat (8 * i) 8

def byteSum (d : DWord) : Nat := ((List.range 8).map (byteOf d)).sum

/-- The layout is legal: no region twice, ways and groups in their limits (R377, R387). -/
def layoutOk (regions ways pcs : DWord) : Bool :=
  ((List.range 8).all fun r => ((List.range 8).filter fun i => bits (byteOf regions i) r 1 == 1).length ≤ 1) &&
    byteSum ways ≤ 16 && byteSum pcs ≤ 32 &&
    (List.range 8).all fun i => byteOf regions i == 0 || (byteOf ways i != 0 && byteOf pcs i != 0)

/-- The layout of a device as three dwords like A0 to A2 of PARTCHG: region masks, ways, pseudo-channel groups. -/
def State.layoutOf (s : State) (ldev : Nat) : List Nat :=
  let pack (f : Part → Nat) : Nat := (List.range 8).foldl (fun m i => m + f (s.part ⟨ldev, i⟩) * 2 ^ (8 * i)) 0
  [pack fun q => q.regions.toNat, pack Part.ways, pack Part.pcs]

/-- The partitions that a change affects. -/
def State.affected (s : State) (ldev : Nat) (x : PartChange) : List Nat :=
  (List.range 8).filter fun i => changes x i fun j => s.part ⟨ldev, j⟩

/-- PARTITION record: the request, the state reached (1 PENDING, 2 BUSY, 3 DONE), FORCE, the old layout and the new one. -/
def State.logChange (s : State) (ldev : Nat) (x : PartChange) (reached : Nat) (old : List Nat) : State :=
  s.log jPARTITION (masterCode x.source) ldev 0xFF
    ([x.seq.toNat, reached, boolNat x.force] ++ old ++ [x.regions.toNat, x.ways.toNat, x.pcs.toNat])

def State.setChange (s : State) (ldev : Nat) (x : Option PartChange) : State :=
  { s with change := Store.set none s.change ldev x }

def execPartchg (c : Cmd) (s : State) : Host.Outcome State Fault Refusal :=
  cmdFrame { op := 0x20, scope := 1, range := layoutOk (cArg c 0) (cArg c 1) (cArg c 2) } c s fun s =>
    let ldev := c.ldev.toNat
    let x : PartChange :=
      { st := .pending, source := c.source, seq := c.seq, regions := cArg c 0, ways := cArg c 1, pcs := cArg c 2
        deadlineUs := bits (cArgN c 3) 0 32, force := (cArg c 3).getLsbD 63, startNs := s.now }
    if (Store.get none s.change ldev).isSome then s.answer c stBUSY []
    else if (s.affected ldev x).isEmpty then s.answer c stOK []
    else ((s.logChange ldev x 1 (s.layoutOf ldev)).setChange ldev (some x)).hold c 0 []

/-- Answer the PARTCHG of a device. -/
def State.answerChange (s : State) (ldev status : Nat) : State :=
  s.answerAll (fun p => p.cmd.opcode == 0x20 && p.cmd.ldev.toNat == ldev) status

/-- Tasks of a partition that run, by number. -/
def State.partTasks (s : State) (p : PartRef) : List Nat :=
  (s.tasks.filter fun e => e.1 / 2 ^ 32 == p.ldev && e.2.part == p.part && e.2.st == .running).map fun e => taskNo e.1

/-- The deadline of a pending change: BUSY, or with FORCE the kill of every task that has a crew. -/
def execPartitionDeadline (ldev : Nat) (s : State) : Host.Outcome State Fault Refusal :=
  match Store.get none s.change ldev with
  | none => still s
  | some x =>
    if x.st != .pending || s.now < x.startNs + x.deadlineUs * 1000 then still s
    else if !x.force then
      .next (((s.logChange ldev x 2 (s.layoutOf ldev)).setChange ldev none).answerChange ldev stBUSY)
    else
      let kill (s : State) (n : Nat) : State :=
        if (s.taskCrews ldev n).isEmpty then s else s.killTask (masterCode x.source) ldev n 6 .force
      let s := ((s.affected ldev x).flatMap fun i => s.partTasks ⟨ldev, i⟩).foldl kill s
      .next (s.setChange ldev (some { x with st := .deadline }))

/-- One end of a stitched link is toward the other along an axis, in the direction of rising places or against it; the ends of a
row or column of the partition may be joined, as in a ring (R319, R320). -/
def toward (places : List Nat) (rises : Bool) (a b : Nat) : Bool :=
  let next (a b : Nat) : Bool := a < b || (places.all (· ≤ a) && places.all (b ≤ ·))
  a != b && if rises then next a b else next b a

/-- A port of a core leads to another core: 0 toward x + 1, 1 toward y + 1, 2 toward x − 1, 3 toward y − 1 (R319). -/
def portLeads (cores : List Nat) (core port to_ : Nat) : Bool :=
  let x (c : Nat) : Nat := c % 8
  let y (c : Nat) : Nat := c % 64 / 8
  if port % 2 = 0 then
    y core == y to_ && toward ((cores.filter fun c => y c == y core).map x) (port == 0) (x core) (x to_)
  else x core == x to_ && toward ((cores.filter fun c => x c == x core).map y) (port == 1) (y core) (y to_)

/-- A stitched tree is sound for a partition (R320): its nodes are cores of the partition, the root has no parent, each other
node's parent lists it as a child at one port, and a node's links leave it through different ports, each in the port's direction.
Port 4 is at one node, which is the root where the port leads to its parent (R350). -/
def treeOk (cores : List Nat) (t : Config.Tree) : Bool :=
  let node (c : Nat) : Config.TreeNode := (treeNode t c).getD {}
  let climbs (c : Nat) : Bool :=
    (List.range 64).foldl (fun k _ => match (node k).parent with
      | some (up, _) => up
      | none => k) c == t.root
  t.nodes.any (fun e => e.1 == t.root) && (node t.root).parent.isNone &&
    t.nodes.all fun e => cores.contains e.1 && climbs e.1 && (e.1 == t.root || e.2.parent.isSome) &&
      (match e.2.parent with
        | some (up, k) => (node up).kids.contains (k, e.1)
        | none => true) &&
      (let used := e.2.kids.map Prod.fst ++ (e.2.parent.map fun q => (q.2 + 2) % 4).toList
       used.eraseDups.length == used.length) &&
      (e.2.kids.all fun q => q.1 < 4 && portLeads cores e.1 q.1 q.2 && ((node q.2).parent == some (e.1, q.1))) &&
    (match t.fabric with
      | some (c, up) => t.nodes.any (fun e => e.1 == c) && (!up || c == t.root)
      | none => true)

/-- A consumer group or a collective of a partition uses a tree (R320). -/
def Part.usesTree (p : Part) (i : Nat) : Bool :=
  (p.groups.any fun e => (e.2.st == .live || e.2.st == .deleting) && e.2.tree == i) ||
    p.colls.any fun e => e.2.live && e.2.tree == i

/-- Stitch the eight trees of a partition anew, but for those in use, which stay (R320); which trees there are is a free value. -/
def State.stitch (s : State) (p : PartRef) : State :=
  let cores := s.partCores p
  ((List.range 8).filter fun i => !(s.part p).usesTree i).foldl (fun s i =>
    let t := match Config.freeTree s.freeCtr with
      | some t => if treeOk cores t then some t else none
      | none => none
    { (s.modPart p fun q => { q with trees := Store.set none q.trees i t }) with freeCtr := s.freeCtr + 1 }) s

/-- A partition begins: its root arena is LIVE at GEN 1, with a QUOTA that the manual leaves to the brewhouse. -/
def State.rootArena (s : State) (p : PartRef) : State :=
  let (q, s) := s.freeD
  s.modArena (arenaAt p 0) fun _ => { gen := 1, st := .live, quota := q.toNat % 2 ^ 48 }

/-- A partition ends: its queues are unregistered, its arena and handle tables are gone; a task that never had a crew ends
with KILLED. -/
def State.endPart (s : State) (p : PartRef) : State :=
  let qs := s.queues.filter fun e => e.1 / 4096 == p.ldev && e.2.part == p.part
  let s := qs.foldl (fun s e => ((if e.2.reg then s.dropQueue p.ldev (e.1 % 4096) else s).releaseQueue p.ldev (e.1 % 4096))) s
  let s := (s.partTasks p).foldl (fun s n => s.killTask 0 p.ldev n 6 .force) s
  { s with
    arenas := s.arenas.filter fun e => e.1 / 4096 != partKey p
    handles := s.handles.filter fun e => e.1 / 2 ^ 20 != partKey p
    maps := s.maps.filter fun m => !(m.ldev == p.ldev && m.part == p.part)
    freeVa := Store.set [] s.freeVa (partKey p) []
    parts := Store.set {} s.parts (partKey p) {} }

/-- Apply a change to one partition. -/
def State.applyPart (s : State) (ldev : Nat) (x : PartChange) (i : Nat) : State :=
  let p : PartRef := ⟨ldev, i⟩
  let was := (s.part p).live
  let r := byteOf x.regions i
  if r = 0 then (if was then s.endPart p else s)
  else
    let s := s.modPart p fun q =>
      { q with regions := BitVec.ofNat 8 r, ways := byteOf x.ways i, pcs := byteOf x.pcs i
               idleSince := if was then q.idleSince else s.now }
    (if was then s else s.rootArena p).stitch p

/-- A crew that holds a change back (R378). -/
def Crew.holdsChange (c : Crew) : Bool := c.st != .pending && c.st != .retired

def execPartitionApply (ldev : Nat) (s : State) : Host.Outcome State Fault Refusal :=
  match Store.get none s.change ldev with
  | none => still s
  | some x =>
    let l := s.affected ldev x
    if s.crews.any fun e => e.2.ldev == ldev && l.contains e.2.part && e.2.holdsChange then still s
    else
      let old := s.layoutOf ldev
      let s := (l.filter fun i => byteOf x.regions i = 0).foldl (fun s i => s.applyPart ldev x i) s
      let s := (l.filter fun i => byteOf x.regions i ≠ 0).foldl (fun s i => s.applyPart ldev x i) s
      let s := ((s.logChange ldev x 3 old).setChange ldev none).answerChange ldev stOK
      .next (l.foldl (fun s i => s.noteWaits ⟨ldev, i⟩) s)

/-! ### Kills, WATCHDOG, dump targets -/

def execKilltask (c : Cmd) (s : State) : Host.Outcome State Fault Refusal :=
  cmdFrame { op := 0x21, scope := 1 } c s fun s =>
    let ldev := c.ldev.toNat
    let n := cArgN c 0
    if n = 0 || Store.get 0 s.nextTask ldev < n then s.answer c stERROR []
    else match (s.task ldev n).st with
      | .running => (s.killTask (masterCode c.source) ldev n 6 .command).hold c n []
      | .ending => s.hold c n []
      | _ => s.answer c stOK []

def execKillpart (c : Cmd) (s : State) : Host.Outcome State Fault Refusal :=
  cmdFrame { op := 0x22 } c s fun s =>
    let part := cmdPart c
    let ending := s.tasks.any fun e => e.1 / 2 ^ 32 == part.ldev && e.2.part == part.part && e.2.st == .ending
    match s.partTasks part, ending with
    | [], false => s.answer c stOK []
    | l, _ => (l.foldl (fun s n => s.killTask (masterCode c.source) c.ldev.toNat n 6 .command) s).hold c 0 []

def execWatchdog (c : Cmd) (s : State) : Host.Outcome State Fault Refusal :=
  cmdFrame { op := 0x24, range := cArgN c 0 ≤ 3600000 } c s fun s =>
    (s.modPart (cmdPart c) fun q => { q with watchdogMs := cArgN c 0 }).answer c stOK []

def execDumph (c : Cmd) (s : State) : Host.Outcome State Fault Refusal :=
  cmdFrame { op := 0x25 } c s fun s =>
    let p := cmdPart c
    let set (t : Option (DWord × Nat)) : State := (s.modPart p fun q => { q with dumpTarget := t }).answer c stOK []
    if cArgN c 0 = 0 && cArgN c 1 = 0 then set none
    else if (s.brewDword p (cArg c 0) (cArgN c 1) 1 false true).isNone then s.answer c stERROR []
    else set (some (cArg c 0, cArgN c 1))

/-! ### Power (R455) -/

/-- Some crew of the partition stands in a state that a gating request refuses. -/
def State.crewsAbout (s : State) (p : PartRef) : Bool :=
  s.crews.any (fun e => e.2.pref == p && e.2.st != .retired) ||
    s.tasks.any fun e => e.1 / 2 ^ 32 == p.ldev && e.2.part == p.part && e.2.st == .running && e.2.nextCrew < e.2.crews

/-- The partitions of the package. -/
def State.liveParts (s : State) : List PartRef :=
  (s.parts.filter fun e => e.2.live).map fun e => ⟨e.1 / 8, e.1 % 8⟩

/-- A POWER record; `busy` 1 for a refusal. -/
def State.logPower (s : State) (c : Cmd) (part old new busy : Nat) : State :=
  s.log jPOWER (masterCode c.source) c.ldev.toNat part [part, old, new, (masterCode c.source), busy]

def execCmdPower (c : Cmd) (s : State) : Host.Outcome State Fault Refusal :=
  let want := cArgN c 0
  cmdFrame { op := 0x23, scope := if want = 3 then 0 else 2, range := want = 0 || want = 2 || want = 3 } c s fun s =>
    let p := cmdPart c
    let old := if s.standby then 3 else (s.part p).power.code
    if want = 3 then
      let ok := s.liveParts.all fun q => (s.part q).power == .gated
      if ok then ({ s.logPower c 0xFF 2 3 0 with standby := true } : State).answer c stOK []
      else (s.logPower c 0xFF 0 3 1).answer c stBUSY []
    else if want = 2 then
      if s.crewsAbout p then (s.logPower c p.part old 2 1).answer c stBUSY []
      else ((s.logPower c p.part old 2 0).modPart p fun q => { q with power := .gated }).answer c stOK []
    else
      let s : State := { s.logPower c p.part old 0 0 with standby := false }
      ((s.modPart p fun q => { q with power := .active, idleSince := s.now }).noteWaits p).answer c stOK []

/-! ### Arenas and handles for the owner (R291 to R310, R85) -/

/-- The arena that A0 names, if the checks of R302 pass; a failure answers ERROR (R459). -/
def withArena (c : Cmd) (s : State) (dropping : Bool) (bad : Arena → Bool) (go : PartRef → Nat → State) : State :=
  let p := cmdPart c
  if (s.arenaBad p (cArg c 0) dropping bad).isSome then s.answer c stERROR [] else go p (nameIdx (cArg c 0))

def execCmdArnew (c : Cmd) (s : State) : Host.Outcome State Fault Refusal :=
  cmdFrame { op := 0x30 } c s fun s => withArena c s false badNew fun p i =>
    let (r, s) := s.arNew p i (cArg c 1) (cArg c 2)
    s.answer c stOK [statusDword r]

def execCmdHalloc (c : Cmd) (s : State) : Host.Outcome State Fault Refusal :=
  cmdFrame { op := 0x31 } c s fun s => withArena c s false badAlloc fun p i =>
    let (r, s) := s.hAlloc p i (cArg c 1) (cArg c 2)
    s.answer c stOK [statusDword r]

def execCmdArseal (c : Cmd) (s : State) : Host.Outcome State Fault Refusal :=
  cmdFrame { op := 0x32 } c s fun s => withArena c s false badRoot fun p i =>
    match (s.arena (arenaAt p i)).st with
    | .live => (s.startSeal p i).hold c i [1]
    | .sealing => s.hold c i []
    | _ => s.answer c stOK []

def execCmdArdrop (c : Cmd) (s : State) : Host.Outcome State Fault Refusal :=
  cmdFrame { op := 0x33 } c s fun s => withArena c s true badRoot fun p i => (s.startDrop p i).hold c i []

def execCmdArquota (c : Cmd) (s : State) : Host.Outcome State Fault Refusal :=
  cmdFrame { op := 0x34 } c s fun s => withArena c s false badRoot fun p i =>
    (s.arQuota p i (cArg c 1) (cArg c 2)).answer c stOK []

def execCmdArinfo (c : Cmd) (s : State) : Host.Outcome State Fault Refusal :=
  cmdFrame { op := 0x35, who := .any } c s fun s =>
    let i := nameIdx (cArg c 0)
    s.answer c stOK [(s.arena (arenaAt (cmdPart c) i)).dw i (bits (cArgN c 1) 0 2)]

def execImportHandle (c : Cmd) (s : State) : Host.Outcome State Fault Refusal :=
  let a := cArgN c 0
  let e : PartRef := ⟨bits a 56 8, bits a 48 8⟩
  cmdFrame { op := 0x3A, range := e.ldev < 4 && e.part < 8 } c s fun s =>
    let p := cmdPart c
    let i := bits a 0 20
    let x := s.handle e i
    let st := (s.arena (x.arenaRef e)).st
    let fine := x.valid && (x.space == 2 || x.space == 3) && (st == .live || st == .sealing || st == .sealed_) &&
      (s.arena (x.arenaRef e)).gen == x.gen && e.ldev ≠ p.ldev
    if !fine then s.answer c stERROR []
    else match s.freeHandle p with
      | (none, s) => s.answer c stNOSPACE []
      | (some k, s) =>
        let y := HEntry.make x.base x.size x.gen x.arena 4 x.policy (x.r && (cArg c 1).getLsbD 0)
          (x.w && (cArg c 1).getLsbD 1) false e.part e.ldev i
        (s.setHandle p k y).answer c stOK [k]

/-! ### Memory and the host windows (R387 to R389) -/

/-- RESULT dwords of up to 56 bytes. -/
def resultsOf (bs : List Byte) : List Nat :=
  (List.range ((bs.length + 7) / 8)).map fun i => leNat ((bs.drop (8 * i)).take 8)

/-- The byte count of MREAD, MWRITE, MEMRD and MEMWR. -/
def countOk (n : Nat) : Bool := 1 ≤ n && n ≤ 56

def execMread (c : Cmd) (s : State) : Host.Outcome State Fault Refusal :=
  cmdFrame { op := 0x3C, who := .any, range := countOk (cArgN c 1) } c s fun s =>
    match s.brewDword (cmdPart c) (cArg c 0) (cArgN c 1) 1 true false with
    | none => s.answer c stERROR []
    | some a => s.answer c stOK (resultsOf (s.peekN (keyLoc a) (cArgN c 1)))

def execMwrite (c : Cmd) (s : State) : Host.Outcome State Fault Refusal :=
  cmdFrame { op := 0x3D, who := .any, range := countOk (cArgN c 1) } c s fun s =>
    match s.brewDword (cmdPart c) (cArg c 0) (cArgN c 1) 1 false true with
    | none => s.answer c stERROR []
    | some a => (s.homeWrite none none (.mem a) ((argBytes c 2 7).take (cArgN c 1))).answer c stOK []

/-- The windows of R388. -/
def brewWindow : Nat := 0x00F000000000
def hostWindow : Nat := 0x010000000000
def hostWindowBytes : Nat := 16 * 2 ^ 40

/-- A mapping's pages overlap `n` bytes at `a`. -/
def HostMap.meets (m : HostMap) (a n : Nat) : Bool := a < m.addr + m.ent.size && m.addr < a + n

/-- Places for an object of `n` bytes: the window's start and the page after each mapping. -/
def State.mapPlaces (s : State) (n : Nat) : List Nat :=
  let ends := s.maps.map fun m => (m.addr + m.ent.size + 65535) / 65536 * 65536
  (hostWindow :: ends).filter fun a =>
    a + n ≤ hostWindow + hostWindowBytes && s.maps.all fun m => !m.meets a ((n + 65535) / 65536 * 65536)

def execMap (c : Cmd) (s : State) : Host.Outcome State Fault Refusal :=
  cmdFrame { op := 0x38, who := .os } c s fun s =>
    let p := cmdPart c
    let i := cArgN c 0
    let e := s.handle p i
    let named := e.space == 2 || e.space == 3 || e.space == 4
    if 2 ^ 20 ≤ i || !e.valid || !named then s.answer c stERROR []
    else match s.choose none ((s.mapPlaces e.size).map some) with
      | (none, s) => s.answer c stNOSPACE []
      | (some a, s) =>
        let m : HostMap :=
          { addr := a, ldev := p.ldev, part := p.part, h := i, ent := e, r := (cArg c 1).getLsbD 0, w := (cArg c 1).getLsbD 1 }
        ({ s with maps := s.maps ++ [m] } : State).answer c stOK [a]

def execUnmap (c : Cmd) (s : State) : Host.Outcome State Fault Refusal :=
  cmdFrame { op := 0x39, who := .os, scope := 0 } c s fun s =>
    if s.maps.any fun m => m.addr == cArgN c 0 then
      ({ s with maps := s.maps.filter fun m => m.addr != cArgN c 0 } : State).answer c stOK []
    else s.answer c stERROR []

def execBindvec (c : Cmd) (s : State) : Host.Outcome State Fault Refusal :=
  cmdFrame { op := 0x49, who := .os, scope := 0, range := cArgN c 0 ≤ 65535 } c s fun s =>
    let b := if cArgN c 2 = 0 then none else some (cArgN c 1, cArgN c 2)
    ({ s with vecs := Store.set none s.vecs (cArgN c 0) b } : State).answer c stOK []

/-! ### The journal (R381) -/

/-- A layout in two dwords: eight region owners of 4 bits (0xF for none), eight way counts of 5, eight group counts of 6. -/
def packLayout (regions ways pcs : DWord) : List DWord :=
  let owner (r : Nat) : Nat := ((List.range 8).find? fun i => bits (byteOf regions i) r 1 == 1).getD 15
  let sum (w : Nat) (f : Nat → Nat) : Nat := ((List.range 8).map fun i => f i * 2 ^ (w * i)).sum
  let n := sum 4 owner + sum 5 (byteOf ways) * 2 ^ 32 + sum 6 (byteOf pcs) * 2 ^ 72
  [BitVec.ofNat 64 n, BitVec.ofNat 64 (n / 2 ^ 64)]

/-- DATA of a record, five dwords. A MARKER's first holds its queue and index, and its tag follows; a PARTITION's first holds
the request, the state and FORCE, and the old and the new layout follow (log entry 45). -/
def JRec.dataDwords (r : JRec) : List DWord :=
  let d (i : Nat) : DWord := r.data.getD i 0
  if r.kind = jMARKER then BitVec.ofNat 64 ((d 0).toNat + (d 1).toNat * 4096) :: r.data.drop 2
  else if r.kind = jPARTITION then
    BitVec.ofNat 64 ((d 0).toNat + (d 1).toNat * 2 ^ 32 + (d 2).toNat * 2 ^ 40) :: packLayout (d 3) (d 4) (d 5) ++
      packLayout (d 6) (d 7) (d 8)
  else r.data

/-- The 64 bytes of a record. -/
def JRec.bytes (r : JRec) : List Byte :=
  leBytes 8 r.seq ++ leBytes 8 r.time ++ leBytes 8 (r.kind * 2 ^ 56 + r.source * 2 ^ 48 + r.ldev * 2 ^ 40 + r.part * 2 ^ 32) ++
    (List.range 5).flatMap fun i => leBytes 8 (r.dataDwords.getD i 0).toNat

def execJread (c : Cmd) (s : State) : Host.Outcome State Fault Refusal :=
  let n := cArgN c 1
  cmdFrame { op := 0x4A, who := .any, scope := 0, range := 1 ≤ n && n ≤ 16 } c s fun s =>
    let l := s.journal.filter fun r => cArgN c 0 ≤ r.seq && r.seq < cArgN c 0 + n
    s.respond c stOK [s.head] (l.flatMap JRec.bytes)

end Sys2Proof.Machine
end

