-- ==== Sys2Proof/Machine/DbgEv.lean ====
section
/-! DEFINITION. The DEBUG command (R390, R413 to R424) under R432 and R433, debug tokens, and the steps of the chimney that
no word encodes: samples, the counter series, and trace frames. -/

namespace Sys2Proof.Machine

/-! ### What a request may do (R432, R433) -/

/-- Kinds of request in the table of R432. -/
inductive DbgKind where
  | stops | regs | chimney | series
deriving DecidableEq, Repr

/-- The security state of a partition: a configuration that enters vendor-debug enters it for every partition (log entry 81). -/
def State.securityOf (s : State) (p : PartRef) : SecSt := if s.cfg.vendor then .vendor else (s.part p).security

/-- The status that refuses a request of a partition: DENIED by its security state, POWERED_DOWN by its power state.
`wide` says that it reaches beyond the partition or to privileged registers, which vendor-debug alone may; a token that has expired
gives nothing. -/
def State.debugRefuses (s : State) (p : PartRef) (k : DbgKind) (wide : Bool) : Option Nat :=
  let q := s.part p
  let denied := k != .series && (match s.securityOf p with
    | .locked => true
    | .tenant e => wide || e ≤ s.now
    | .vendor => false)
  if denied then some stDENIED else if s.standby || q.power == .gated then some stDOWN else none

/-- A request of an idle partition ungates its clocks and returns to idle afterwards (R433, R455). -/
def State.logUngate (s : State) (p : PartRef) : State :=
  if (s.part p).power != .idle then s
  else (s.log jPOWER 0 p.ldev p.part [p.part, 1, 0, 0]).log jPOWER 0 p.ldev p.part [p.part, 0, 1, 0]

/-- The frame of a request. -/
def dbgFrame (sub : Nat) (k : DbgKind) (wide range : Bool) (c : Cmd) (s : State) (go : State → State) :
    Host.Outcome State Fault Refusal :=
  cmdFrame { op := 0x40, sub := some sub, who := .any, range := range } c s fun s =>
    match s.debugRefuses (cmdPart c) k wide with
    | some e => s.answer c e []
    | none => go (s.logUngate (cmdPart c))

/-- The crew that A2 and A3 name, in the request's partition. -/
def State.dbgCrew (s : State) (c : Cmd) : Option Nat :=
  (s.crewOf c.ldev.toNat (cArgN c 2) (cArgN c 3)).filter fun u => (s.crew u).part == c.part.toNat

/-- A request about a crew; none is ERROR. -/
def withCrew (c : Cmd) (s : State) (go : Nat → State) : State := match s.dbgCrew c with
  | some u => go u
  | none => s.answer c stERROR []

/-- A request that needs the crew stopped, and come to rest (R390, R417). -/
def withStopped (c : Cmd) (s : State) (go : Nat → State) : State :=
  withCrew c s fun u => if (s.crew u).stop.isSome && (s.crew u).atRest then go u else s.answer c stBUSY []

/-! ### HALT, RESUME, STEP (R417 to R419) -/

/-- The crews of a scope: one, the partition's, or the chip's. -/
def State.scopeCrews (s : State) (c : Cmd) : List Nat :=
  let held (e : Nat × Crew) : Bool := e.2.st != .retired && e.2.st != .killing
  match cArgN c 1 with
  | 0 => (s.dbgCrew c).toList
  | 1 => (s.crews.filter fun e => held e && e.2.pref == cmdPart c).map Prod.fst
  | _ => (s.crews.filter held).map Prod.fst

def execHalt (c : Cmd) (s : State) : Host.Outcome State Fault Refusal :=
  dbgFrame 1 .stops (cArgN c 1 == 2) (cArgN c 1 ≤ 2) c s fun s =>
    let l := s.scopeCrews c
    if cArgN c 1 = 0 && l.isEmpty then s.answer c stERROR []
    else
      let s := l.foldl (fun s u => s.stopCrew ⟨u, leadTid, false⟩ .halt 0 0 0) s
      let s : State := if cArgN c 1 = 2 then { s with halted := true, notices := s.notices + 1 } else s
      s.answer c stOK []

/-- End a stop of a crew that a hit or a halt made; a dump in progress holds it further (R409, R417). -/
def State.resumeCrew (s : State) (u : Nat) : State :=
  let c := s.crew u
  if c.stop == some .hit || c.stop == some .halt then
    if c.dumps then (s.modCrew u fun c => { c with stop := some .dump }).haltRules c.pref else s.unstop u
  else s

def execResume (c : Cmd) (s : State) : Host.Outcome State Fault Refusal :=
  dbgFrame 2 .stops (cArgN c 1 == 2) (cArgN c 1 ≤ 2) c s fun s =>
    let l := s.scopeCrews c
    if cArgN c 1 = 0 && l.isEmpty then s.answer c stERROR []
    else
      let s := l.foldl State.resumeCrew s
      let s : State := if cArgN c 1 = 2 then { s with halted := false } else s
      s.answer c stOK []

def execStep (c : Cmd) (s : State) : Host.Outcome State Fault Refusal :=
  dbgFrame 3 .stops false true c s fun s => withStopped c s fun u =>
    let a := cArgN c 4
    let p : PairRef := ⟨u, bits a 0 6, bits a 8 1 == 1⟩
    if !s.runs u p.tid || (s.slot p).st == .empty then s.answer c stERROR []
    else
      let go (x : Slot) : Slot :=
        { x with dbgStep := true, st := if x.wait == some .stopped && x.st == .blocked then .ready else x.st }
      (s.modSlot p go).answer c stOK []

/-! ### Breakpoints, watchpoints, intercepts (R396, R414) -/

def execBpset (c : Cmd) (s : State) : Host.Outcome State Fault Refusal :=
  dbgFrame 4 .stops false (cArgN c 4 ≤ 7) c s fun s => withCrew c s fun u =>
    (s.modCrew u fun x => { x with bp := Store.set 0 x.bp (cArgN c 4) (cArg c 5) }).answer c stOK []

def execWpset (c : Cmd) (s : State) : Host.Outcome State Fault Refusal :=
  dbgFrame 5 .stops false (cArgN c 4 ≤ 3) c s fun s => withCrew c s fun u =>
    let n := 3 * cArgN c 4
    let set (m : Store DWord) : Store DWord :=
      Store.set 0 (Store.set 0 (Store.set 0 m n (cArg c 5)) (n + 1) (cArg c 6)) (n + 2) (cArg c 7)
    (s.modCrew u fun x => { x with wp := set x.wp }).answer c stOK []

def execIntercept (c : Cmd) (s : State) : Host.Outcome State Fault Refusal :=
  dbgFrame 6 .stops false true c s fun s => withCrew c s fun u =>
    (s.modCrew u fun x => { x with icept := cArg c 4 }).answer c stOK []

/-! ### Registers and memory of a stopped crew -/

/-- A4 of REGRD and REGWR: privileged, and its number or REGWIN offset. -/
def regPriv (c : Cmd) : Bool := (cArg c 4).getLsbD 63
def regNo (c : Cmd) : Nat := bits (cArgN c 4) 0 20
def regRange (c : Cmd) : Bool :=
  if regPriv c then cArgN c 5 ≤ 63 else regNo c % 4 == 0 && regNo c < 327680

def execRegrd (c : Cmd) (s : State) : Host.Outcome State Fault Refusal :=
  dbgFrame 7 .regs (regPriv c) (regRange c) c s fun s => withStopped c s fun u =>
    let v := if regPriv c then (s.privReg u (cArgN c 5) (regNo c)).toNat else leNat (s.peekN (.reg u (regNo c)) 4)
    s.answer c stOK [v]

def execRegwr (c : Cmd) (s : State) : Host.Outcome State Fault Refusal :=
  dbgFrame 8 .regs (regPriv c) (regRange c) c s fun s => withStopped c s fun u =>
    let t := if regPriv c then s.setPrivReg u (cArgN c 5) (regNo c) (cArg c 6)
      else s.poke (.reg u (regNo c)) (leBytes 4 (cArgN c 6))
    t.answer c stOK []

/-- A byte of a crew's tiles by its offset: tile, row, column, byte (R410). -/
def Crew.tileByte (c : Crew) (off : Nat) : Byte := (Store.get 0 c.tiles (off / 4)).extractLsb' (8 * (off % 4)) 8

def Crew.setTileByte (c : Crew) (off : Nat) (b : Byte) : Crew :=
  let sh := 8 * (off % 4)
  let old := Store.get 0 c.tiles (off / 4)
  { c.cleanTile (off / 4) with tiles := Store.set 0 c.tiles (off / 4) ((old &&& ~~~(BitVec.ofNat 32 (255 * 2 ^ sh))) ||| (b.setWidth 32 <<< sh)) }

/-- The space of MEMRD and MEMWR holds the bytes they name. -/
def State.memNamed (s : State) (c : Cmd) (u : Nat) (wr : Bool) : Bool :=
  let h := s.hdrOf (s.crew u)
  let off := cArgN c 5
  let n := cArgN c 6
  match cArgN c 4 with
  | 0 => off + n ≤ h.scratch + 128 * h.hslots
  | 1 => off + n ≤ h.tiles * 65536
  | _ => (s.brewDword (cmdPart c) (cArg c 5) n 1 (!wr) wr).isSome

def memRange (c : Cmd) : Bool := cArgN c 4 ≤ 2 && countOk (cArgN c 6)

def execMemrd (c : Cmd) (s : State) : Host.Outcome State Fault Refusal :=
  dbgFrame 14 .regs false (memRange c) c s fun s => withStopped c s fun u =>
    let off := cArgN c 5
    let n := cArgN c 6
    if !s.memNamed c u false then s.answer c stERROR []
    else
      let bs := match cArgN c 4 with
        | 0 => s.peekN (.scr u off) n
        | 1 => (List.range n).map fun k => (s.crew u).tileByte (off + k)
        | _ => s.peekN (keyLoc ((s.brewDword (cmdPart c) (cArg c 5) n 1 true false).getD 0)) n
      s.answer c stOK (resultsOf bs)

def execMemwr (c : Cmd) (s : State) : Host.Outcome State Fault Refusal :=
  dbgFrame 15 .regs false (memRange c) c s fun s => withStopped c s fun u =>
    let off := cArgN c 5
    let n := cArgN c 6
    let bs := (argBytes c 7 7).take n
    if !s.memNamed c u true then s.answer c stERROR []
    else
      let t := match cArgN c 4 with
        | 0 => s.homeWrite none none (.scr u off) bs
        | 1 => s.modCrew u fun x => bs.zipIdx.foldl (fun (x : Crew) (b : Byte × Nat) => x.setTileByte (off + b.2) b.1) x
        | _ => s.homeWrite none none (.mem ((s.brewDword (cmdPart c) (cArg c 5) n 1 false true).getD 0)) bs
      t.answer c stOK []

def execStoprec (c : Cmd) (s : State) : Host.Outcome State Fault Refusal :=
  dbgFrame 13 .stops false true c s fun s => withCrew c s fun u =>
    let r := (s.crew u).stopRec
    s.answer c stOK [r.proc.toNat, r.taskCrew.toNat, r.where_.toNat, r.code + r.hits.toNat * 256, r.lanes.toNat]

def execDbgpol (c : Cmd) (s : State) : Host.Outcome State Fault Refusal :=
  dbgFrame 12 .stops false true c s fun s =>
    let p := cmdPart c
    ((s.modPart p fun q => { q with dbgpol := cArg c 1 }).haltRules p).answer c stOK []

/-! ### Rings (R420) -/

/-- A ring's header lies beyond the end of the object that the address dword names. -/
def State.ringOutside (s : State) (p : PartRef) (d : DWord) : Bool :=
  let e := s.handle p (addrH d)
  e.valid && e.size < addrOff d + 128

/-- Register a ring: the status that refuses it, or the ring and the state after registration. -/
def State.ringAt (s : State) (p : PartRef) (d : DWord) (k least : Nat) : Except Nat (ToolRing × State) :=
  match s.brewDword p d 128 128 true true with
  | none => .error (if s.ringOutside p d then stPARAM else stERROR)
  | some a =>
    let w := (s.rd64 (a + 0x50)).toNat
    let sz := bits w 0 6
    let mode := bits w 6 2
    if sz < least || 40 < sz || 2 ≤ mode || (s.brewAddr p (addrH d) (addrOff d) (128 + 2 ^ sz) 128 true true).isNone then
      .error stPARAM
    else
      let s := (s.wr64 a (s.rd64 (a + 0x40)).toNat).wr64 (a + 0x48) 0
      .ok (⟨addrH d, addrOff d, k, sz, mode⟩, s)

def execSample (c : Cmd) (s : State) : Host.Outcome State Fault Refusal :=
  let k := cArgN c 1
  dbgFrame 9 .chimney false (k == 0 || (8 ≤ k && k ≤ 24)) c s fun s =>
    let p := cmdPart c
    if k = 0 then (s.modPart p fun q => { q with sampleRing := none }).answer c stOK []
    else match s.ringAt p (cArg c 2) k 12 with
      | .error e => s.answer c e []
      | .ok (r, s) =>
        (s.modPart p fun q => { q with sampleRing := some r, sampleTick := s.cycles / 2 ^ k }).answer c stOK []

def execSeries (c : Cmd) (s : State) : Host.Outcome State Fault Refusal :=
  let k := cArgN c 1
  dbgFrame 10 .series false (k == 0 || (10 ≤ k && k ≤ 24)) c s fun s =>
    let p := cmdPart c
    if k = 0 then (s.modPart p fun q => { q with seriesRing := none }).answer c stOK []
    else match s.ringAt p (cArg c 2) k 14 with
      | .error e => s.answer c e []
      | .ok (r, s) =>
        (s.modPart p fun q => { q with seriesRing := some r, seriesTick := s.cycles / 2 ^ k }).answer c stOK []

/-- Stop the trace of a task: its frames close. -/
def State.traceOff (s : State) (ldev task : Nat) : State :=
  let s := s.modTask ldev task fun t => { t with traced := false }
  (s.taskCrews ldev task).foldl (fun s e =>
    (s.closeFrame e.1).modCrew e.1 fun c => { c with trace := {} }) s

/-- Trace a task: the crews that run already start their streams now. -/
def State.traceTask (s : State) (ldev task log : Nat) (lead port : Bool) : State :=
  let s := s.modTask ldev task fun t => { t with traced := true, traceLead := lead, tracePort := port, traceLog := log }
  let t := s.task ldev task
  (s.taskCrews ldev task).foldl (fun s e => (s.modCrew e.1 fun c => c.traceOn t s.cycles).namePacket e.1) s

def execTrace (c : Cmd) (s : State) : Host.Outcome State Fault Refusal :=
  let a := cArgN c 1
  let k := bits a 0 6
  dbgFrame 11 .chimney false (k == 0 || (6 ≤ k && k ≤ 24)) c s fun s =>
    let p := cmdPart c
    let n := cArgN c 2
    let t := s.task p.ldev n
    if t.st == .none || t.part ≠ p.part then s.answer c stERROR []
    else if k = 0 then (s.traceOff p.ldev n).answer c stOK []
    else match s.ringAt p (cArg c 3) k 12 with
      | .error e => s.answer c e []
      | .ok (r, s) =>
        let s := s.modPart p fun q => { q with traceRing := some r }
        (s.traceTask p.ldev n k (bits a 8 1 == 1) (bits a 9 1 == 1)).answer c stOK []

/-! ### Tokens (R432) -/

/-- A token names this module by its serial number, which the manual does not give. -/
def execDebugtoken (c : Cmd) (s : State) : Host.Outcome State Fault Refusal :=
  cmdFrame { op := 0x41, who := .any, signed := true } c s fun s =>
    if cArg c 1 != Config.serial || cArgN c 0 ≤ s.now then s.answer c stERROR []
    else match s.securityOf (cmdPart c) with
      | .vendor => s.answer c stOK []
      | _ => (s.modPart (cmdPart c) fun q => { q with security := .tenant (cArgN c 0) }).answer c stOK []

/-- A token expires: the partition is production-locked, its breakpoints and watchpoints clear, its stopped crews resume, its
traces stop. -/
def execTokenExpiry (p : PartRef) (s : State) : Host.Outcome State Fault Refusal :=
  match s.securityOf p with
  | .tenant e =>
    let s1 := s.modPart p fun q => { q with security := .locked }
    let l := (s.crews.filter fun x => x.2.pref == p).map Prod.fst
    let s1 := l.foldl (fun s u => (s.modCrew u fun c => { c with bp := [], wp := [] }).resumeCrew u) s1
    let traced := (s.tasks.filter fun x => x.1 / 2 ^ 32 == p.ldev && x.2.part == p.part && x.2.traced).map fun x => taskNo x.1
    when_ (decide (e ≤ s.now)) s (traced.foldl (fun s n => s.traceOff p.ldev n) s1)
  | _ => still s

/-! ### Samples (R421, R422) -/

/-- The code of R422 that names a wait, if one does. -/
def Wait.reason : Wait → Option Nat
  | .twaitHdr _ => some 1
  | .twaitWord _ => some 1
  | .dqpop => some 2
  | .dqpush => some 2
  | .barrier _ _ => some 3
  | .timeline _ _ _ => some 4
  | .recv _ _ => some 5
  | .round _ _ => some 5
  | .fence => some 9
  | .flwait _ _ => some 10
  | .walk _ _ => some 10
  | .fill _ => some 10
  | .atoms _ _ => some 10
  | .page _ _ _ => some 11
  | .room _ => some 12
  | .stopped => some 15
  | .halted => some 15
  | .dump _ _ _ _ _ => some 15
  | _ => none

/-- REASON of a pair that did not issue: the lowest code that applies, of which 15 is the highest. Among the causes of R422 that the
model has no state for, the timing decides: a free value, as for the waits that R422 does not name (log entry 27). -/
def State.reason (s : State) (x : Slot) (stopped : Bool) : Nat × State :=
  match x.st, x.wait.bind Wait.reason with
  | .joinwait, _ => (6, s)
  | .blocked, some n => (n, s)
  | .blocked, none => s.choose 13 ((List.range 15).map (· + 1))
  | _, _ => if x.priv.isSome || stopped then s.choose 15 [7, 8, 10, 14, 15] else s.choose 13 [7, 8, 10, 13, 14]

/-- The 32 bytes of a sample. -/
def State.sampleBytes (s : State) (p : PairRef) (reason : Nat) : List Byte :=
  let c := s.crew p.uid
  let x := s.slot p
  leBytes 8 (s.procOf c).toNat ++ leBytes 8 c.taskCrew ++
    leBytes 8 (reason * 2 ^ 44 + x.word % 16 * 2 ^ 40 + whereDword c.core p.tid p.slotB) ++
    leBytes 8 (x.pc.toNat * 2 ^ 32 + s.cycles % 2 ^ 32)

/-- One scheduler's sample: the pair that issues on that cycle, or, where none does, the resident pair that has waited
longest; whether one issues is a free value where one could. -/
def State.sampleSched (s : State) (r : ToolRing) (p : PartRef) (core k : Nat) : State :=
  let l := (s.corePairs core).filter fun q => s.schedOf q.uid q.tid == k && (s.slot q).st != .empty
  let able := s.schedPicks (l.filter s.mayIssue)
  let low := l.foldl (fun m q => min m (s.slot q).lastIssue) ((l.head?.map fun q => (s.slot q).lastIssue).getD 0)
  let waits := l.filter fun q => (s.slot q).lastIssue == low
  let (pick, s) := s.choose none ((able.map fun q => some (q, true)) ++ waits.map fun q => some (q, false))
  match pick with
  | none => s
  | some (q, issued) =>
    let (n, s) := if issued then (0, s) else s.reason (s.slot q) (s.crew q.uid).stop.isSome
    s.ringWrite p r (s.sampleBytes q n)

def execSampleTick (p : PartRef) (s : State) : Host.Outcome State Fault Refusal :=
  match (s.part p).sampleRing with
  | none => still s
  | some r =>
    let n := s.cycles / 2 ^ r.k
    if n ≤ (s.part p).sampleTick then still s
    else
      let s := s.modPart p fun q => { q with sampleTick := n }
      .next ((s.partCores p).foldl (fun s core =>
        [0, 1, 2, 3].foldl (fun s k => s.sampleSched r p core k) s) s)

/-! ### The counter series (R423) -/

/-- A counter store of `n` counters from key `k`. -/
def countStore (m : Store Nat) (k n : Nat) (f : Nat → Nat) : Store Nat :=
  (List.range n).foldl (fun m i => Store.set 0 m (k + i) (f i)) m

/-- Every counter of a die has counted on. Counters measure timing, which the model leaves out: what each has reached is a
free value. -/
def State.countOn (s : State) (die : Nat) : State :=
  let free (i : Nat) : Nat := leNat ((List.range 4).map fun k => Config.freeByte (s.freeCtr * 16384 + 4 * i + k))
  let s := (List.range 64).foldl (fun s k =>
    s.modCore (64 * die + k) fun c => { c with counters := countStore [] 0 32 fun i => free (32 * k + i) }) s
  { s with dieCtrs := countStore s.dieCtrs (32 * die) 10 fun i => free (2048 + i), freeCtr := s.freeCtr + 1 }

/-- One die's record of 16,384 bytes: its header, 32 counters of each core, 32 of the die, zeros. -/
def State.seriesRecord (s : State) (die k seq : Nat) : List Byte :=
  leBytes 8 seq ++ leBytes 8 s.now ++ leBytes 8 die ++ leBytes 8 k ++ List.replicate 32 0 ++
    ((List.range 64).flatMap fun c => (List.range 32).flatMap fun i => leBytes 4 (Store.get 0 (s.core (64 * die + c)).counters i)) ++
    ((List.range 32).flatMap fun i => leBytes 4 (Store.get 0 s.dieCtrs (32 * die + i))) ++
    List.replicate (16384 - 64 - 64 * 128 - 128) 0

def execSeriesTick (p : PartRef) (s : State) : Host.Outcome State Fault Refusal :=
  match (s.part p).seriesRing with
  | none => still s
  | some r =>
    let n := s.cycles / 2 ^ r.k
    if n ≤ (s.part p).seriesTick then still s
    else
      let seq := (s.part p).seriesSeq + 1
      let s := s.modPart p fun q => { q with seriesTick := n, seriesSeq := seq }
      let s := [0, 1, 2, 3].foldl State.countOn s
      .next ([0, 1, 2, 3].foldl (fun (s : State) die => s.ringWrite p r (s.seriesRecord die r.k seq)) s)

/-! ### Frames and losses (R424, R427) -/

/-- Packets that are due go out; else a frame without a new byte for 1 µs closes (R424). -/
def execTraceFrameClose (uid : Nat) (s : State) : Host.Outcome State Fault Refusal :=
  let c := s.crew uid
  if c.trace.held.head?.any (s.packetDue uid) then .next (s.traceOut uid)
  else when_ (!c.trace.buf.isEmpty && decide (c.trace.lastNs + 1000 ≤ s.now)) s (s.sendOpen uid)

/-- Room has returned: LOSS, NAME if one was dropped, and every pair owes a SYNC, which is its next packet. The packets that wait for a word to be past its
replay come first: the stream is in cycle order. -/
def execTraceLoss (uid : Nat) (s : State) : Host.Outcome State Fault Refusal :=
  let c := s.crew uid
  let t := c.trace
  if t.lost = 0 || !t.held.isEmpty || !s.chimneyRoom c then still s
  else
    let s := s.writePacket uid s.cycles 15 0 (leBytes 4 t.lost)
    let s := s.modCrew uid fun c =>
      { c with trace := { c.trace with lost := 0, lostName := false, sync := c.syncPairs, mute := c.syncPairs } }
    .next (if t.lostName then s.writePacket uid s.cycles 9 0 (leBytes 8 (s.procOf c).toNat ++ leBytes 2 c.core) else s)

end Sys2Proof.Machine
end

