-- ==== Sys2Proof/Machine/PkgEv.lean ====
section
/-! DEFINITION. Steps of the package as a whole: the kiln (R376, R407), device time (R430, R431), rails and power (R453 to
R455), boot (R456, R457) and attestation (R458). -/

namespace Sys2Proof.Machine

/-! ### The kiln (R376, R404, R407) -/

/-- Crews that hold a slot of a core and whose USES holds a class; a class that is never fenced takes the whole core (R405). -/
def State.classCrews (s : State) (c : ClassRef) : List Nat :=
  (s.residents c.core).filter fun u => neverFenced c.cls || (s.hdrOf (s.crew u)).uses.getLsbD c.cls

def execKilnwaitExpiry (c : ClassRef) (s : State) : Host.Outcome State Fault Refusal :=
  let x := s.kilnOf c.core c.cls
  when_ (x.st == .suspect && x.since + s.cfg.kilnWaitMs * 1000000 ≤ s.now &&
      (s.classCrews c).any fun u => (s.crew u).st == .running) s
    (((s.classCrews c).foldl State.preemptAll s).modKiln c.core c.cls fun x => { x with draining := true })

def execKilnTest (c : ClassRef) (s : State) : Host.Outcome State Fault Refusal :=
  when_ ((s.kilnOf c.core c.cls).st == .suspect && (s.classCrews c).isEmpty) s
    (s.modKiln c.core c.cls fun x => { x with st := .testing, draining := false })

/-- The partition of a core. -/
def State.partOf (s : State) (core : Nat) : Option PartRef :=
  (((List.range 8).map fun i => (⟨coreDie core, i⟩ : PartRef)).find? fun p => s.coreIn p core)

/-- Look again at what waits for a core of its partition. -/
def State.noteCore (s : State) (core : Nat) : State := match s.partOf core with
  | some p => s.noteWaits p
  | none => s

def execKilnTestResult (c : ClassRef) (pass : Bool) (s : State) : Host.Outcome State Fault Refusal :=
  let x := s.kilnOf c.core c.cls
  match x.st with
  | .testing =>
    .next ((s.modKiln c.core c.cls fun x =>
      if pass then { x with st := .clear, events := [] } else { x with st := .retest }).noteCore c.core)
  | .retest =>
    .next ((s.modKiln c.core c.cls fun x =>
      if pass then { x with st := .clear, events := [] } else { x with st := .fenced, draining := true }).noteCore c.core)
  | _ => still s

/-- The mask of a core after a class has been fenced; a class that is never fenced takes the core out of service. -/
def fencedMask (mask : DWord) (cls : Nat) : DWord :=
  if neverFenced cls then 0 else mask &&& ~~~(BitVec.ofNat 64 (2 ^ cls))

/-- Tasks with a SAVED crew that no core of their partition could take any more (R376). -/
def State.stranded (s : State) (core : Nat) : List (Nat × Nat) :=
  match s.partOf core with
  | none => []
  | some p => ((s.partTasks p).filter fun n =>
      ((s.taskCrews p.ldev n).any fun e => e.2.st == .saved) &&
        (s.partCores p).all fun k => !maskHolds (s.core k).mask (s.task p.ldev n).hdr.uses).map fun n => (p.ldev, n)

/-- A confirmed failure: the crews that hold the class are pre-empted; once each is SAVED the bit clears, the
configuration is written again at VERSION + 1, and the journal says so (R407, R457). -/
def execKilnFenceApply (c : ClassRef) (s : State) : Host.Outcome State Fault Refusal :=
  let x := s.kilnOf c.core c.cls
  if x.st != .fenced || !x.draining then still s
  else
    let l := (s.classCrews c).filter fun u => (s.crew u).st == .running
    if !(s.classCrews c).isEmpty then .next (l.foldl State.preemptAll s)
    else
      let s := s.modCore c.core fun k => { k with mask := fencedMask k.mask c.cls }
      let lost := s.stranded c.core
      let s := s.log jFENCE 0 (coreDie c.core) 0xFF [c.core, 2 ^ c.cls, (lost.head?.map Prod.snd).getD 0]
      let s := (lost.drop 1).foldl (fun s e => s.log jFENCE 0 e.1 0xFF [c.core, 2 ^ c.cls, e.2]) s
      let s : State := { s with cfg := { s.cfg with cfgVer := s.cfg.cfgVer + 1, cfgMin := s.cfg.cfgVer + 1 } }
      let s := s.modKiln c.core c.cls fun x => { x with draining := false }
      .next ((lost.foldl (fun s e => s.killTask 0 e.1 e.2 6 .fence) s).noteCore c.core)

/-! ### Device time (R430, R431) -/

/-- A CLOCK record: the signed correction in ns, and the IEEE 1588 source. -/
def State.logClock (s : State) (ns : Int) (source : DWord) : State := s.record jCLOCK 0 0xFF 0xFF [BitVec.ofInt 64 ns, source]

/-- The clock learns its offset from the master's time (log entry 52): one of 1 ms or more to go forward is a step; any other
is removed by a slew. Device time never goes back. -/
def execPtpMessage (m : PtpMsg) (s : State) : Host.Outcome State Fault Refusal :=
  if m.ns = 0 then still s
  else if 1000000 ≤ m.ns then .next (({ s with now := s.now + m.ns.toNat } : State).logClock m.ns m.source)
  else .next (({ s with slew := m.ns, slewNs := s.now, slewSrc := m.source } : State).logClock m.ns m.source)

/-- A slew ends once its offset can have been removed at 100 ppm. -/
def execClockSlewEnd (s : State) : Host.Outcome State Fault Refusal :=
  when_ (s.slew != 0 && decide (s.slewNs + 10000 * s.slew.natAbs ≤ s.now)) s
    (({ s with slew := 0 } : State).logClock s.slew s.slewSrc)

/-! ### Rails and power (R453 to R455) -/

def execRailAdjust (core mv : Nat) (s : State) : Host.Outcome State Fault Refusal :=
  when_ (decide (300 ≤ mv) && decide (mv ≤ 450) && decide (core < 256)) s
    (s.modCore core fun c => { c with railMv := mv })

/-- The issue rates in percent, the matrix engines' first. -/
def execPowerThrottle (mtxPct schedPct : Nat) (s : State) : Host.Outcome State Fault Refusal :=
  when_ (decide (mtxPct ≤ 100) && decide (schedPct ≤ 100) && (schedPct == 100 || mtxPct != 100)) s
    { s with throttle := (mtxPct, schedPct) }

def execIdleTimeout (p : PartRef) (s : State) : Host.Outcome State Fault Refusal :=
  let q := s.part p
  when_ (q.live && q.power == .active && !s.partBusy p && q.idleSince + 100000 ≤ s.now) s
    ((s.log jPOWER 0 p.ldev p.part [p.part, 0, 1, 0]).modPart p fun q => { q with power := .idle })

/-! ### Boot (R456, R457) -/

/-- What a configuration keeps through a reset: the core masks, and the pairs whose fence is written in it (R407, R457). A pair whose
class `masks` has again is CLEAR. -/
def State.keptFences (s : State) (masks : Store Core) : Store KilnPair :=
  (s.kiln.filter fun e => e.2.st == .fenced && !e.2.draining && !(Store.get {} masks (e.1 / 64)).mask.getLsbD (e.1 % 64)).map
    fun e => (e.1, { st := .fenced })

/-- Both signatures verify. -/
def imageVerifies (x : SignedImage) : Bool := x.ecdsa && x.lms

/-- The firmware that boots: slot 0's, or else slot 1's; an image below the minimum counts as one that does not verify. -/
def bootFirmware (b : BootImage) (least : Nat) : Option SignedImage :=
  [b.slot0, b.slot1].find? fun x => imageVerifies x && least ≤ x.ver

/-- A core's mask in a configuration. -/
def cfgMask (x : CfgImage) (core : Nat) : DWord := ((x.capMap.find? fun e => e.1 == core).map Prod.snd).getD 0xFFFFFFFFFFFFFFFF

/-- An image differs from another only by fences added and by VERSION. -/
def addsFences (x y : CfgImage) : Bool :=
  (List.range 256).all (fun k => maskHolds (cfgMask y k) (cfgMask x k)) && x.priority == y.priority && x.windowSec == y.windowSec &&
    x.kilnWaitMs == y.kilnWaitMs && x.grade == y.grade && x.vendor == y.vendor

/-- The configuration images that are accepted: Tabven's, and the module's own where the Tabven-signed image that it derives from is
present, verifies, and differs only by the fences. -/
def acceptedCfgs (b : BootImage) (least : Nat) : List CfgImage :=
  b.cfgs.filter fun x => imageVerifies x.sig && least ≤ x.sig.ver && match x.base with
    | none => true
    | some n => match b.cfgs[n]? with
      | some y => y.base.isNone && imageVerifies y.sig && addsFences x y
      | none => false

/-- The first image of the highest VERSION. -/
def newest : List CfgImage → Option CfgImage
  | [] => none
  | x :: l => match newest l with
    | some y => if x.sig.ver < y.sig.ver then some y else some x
    | none => some x

/-- The core masks that a configuration gives. One that the module has signed clears no fence. -/
def State.bootMasks (s : State) (x : CfgImage) : Store Core :=
  (List.range 256).foldl (fun (m : Store Core) k =>
    Store.set {} m k { mask := if x.base.isNone then cfgMask x k else cfgMask x k &&& (s.core k).mask }) []

/-- The package restarts: device time 0 and nothing left but what the flash and the replay-protected store hold. The flash holds the
configuration that was applied last too, fences added to it included: it is the one with the highest VERSION unless an accepted image
has a higher one (log entry 59). Without a firmware image the package stays in recovery. The rest of State is that of reset, but
for the inputs that are still to come. -/
def execPackageReset (b : BootImage) (s : State) : Host.Outcome State Fault Refusal :=
  let held : Store Core := (s.cores.filter fun e => e.2.mask != Core.mask {}).map fun e => (e.1, { mask := e.2.mask })
  let base : State := { State.reset with freeCtr := s.freeCtr, agenda := s.agenda, cores := held, kiln := s.keptFences held }
  match bootFirmware b s.cfg.fwMin with
  | none => .next { base with cfg := { s.cfg with recovery := true }, windowOpen := false }
  | some fw =>
    let kept : BootCfg := { s.cfg with fwVer := fw.ver, fwMin := max s.cfg.fwMin fw.ver, recovery := false }
    match (newest (acceptedCfgs b s.cfg.cfgMin)).filter fun x => s.cfg.cfgVer < x.sig.ver with
    | none => .next { base with cfg := kept }
    | some x =>
      let cores := s.bootMasks x
      .next { base with
        cfg := { kept with cfgVer := x.sig.ver, cfgMin := max s.cfg.cfgMin x.sig.ver, priority := x.priority, windowSec := x.windowSec
                           kilnWaitMs := x.kilnWaitMs, grade := x.grade, vendor := x.vendor }
        cores := cores, kiln := s.keptFences cores }

/-! ### Attestation (R458) -/

/-- The report; the hashes and the signatures are free values. -/
def State.report_ (s : State) (nonce : List Byte) : List Byte :=
  let free (i : Nat) : Byte := Config.freeByte (s.freeCtr * 16384 + i)
  leBytes 8 (0x41545354 * 2 ^ 32 + 1) ++ leBytes 8 s.now ++ nonce ++ (List.range 96).map free ++
    leBytes 8 (s.cfg.fwVer * 2 ^ 32 + s.cfg.cfgVer) ++ leBytes 8 s.cfg.grade ++
    (List.range 256).flatMap (fun n => leBytes 8 (s.core n).mask.toNat) ++
    (List.range (96 + Config.lmsBytes)).map fun i => free (96 + i)

def execAttest (c : Cmd) (s : State) : Host.Outcome State Fault Refusal :=
  let named := cArgN c 4 != 0
  cmdFrame { op := 0x48, who := .any, scope := if named then 2 else 0 } c s fun s =>
    let r := s.report_ (argBytes c 0 4)
    let s : State := { s with freeCtr := s.freeCtr + 1 }
    if !named then s.respond c stOK [] r
    else match s.brewDword (cmdPart c) (cArg c 4) r.length 1 false true with
      | none => s.answer c stERROR []
      | some a => (s.homeWrite none none (.mem a) r).answer c stOK []

end Sys2Proof.Machine
end

