-- ==== Sys2Proof/Machine/HostEv.lean ====
section
/-! DEFINITION. The application cores at the two windows of R388: registers, rings and journal of the brewhouse window, mapped
objects of the host window, and the commands of the operating system's ring (R385). -/

namespace Sys2Proof.Machine

/-! ### Commands of the ring (R385, R386) -/

/-- The record at a slot of the command ring. Whether its signature block verifies is a free value: the manual gives no keys. -/
def State.ringCmd (s : State) (slot : Nat) : Cmd × State :=
  let d (i : Nat) : Nat := (s.winReg (128 * slot + 8 * i)).toNat
  let (f, s) := s.free
  ({ source := .os, seq := BitVec.ofNat 32 (d 0 / 2 ^ 32), opcode := BitVec.ofNat 16 (d 0)
     resvHi := BitVec.ofNat 16 (bits (d 0) 16 16), ldev := BitVec.ofNat 8 (bits (d 1) 56 8), part := BitVec.ofNat 8 (bits (d 1) 48 8)
     resvMid := BitVec.ofNat 16 (bits (d 1) 32 16), sigLen := BitVec.ofNat 32 (d 1)
     args := (List.range 14).map fun i => BitVec.ofNat 64 (d (i + 2)), sigOk := f % 2 == 1 }, s)

/-- The step of a DEBUG record, by its subcode. -/
def debugStep (c : Cmd) : State → Host.Outcome State Fault Refusal := match cArgN c 0 with
  | 1 => execHalt c
  | 2 => execResume c
  | 3 => execStep c
  | 4 => execBpset c
  | 5 => execWpset c
  | 6 => execIntercept c
  | 7 => execRegrd c
  | 8 => execRegwr c
  | 9 => execSample c
  | 10 => execSeries c
  | 11 => execTrace c
  | 12 => execDbgpol c
  | 13 => execStoprec c
  | 14 => execMemrd c
  | 15 => execMemwr c
  | _ => execUnknownCommand c

/-- The step of a command record, by its opcode (R387). -/
def cmdStep (c : Cmd) : State → Host.Outcome State Fault Refusal := match c.opcode.toNat with
  | 0x01 => execClaim c
  | 0x02 => execHandover c
  | 0x03 => execOverride c
  | 0x10 => execCmdQreg c
  | 0x11 => execQreset c
  | 0x12 => execQremove c
  | 0x13 => State.takeQappend c
  | 0x20 => execPartchg c
  | 0x21 => execKilltask c
  | 0x22 => execKillpart c
  | 0x23 => execCmdPower c
  | 0x24 => execWatchdog c
  | 0x25 => execDumph c
  | 0x30 => execCmdArnew c
  | 0x31 => execCmdHalloc c
  | 0x32 => execCmdArseal c
  | 0x33 => execCmdArdrop c
  | 0x34 => execCmdArquota c
  | 0x35 => execCmdArinfo c
  | 0x38 => execMap c
  | 0x39 => execUnmap c
  | 0x3A => execImportHandle c
  | 0x3C => execMread c
  | 0x3D => execMwrite c
  | 0x40 => debugStep c
  | 0x41 => execDebugtoken c
  | 0x48 => execAttest c
  | 0x49 => execBindvec c
  | 0x4A => execJread c
  | _ => execUnknownCommand c

/-- Take the next record of the ring, if CMDWR has passed it. -/
def State.ringStep (s : State) : State :=
  let rd := s.winReg 0xC008
  if (s.winReg 0xC000).toNat ≤ rd.toNat then s
  else
    let (c, s) := s.ringCmd (rd.toNat % 256)
    match cmdStep c s with
    | .next t => t
    | _ => s

/-- A write of CMDWR notifies the brewhouse, which takes the records up to it; the ring holds 256. -/
def State.ringRun (s : State) : State := (List.range 256).foldl (fun s _ => s.ringStep) s

/-! ### One access of an application core (R388) -/

/-- The value an AMO leaves, by its number: swap, add, xor, and, or, and the signed and unsigned minimum and maximum of `n` bytes. -/
def amoValue (k n : Nat) (old v : DWord) : DWord :=
  let sx (d : DWord) : Int := if n = 4 then (d.setWidth 32 : Word).toInt else d.toInt
  let ux (d : DWord) : Nat := if n = 4 then d.toNat % 2 ^ 32 else d.toNat
  match k with
  | 0 => v
  | 1 => old + v
  | 2 => old ^^^ v
  | 3 => old &&& v
  | 4 => old ||| v
  | 5 => if sx v < sx old then v else old
  | 6 => if sx old < sx v then v else old
  | 7 => if ux v < ux old then v else old
  | _ => if ux old < ux v then v else old

/-- What an access stores over `old`, if anything. `held` says that a reservation of the place is still good. -/
def hostStores (o : HostOp) (n : Nat) (old v : DWord) (held : Bool) : Option DWord := match o with
  | .load => none
  | .store => some v
  | .amo k => some (amoValue k n old v)
  | .lr => none
  | .sc => if held then some v else none

/-- What the hart receives: the old value, or the outcome of a conditional store, 0 where it was made. -/
def hostAnswer (o : HostOp) (old : DWord) (held : Bool) : DWord := match o with
  | .store => 0
  | .sc => if held then 0 else 1
  | _ => old

def hostReads : HostOp → Bool
  | .store => false
  | .sc => false
  | _ => true

def hostWrites : HostOp → Bool
  | .load => false
  | .lr => false
  | _ => true

/-- The answer of an access and the reservation that it leaves: `lr` makes one, `sc` ends it. -/
def State.answerHost (s : State) (o : HostOp) (addr n : Nat) (old : DWord) (held : Bool) : State :=
  { s with hostAns := hostAnswer o old held, hostFault := false
           hostRes := match o with
             | .lr => some (addr, n, s.writes, old)
             | .sc => none
             | _ => s.hostRes }

/-- The access takes an access-fault exception on its hart: nothing changes here, and a conditional store ends its reservation. -/
def State.faultHost (s : State) (o : HostOp) : State :=
  { s with hostAns := 0, hostFault := true, hostRes := if o = .sc then none else s.hostRes }

/-- A reservation of `n` bytes at an address is good: the place holds what it held, and no write to `l` has been performed since. -/
def State.reserved (s : State) (addr n : Nat) (old : DWord) (l : Option Loc) : Bool := match s.hostRes with
  | some (a, m, at_, v) => a == addr && m == n && v == old && match l with
    | some l => s.hist.all fun w => w.at_ < at_ || (List.range n).all fun k => (w.covers (l.plus k)).isNone
    | none => true
  | none => false

/-! ### The brewhouse window -/

/-- Window offsets that the brewhouse alone writes: response ring, CMDRD, RSPWR, VECDROP, journal. -/
def readOnlyReg (off : Nat) : Bool :=
  (0x8000 ≤ off && off < 0xC000) || off == 0xC008 || off == 0xC010 || off == 0xC020 || 0x4000000 ≤ off

/-- The dword that holds a window offset: a register or a dword of a ring; the journal's slot of a record (R381). -/
def State.winDword (s : State) (off : Nat) : DWord :=
  let off := off / 8 * 8
  if off < 0x4000000 then s.winReg off
  else
    let i := off - 0x4000000
    match s.journal.reverse.find? fun r => r.seq % Config.journalLen == i / 64 with
    | some r => BitVec.ofNat 64 (leNat ((r.bytes.drop (i % 64)).take 8))
    | none => 0

/-- `n` bytes of a dword from byte `k`, and the dword with them replaced. -/
def bytesAt (d : DWord) (k n : Nat) : DWord := BitVec.ofNat 64 (d.toNat / 2 ^ (8 * k) % 2 ^ (8 * n))
def setBytesAt (d : DWord) (k n : Nat) (v : DWord) : DWord :=
  BitVec.ofNat 64 (d.toNat - d.toNat / 2 ^ (8 * k) % 2 ^ (8 * n) * 2 ^ (8 * k) + v.toNat % 2 ^ (8 * n) * 2 ^ (8 * k))

/-- An access of `n` bytes at a window offset. -/
def State.winAccess (s : State) (addr off : Nat) (v : DWord) (o : HostOp) (n : Nat) : State :=
  let d := s.winDword off
  let old := bytesAt d (off % 8) n
  let held := s.reserved addr n old none
  let t := match hostStores o n old v held with
    | some x => if readOnlyReg (off / 8 * 8) then s else s.setWin (off / 8 * 8) (setBytesAt d (off % 8) n x)
    | none => s
  let t := t.answerHost o addr n old held
  if hostWrites o && off / 8 * 8 == 0xC000 then t.ringRun else t

/-! ### The host window -/

/-- An access of `n` bytes of a mapped object, checked by steps 1 to 5 of R86 and performed at its home (R388). One to a page that
is not mapped, or whose sector's fill is pending, is not performed yet (R90, R315). -/
def State.mapAccess (s : State) (m : HostMap) (addr : Nat) (v : DWord) (o : HostOp) (n : Nat) : State :=
  let h : HReg := ⟨BitVec.ofNat 20 m.h, m.ent, false⟩
  let off := addr - m.addr
  let key := memKey (m.ent.home m.ldev) (m.ent.base + off)
  let ok := (m.r || !hostReads o) && (m.w || !hostWrites o) && ([1, 2, 3, 4, 5].all fun k =>
    (s.checkStep ⟨m.ldev, m.part⟩ h ⟨n, n, hostReads o, hostWrites o⟩ none (sliceOf key) (BitVec.ofNat 64 off) k).isNone)
  if !ok then s.faultHost o
  else if (s.goneUnit key n).isSome || (hostReads o && (s.filling (.mem key) n).isSome) then s
  else
    let old := BitVec.ofNat 64 (leNat (s.peekN (.mem key) n))
    let held := s.reserved addr n old (some (.mem key))
    let t := match hostStores o n old v held with
      | some x => s.homeWrite none none (.mem key) (leBytes n x.toNat)
      | none => s
    t.answerHost o addr n old held

/-- The access has a size that exists: 1, 2, 4 or 8 bytes, and for an AMO, of nine, or a reservation 4 or 8. -/
def hostSized (o : HostOp) (n : Nat) : Bool := [1, 2, 4, 8].contains n && match o with
  | .load => true
  | .store => true
  | .amo k => 4 ≤ n && k < 9
  | _ => 4 ≤ n

/-- An access of an application core, naturally aligned, of 1, 2, 4 or 8 bytes: to the brewhouse window, to a mapped object, or to
nothing, which is an access fault (R388). In recovery the brewhouse answers none (R456). -/
def execRegisterWrite (addr : Nat) (a : HostAccess) (s : State) : Host.Outcome State Fault Refusal :=
  if s.cfg.recovery || !hostSized a.op a.n || addr % a.n ≠ 0 then still s
  else if brewWindow ≤ addr && addr < brewWindow + 2 ^ 30 then .next (s.winAccess addr (addr - brewWindow) a.v a.op a.n)
  else match s.maps.find? fun m => m.meets addr a.n with
    | some m => .next (s.mapAccess m addr a.v a.op a.n)
    | none => .next (s.faultHost a.op)

end Sys2Proof.Machine
end

