-- ==== Sys2Proof/Machine/Auto.lean ====
section
/-! DEFINITION. What the package may do of itself next: pairs that its schedulers may pick, and the steps without an encoding
that its own units take. A unit's step is open where it changes the state. Commands, strikes, link failures and the other
inputs of the outside world come from the agenda alone. -/

namespace Sys2Proof.Machine

/-- The answer of a step, whatever its meaning decides. -/
abbrev Answer := Host.Outcome State Fault Refusal

/-- Something the package may do next. -/
inductive Candidate where
  | issue (p : PairRef)
  | does (f : State → Answer)

/-- The step is open: it changes the state. -/
def State.opens (s : State) (f : State → Answer) : Bool := match f s with
  | .next t => t != s
  | _ => true

/-! ### The pairs and threads of the crews -/

/-- Every thread of the package that is not absent. -/
def State.threadRefs (s : State) : List (ThreadRef × Thread) :=
  s.crews.flatMap fun e => (e.2.threads.filter fun t => t.2.st != .absent).map fun t => (⟨e.1, t.1⟩, t.2)

/-- Steps of one thread, running or exited. -/
def threadSteps (t : ThreadRef) : List (State → Answer) :=
  [execWindowRetire t, execFenceComplete t, execPoisonConsume t, execStarvationSwap t] ++
    ([none, some 0, some 1, some 2, some 3].map fun d => execAccessAtHome (.store t d false)) ++
    [0, 1, 2, 3].map fun d => execFlushComplete t d

/-- Steps of one pair that is suspended. -/
def waitSteps (p : PairRef) (x : Slot) : List (State → Answer) :=
  [execBlockedWordResume p, execTrapDelivery p, execWatchdogExpiry p, execRequestedDumpComplete p ⟨true, 0⟩] ++
    (match x.wait with
      | some (.cellar _ _) => [execCellarLimit p]
      | some (.recv _ _) => [execRecvLimit p]
      | some (.timeline _ _ _) => [execTlwaitLimit p]
      | some (.page d g _) => [execPageFaultResolve (.pair p) d g true, execPageFaultResolve (.pair p) d g false]
      | _ => [])

/-- Steps of the pairs of a thread. -/
def pairSteps (t : ThreadRef) (x : Thread) : List (State → Answer) :=
  (slotsOf t.tid).flatMap fun b =>
    let y := x.arch.slot b
    let p : PairRef := ⟨t.uid, t.tid, b⟩
    if y.st == .blocked then waitSteps p y else if y.st == .empty then [execBlockedWordResume p] else []

/-! ### Contexts -/

/-- Steps of one accepted operation. -/
def opSteps (uid : Nat) (x : Ctx) (o : Op) : List (State → Answer) :=
  let r : OpRef := ⟨uid, x, o.num⟩
  let work : List (State → Answer) := match x with
    | .copy => if o.opcode == 2 && !o.param && !o.openBits.isEmpty then o.openBits.map fun b => execMulticastReceive uid o.num b
        else [execAccessAtHome (.copy uid o.num 0), execQpostRoomLimit uid o.num]
    | .matrix => [execMatrixBoundary uid o.num]
    | _ => []
  let page : List (State → Answer) := match o.waitPage with
    | some (d, g, _) => [execPageFaultResolve (.op r) d g true, execPageFaultResolve (.op r) d g false]
    | none => []
  execAsyncComplete r :: (work ++ page)

/-- Steps of a crew beside those of its threads. -/
def crewSteps (uid : Nat) (c : Crew) : List (State → Answer) :=
  [execHandlerSpawn uid, execSaveComplete uid, execCrewResume uid c.core, execCrewRetire uid, execKill uid,
    execKillComplete uid, execTraceFrameClose uid, execTraceLoss uid] ++
    [Ctx.copy, .matrix, .arena, .message].flatMap fun x => (c.ctx x).ops.flatMap (opSteps uid x)

/-! ### Partitions, queues, the package -/

/-- Steps of the messages of a consumer group. -/
def groupSteps (p : PartRef) (gid : Nat) (g : CGroup) : List (State → Answer) :=
  (g.nodes.map fun n => execReadinessReport p gid n.1) ++ g.msgs.flatMap fun m =>
    let r : MsgRef := ⟨p.ldev, p.part, gid, m.id⟩
    match m.at_ with
    | .bounced _ _ => [execMessageBounce r, execGrpdelHandover r]
    | .ring _ _ _ => [execRingDelivery r]
    | .unacked => [execOrdAck r]
    | .spawn _ _ _ => []
    | _ => [execMessageSteer r, execGrpdelHandover r]

/-- Steps of the rounds of a collective. -/
def collSteps (p : PartRef) (id : Nat) (c : Coll) : List (State → Answer) :=
  c.rounds.flatMap fun r => ((List.range 64).flatMap fun core =>
    let x : RoundRef := ⟨p.ldev, p.part, id, r.k, 64 * p.ldev + core⟩
    [execReductionPartial ⟨x, none⟩, execReductionResult ⟨x, none⟩]) ++ [execRoundTimeout ⟨p.ldev, p.part, id, r.k, 0⟩]

/-- Steps of a partition. -/
def State.partSteps (s : State) (key : Nat) (q : Part) : List (State → Answer) :=
  let p : PartRef := ⟨key / 8, key % 8⟩
  [execDropBroadcast ⟨p, none⟩, execDropComplete ⟨p, 0⟩, execDumpWritten p ⟨true, 0⟩, execSampleTick p, execSeriesTick p, execTokenExpiry p,
    execIdleTimeout p] ++ ((s.partCores p).map fun c => execPlacement p c) ++
    (q.sealOps.flatMap fun e => [execSealBroadcast ⟨arenaAt p e.1, none⟩, execSealComplete (arenaAt p e.1)]) ++
    (q.groups.flatMap fun e => groupSteps p e.1 e.2) ++ q.colls.flatMap fun e => collSteps p e.1 e.2

/-- The step of a packet by its type. -/
def packetStep (k : PktRef) (ty : Nat) : State → Answer := match ty with
  | 1 => execLaunch k
  | 2 => execBranch k
  | 3 => execWaittl k
  | 4 => execDepend k
  | 5 => execSignal k
  | 6 => execCopy k
  | 7 => execDrop k
  | 8 => execMarker k
  | _ => execBadpacket k

/-- Steps of a queue: its next packet, and those that have started. -/
def State.queueSteps (s : State) (key : Nat) (q : Queue) : List (State → Answer) :=
  let ldev := key / 4096
  let n := key % 4096
  let next : PktRef := ⟨ldev, n, q.next⟩
  let fresh : List (State → Answer) := if s.pktNext next then [packetStep next (s.pktType next)] else []
  let started := (q.orphans ++ q.pkts).filter fun k => k.st == .started
  fresh ++ [execQueueAged ldev n] ++ started.flatMap fun k =>
    let r : PktRef := ⟨ldev, n, k.index⟩
    match k.ty with
    | 3 => [execWaittlNotify r, execPacketLimit r]
    | 4 => [execDepend r, execPacketLimit r]
    | 6 => execCopy r :: match s.pktPage r with
      | some (d, g) => [execPageFaultResolve (.packet r) d g true, execPageFaultResolve (.packet r) d g false]
      | none => []
    | _ => []

/-- Steps of a command that has not been answered: a QAPPEND tries again, or gives up. -/
def cmdSteps (c : PendCmd) : List (State → Answer) :=
  if c.cmd.opcode == 0x13 then [execQappend c.cmd, execQappendBusy c.cmd.source c.cmd.seq] else []

/-- Steps of the kiln for a core and class; the result of its test is free. -/
def kilnSteps (key : Nat) : List (State → Answer) :=
  let c : ClassRef := ⟨key / 64, key % 64⟩
  [execKilnwaitExpiry c, execKilnTest c, execKilnTestResult c true, execKilnTestResult c false, execKilnFenceApply c]

/-- Steps of the memory system: page-table walks, fills, write-backs of dirty lines, reports of OCC. -/
def State.memSteps (s : State) : List (State → Answer) :=
  (s.walks.map fun w => execTranslationWalk w.1 w.2.1 w.2.2) ++
    (s.fills.map fun e => execFillReturn (e.1 / 2 ^ 43) (e.1 % 2 ^ 43)) ++
    (s.cores.flatMap fun e => e.2.dirty.map fun d => execAccessAtHome (.writeBack e.1 d.1)) ++
    s.arenas.map fun e => State.occStep ⟨e.1 / 4096 / 8, e.1 / 4096 % 8, e.1 % 4096⟩

/-- The steps of every unit of the package. -/
def State.unitSteps (s : State) : List (State → Answer) :=
  (s.threadRefs.flatMap fun e => threadSteps e.1 ++ if e.2.st == .running then pairSteps e.1 e.2 else []) ++
    (s.crews.flatMap fun e => crewSteps e.1 e.2) ++ (s.parts.flatMap fun e => s.partSteps e.1 e.2) ++
    (s.queues.flatMap fun e => s.queueSteps e.1 e.2) ++
    (s.tasks.flatMap fun e => [execTaskRetire (e.1 / 2 ^ 32) (taskNo e.1), execTaskTimeout (e.1 / 2 ^ 32) (taskNo e.1)]) ++
    (s.change.flatMap fun e => [execPartitionDeadline e.1, execPartitionApply e.1]) ++ (s.cmds.flatMap cmdSteps) ++
    (s.kiln.flatMap fun e => kilnSteps e.1) ++ s.memSteps ++ [execElectionWindowEnd, execClockSlewEnd]

/-- Everything the package may do next. -/
def State.candidates (s : State) : List Candidate :=
  ((((s.crews.map fun e => e.2.core).eraseDups).flatMap s.picks).map .issue) ++ (s.unitSteps.filter s.opens).map .does

/-! ### Time -/

/-- Let time pass before a move of the agenda. -/
def State.after (s : State) (dNs dCyc : Nat) : State := { s with now := s.now + dNs, cycles := s.cycles + dCyc }

/-- Nothing is open: nine cycles, 5 ns, pass. -/
def State.idleTick (s : State) : State := s.pass 9

/-- What a move of the agenda may name: an input or a step of a unit. A word is executed through its pair alone. -/
def fromFetch (i : Instr) : Bool := i.cls?.isSome || match i with
  | .reservedOpcodeWord _ _ => true
  | _ => false

end Sys2Proof.Machine
end

