-- ==== Sys2Proof/Machine/Dispatch.lean ====
section
/-! DEFINITION. The dispatch: one arm per constructor of the instruction type, each a direct call of its meaning. -/

namespace Sys2Proof.Machine

def exec (i : Instr) (s : State) : Host.Outcome State Fault Refusal :=
  match i with
  | .vmov f => Sys2Proof.Machine.execVmov f s
  | .vmovi f => Sys2Proof.Machine.execVmovi f s
  | .vadd f => Sys2Proof.Machine.execVadd f s
  | .vsub f => Sys2Proof.Machine.execVsub f s
  | .vadds f => Sys2Proof.Machine.execVadds f s
  | .vsubs f => Sys2Proof.Machine.execVsubs f s
  | .vmul f => Sys2Proof.Machine.execVmul f s
  | .vmulhi f => Sys2Proof.Machine.execVmulhi f s
  | .vmad f => Sys2Proof.Machine.execVmad f s
  | .vmin f => Sys2Proof.Machine.execVmin f s
  | .vmax f => Sys2Proof.Machine.execVmax f s
  | .vabsd f => Sys2Proof.Machine.execVabsd f s
  | .vand f => Sys2Proof.Machine.execVand f s
  | .vor f => Sys2Proof.Machine.execVor f s
  | .vxor f => Sys2Proof.Machine.execVxor f s
  | .vandn f => Sys2Proof.Machine.execVandn f s
  | .vshl f => Sys2Proof.Machine.execVshl f s
  | .vshr f => Sys2Proof.Machine.execVshr f s
  | .vrot f => Sys2Proof.Machine.execVrot f s
  | .vbfe f => Sys2Proof.Machine.execVbfe f s
  | .vbfi f => Sys2Proof.Machine.execVbfi f s
  | .vpopc f => Sys2Proof.Machine.execVpopc f s
  | .vclz f => Sys2Proof.Machine.execVclz f s
  | .vbrev f => Sys2Proof.Machine.execVbrev f s
  | .vsel f => Sys2Proof.Machine.execVsel f s
  | .vaddi f => Sys2Proof.Machine.execVaddi f s
  | .vandi f => Sys2Proof.Machine.execVandi f s
  | .vshli f => Sys2Proof.Machine.execVshli f s
  | .vshri f => Sys2Proof.Machine.execVshri f s
  | .vacs f => Sys2Proof.Machine.execVacs f s
  | .vhsel f => Sys2Proof.Machine.execVhsel f s
  | .vperm f => Sys2Proof.Machine.execVperm f s
  | .vshfl f => Sys2Proof.Machine.execVshfl f s
  | .vred f => Sys2Proof.Machine.execVred f s
  | .vscan f => Sys2Proof.Machine.execVscan f s
  | .vmovs f => Sys2Proof.Machine.execVmovs f s
  | .vrdl f => Sys2Proof.Machine.execVrdl f s
  | .vwrl f => Sys2Proof.Machine.execVwrl f s
  | .vsr f => Sys2Proof.Machine.execVsr f s
  | .vdot4 f => Sys2Proof.Machine.execVdot4 f s
  | .vdot2 f => Sys2Proof.Machine.execVdot2 f s
  | .vfadd f => Sys2Proof.Machine.execVfadd f s
  | .vfsub f => Sys2Proof.Machine.execVfsub f s
  | .vfmul f => Sys2Proof.Machine.execVfmul f s
  | .vfma f => Sys2Proof.Machine.execVfma f s
  | .vfmin f => Sys2Proof.Machine.execVfmin f s
  | .vfmax f => Sys2Proof.Machine.execVfmax f s
  | .vcmp f => Sys2Proof.Machine.execVcmp f s
  | .vfcmp f => Sys2Proof.Machine.execVfcmp f s
  | .vrcp f => Sys2Proof.Machine.execVrcp f s
  | .vrsqrt f => Sys2Proof.Machine.execVrsqrt f s
  | .vsqrt f => Sys2Proof.Machine.execVsqrt f s
  | .vexp2 f => Sys2Proof.Machine.execVexp2 f s
  | .vlog2 f => Sys2Proof.Machine.execVlog2 f s
  | .vcvt f => Sys2Proof.Machine.execVcvt f s
  | .vfclass f => Sys2Proof.Machine.execVfclass f s
  | .vround f => Sys2Proof.Machine.execVround f s
  | .smov f => Sys2Proof.Machine.execSmov f s
  | .smovi f => Sys2Proof.Machine.execSmovi f s
  | .smovh f => Sys2Proof.Machine.execSmovh f s
  | .sadd f => Sys2Proof.Machine.execSadd f s
  | .ssub f => Sys2Proof.Machine.execSsub f s
  | .smul f => Sys2Proof.Machine.execSmul f s
  | .smulh f => Sys2Proof.Machine.execSmulh f s
  | .sdiv f => Sys2Proof.Machine.execSdiv f s
  | .srem f => Sys2Proof.Machine.execSrem f s
  | .sand f => Sys2Proof.Machine.execSand f s
  | .sor f => Sys2Proof.Machine.execSor f s
  | .sxor f => Sys2Proof.Machine.execSxor f s
  | .sshl f => Sys2Proof.Machine.execSshl f s
  | .sshr f => Sys2Proof.Machine.execSshr f s
  | .smin f => Sys2Proof.Machine.execSmin f s
  | .smax f => Sys2Proof.Machine.execSmax f s
  | .saddi f => Sys2Proof.Machine.execSaddi f s
  | .sandi f => Sys2Proof.Machine.execSandi f s
  | .sshli f => Sys2Proof.Machine.execSshli f s
  | .sshri f => Sys2Proof.Machine.execSshri f s
  | .scmp f => Sys2Proof.Machine.execScmp f s
  | .sbfe f => Sys2Proof.Machine.execSbfe f s
  | .spopc f => Sys2Proof.Machine.execSpopc f s
  | .sclz f => Sys2Proof.Machine.execSclz f s
  | .sfadd f => Sys2Proof.Machine.execSfadd f s
  | .sfmul f => Sys2Proof.Machine.execSfmul f s
  | .sfma f => Sys2Proof.Machine.execSfma f s
  | .scvt f => Sys2Proof.Machine.execScvt f s
  | .srd f => Sys2Proof.Machine.execSrd f s
  | .swr f => Sys2Proof.Machine.execSwr f s
  | .sfmt f => Sys2Proof.Machine.execSfmt f s
  | .pand f => Sys2Proof.Machine.execPand f s
  | .por f => Sys2Proof.Machine.execPor f s
  | .pxor f => Sys2Proof.Machine.execPxor f s
  | .pandn f => Sys2Proof.Machine.execPandn f s
  | .pmovsp f => Sys2Proof.Machine.execPmovsp f s
  | .pmovps f => Sys2Proof.Machine.execPmovps f s
  | .pcnt f => Sys2Proof.Machine.execPcnt f s
  | .pfirst f => Sys2Proof.Machine.execPfirst f s
  | .vld f => Sys2Proof.Machine.execVld f s
  | .vlds f => Sys2Proof.Machine.execVlds f s
  | .vst f => Sys2Proof.Machine.execVst f s
  | .sld f => Sys2Proof.Machine.execSld f s
  | .slds f => Sys2Proof.Machine.execSlds f s
  | .sst f => Sys2Proof.Machine.execSst f s
  | .vatomI32 f => Sys2Proof.Machine.execVatomI32 f s
  | .vatomU32 f => Sys2Proof.Machine.execVatomU32 f s
  | .vatomF32 f => Sys2Proof.Machine.execVatomF32 f s
  | .vatomF16x2 f => Sys2Proof.Machine.execVatomF16x2 f s
  | .vatomB16x2 f => Sys2Proof.Machine.execVatomB16x2 f s
  | .vatomnI32 f => Sys2Proof.Machine.execVatomnI32 f s
  | .vatomnU32 f => Sys2Proof.Machine.execVatomnU32 f s
  | .vatomnF32 f => Sys2Proof.Machine.execVatomnF32 f s
  | .vatomnF16x2 f => Sys2Proof.Machine.execVatomnF16x2 f s
  | .vatomnB16x2 f => Sys2Proof.Machine.execVatomnB16x2 f s
  | .satom f => Sys2Proof.Machine.execSatom f s
  | .hsel f => Sys2Proof.Machine.execHsel f s
  | .hinfo f => Sys2Proof.Machine.execHinfo f s
  | .fence f => Sys2Proof.Machine.execFence f s
  | .flsig f => Sys2Proof.Machine.execFlsig f s
  | .flwait f => Sys2Proof.Machine.execFlwait f s
  | .barinit f => Sys2Proof.Machine.execBarinit f s
  | .barexp f => Sys2Proof.Machine.execBarexp f s
  | .barrive f => Sys2Proof.Machine.execBarrive f s
  | .bwait f => Sys2Proof.Machine.execBwait f s
  | .bartest f => Sys2Proof.Machine.execBartest f s
  | .bsync f => Sys2Proof.Machine.execBsync f s
  | .bra f => Sys2Proof.Machine.execBra f s
  | .brp f => Sys2Proof.Machine.execBrp f s
  | .rcvpt f => Sys2Proof.Machine.execRcvpt f s
  | .join f => Sys2Proof.Machine.execJoin f s
  | .bcnd f => Sys2Proof.Machine.execBcnd f s
  | .sloop f => Sys2Proof.Machine.execSloop f s
  | .call f => Sys2Proof.Machine.execCall f s
  | .callr f => Sys2Proof.Machine.execCallr f s
  | .ret f => Sys2Proof.Machine.execRet f s
  | .jmp f => Sys2Proof.Machine.execJmp f s
  | .exit f => Sys2Proof.Machine.execExit f s
  | .yield f => Sys2Proof.Machine.execYield f s
  | .twait f => Sys2Proof.Machine.execTwait f s
  | .dqpop f => Sys2Proof.Machine.execDqpop f s
  | .dqpush f => Sys2Proof.Machine.execDqpush f s
  | .bany f => Sys2Proof.Machine.execBany f s
  | .ball f => Sys2Proof.Machine.execBall f s
  | .nop f => Sys2Proof.Machine.execNop f s
  | .mshape f => Sys2Proof.Machine.execMshape f s
  | .mzero f => Sys2Proof.Machine.execMzero f s
  | .mma f => Sys2Proof.Machine.execMma f s
  | .mloop f => Sys2Proof.Machine.execMloop f s
  | .mloopg f => Sys2Proof.Machine.execMloopg f s
  | .mloopn f => Sys2Proof.Machine.execMloopn f s
  | .msmx f => Sys2Proof.Machine.execMsmx f s
  | .mdrain f => Sys2Proof.Machine.execMdrain f s
  | .mside f => Sys2Proof.Machine.execMside f s
  | .mprog f => Sys2Proof.Machine.execMprog f s
  | .mstat f => Sys2Proof.Machine.execMstat f s
  | .cpy f => Sys2Proof.Machine.execCpy f s
  | .cpy2d f => Sys2Proof.Machine.execCpy2d f s
  | .cpymc f => Sys2Proof.Machine.execCpymc f s
  | .cpyfill f => Sys2Proof.Machine.execCpyfill f s
  | .cpyrec f => Sys2Proof.Machine.execCpyrec f s
  | .tlrd f => Sys2Proof.Machine.execTlrd f s
  | .tlwait f => Sys2Proof.Machine.execTlwait f s
  | .cprog f => Sys2Proof.Machine.execCprog f s
  | .qpost f => Sys2Proof.Machine.execQpost f s
  | .arnew f => Sys2Proof.Machine.execArnew f s
  | .halloc f => Sys2Proof.Machine.execHalloc f s
  | .arseal f => Sys2Proof.Machine.execArseal f s
  | .ardrop f => Sys2Proof.Machine.execArdrop f s
  | .arquota f => Sys2Proof.Machine.execArquota f s
  | .arinfo f => Sys2Proof.Machine.execArinfo f s
  | .send f => Sys2Proof.Machine.execSend f s
  | .asend f => Sys2Proof.Machine.execAsend f s
  | .rdy f => Sys2Proof.Machine.execRdy f s
  | .unrdy f => Sys2Proof.Machine.execUnrdy f s
  | .recv f => Sys2Proof.Machine.execRecv f s
  | .grpnew f => Sys2Proof.Machine.execGrpnew f s
  | .grpdel f => Sys2Proof.Machine.execGrpdel f s
  | .colnew f => Sys2Proof.Machine.execColnew f s
  | .redpost f => Sys2Proof.Machine.execRedpost f s
  | .redwait f => Sys2Proof.Machine.execRedwait f s
  | .colabort f => Sys2Proof.Machine.execColabort f s
  | .msgstat f => Sys2Proof.Machine.execMsgstat f s
  | .trap f => Sys2Proof.Machine.execTrap f s
  | .brk f => Sys2Proof.Machine.execBrk f s
  | .eret f => Sys2Proof.Machine.execEret f s
  | .prd f => Sys2Proof.Machine.execPrd f s
  | .pwr f => Sys2Proof.Machine.execPwr f s
  | .capmask f => Sys2Proof.Machine.execCapmask f s
  | .tmark f => Sys2Proof.Machine.execTmark f s
  | .dump f => Sys2Proof.Machine.execDump f s
  | .respost f => Sys2Proof.Machine.execRespost f s
  | .sstep f => Sys2Proof.Machine.execSstep f s
  | .kiln f => Sys2Proof.Machine.execKiln f s
  | .blockedWordResume p => Sys2Proof.Machine.execBlockedWordResume p s
  | .windowRetire t => Sys2Proof.Machine.execWindowRetire t s
  | .ageSwap t => Sys2Proof.Machine.execAgeSwap t s
  | .starvationSwap t => Sys2Proof.Machine.execStarvationSwap t s
  | .trapDelivery p => Sys2Proof.Machine.execTrapDelivery p s
  | .pageFaultResolve w ldev page ok => Sys2Proof.Machine.execPageFaultResolve w ldev page ok s
  | .mappingChange ldev page to_ => Sys2Proof.Machine.execMappingChange ldev page to_ s
  | .accessAtHome a => Sys2Proof.Machine.execAccessAtHome a s
  | .fillReturn ldev sector => Sys2Proof.Machine.execFillReturn ldev sector s
  | .fenceComplete t => Sys2Proof.Machine.execFenceComplete t s
  | .flushComplete t die => Sys2Proof.Machine.execFlushComplete t die s
  | .asyncComplete o => Sys2Proof.Machine.execAsyncComplete o s
  | .multicastReceive uid num bit => Sys2Proof.Machine.execMulticastReceive uid num bit s
  | .matrixBoundary uid num => Sys2Proof.Machine.execMatrixBoundary uid num s
  | .cpyFreeze uid v => Sys2Proof.Machine.execCpyFreeze uid v s
  | .mtxFreeze uid v => Sys2Proof.Machine.execMtxFreeze uid v s
  | .sealBroadcast b => Sys2Proof.Machine.execSealBroadcast b s
  | .sealComplete a => Sys2Proof.Machine.execSealComplete a s
  | .dropBroadcast b => Sys2Proof.Machine.execDropBroadcast b s
  | .dropComplete d => Sys2Proof.Machine.execDropComplete d s
  | .readinessReport p gid core => Sys2Proof.Machine.execReadinessReport p gid core s
  | .messageSteer m => Sys2Proof.Machine.execMessageSteer m s
  | .messageBounce m => Sys2Proof.Machine.execMessageBounce m s
  | .ordAck m => Sys2Proof.Machine.execOrdAck m s
  | .ringDelivery m => Sys2Proof.Machine.execRingDelivery m s
  | .handlerSpawn uid => Sys2Proof.Machine.execHandlerSpawn uid s
  | .grpdelHandover m => Sys2Proof.Machine.execGrpdelHandover m s
  | .reductionPartial m => Sys2Proof.Machine.execReductionPartial m s
  | .reductionResult m => Sys2Proof.Machine.execReductionResult m s
  | .roundTimeout r => Sys2Proof.Machine.execRoundTimeout r s
  | .haltedNotice p tree => Sys2Proof.Machine.execHaltedNotice p tree s
  | .cellarLimit p => Sys2Proof.Machine.execCellarLimit p s
  | .recvLimit p => Sys2Proof.Machine.execRecvLimit p s
  | .tlwaitLimit p => Sys2Proof.Machine.execTlwaitLimit p s
  | .qpostRoomLimit uid num => Sys2Proof.Machine.execQpostRoomLimit uid num s
  | .launch k => Sys2Proof.Machine.execLaunch k s
  | .branch k => Sys2Proof.Machine.execBranch k s
  | .waittl k => Sys2Proof.Machine.execWaittl k s
  | .waittlNotify k => Sys2Proof.Machine.execWaittlNotify k s
  | .depend k => Sys2Proof.Machine.execDepend k s
  | .packetLimit k => Sys2Proof.Machine.execPacketLimit k s
  | .signal k => Sys2Proof.Machine.execSignal k s
  | .copy k => Sys2Proof.Machine.execCopy k s
  | .drop k => Sys2Proof.Machine.execDrop k s
  | .marker k => Sys2Proof.Machine.execMarker k s
  | .placement p core => Sys2Proof.Machine.execPlacement p core s
  | .saveComplete uid => Sys2Proof.Machine.execSaveComplete uid s
  | .crewResume uid core => Sys2Proof.Machine.execCrewResume uid core s
  | .queueAged ldev queue => Sys2Proof.Machine.execQueueAged ldev queue s
  | .crewRetire uid => Sys2Proof.Machine.execCrewRetire uid s
  | .taskRetire ldev task => Sys2Proof.Machine.execTaskRetire ldev task s
  | .taskTimeout ldev task => Sys2Proof.Machine.execTaskTimeout ldev task s
  | .watchdogExpiry p => Sys2Proof.Machine.execWatchdogExpiry p s
  | .kill uid => Sys2Proof.Machine.execKill uid s
  | .killComplete uid => Sys2Proof.Machine.execKillComplete uid s
  | .dumpWritten p e => Sys2Proof.Machine.execDumpWritten p e s
  | .partitionDeadline ldev => Sys2Proof.Machine.execPartitionDeadline ldev s
  | .partitionApply ldev => Sys2Proof.Machine.execPartitionApply ldev s
  | .electionWindowEnd => Sys2Proof.Machine.execElectionWindowEnd s
  | .claim c => Sys2Proof.Machine.execClaim c s
  | .handover c => Sys2Proof.Machine.execHandover c s
  | .override c => Sys2Proof.Machine.execOverride c s
  | .cmdQreg c => Sys2Proof.Machine.execCmdQreg c s
  | .qreset c => Sys2Proof.Machine.execQreset c s
  | .qremove c => Sys2Proof.Machine.execQremove c s
  | .qappend c => Sys2Proof.Machine.execQappend c s
  | .qappendBusy source seq => Sys2Proof.Machine.execQappendBusy source seq s
  | .partchg c => Sys2Proof.Machine.execPartchg c s
  | .killtask c => Sys2Proof.Machine.execKilltask c s
  | .killpart c => Sys2Proof.Machine.execKillpart c s
  | .cmdPower c => Sys2Proof.Machine.execCmdPower c s
  | .watchdog c => Sys2Proof.Machine.execWatchdog c s
  | .dumph c => Sys2Proof.Machine.execDumph c s
  | .cmdArnew c => Sys2Proof.Machine.execCmdArnew c s
  | .cmdHalloc c => Sys2Proof.Machine.execCmdHalloc c s
  | .cmdArseal c => Sys2Proof.Machine.execCmdArseal c s
  | .cmdArdrop c => Sys2Proof.Machine.execCmdArdrop c s
  | .cmdArquota c => Sys2Proof.Machine.execCmdArquota c s
  | .cmdArinfo c => Sys2Proof.Machine.execCmdArinfo c s
  | .map c => Sys2Proof.Machine.execMap c s
  | .unmap c => Sys2Proof.Machine.execUnmap c s
  | .importHandle c => Sys2Proof.Machine.execImportHandle c s
  | .mread c => Sys2Proof.Machine.execMread c s
  | .mwrite c => Sys2Proof.Machine.execMwrite c s
  | .debugtoken c => Sys2Proof.Machine.execDebugtoken c s
  | .attest c => Sys2Proof.Machine.execAttest c s
  | .bindvec c => Sys2Proof.Machine.execBindvec c s
  | .jread c => Sys2Proof.Machine.execJread c s
  | .halt c => Sys2Proof.Machine.execHalt c s
  | .resume c => Sys2Proof.Machine.execResume c s
  | .step c => Sys2Proof.Machine.execStep c s
  | .bpset c => Sys2Proof.Machine.execBpset c s
  | .wpset c => Sys2Proof.Machine.execWpset c s
  | .intercept c => Sys2Proof.Machine.execIntercept c s
  | .regrd c => Sys2Proof.Machine.execRegrd c s
  | .regwr c => Sys2Proof.Machine.execRegwr c s
  | .sample c => Sys2Proof.Machine.execSample c s
  | .series c => Sys2Proof.Machine.execSeries c s
  | .trace c => Sys2Proof.Machine.execTrace c s
  | .dbgpol c => Sys2Proof.Machine.execDbgpol c s
  | .stoprec c => Sys2Proof.Machine.execStoprec c s
  | .memrd c => Sys2Proof.Machine.execMemrd c s
  | .memwr c => Sys2Proof.Machine.execMemwr c s
  | .registerWrite addr a => Sys2Proof.Machine.execRegisterWrite addr a s
  | .breakpointHit p => Sys2Proof.Machine.execBreakpointHit p s
  | .watchpointHit p n lanes => Sys2Proof.Machine.execWatchpointHit p n lanes s
  | .sampleTick p => Sys2Proof.Machine.execSampleTick p s
  | .seriesTick p => Sys2Proof.Machine.execSeriesTick p s
  | .traceFrameClose uid => Sys2Proof.Machine.execTraceFrameClose uid s
  | .traceLoss uid => Sys2Proof.Machine.execTraceLoss uid s
  | .tokenExpiry p => Sys2Proof.Machine.execTokenExpiry p s
  | .strike cores => Sys2Proof.Machine.execStrike cores s
  | .residueMismatch site => Sys2Proof.Machine.execResidueMismatch site s
  | .poisonConsume t => Sys2Proof.Machine.execPoisonConsume t s
  | .kilnwaitExpiry c => Sys2Proof.Machine.execKilnwaitExpiry c s
  | .kilnTest c => Sys2Proof.Machine.execKilnTest c s
  | .kilnTestResult c pass => Sys2Proof.Machine.execKilnTestResult c pass s
  | .kilnFenceApply c => Sys2Proof.Machine.execKilnFenceApply c s
  | .linkFailure l => Sys2Proof.Machine.execLinkFailure l s
  | .ptpMessage m => Sys2Proof.Machine.execPtpMessage m s
  | .railAdjust core mv => Sys2Proof.Machine.execRailAdjust core mv s
  | .powerThrottle mtxPct schedPct => Sys2Proof.Machine.execPowerThrottle mtxPct schedPct s
  | .idleTimeout p => Sys2Proof.Machine.execIdleTimeout p s
  | .packageReset b => Sys2Proof.Machine.execPackageReset b s
  | .reservedOpcodeWord c w => Sys2Proof.Machine.execReservedOpcodeWord c w s
  | .unknownCommand c => Sys2Proof.Machine.execUnknownCommand c s
  | .badpacket k => Sys2Proof.Machine.execBadpacket k s
  | .uncorrectableError site => Sys2Proof.Machine.execUncorrectableError site s
  | .requestedDumpComplete p e => Sys2Proof.Machine.execRequestedDumpComplete p e s
  | .translationWalk die ldev page => Sys2Proof.Machine.execTranslationWalk die ldev page s
  | .occReport a lines => Sys2Proof.Machine.execOccReport a lines s
  | .clockSlewEnd => Sys2Proof.Machine.execClockSlewEnd s
  | .haltEnd p tree => Sys2Proof.Machine.execHaltEnd p tree s

end Sys2Proof.Machine
end

