-- ==== Sys2Proof/Machine/Program.lean ====
section
/-! DEFINITION. A word placed where the machine issues next: what loading a program and launching a task of one group leave
behind, in the smallest form that a fetch needs. -/

namespace Sys2Proof.Machine

/-- The class under which a table row's word is placed: the first in which it is legal. -/
def firstClassOf (w : Nat) : Cls := (firstClass (BitVec.ofNat 32 w)).getD .vec

/-- The launch header of the placed task: one group, every capability class declared. -/
def soleHdr : Hdr :=
  { codeh := 1, widw := [5, 0, 0, 0, 0, 0], lvl := 1, widCount := 32, vregs := 64, groups := 1, tiles := 8
    scratch := 65536, cstk := 4096, uses := 0xFFFFFFFFFFFFFFFF, trapPc := 0 }

/-- Its code object: 4 KiB at address 0 of device 0, in the root arena. -/
def soleCode : HEntry := HEntry.make 0 4096 1 0 6 0 false false true 0 0 0

/-- The thread that a word is placed for: the lead for `dqpush`, which no other thread may issue (R38), else group 0. -/
def soleTid (c : Cls) (w : Word) : Nat := match decode c w with
  | some (.dqpush _) => leadTid
  | _ => 0

/-- The crew that runs the word: on core 0, its slot A at offset 0. -/
def soleCrew (tid : Nat) (h0 : HReg) : Crew :=
  { part := 0, task := 1, st := .running, block := some 0
    threads := Store.set {} [] tid (freshThread 0 (if tid = 0 then 0xFFFFFFFF else 1) h0 {} 0) }

/-- Place a clause of one word: partition 0 of device 0 holds the device, task 1 has the code object, crew 1 is placed, and
the clause stands at offset 0. The next move issues it. -/
def State.withProgram (s : State) (c : Cls) (w : Word) : State :=
  let p : PartRef := ⟨0, 0⟩
  let tid := soleTid c w
  let s := s.modPart p fun q => { q with regions := 0xFF, ways := 16, pcs := 32, power := .active }
  let s := s.modArena ⟨0, 0, 0⟩ fun _ => { gen := 1, st := .live, quota := 2 ^ 40 }
  let s := s.setHandle p 1 soleCode
  let s := s.modTask 0 1 fun _ => { st := .running, part := 0, hdr := soleHdr, code := soleCode, crews := 1, nextCrew := 1, blocks := 1 }
  let s := s.setCrew 1 (soleCrew tid (s.scratchReg { task := 1 }))
  let s := s.modCore 0 fun k => { k with cslots := [(0, 1)] }
  let s := s.poke (.mem (memKey 0 0)) (wordBytes (encodeHeader c 1) ++ wordBytes w)
  { s with absentPages := Store.set false s.absentPages 0 false
           standby := false
           nextUid := max 2 s.nextUid
           nextTask := Store.set 0 s.nextTask 0 (max 1 (Store.get 0 s.nextTask 0))
           agenda := { act := .issue ⟨1, tid, false⟩ } :: s.agenda }

end Sys2Proof.Machine
end

