-- ==== Sys2Proof/Machine/Step.lean ====
section
/-! DEFINITION. One step of the package: the next move of the agenda, or, where the agenda is empty, one of the things the
package may do of itself. -/

namespace Sys2Proof.Machine

/-- Carry out what fetching decided. -/
def Fetched.go : Fetched → Host.Outcome State Fault Refusal
  | .run i t => exec i t
  | .stop t => .next t
  | .does o => o

/-- A pair issues its next word; one that may not be picked now does nothing. `back` and `only` say what the memory system makes of
the word (log entry 70). -/
def issuePair (p : PairRef) (back only : Nat) (s : State) : Host.Outcome State Fault Refusal :=
  if s.eligible p then (({ s with cur := { s.cur with back := back, only := only } } : State).issueNext p).go else still s

/-- Carry out a move. -/
def Act.go : Act → State → Host.Outcome State Fault Refusal
  | .issue p back only, s => issuePair p back only s
  | .event i, s => if fromFetch i then still s else exec i s
  | .idle, s => still s

/-- Carry out what the package does of itself. -/
def Candidate.go : Candidate → State → Host.Outcome State Fault Refusal
  | .issue p, s =>
    let (back, s) := s.free
    let (only, s) := s.free
    issuePair p back only s
  | .does f, s => f s

/-- One step. -/
def step (s : State) : Host.Outcome State Fault Refusal :=
  match s.agenda with
  | m :: rest => m.act.go (({ s with agenda := rest } : State).after m.dNs m.dCyc)
  | [] => match s.candidates with
    | [] => .next s.idleTick
    | l => let (c, t) := s.choose (.does still) l
      c.go t

/-- The machine with an instruction, of the bits of one table row, where `step` fetches next. -/
def State.withFetchWord (s : State) (nbits w : Nat) : State :=
  s.withProgram (firstClassOf w) (BitVec.ofNat 32 (w % 2 ^ nbits))

end Sys2Proof.Machine
end

