-- ==== Sys2Proof/Safety.lean ====
section
/-! DEFINITION. The terms that claims are stated in: what R80 asks of each word, the states in which a word executes, what a
step leaves unchanged, and what a safe run is. -/

namespace Sys2Proof.Machine

/-! ### What R80 asks of a word -/

/-- The class, capability classes (R404), static form, threads, privilege, registers and tiles of a word; none for a step
that no word encodes. -/
def wordInfo (s : State) : Instr → Option WordInfo
  | .vmov f => some (vr2Info (Instr.vmov f) [3] false f)
  | .vmovi f => some (vecInfo (Instr.vmovi f) (capInt f.ty) [f.vd] [])
  | .vadd f => some (vr3Info (Instr.vadd f) (capInt f.ty) false f)
  | .vsub f => some (vr3Info (Instr.vsub f) (capInt f.ty) false f)
  | .vadds f => some (vr3Info (Instr.vadds f) (capInt f.ty) false f)
  | .vsubs f => some (vr3Info (Instr.vsubs f) (capInt f.ty) false f)
  | .vmul f => some (vr3Info (Instr.vmul f) (capInt f.ty) false f)
  | .vmulhi f => some (vr3Info (Instr.vmulhi f) (capInt f.ty) false f)
  | .vmad f => some (vr3Info (Instr.vmad f) (capInt f.ty) true f)
  | .vmin f => some (vr3Info (Instr.vmin f) (capInt f.ty) false f)
  | .vmax f => some (vr3Info (Instr.vmax f) (capInt f.ty) false f)
  | .vabsd f => some (vr3Info (Instr.vabsd f) (capInt f.ty) false f)
  | .vand f => some (vr3Info (Instr.vand f) [3] false f)
  | .vor f => some (vr3Info (Instr.vor f) [3] false f)
  | .vxor f => some (vr3Info (Instr.vxor f) [3] false f)
  | .vandn f => some (vr3Info (Instr.vandn f) [3] false f)
  | .vshl f => some (vr3Info (Instr.vshl f) (capInt f.ty) false f)
  | .vshr f => some (vr3Info (Instr.vshr f) (capInt f.ty) false f)
  | .vrot f => some (vr3Info (Instr.vrot f) (capInt f.ty) false f)
  | .vbfe f => some (vr3Info (Instr.vbfe f) (capInt f.ty) false f)
  | .vbfi f => some (vr3Info (Instr.vbfi f) [3] true f)
  | .vpopc f => some (vr2Info (Instr.vpopc f) (capInt f.ty) false f)
  | .vclz f => some (vr2Info (Instr.vclz f) (capInt f.ty) false f)
  | .vbrev f => some (vr2Info (Instr.vbrev f) [3] false f)
  | .vsel f => some (vecInfo (Instr.vsel f) [3] [f.vd, f.va, f.vb] [f.va, f.vb])
  | .vaddi f => some (vecInfo (Instr.vaddi f) (capInt f.ty) [f.vd, f.va] [f.va])
  | .vandi f => some (vecInfo (Instr.vandi f) (capInt f.ty) [f.vd, f.va] [f.va])
  | .vshli f => some (vecInfo (Instr.vshli f) (capInt f.ty) [f.vd, f.va] [f.va])
  | .vshri f => some (vecInfo (Instr.vshri f) (capInt f.ty) [f.vd, f.va] [f.va])
  | .vacs f => some (vecInfo (Instr.vacs f) [4] [f.vd, f.va, f.vb] [f.va, f.vb])
  | .vhsel f => some (vecInfo (Instr.vhsel f) [3] [f.vd, f.va, f.vb] [f.va, f.vb])
  | .vperm f => some { vecInfo (Instr.vperm f) [3] [f.vd, f.va, f.vb] [f.vb] with gp := f.gp, gn := f.gn, vread := [(f.va.toNat, s.permFrom f)] }
  | .vshfl f => some { vecInfo (Instr.vshfl f) [3] [f.vd, f.va] [] with vread := [(f.va.toNat, s.shflFrom f)] }
  | .vred f => some (vecInfo (Instr.vred f) (if f.x10.getLsbD 3 then capFlt f.ty else capInt f.ty) [f.v] [f.v])
  | .vscan f => some { vecInfo (Instr.vscan f) (if f.vb.getLsbD 3 then capFlt f.ty else capInt f.ty) [f.vd, f.va] [f.va] with gp := f.gp, gn := f.gn }
  | .vmovs f => some (vecInfo (Instr.vmovs f) [3] [f.v] [])
  | .vrdl f => some { vecInfo (Instr.vrdl f) (capInt f.ty) [f.v] [] with vread := [(f.v.toNat, BitVec.ofNat 32 (2 ^ bits f.x10.toNat 0 5))] }
  | .vwrl f => some (vecInfo (Instr.vwrl f) [3] [f.v] [])
  | .vsr f => some (vecInfo (Instr.vsr f) [3] [f.v] [])
  | .vdot4 f => some (vr3Info (Instr.vdot4 f) [5] true f)
  | .vdot2 f => some (vr3Info (Instr.vdot2 f) (capFlt f.ty) true f)
  | .vfadd f => some (vr3Info (Instr.vfadd f) (capFlt f.ty) false f)
  | .vfsub f => some (vr3Info (Instr.vfsub f) (capFlt f.ty) false f)
  | .vfmul f => some (vr3Info (Instr.vfmul f) (capFlt f.ty) false f)
  | .vfma f => some (vr3Info (Instr.vfma f) (capFlt f.ty) true f)
  | .vfmin f => some (vr3Info (Instr.vfmin f) (capFlt f.ty) false f)
  | .vfmax f => some (vr3Info (Instr.vfmax f) (capFlt f.ty) false f)
  | .vcmp f => some (vecInfo (Instr.vcmp f) (capInt f.ty) [f.va, f.vb] [f.va, f.vb])
  | .vfcmp f => some (vecInfo (Instr.vfcmp f) (capFlt f.ty) [f.va, f.vb] [f.va, f.vb])
  | .vrcp f => some (vr2Info (Instr.vrcp f) (capFlt f.ty ++ [9]) false f)
  | .vrsqrt f => some (vr2Info (Instr.vrsqrt f) (capFlt f.ty ++ [9]) false f)
  | .vsqrt f => some (vr2Info (Instr.vsqrt f) (capFlt f.ty ++ [9]) false f)
  | .vexp2 f => some (vr2Info (Instr.vexp2 f) (capFlt f.ty ++ [9]) false f)
  | .vlog2 f => some (vr2Info (Instr.vlog2 f) (capFlt f.ty ++ [9]) false f)
  | .vcvt f => some (vr2Info (Instr.vcvt f) [10] (cvtMerges f.vb.toNat) f)
  | .vfclass f => some (vr2Info (Instr.vfclass f) (capFlt f.ty) false f)
  | .vround f => some (vecInfo (Instr.vround f) (capFlt f.ty) [f.vd, f.va] [f.va])
  | .smov f => some (scaInfo (Instr.smov f))
  | .smovi f => some (scaInfo (Instr.smovi f))
  | .smovh f => some (scaInfo (Instr.smovh f))
  | .sadd f => some (scaInfo (Instr.sadd f))
  | .ssub f => some (scaInfo (Instr.ssub f))
  | .smul f => some (scaInfo (Instr.smul f))
  | .smulh f => some (scaInfo (Instr.smulh f))
  | .sdiv f => some (scaInfo (Instr.sdiv f))
  | .srem f => some (scaInfo (Instr.srem f))
  | .sand f => some (scaInfo (Instr.sand f))
  | .sor f => some (scaInfo (Instr.sor f))
  | .sxor f => some (scaInfo (Instr.sxor f))
  | .sshl f => some (scaInfo (Instr.sshl f))
  | .sshr f => some (scaInfo (Instr.sshr f))
  | .smin f => some (scaInfo (Instr.smin f))
  | .smax f => some (scaInfo (Instr.smax f))
  | .saddi f => some (scaInfo (Instr.saddi f))
  | .sandi f => some (scaInfo (Instr.sandi f))
  | .sshli f => some (scaInfo (Instr.sshli f))
  | .sshri f => some (scaInfo (Instr.sshri f))
  | .scmp f => some (scaInfo (Instr.scmp f))
  | .sbfe f => some (scaInfo (Instr.sbfe f))
  | .spopc f => some (scaInfo (Instr.spopc f))
  | .sclz f => some (scaInfo (Instr.sclz f))
  | .sfadd f => some (scaFInfo (Instr.sfadd f))
  | .sfmul f => some (scaFInfo (Instr.sfmul f))
  | .sfma f => some (scaFInfo (Instr.sfma f))
  | .scvt f => some (scaFInfo (Instr.scvt f))
  | .srd f => some (scaInfo (Instr.srd f))
  | .swr f => some (scaInfo (Instr.swr f))
  | .sfmt f => some (scaInfo (Instr.sfmt f))
  | .pand f => some (predInfo (Instr.pand f))
  | .por f => some (predInfo (Instr.por f))
  | .pxor f => some (predInfo (Instr.pxor f))
  | .pandn f => some (predInfo (Instr.pandn f))
  | .pmovsp f => some (predInfo (Instr.pmovsp f))
  | .pmovps f => some (predInfo (Instr.pmovps f))
  | .pcnt f => some (predInfo (Instr.pcnt f))
  | .pfirst f => some (predInfo (Instr.pfirst f))
  | .vld f => some (mvInfo (Instr.vld f) f [f.o])
  | .vlds f => some (mvInfo (Instr.vlds f) f [f.o])
  | .vst f => some (mvInfo (Instr.vst f) f [f.v, f.o])
  | .sld f => some (msInfo (Instr.sld f))
  | .slds f => some (msInfo (Instr.slds f))
  | .sst f => some (msInfo (Instr.sst f))
  | .vatomI32 f => some (maInfo (Instr.vatomI32 f) atI32 f)
  | .vatomU32 f => some (maInfo (Instr.vatomU32 f) atU32 f)
  | .vatomF32 f => some (maInfo (Instr.vatomF32 f) atF32 f)
  | .vatomF16x2 f => some (maInfo (Instr.vatomF16x2 f) atF16 f)
  | .vatomB16x2 f => some (maInfo (Instr.vatomB16x2 f) atB16 f)
  | .vatomnI32 f => some (maInfo (Instr.vatomnI32 f) atI32 f)
  | .vatomnU32 f => some (maInfo (Instr.vatomnU32 f) atU32 f)
  | .vatomnF32 f => some (maInfo (Instr.vatomnF32 f) atF32 f)
  | .vatomnF16x2 f => some (maInfo (Instr.vatomnF16x2 f) atF16 f)
  | .vatomnB16x2 f => some (maInfo (Instr.vatomnB16x2 f) atB16 f)
  | .satom f => some (saInfo f)
  | .hsel f => some (msInfo (Instr.hsel f))
  | .hinfo f => some (msInfo (Instr.hinfo f))
  | .fence f => some (msInfo (Instr.fence f))
  | .flsig f => some { msInfo (Instr.flsig f) with old := true }
  | .flwait f => some (msInfo (Instr.flwait f))
  | .barinit f => some (mbInfo (Instr.barinit f))
  | .barexp f => some (mbInfo (Instr.barexp f))
  | .barrive f => some (mbInfo (Instr.barrive f))
  | .bwait f => some (mbInfo (Instr.bwait f))
  | .bartest f => some (mbInfo (Instr.bartest f))
  | .bsync f => some (mbInfo (Instr.bsync f))
  | .bra f => some (ctlInfo (Instr.bra f) true)
  | .brp f => some (ctlInfo (Instr.brp f) false)
  | .rcvpt f => some (ctlInfo (Instr.rcvpt f) false)
  | .join f => some (ctlInfo (Instr.join f) false)
  | .bcnd f => some (ctlInfo (Instr.bcnd f) true)
  | .sloop f => some (ctlInfo (Instr.sloop f) true)
  | .call f => some (ctlInfo (Instr.call f) true)
  | .callr f => some (ctlInfo (Instr.callr f) true)
  | .ret f => some (ctlInfo (Instr.ret f) true)
  | .jmp f => some (ctlInfo (Instr.jmp f) true)
  | .exit f => some (ctlInfo (Instr.exit f) true)
  | .yield f => some (ctlInfo (Instr.yield f) true)
  | .twait f => some (ctlInfo (Instr.twait f) true)
  | .dqpop f => some { ctlInfo (Instr.dqpop f) false with handler := false, old := true }
  | .dqpush f => some { ctlInfo (Instr.dqpush f) true with group := false, handler := false, old := true }
  | .bany f => some (ctlInfo (Instr.bany f) false)
  | .ball f => some (ctlInfo (Instr.ball f) false)
  | .nop f => some (ctlInfo (Instr.nop f) true)
  | .mshape f => some (mtxInfo (Instr.mshape f) [25] [])
  | .mzero f => some (mtxInfo (Instr.mzero f) [25] [FmtEB.T f])
  | .mma f => some (mmaInfo f s.fmt)
  | .mloop f => some (mtxInfo (Instr.mloop f) (loopCaps 3 s.fmt) [FmtEB.T f])
  | .mloopg f => some (mtxInfo (Instr.mloopg f) (loopCaps 4 s.fmt) [FmtEB.T f])
  | .mloopn f => some (mtxInfo (Instr.mloopn f) (loopCaps 5 s.fmt) [FmtEB.T f])
  | .msmx f => some (mtxInfo (Instr.msmx f) [22] [FmtEB.T f, FmtEB.XB f % 8])
  | .mdrain f => some (mtxInfo (Instr.mdrain f) (drainCaps f s.fmt) [FmtEB.T f])
  | .mside f => some (mtxInfo (Instr.mside f) [25] [FmtEB.T f])
  | .mprog f => some { mtxInfo (Instr.mprog f) [25] [] with priv := true }
  | .mstat f => some (mtxInfo (Instr.mstat f) [25] [])
  | .cpy f => some (cpyInfo (Instr.cpy f) 26)
  | .cpy2d f => some (cpyInfo (Instr.cpy2d f) 26)
  | .cpymc f => some (cpyInfo (Instr.cpymc f) 27)
  | .cpyfill f => some (cpyInfo (Instr.cpyfill f) 26)
  | .cpyrec f => some (cpyInfo (Instr.cpyrec f) 26)
  | .tlrd f => some (cpyInfo (Instr.tlrd f) 26)
  | .tlwait f => some (cpyInfo (Instr.tlwait f) 26)
  | .cprog f => some { cpyInfo (Instr.cprog f) 26 with priv := true }
  | .qpost f => some (cpyInfo (Instr.qpost f) 28)
  | .arnew f => some (arnInfo (Instr.arnew f))
  | .halloc f => some (arnInfo (Instr.halloc f))
  | .arseal f => some (arnInfo (Instr.arseal f))
  | .ardrop f => some (arnInfo (Instr.ardrop f))
  | .arquota f => some (arnInfo (Instr.arquota f))
  | .arinfo f => some (arnInfo (Instr.arinfo f))
  | .send f => some (msgInfo (Instr.send f) 30)
  | .asend f => some (msgInfo (Instr.asend f) 31)
  | .rdy f => some (msgInfo (Instr.rdy f) 31)
  | .unrdy f => some (msgInfo (Instr.unrdy f) 31)
  | .recv f => some (msgInfo (Instr.recv f) 31)
  | .grpnew f => some (msgInfo (Instr.grpnew f) 31)
  | .grpdel f => some (msgInfo (Instr.grpdel f) 31)
  | .colnew f => some (msgInfo (Instr.colnew f) 32)
  | .redpost f => some (msgInfo (Instr.redpost f) 32)
  | .redwait f => some (msgInfo (Instr.redwait f) 32)
  | .colabort f => some (msgInfo (Instr.colabort f) 32)
  | .msgstat f => some (msgInfo (Instr.msgstat f) 31)
  | .trap f => some (sysInfo (Instr.trap f) false)
  | .brk f => some (sysInfo (Instr.brk f) false)
  | .eret f => some (sysInfo (Instr.eret f) true)
  | .prd f => some (sysInfo (Instr.prd f) true)
  | .pwr f => some (sysInfo (Instr.pwr f) true)
  | .capmask f => some (sysInfo (Instr.capmask f) false)
  | .tmark f => some (sysInfo (Instr.tmark f) false)
  | .dump f => some (sysInfo (Instr.dump f) false)
  | .respost f => some (sysInfo (Instr.respost f) false)
  | .sstep f => some (sysInfo (Instr.sstep f) true)
  | .kiln f => some (sysInfo (Instr.kiln f) true)
  | _ => none

/-! ### When a word executes -/

/-- The word that `cur` names executes: its issuer is ready, R80 finds no fault, no register that it reads is poisoned (R403), and
no fence holds it back (R220). -/
def State.executes (s : State) (i : Instr) : Bool := match wordInfo s i with
  | none => false
  | some w =>
    s.issuerReady && (s.wordFault w).isNone && !s.readsPoison w && (s.midAtomic || !(s.fencePending.any fun k => fenceHolds k w.cls))

/-- The issuing physical slot does not count clauses down to a SINGLE_STEP (R400). -/
def State.unstepped (s : State) : Bool := Store.get 0 s.carch.stepLeft (boolNat s.cur.slotB) == 0 || s.cslot.priv.isSome

/-- The instruction completes in a next state with property `P`. -/
def State.gives (s : State) (i : Instr) (P : State → Prop) : Prop := ∃ t, exec i s = .next t ∧ P t

/-- A word that executes outside single-stepping gives a next state with property `P`. -/
def State.yields (s : State) (i : Instr) (P : State → Prop) : Prop :=
  s.executes i = true → s.unstepped = true → s.gives i P

/-! ### What a word leaves unchanged -/

/-- Nothing of the package changes but the issuing crew, the clock and the count of clause issues: every byte of memory,
every other crew, every core, die, partition, arena, handle, queue and task stays as it was. -/
structure State.KeptPackage (s t : State) : Prop where
  package : t = { s with crews := t.crews, cycles := t.cycles, now := t.now, issueCtr := t.issueCtr }
  crews : ∀ u, u ≠ s.cur.uid → t.crew u = s.crew u

/-- And nothing of the crew but its issuing thread and the poison of its registers: scratch, tiles, shape slots, the decision
queue and the engine contexts stay. Of the thread, its store queue, tokens, fence, faults and counts stay; the vector registers
of its latest instruction boundaries are kept beside it (R83). -/
structure State.KeptThread (s t : State) : Prop extends State.KeptPackage s t where
  crew : t.ccrew = { s.ccrew with threads := t.ccrew.threads, regPoison := t.ccrew.regPoison }
  threads : ∀ k, k ≠ s.cur.tid → t.thread s.cur.uid k = s.thread s.cur.uid k
  thread : t.cthr = { s.cthr with arch := t.cthr.arch, window := t.cthr.window, issued := t.cthr.issued
                                  residue := t.cthr.residue, past := t.cthr.past }

/-- The pair falls through with its slot holding `x` but for the place: to the next word of its clause, else to word 0 of the
clause that follows (R54, R62). Beside the place only what the slot waits for and what a debugger suppresses in it change; its other slot stays. -/
structure State.FellThrough (s t : State) (x : Slot) : Prop where
  place : if s.cur.word < s.cur.count then
      t.cslot.pc = x.pc ∧ t.cslot.word = s.cur.word + 1 ∧ t.cslot.started = true
    else t.cslot.pc = s.nextClause ∧ t.cslot.word = 0 ∧ t.cslot.started = false
  ready : t.cslot.st = .ready ∧ t.cslot.wait = none
  slot : t.cslot = { x with pc := t.cslot.pc, word := t.cslot.word, started := t.cslot.started, st := t.cslot.st
                            wait := t.cslot.wait, waitSince := t.cslot.waitSince, holds := t.cslot.holds
                            skipBp := t.cslot.skipBp, skipWp := t.cslot.skipWp
                            dbgStep := t.cslot.dbgStep }
  other : t.carch.slot (!s.cur.slotB) = s.carch.slot (!s.cur.slotB)

/-- A word that falls through, its slot otherwise holding `x`, and changes at most its thread. -/
structure State.Fell (s t : State) (x : Slot) : Prop extends State.KeptThread s t, State.FellThrough s t x

/-- The word writes scalar register `n` alone: of the thread's `s` registers, or of the privileged bank in privileged code
(R37, R108, R396). A written register holds no poison (R403). -/
structure State.WroteS (s t : State) (n : BitVec 6) (v : DWord) : Prop extends State.Fell s t s.cslot where
  poison : ∀ k, Store.get false t.ccrew.regPoison k =
    (Store.get false s.ccrew.regPoison k && (s.cslot.priv.isSome || k != regKey s.cur.tid n.toNat))
  arch : t.carch = { s.carch with s := t.carch.s, bank := t.carch.bank, a := t.carch.a, b := t.carch.b }
  regs : ∀ m, t.rdS m = if m = n then v else s.rdS m
  bank : if s.cslot.priv.isSome then t.carch.s = s.carch.s else t.carch.bank = s.carch.bank

/-- The word writes the lanes of `A` of vector register `n`, lane `l` with `v l`, and predicates, of which lane `l` of `n`
then reads `p n l`, and nothing else; a written vector lane holds no poison, nor a predicate of `ps`, which are those written
whole (R178, R403), and p0 reads all-ones (R108). -/
structure State.WroteVP (s t : State) (n : BitVec 6) (A : Word) (v : Nat → Word) (ps : List Nat) (p : Nat → Nat → Bool) : Prop
    extends State.Fell s t s.cslot where
  arch : t.carch = { s.carch with v := t.carch.v, p := t.carch.p, a := t.carch.a, b := t.carch.b }
  lanes : ∀ m l, l < 32 → t.rdV m l = if m = n ∧ A.getLsbD l = true then v l else s.rdV m l
  poison : ∀ k, Store.get false t.ccrew.regPoison k =
    (Store.get false s.ccrew.regPoison k && !((List.range 32).any fun l => A.getLsbD l && k == regOff s.cur.tid n.toNat l) &&
      !(ps.any fun m => m != 0 && k == regKey s.cur.tid (64 + m)))
  preds : ∀ m l, m < 8 → l < 32 → (t.rdP m).getLsbD l = (m == 0 || p m l)

/-- What the predicates of the issuing thread hold. -/
def State.oldP (s : State) (m l : Nat) : Bool := (s.rdP m).getLsbD l

/-- The word writes the lanes of `A` of vector register `n` alone. -/
def State.WroteV (s t : State) (n : BitVec 6) (A : Word) (v : Nat → Word) : Prop := s.WroteVP t n A v [] s.oldP

/-- The word writes predicates alone, those of `ps` whole. -/
def State.WroteP (s t : State) (ps : List Nat) (p : Nat → Nat → Bool) : Prop := s.WroteVP t 0 0 (fun _ => 0) ps p

/-- The word leaves every register alone: it falls through, its slot otherwise holding `x`. -/
structure State.WroteSlot (s t : State) (x : Slot) : Prop extends State.Fell s t x where
  poison : t.ccrew.regPoison = s.ccrew.regPoison
  arch : t.carch = { s.carch with a := t.carch.a, b := t.carch.b }

/-- The word writes FMT of its slot alone (R113, R114). -/
def State.WroteFmt (s t : State) (v : Word) : Prop := s.WroteSlot t { s.cslot with fmt := v }

/-! ### Transfers and waits -/

/-- What holds of a word of a traced crew too, whose packets (R425) may also change the crew's trace stream, the trace ring
in memory and the port: of the issuing crew's threads only its own changes, and there only registers, slots and the window.
Where the crew is not traced nothing else changes at all. -/
structure State.Own (s t : State) : Prop where
  cur : t.cur = s.cur
  threads : ∀ k, k ≠ s.cur.tid → t.thread s.cur.uid k = s.thread s.cur.uid k
  thread : t.cthr = { s.cthr with arch := t.cthr.arch, window := t.cthr.window, issued := t.cthr.issued
                                  residue := t.cthr.residue, past := t.cthr.past }
  kept : s.ccrew.trace.on = false → s.KeptThread t

/-- The pair transfers to the clause at `pc`; IN TRAP is cleared where `clears` (R392). Scalar registers then read `r`; no
other register changes, nor anything of the slot but its place. -/
structure State.Moved (s t : State) (pc : Word) (clears : Bool) (r : BitVec 6 → DWord) : Prop extends State.Own s t where
  slot : t.cslot = { s.cslot with pc := pc, word := 0, started := false, st := .ready, wait := none, waitSince := 0
                                  holds := false, skipBp := false, skipWp := 0, dbgStep := false
                                  inTrap := s.cslot.inTrap && !clears }
  other : t.carch.slot (!s.cur.slotB) = s.carch.slot (!s.cur.slotB)
  arch : t.carch = { s.carch with s := t.carch.s, bank := t.carch.bank, a := t.carch.a, b := t.carch.b }
  regs : ∀ m, t.rdS m = r m

/-- The pair falls through; scalar registers then read `r`, and no other register changes. -/
structure State.WentOn (s t : State) (r : BitVec 6 → DWord) : Prop extends State.Own s t, State.FellThrough s t s.cslot where
  arch : t.carch = { s.carch with s := t.carch.s, bank := t.carch.bank, a := t.carch.a, b := t.carch.b }
  regs : ∀ m, t.rdS m = r m

/-- The word has not acted: its pair waits at it, and nothing but the clock, the window and the slot's state changes (R61). -/
structure State.Suspended (s t : State) (w : Wait) : Prop extends State.KeptThread s t where
  slot : t.cslot = { s.cslot with st := .blocked, pc := s.cur.hdr, word := s.cur.word, started := true, holds := false
                                  wait := some w, waitSince := t.cslot.waitSince, wdSince := t.cslot.wdSince
                                  blockedCyc := t.cslot.blockedCyc }
  other : t.carch.slot (!s.cur.slotB) = s.carch.slot (!s.cur.slotB)
  arch : t.carch = { s.carch with a := t.carch.a, b := t.carch.b }
  poison : t.ccrew.regPoison = s.ccrew.regPoison

/-- The word executes and waits. -/
def State.waits (s : State) (i : Instr) (w : Wait) : Prop :=
  s.executes i = true → s.gives i fun t => s.Suspended t w

/-- The word executes and takes a precise fault with none of its own effect (R123, R391): its older words retire and the fault
is taken at it, in a state in which only the window and the clock have changed. -/
def State.traps (s : State) (i : Instr) (f : FaultInfo) : Prop :=
  s.executes i = true → ∃ u, s.KeptThread u ∧ u.carch = s.carch ∧ u.ccrew.regPoison = s.ccrew.regPoison ∧
    exec i s = .next (u.faultWord f)

/-- No fragment of the issuing group is held BLOCKED in the control stack (R128). -/
def State.noneHeld (s : State) : Bool := s.carch.frags.all fun e => !e.2.2

/-- The target of a relative transfer (R63, R129). -/
def State.label (s : State) (n : Int) : Word := s.cur.hdr + BitVec.ofInt 32 (4 * n)

/-! ### Elements of lanes (R164, R178, R186) -/

/-- Element `i` of a lane, of width `w`. -/
def el (w : Nat) (x : Word) (i : Nat) : BitVec w := x.extractLsb' (w * i) w

/-- An element's value, signed where `g`. -/
def elVal {w : Nat} (g : Bool) (x : BitVec w) : Int := if g then x.toInt else x.toNat

/-- The element of width `w` nearest to a value, in the range of its signedness. -/
def elSat (w : Nat) (g : Bool) (v : Int) : BitVec w :=
  BitVec.ofInt w (max (if g then -2 ^ (w - 1) else 0) (min (if g then 2 ^ (w - 1) - 1 else 2 ^ w - 1) v))

/-- The word writes vd over `A`, element by element: of the elements x, y, z of va, vb and the old vd it makes
`op g w x y z`, with the width w and signedness g of its type. -/
def State.WroteElems (s t : State) (ty : BitVec 3) (vd va vb : BitVec 6) (A : Word)
    (op : Bool → (w : Nat) → BitVec w → BitVec w → BitVec w → BitVec w) : Prop :=
  let w := tyWidth ty.toNat
  ∃ r, s.WroteV t vd A r ∧ ∀ l, l < 32 → ∀ i, i < 32 / w →
    el w (r l) i = op (tySigned ty.toNat) w (el w (s.rdV va l) i) (el w (s.rdV vb l) i) (el w (s.rdV vd l) i)

/-- The same for a guarded word of format VR, and for a word of format VI with its immediate. -/
def State.VrElems (s t : State) (f : FmtVR) (op : Bool → (w : Nat) → BitVec w → BitVec w → BitVec w → BitVec w) : Prop :=
  s.WroteElems t f.ty f.vd f.va f.vb (s.lanes f.gp f.gn) op
def State.ViElems (s t : State) (f : FmtVI) (op : Bool → (w : Nat) → BitVec w → BitVec w) : Prop :=
  s.WroteElems t f.ty f.vd f.va f.va s.mask fun g w x _ _ => op g w x

/-- Width of an element of a float type (R201). -/
def fltWidth (ty : BitVec 3) : Nat := if ty = 0 then 32 else 16

/-- The word writes vd over `A`, float element by float element, each in its own format (R181): of the codes x, y, z of the
elements of va, vb and the old vd it makes the code `op g x y z`. -/
def State.WroteFloats (s t : State) (ty : BitVec 3) (vd va vb : BitVec 6) (A : Word)
    (op : FFmt → Nat → Nat → Nat → Nat) : Prop :=
  let w := fltWidth ty
  let c (x : Word) (i : Nat) : Nat := (el w x i).toNat
  ∃ r, s.WroteV t vd A r ∧ ∀ l, l < 32 → ∀ i, i < 32 / w →
    c (r l) i = op (tyFmt ty.toNat) (c (s.rdV va l) i) (c (s.rdV vb l) i) (c (s.rdV vd l) i)

/-- The same for a guarded word of format VR. -/
def State.VrFloats (s t : State) (f : FmtVR) (op : FFmt → Nat → Nat → Nat → Nat) : Prop :=
  s.WroteFloats t f.ty f.vd f.va f.vb (s.lanes f.gp f.gn) op

/-- What combining the lanes `k :: ks` in that order gives; `d` for none. -/
def runOver {α : Type} (c : α → α → α) (v : Nat → α) (d : α) : List Nat → α
  | [] => d
  | k :: ks => ks.foldl (fun a j => c a (v j)) (v k)

/-- Node `j` of a level of the pairwise tree of R196 over lanes of which some are absent: an absent member passes the other
on. -/
def pairTree {α : Type} (c : α → α → α) (v : Nat → Option α) : Nat → Nat → Option α
  | 0, j => v j
  | n + 1, j => match pairTree c v n (2 * j), pairTree c v n (2 * j + 1) with
    | some a, some b => some (c a b)
    | none, b => b
    | a, none => a

/-! ### Memory -/

/-- The access passes the checks of R86 to R88 with its pages mapped, no watchpoint takes it (R416), no byte it reads is
poisoned (R403), its pages are translated or their walks take no time (R89), and a load or atomic finds no fill pending (R313, R315). -/
def State.issues (s : State) (a : Access) : Bool :=
  s.checkAccess a == .ok && s.wpHits a == 0 && !s.accPoison a &&
    (s.cur.back % 2 == 0 || (s.accPages a).all fun pg => (s.core s.ccrew.core).tlb.contains pg) &&
    (a.kind == .store || (s.accFill a).isNone)

/-- And no fence is pending (R104), no queued write of its own thread that cannot be forwarded covers it (R95), and it passes step 5
at its slices too (R297). -/
def State.grants (s : State) (a : Access) : Bool :=
  s.issues a && s.fencePending.isNone && (a.list.all fun l => !s.cthr.coveredByOp (s.accLoc a l) a.n) && (s.sliceStops a).isEmpty

/-- The value of the `n` bytes from a place that `m` gives, little-endian (R8). -/
def valueAt (m : Loc → Byte) (l : Loc) (n : Nat) : Nat := leNat ((List.range n).map fun k => m (l.plus k))

/-- What the issuing thread reads of a place: its own queued bytes, else `m`. -/
def State.own (s : State) (m : Loc → Byte) (l : Loc) : Byte := (s.cthr.forward l).getD (m l)

/-- What a load of `n` bytes through `h` may read. Of memory and scratch: the present bytes, or, unless the load acquires at die
scope or wider, those of an earlier moment that its thread has not yet seen past: as memory held them then, or as a line of
the issuer's L1 holds them whose invalidation has been queued since (R94, R98, R103, R209). Of registers of a running thread:
those at one of its last 17 instruction boundaries, of a stopped one the present ones; a control stack's present bytes (R83,
R125). -/
def State.sees (s : State) (acquires : Bool) (h : HReg) (l : Loc) (n v : Nat) : Prop :=
  match l with
  | .reg uid off => let c := s.crew uid
    let th := c.thread (off / 8192)
    ∃ r, (r = th.arch.v ∨ (c.threadStopped (off / 8192) = false ∧ r ∈ th.past)) ∧
      v = valueAt (s.own fun x => match x with
        | .reg _ o => if stackBase ≤ off then s.peek x
            else if s.regAlloc c o then ({ th.arch with v := r } : Arch).regByte o else 0
        | _ => 0) l n
  | _ => v = valueAt (s.own s.peek) l n ∨ (acquires = false ∧ ∃ t, t < s.writes ∧
      (s.cthr.bound l n ≤ t ∨ (s.inL1 h l = true ∧ (∀ k, k < n → Store.get 0 s.cthr.seen (l.plus k).key ≤ t) ∧
        ∃ i ∈ (s.core s.ccrew.core).inval, i.at_ = t)) ∧
      (v = valueAt (s.own (s.byteAt t)) l n ∨ v = valueAt (s.own (s.viewAt t)) l n))

/-- `t` with what the issuing thread has seen as in `s`: what a word that acquires changes beside the rest (R101). -/
def State.unseen (s t : State) : State :=
  t.modThread s.cur.uid s.cur.tid fun x => { x with floor := s.cthr.floor, seen := s.cthr.seen }

/-- `t` with what a load changes beside its registers as in `s`: sharers, the issuer's L1 and translations, and what its thread
has seen. -/
def State.unread (s t : State) : State := s.unseen { t with sharers := s.sharers, cores := s.cores }

/-- A load changes its own core only: it takes queued invalidations off there (all, where it acquires), and adds the
translations of its pages. What its thread has seen only grows, and an acquire has seen all. -/
structure State.ReadOnly (s t : State) (acquires : Bool) : Prop where
  others : ∀ c, c ≠ s.ccrew.core → t.core c = s.core c
  own : t.core s.ccrew.core = { s.core s.ccrew.core with inval := (t.core s.ccrew.core).inval, tlb := (t.core s.ccrew.core).tlb }
  taken : ∀ i ∈ (t.core s.ccrew.core).inval, acquires = false ∧ i ∈ (s.core s.ccrew.core).inval
  seen : acquires = true → t.cthr.floor = s.writes ∧ t.cthr.seen = []
  grows : ∀ l n, s.cthr.bound l n ≤ s.writes → s.cthr.bound l n ≤ t.cthr.bound l n

/-- `t` with the store queue of the issuing thread and the translations of its core as in `s`. -/
def State.unqueued (s t : State) : State :=
  { t with cores := s.cores }.modThread s.cur.uid s.cur.tid fun x => { x with sq := s.cthr.sq }

/-- What a word enters in the store queue (R208): each lane's place and bytes, the kind, the die it is posted to (R95), and
whether it waits for everything before it. -/
structure PendWrite.Holds (w : PendWrite) (s : State) (a : Access) (k : WriteKind) (rel : Bool) (v : Nat → Nat) : Prop where
  kind : w.kind = k
  lanes : w.lanes.map (fun x => (x.loc, x.bytes)) = a.list.map fun l => (s.accLoc a l, leBytes a.n (v l))
  posted : w.posted = if a.list.any (fun l => (s.accLoc a l).remote s.ccrew.die) then (s.accLoc a (a.list.headD 0)).die else none
  rel : w.rel = rel

/-- Bytes of places after `bs` are stored from place `l` on. -/
def overlay (m : Loc → Byte) (l : Loc) (bs : List Byte) (x : Loc) : Byte :=
  match (List.range bs.length).find? fun k => l.plus k == x with
  | some k => bs.getD k 0
  | none => m x

/-- Atomics at the places `loc l` of a list of lanes, one after the other (R215, R216): what each lane found, and the bytes
afterwards. -/
def atomChain (loc : Nat → Loc) (n ty k : Nat) (val cmp : Nat → Nat) : List Nat → (Loc → Byte) → List (Nat × Nat) × (Loc → Byte)
  | [], m => ([], m)
  | l :: ls, m =>
    let old := valueAt m (loc l) n
    let m' := match atomOp ty k old (val l) (cmp l) with
      | some v => overlay m (loc l) (leBytes n v)
      | none => m
    let r := atomChain loc n ty k val cmp ls m'
    ((l, old) :: r.1, r.2)

/-- `t` with memory, its history and byte masks, scratch, the caches and what the issuing thread has seen as in `s`: what an
atomic with return changes beside its register. -/
def State.unstored (s t : State) : State :=
  s.unseen ({ t with mem := s.mem, poison := s.poison, sharers := s.sharers, cores := s.cores, writes := s.writes, hist := s.hist
                     fills := s.fills, absent := s.absent }.modCrew s.cur.uid fun c =>
    { c with scratch := s.ccrew.scratch, scrPoison := s.ccrew.scrPoison })

/-- Bytes of memory and scratch are those of `m`; cores keep all but their queued invalidations, and the issuer's dirty private
lines and translations. -/
structure State.Stored (s t : State) (m : Loc → Byte) : Prop where
  mem : ∀ a, t.peek (.mem a) = m (.mem a)
  scr : ∀ u o, t.peek (.scr u o) = m (.scr u o)
  poison : t.poison = s.poison ∧ t.ccrew.scrPoison = s.ccrew.scrPoison
  cores : ∀ c, t.core c = { s.core c with inval := (t.core c).inval, dirty := (t.core c).dirty, tlb := (t.core c).tlb }
  others : ∀ c, c ≠ s.ccrew.core → (t.core c).dirty = (s.core c).dirty ∧ (t.core c).tlb = (s.core c).tlb

/-- The lanes of an atomic that have been performed when its pair issues, with what they found; and those that this issue performs
(R98, R216): the others, ascending, or as many of them as the move lets it. -/
def State.atomsDone (s : State) : List (Nat × Nat) := match s.cslot.wait with
  | some (.atoms vs _) => vs
  | _ => []
def State.atomsNow (s : State) (a : Access) : List Nat :=
  let todo := a.list.filter fun l => !s.atomsDone.any fun x => x.1 == l
  if s.cur.only = 0 then todo else todo.take s.cur.only

/-- The atomic may act: it issues, or goes on with none of its lanes failed. -/
def State.atomGoes (s : State) (a : Access) : Bool := match s.cslot.wait with
  | some (.atoms _ fault) => fault.isNone && (s.sliceStops a).isEmpty
  | _ => s.grants a

/-- An atomic with return performs the lanes `atomsNow`, with `r` what `atomChain` gives for them. When no lane is left the word
completes, with `done` of what every lane found; else the pair stays READY at its word. Memory and scratch hold what the last lane
left, and nothing else changes. -/
def State.Atomed (s t : State) (a : Access) (r : List (Nat × Nat) × (Loc → Byte)) (done : State → (Nat → Nat) → Prop) : Prop :=
  let vs := s.atomsDone ++ r.1
  s.Stored t r.2 ∧ if a.list.all (fun l => vs.any fun x => x.1 == l) then
    (t.core s.ccrew.core).inval = [] ∧ t.cthr.floor = t.writes ∧ t.cthr.seen = [] ∧ done (s.unstored t) (valueOf vs)
  else s.KeptThread (s.unstored t) ∧ t.ccrew.regPoison = s.ccrew.regPoison ∧
    t.cslot = { s.cslot with st := .ready, pc := s.cur.hdr, word := s.cur.word, started := true, holds := true
                             wait := some (.atoms vs none), skipWp := t.cslot.skipWp } ∧
    t.carch.slot (!s.cur.slotB) = s.carch.slot (!s.cur.slotB) ∧ t.carch = { s.carch with a := t.carch.a, b := t.carch.b }

/-- Nothing that the word's access touches is a register of a thread (R83: such places only privileged code can name). -/
def State.noRegs (s : State) (a : Access) : Bool := a.list.all fun l => match s.accLoc a l with
  | .reg _ _ => false
  | _ => true

/-- Where a barrier word acts, and that R225's checks and the watchpoints let it. -/
def State.barAt (s : State) (f : FmtMB) : Nat := (s.barPlace f).toNat
def State.barOk (s : State) (f : FmtMB) : Bool :=
  s.barAt f % 16 == 0 && s.barAt f + 16 ≤ (s.rdH 0).ent.size && s.wpHits (s.barAccess f) == 0 && s.cthr.sq.isEmpty

/-- A slot of a crew once the words waiting at the object at `o` have been released with a status. -/
def Slot.freed (o : Nat) (status : Option Nat) (x : Slot) : Slot :=
  match x.wait, status with
  | some (.barrier p _), some n => if p = o ∧ x.st = .blocked then { x with wait := some (.released (BitVec.ofNat 64 n) 0) } else x
  | _, _ => x

/-- A barrier word has left the object at `o` holding `b`, has released the words that wait there with a status, if one is
given, and its scalar registers read `r`. No other byte of memory or scratch changes, nor any register; where the crew is
traced, the packet of a flip may also change its stream, the trace ring and the port (R425). -/
structure State.BarDid (s t : State) (o : Nat) (b : Bar) (status : Option Nat) (r : BitVec 6 → DWord) : Prop where
  bar : t.rdBar s.cur.uid o = b
  scratch : ∀ k, (k < o ∨ o + 16 ≤ k) → t.peek (.scr s.cur.uid k) = s.peek (.scr s.cur.uid k)
  regs : ∀ m, t.rdS m = r m
  arch : t.carch = { s.carch with s := t.carch.s, bank := t.carch.bank, a := t.carch.a, b := t.carch.b, cstk := t.carch.cstk }
  other : t.carch.slot (!s.cur.slotB) = (s.carch.slot (!s.cur.slotB)).freed o status
  stack : ∀ k, t.carch.entry k = match s.carch.entry k with
    | .frag x blk => .frag (x.freed o status) blk
    | e => e
  threads : ∀ k, k ≠ s.cur.tid → t.thread s.cur.uid k = (s.thread s.cur.uid k).mapArch (Arch.mapSlots · (Slot.freed o status))
  crews : ∀ u, u ≠ s.cur.uid → t.crew u = s.crew u
  crew : t.ccrew = { s.ccrew with threads := t.ccrew.threads, scratch := t.ccrew.scratch, trace := t.ccrew.trace
                                  regPoison := t.ccrew.regPoison }
  package : s.ccrew.trace.on = false → t.ccrew.trace = s.ccrew.trace ∧
    t = { s with crews := t.crews, cycles := t.cycles, now := t.now, issueCtr := t.issueCtr }

/-- ARRIVE_BAR of R224 on an object: the object after it, and whether it answers OK. -/
def Bar.arrive (b : Bar) (n : Nat) : Bar × Bool :=
  if b.armed = false then ({ b with overrun := true }, false)
  else
    let arrivals := ((if b.last then 0 else b.arrivals) + 1) % 2 ^ 32
    if n < b.pending then ({ b with arrivals := arrivals, last := false, pending := b.pending - n }, true)
    else ({ b with arrivals := arrivals, last := true, pending := b.expect, phase := !b.phase
                   overrun := b.overrun || decide (n > b.pending) }, decide (n ≤ b.pending))

/-- The status with which an arrival of `n` releases the words waiting at the object, if it flips the phase (R226). -/
def Bar.frees (b : Bar) (n : Nat) : Option Nat :=
  if b.armed = true ∧ b.pending ≤ n then some (if (b.arrive n).1.overrun then 1 else 0) else none

/-- The status a wait for the flip of phase `ph` returns, if it does not wait (R226). -/
def State.barEnds (s : State) (b : Bar) (ph : Bool) : Option Nat :=
  if s.ccrew.abandon then some 2 else if b.armed = false then some 3
  else if b.phase ≠ ph then some (if b.overrun then 1 else 0) else none

/-- The same of a crew, as a condition of resuming. -/
def Crew.barEnds (c : Crew) (b : Bar) (ph : Bool) : Prop := c.abandon = true ∨ b.armed = false ∨ b.phase ≠ ph

/-- Scalar registers with one written. -/
def State.withS (s : State) (n : BitVec 6) (v : DWord) (m : BitVec 6) : DWord := if m = n then v else s.rdS m

/-! ### Engine commands (R15 to R19) -/

/-- `t` with the context `x` of the issuing crew and the tokens of its thread as in `s`. -/
def State.unaccepted (s t : State) (x : Ctx) : State :=
  (t.modCrew s.cur.uid fun c => c.modCtx x fun _ => s.ccrew.ctx x).modThread s.cur.uid s.cur.tid fun h => { h with toks := s.cthr.toks }

/-- The context has accepted `op`: it has the next number, stands behind the operations accepted before, and has taken its token
(R15, R16). -/
structure State.Took (s t : State) (x : Ctx) (op : Op) : Prop where
  ctx : t.ccrew.ctx x = { s.ccrew.ctx x with last := (s.ccrew.ctx x).last + 1, ops := (s.ccrew.ctx x).ops ++ [op] }
  num : op.num = (s.ccrew.ctx x).last + 1
  token : ∀ k, t.cthr.token k = if k = op.tok then ⟨true, (s.cthr.token k).cnt + 1⟩ else s.cthr.token k

/-- What every accepted operation keeps of its word: the issuer, FMT, the S block, the ten flag bits and the token (R77, R257). -/
structure Op.Asked (o : Op) (s : State) (opcode : Nat) (f : FmtEB) : Prop where
  opcode : o.opcode = opcode
  word : o.f10 = f.f ∧ o.tok = f.tok.toNat
  issuer : o.tid = s.cur.tid ∧ o.slotB = s.cur.slotB ∧ o.hdr = s.cur.hdr ∧ o.word = s.cur.word
  fmt : o.fmt = s.fmt
  block : o.blk = (List.range 4).map fun k => s.rdS (f.sa + BitVec.ofNat 6 k)
  fresh : o.st = .accepted ∧ o.prog = 0 ∧ o.bytes = 0 ∧ o.accMask = 0 ∧ o.refMask = 0 ∧ o.err = none

/-- No store of the thread is queued and the crew is not traced. -/
def State.calm (s : State) : Bool := s.cthr.sq.isEmpty && !s.ccrew.trace.on

/-- `t` with the tiles, side registers and their poison, shape slots and SAT of the issuing crew as in `s`. -/
def State.untiled (s t : State) : State := t.modCrew s.cur.uid fun c =>
  { c with tiles := s.ccrew.tiles, maxs := s.ccrew.maxs, sums := s.ccrew.sums, tilePoison := s.ccrew.tilePoison
           shapes := s.ccrew.shapes, sat := s.ccrew.sat }

/-- None of these handle registers of the issuing thread is poisoned (R403). -/
def State.handlesClean (s : State) (hs : List Nat) : Bool :=
  hs.all fun n => !Store.get false s.ccrew.regPoison (regKey s.cur.tid (128 + n))

/-- `t` with all that `mprog` can write as in `s`. -/
def State.unmatrixed (s t : State) : State := (s.untiled t).modCrew s.cur.uid fun c => { c with mtx := s.ccrew.mtx, reexec := s.ccrew.reexec }

/-- The tiles, side registers, their poison, shape slots and SAT of a crew are those of another. -/
structure Crew.SameTiles (d c : Crew) : Prop where
  tiles : d.tiles = c.tiles ∧ d.tilePoison = c.tilePoison
  sides : d.maxs = c.maxs ∧ d.sums = c.sums
  shapes : d.shapes = c.shapes
  sat : d.sat = c.sat

/-! ### Arena, message and system words -/

/-- `t` with the arena and handle tables and the brewhouse's address space as in `s`. -/
def State.unarena (s t : State) : State :=
  { t with arenas := s.arenas, handles := s.handles, vaNext := s.vaNext, freeVa := s.freeVa, freeCtr := s.freeCtr }

/-- `t` with the partitions, the cores' cellars, the free values, and the readiness and message context of the issuing crew as in `s`. -/
def State.unsent (s t : State) : State :=
  { t with parts := s.parts, cores := s.cores, freeCtr := s.freeCtr }.modCrew s.cur.uid fun c => { c with ready := s.ccrew.ready, msg := s.ccrew.msg }

/-- A refused MSG command answers in sd with bit 63 set and the code (R323), and nothing else changes. -/
def State.refuses (s : State) (i : Instr) (sd : BitVec 6) (code : Nat) : Prop :=
  s.yields i fun t => s.WroteS t sd (BitVec.ofNat 64 (2 ^ 63 + code))

/-- The word answers `v` in sd, with nothing changed but what `unsent` covers and its token. -/
def State.Answered (s t : State) (sd : BitVec 6) (v : DWord) : Prop :=
  s.WroteS ((s.unsent t).modThread s.cur.uid s.cur.tid fun h => { h with toks := s.cthr.toks }) sd v

/-- The trap record of a fault at word `word` of the clause at `hdr`, taken by a slot of mask `mask`, as R393 lays it out. -/
structure TrapRec.Tells (r : TrapRec) (f : FaultInfo) (hdr : Word) (word : Nat) (mask : Word) : Prop where
  hdr : r.d0.extractLsb' 32 32 = hdr
  word : r.d0.extractLsb' 12 4 = BitVec.ofNat 4 word ∧ r.d0.extractLsb' 16 4 = BitVec.ofNat 4 f.sword
  code : r.d0.extractLsb' 0 8 = BitVec.ofNat 8 f.exc.code
  lanes : r.d1.extractLsb' 32 32 = f.lanes.getD mask
  late : r.d1.getLsbD 31 = f.late ∧ r.d1.getLsbD 30 = f.asyn
  hreg : r.d1.extractLsb' 27 3 = BitVec.ofNat 3 (f.hreg.getD 0) ∧ r.d1.getLsbD 26 = (f.hreg.isNone && !f.code)
  hindex : r.d1.extractLsb' 0 20 = f.hindex
  offset : r.d2 = f.offset
  eng : r.d3.extractLsb' 60 4 = BitVec.ofNat 4 f.eng
  info : r.d3.extractLsb' 0 32 = f.info

/-- R392's delivery of a record to the trap entry `pc` of the crew of pair `p`: PC, registers 60 to 63, TRAPINFO and IN TRAP, and no other change to
the thread's registers and slots. Where the crew is not traced nothing of the package changes but this thread. -/
structure State.ToEntry (s t : State) (p : PairRef) (pc : Word) (r : TrapRec) : Prop where
  slot : t.slot p = { s.slot p with pc := pc, word := 0, started := false, st := .ready, wait := none, waitSince := 0, holds := false
                                    inTrap := true }
  other : t.slot { p with slotB := !p.slotB } = s.slot { p with slotB := !p.slotB }
  regs : ∀ n, Store.get 0 (t.arch p.uid p.tid).s n = match n with
    | 60 => r.d0
    | 61 => r.d1
    | 62 => r.d2
    | 63 => r.d3
    | n => Store.get 0 (s.arch p.uid p.tid).s n
  info : (t.arch p.uid p.tid).trapInfo = r.d0 ∧ (t.arch p.uid p.tid).trec = r
  arch : t.arch p.uid p.tid = let a := t.arch p.uid p.tid
    { s.arch p.uid p.tid with s := a.s, a := a.a, b := a.b, trapInfo := a.trapInfo, trec := a.trec }
  threads : ∀ k, k ≠ p.tid → t.thread p.uid k = s.thread p.uid k
  package : (s.crew p.uid).trace.on = false → t = { s with crews := t.crews } ∧
    (∀ u, u ≠ p.uid → t.crew u = s.crew u) ∧ t.crew p.uid = { s.crew p.uid with threads := (t.crew p.uid).threads }

/-- A fault of the pair goes to its crew's trap entry: not intercepted, not fatal, and no slot of its thread is IN TRAP (R392, R394, R396). -/
def State.trapOpen (s : State) (p : PairRef) (e : Exc) : Prop :=
  (s.slot p).priv = none ∧ (s.crew p.uid).icept.getLsbD e.code = false ∧ e ≠ .singleStep ∧
    (s.hdrOf (s.crew p.uid)).trapPc ≠ 0xFFFFFFFF ∧ (s.slot p).inTrap = false ∧
    (p.tid = 63 ∨ (s.slot { p with slotB := !p.slotB }).inTrap = false)

/-! ### Steps that no word encodes -/

/-- Nothing of the package changes but the crew `u`. -/
structure State.OnlyCrew (s t : State) (u : Nat) : Prop where
  package : t = { s with crews := t.crews }
  crews : ∀ v, v ≠ u → t.crew v = s.crew v

/-- Nothing of the package changes but one thread. -/
structure State.OnlyThread (s t : State) (r : ThreadRef) : Prop extends State.OnlyCrew s t r.uid where
  crew : t.crew r.uid = { s.crew r.uid with threads := (t.crew r.uid).threads }
  threads : ∀ k, k ≠ r.tid → t.thread r.uid k = s.thread r.uid k

/-- Nothing of the package changes but one slot, which then holds `x`. -/
structure State.OnlySlot (s t : State) (p : PairRef) (x : Slot) : Prop extends State.OnlyThread s t ⟨p.uid, p.tid⟩ where
  slot : t.slot p = x
  thread : t.thread p.uid p.tid = { s.thread p.uid p.tid with arch := (s.arch p.uid p.tid).setSlot p.slotB x }

/-- Nothing of the package changes but one partition. -/
structure State.OnlyPart (s t : State) (p : PartRef) : Prop where
  package : t = { s with parts := t.parts }
  parts : ∀ q, partKey q ≠ partKey p → t.part q = s.part q

/-- The pair stands suspended in a crew that runs its pairs. -/
def State.suspendedAt (s : State) (p : PairRef) (w : Wait) : Prop :=
  (s.crew p.uid).goes = true ∧ s.runs p.uid p.tid = true ∧ (s.slot p).st = .blocked ∧ (s.slot p).wait = some w

/-- What a replay leaves of a thread (R121): the state before the oldest word of the window, with the plain stores that entered the
queue since, and a fence raised since, taken back. -/
structure Thread.Replayed (x y : Thread) (e : WinEntry) : Prop where
  arch : y.arch = e.before
  window : y.window = [] ∧ y.issued = e.no
  queue : y.sq = x.sq.filter fun w => w.kind != .store || w.at_ < e.no
  fence : y.fence = x.fence.filter fun f => !(decide (e.no ≤ f.2))
  rest : y = { x with arch := y.arch, window := y.window, issued := y.issued, sq := y.sq, fence := y.fence }

/-- Every thread of a core has replayed (R401), and no other. -/
structure State.ReplayedCores (s t : State) (cores : List Nat) : Prop where
  package : t = { s with crews := t.crews }
  others : ∀ u, (s.crew u).core ∉ cores → t.crew u = s.crew u
  threads : ∀ u k, (s.crew u).core ∈ cores → (s.crew u).st ≠ .retired → match (s.thread u k).window with
    | [] => t.thread u k = s.thread u k
    | e :: _ => (s.thread u k).Replayed (t.thread u k) e
  crew : ∀ u, let c := t.crew u
    c = { s.crew u with threads := c.threads, reexec := c.reexec, trace := { (s.crew u).trace with held := c.trace.held } }
  held : ∀ u, (s.crew u).core ∈ cores → (s.crew u).st ≠ .retired →
    (t.crew u).trace.held = (s.crew u).trace.held.filter (s.crew u).isFinal

/-- A stop begins (R417, R418): the crew carries its kind and, unless it was stopped already, the record of the pair; the task's TIMEOUT
pauses. No register, slot or byte changes but the slot of the pair, which then holds `x`. -/
structure State.StopBegan (s t : State) (p : PairRef) (code : Nat) (hits lanes : Word) (x : Slot) : Prop where
  package : t = { s with crews := t.crews, tasks := t.tasks, parts := t.parts }
  others : ∀ u, u ≠ p.uid → t.crew u = s.crew u
  slot : t.slot p = x
  threads : ∀ k, k ≠ p.tid → t.thread p.uid k = s.thread p.uid k
  thread : t.thread p.uid p.tid = { s.thread p.uid p.tid with arch := (s.arch p.uid p.tid).setSlot p.slotB x }
  stop : (t.crew p.uid).stop = some .hit
  record : (t.crew p.uid).stopRec = ⟨s.procOf (s.crew p.uid), BitVec.ofNat 64 ((s.crew p.uid).task * 2 ^ 32 + (s.crew p.uid).idx),
    BitVec.ofNat 64 (whereDword (s.crew p.uid).core p.tid p.slotB), code, hits, lanes, s.cycles⟩
  crew : t.crew p.uid = let c := t.crew p.uid
    { s.crew p.uid with threads := c.threads, stop := c.stop, stopNs := s.now, stopRec := c.stopRec }
  paused : (t.task (s.crew p.uid).ldev (s.crew p.uid).task).pausedAt.isSome = true

/-! ### Messages, rounds, packets -/

/-- The message is at a node and its sender no longer holds its payload. -/
def State.loaded (s : State) (m : MsgRef) (x : GMsg) : Prop :=
  s.gmsg? m = some x ∧ ∀ op, s.op? x.sender = some op → op.st = .done

/-- Of the groups of a partition only one changes, and of its messages only the named one, which then is `x`. -/
structure State.OnlyMsg (s t : State) (m : MsgRef) (x : GMsg) : Prop where
  package : t = { s with parts := t.parts, crews := t.crews }
  msg : t.gmsg? m = some x
  others : ∀ i, i ≠ m.id → t.gmsg? { m with id := i } = s.gmsg? { m with id := i }
  groups : ∀ q g, (partKey q ≠ partKey ⟨m.ldev, m.part⟩ ∨ g ≠ m.gid) → t.group q g = s.group q g

/-- The message has left its group, with its cellar entry at the root; with ORD it stays until it is acknowledged (R336, R339). -/
def State.Gone (s t : State) (m : MsgRef) (ord : Bool) : Prop :=
  (∀ k, (t.core k).cellar = if k = s.rootOf ⟨m.ldev, m.part⟩ (s.group ⟨m.ldev, m.part⟩ m.gid).tree
    then (s.core k).cellar.filter fun e => e.group != some m else (s.core k).cellar) ∧
  (if ord then ∃ x, t.gmsg? m = some x ∧ x.at_ = .unacked else t.gmsg? m = none)

/-- A handler group has been spawned (R42, R328): it runs from its entry with every lane, its arguments in s1 to s7 and its payload in
its landing area; no other register of it is set. -/
structure State.Spawned (s t : State) (uid slot handler : Nat) (args : List Nat) (payload : List Byte) : Prop where
  runs : (t.thread uid (32 + slot)).st = .running ∧ (t.thread uid (32 + slot)).arch.b = {}
  pc : let a := (t.thread uid (32 + slot)).arch.a
    a.st = .ready ∧ a.pc = (s.hdrOf (s.crew uid)).handTbl.getD handler 0xFFFFFFFF ∧ a.mask = 0xFFFFFFFF ∧ a.word = 0 ∧ a.depth = 0
  regs : ∀ n, Store.get 0 (t.thread uid (32 + slot)).arch.s n =
    if n = 0 then 0 else BitVec.ofNat 64 (args.getD (n - 1) 0)
  lanes : (t.thread uid (32 + slot)).arch.v = [] ∧ (t.thread uid (32 + slot)).arch.p = []
  clean : ∀ n l, slot < 32 → n < 64 → l < 32 → Store.get false (t.crew uid).regPoison (regOff (32 + slot) n l) = false
  area : ∀ k, k < 128 → t.peek (.scr uid ((s.hdrOf (s.crew uid)).scratch + 128 * slot + k)) = payload.getD k 0
  others : ∀ k, k ≠ 32 + slot → t.thread uid k = s.thread uid k

/-- A readiness total on its way reaches the parent, whose count of that port it overwrites (R332); a parent whose own total changes sends it on. -/
def State.Reports (s t : State) (p : PartRef) (gid k up port total : Nat) (rest : List Nat) : Prop :=
  let g := s.group p gid
  let m := Store.get {} g.nodes up
  let n := Store.get {} (t.group p gid).nodes up
  Store.get {} (t.group p gid).nodes k = { Store.get {} g.nodes k with sent := rest } ∧
    (∀ q, Store.get 0 n.c q = if q = port then total else Store.get 0 m.c q) ∧ n.l = m.l ∧ n.portRot = m.portRot ∧ n.crewRot = m.crewRot ∧
    ∀ j, j ≠ k → j ≠ up → Store.get {} (t.group p gid).nodes j = Store.get {} g.nodes j

/-- A packet has started and retired with a status (R361, R365): the journal holds its RETIRE record last, the queue goes on behind it, its
completion address, if it names one, has been handled by `completion`, and RDIDX tells the queue's read index. Of memory only the completion
word, the packet's TYPE byte and RDIDX change. -/
structure State.Retired (s t : State) (k : PktRef) (task status : Nat) : Prop where
  next : (t.queue k.ldev k.queue).next = k.index + 1
  retired : (t.queue k.ldev k.queue).isRetired k.index = true
  record : s.pktD k 1 = 0xFFFFFFFF00000000 → t.journal.getLast? = some
    ⟨s.head + 1, s.now, 2, 0, k.ldev, (s.queue k.ldev k.queue).part, [k.queue, k.index, s.pktType k, status].map (BitVec.ofNat 64)⟩
  accepted : s.pktD k 1 = 0xFFFFFFFF00000000 → (⟨s.head, s.now, 1, 0, k.ldev, (s.queue k.ldev k.queue).part,
    [k.queue, k.index, s.pktType k, task].map (BitVec.ofNat 64)⟩ : JRec) ∈ t.journal
  mem : s.pktD k 1 = 0xFFFFFFFF00000000 → ∀ a, let h := s.queueHdr k.ldev (s.queue k.ldev k.queue) + 0x80
    (a < h ∨ h + 8 ≤ a) → t.peek (.mem a) = if a = s.queueSlot k.ldev (s.queue k.ldev k.queue) k.index then 0 else s.peek (.mem a)
  crews : t.crews = s.crews ∧ t.arenas = s.arenas ∧ t.handles = s.handles
  tasks : t.tasks = s.tasks
  queues : ∀ d n, (d ≠ k.ldev ∨ n ≠ k.queue) → n < 4096 → k.queue < 4096 → t.queue d n = s.queue d n

/-- `t` is `s` with `bs` stored at `a` by an agent without an L1, and nothing else changed but the invalidations it queues. -/
structure State.Poked (s t : State) (a : Nat) (bs : List Byte) : Prop where
  mem : ∀ x, t.peek (.mem x) = overlay s.peek (.mem a) bs (.mem x)
  package : t = { s with mem := t.mem, poison := t.poison, cores := t.cores, sharers := t.sharers, writes := t.writes, hist := t.hist
                         fills := t.fills, absent := t.absent }
  history : t.writes = s.writes + 1 ∧ t.hist = ⟨s.writes, none, .mem a, s.peekN (.mem a) bs.length⟩ :: s.hist
  cores : ∀ c, t.core c = { s.core c with inval := (t.core c).inval }

/-! ### Commands (R385, R386) -/

/-- The brewhouse carries out a record of this rule: it hears its master, no reserved field is set, fewer than 256 commands of the master are
outstanding, its issuer may send it, its signature verifies where it must, and what it names exists. -/
structure State.Admits (s : State) (c : Cmd) (r : CmdRule) : Prop where
  heard : s.unheard c = false
  record : c.opcode.toNat = r.op ∧ (∀ k, r.sub = some k → cArgN c 0 = k) ∧ c.resvHi = 0 ∧ c.resvMid = 0
  room : s.outstanding c.source < 256
  issuer : s.allowed r.who c.source = true
  signed : r.signed = true → c.sigLen ≠ 0 ∧ c.sigOk = true
  scope : scopeOk c r.scope = true
  live : r.scope = 2 → (s.part (cmdPart c)).live = true

/-- CMDWR once the operating system's command has been taken: never behind CMDRD (R388). -/
def State.cmdWrote (s : State) (c : Cmd) : DWord :=
  if c.source = .os ∧ (s.winReg 0xC000).toNat < (s.winReg 0xC008 + 1).toNat then s.winReg 0xC008 + 1 else s.winReg 0xC000

/-- The slot of the response ring that RSPWR names (R388). -/
def State.respSlot (s : State) : Nat := 0x8000 + 64 * ((s.winReg 0xC010).toNat % 256)

/-- The command has been taken and answered (R385, R386): its response is sent, with its SEQ, opcode and STATUS; the operating system's
is written to slot RSPWR of the response ring, advances CMDRD and RSPWR and raises vector 0, which counts in VECDROP where it is not bound
(R388, R389). -/
structure State.Responds (s t : State) (c : Cmd) (status : Nat) (results : List Nat) (tail : List Byte := []) : Prop where
  resps : t.resps = s.resps ++ [⟨c.source, c.seq, c.opcode, status, results.map (BitVec.ofNat 64), tail⟩]
  slot : c.source = .os → t.winReg s.respSlot = BitVec.ofNat 64 (c.seq.toNat * 2 ^ 32 + c.opcode.toNat * 2 ^ 16 + status) ∧
    ∀ k, k < 7 → t.winReg (s.respSlot + 8 * (k + 1)) = (results.map (BitVec.ofNat 64)).getD k 0
  cmdwr : t.winReg 0xC000 = s.cmdWrote c
  regs : ∀ o, o ≠ 0xC000 → (c.source = .os → o < s.respSlot ∨ s.respSlot + 64 ≤ o) → t.winReg o = if c.source = .os ∧ (o = 0xC008 ∨ o = 0xC010 ∨ (o = 0xC020 ∧ Store.get none t.vecs 0 = none)) then s.winReg o + 1
    else s.winReg o
  msis : t.msis = s.msis ++ match c.source, Store.get none t.vecs 0 with
    | .os, some (hart, id) => [(0, hart, id)]
    | _, _ => []

/-- `t` without the response. -/
def State.unsaid (s t : State) : State := { t with resps := s.resps, win := s.win, msis := s.msis }

/-- The command has been taken and is answered later, when its effect has completed. -/
structure State.Held (s t : State) (c : Cmd) (n : Nat) : Prop where
  cmds : ∃ l, t.cmds = s.cmds ++ [{ cmd := c, sinceNs := s.now, ref_ := n, uids := l }]
  resps : t.resps = s.resps
  cmdwr : t.winReg 0xC000 = s.cmdWrote c
  regs : ∀ o, o ≠ 0xC000 → t.winReg o = if c.source = .os ∧ o = 0xC008 then s.winReg o + 1 else s.winReg o
  msis : t.msis = s.msis

/-- The outstanding commands that `p` takes have been answered with a status, in their order. -/
structure State.Closed (s t : State) (p : PendCmd → Bool) (status : Nat) : Prop where
  cmds : t.cmds = s.cmds.filter fun c => !p c
  resps : t.resps = s.resps ++ (s.cmds.filter p).map fun c => ⟨c.cmd.source, c.cmd.seq, c.cmd.opcode, status, [], []⟩

/-- One record has been journalled (R381). -/
structure State.Logged (s t : State) (kind source ldev part : Nat) (data : List Nat) : Prop where
  head : t.head = s.head + 1
  last : t.journal.getLast? = some ⟨s.head, s.now, kind, source, ldev, part, data.map (BitVec.ofNat 64)⟩
  old : ∀ r ∈ t.journal, r ∈ s.journal ∨ t.journal.getLast? = some r

/-- Of the tasks only those that `hit` names and that run have been killed (R379): they end with a status, and their crews stop for the kill machine. -/
structure State.Killed (s t : State) (ldev : Nat) (hit : Nat → Bool) (status : Nat) (k : KillCause) : Prop where
  tasks : ∀ d n, n < 2 ^ 32 → t.task d n = if d = ldev ∧ hit n = true ∧ (s.task d n).st = .running
    then { s.task d n with st := .ending, status := status } else s.task d n
  crews : ∀ u, let c := s.crew u
    c.st ≠ .retired → c.task < 2 ^ 32 → t.crew u = if c.ldev = ldev ∧ hit c.task = true ∧ (s.task c.ldev c.task).st = .running ∧ c.cause = none
      then { c with cause := some k } else c
  package : t = { s with tasks := t.tasks, crews := t.crews, journal := t.journal, head := t.head, cmds := t.cmds, change := t.change, win := t.win
                         resps := t.resps, msis := t.msis }

/-! ### The machine as a whole -/

/-- The journal is in order (R381): its records carry consecutive SEQ values that end before HEAD, their times do not fall and none lies ahead of device time, and the ring
holds no more than its 1,048,576 records. -/
structure State.JournalInOrder (s : State) : Prop where
  seqs : s.journal.map JRec.seq = (List.range s.journal.length).map fun i => s.head - s.journal.length + i
  room : s.journal.length ≤ s.head ∧ s.journal.length ≤ 1048576
  times : s.journal.Pairwise fun a b => a.time ≤ b.time
  past : ∀ r ∈ s.journal, r.time ≤ s.now

end Sys2Proof.Machine
end

