-- ==== Sys2Proof/Certificates/Slice0/Obligations.lean ====
section
/-! DEFINITION. The statements for the provers. -/

open Sys2Proof Sys2Proof.Machine

/-! ### The VEC class (R178 to R206) -/

/-- The integer words of R186, R187 and R189 make every element of every lane of A from the elements of their sources, at the width and
signedness of their type, and change nothing else. -/
def Obligations.VectorIntegerElements : Prop := ∀ s : State,
  (∀ f, s.yields (.vadd f) fun t => s.VrElems t f fun _ _ x y _ => x + y) ∧
  (∀ f, s.yields (.vsub f) fun t => s.VrElems t f fun _ _ x y _ => x - y) ∧
  (∀ f, s.yields (.vadds f) fun t => s.VrElems t f fun g w x y _ => elSat w g (elVal g x + elVal g y)) ∧
  (∀ f, s.yields (.vsubs f) fun t => s.VrElems t f fun g w x y _ => elSat w g (elVal g x - elVal g y)) ∧
  (∀ f, s.yields (.vmul f) fun t => s.VrElems t f fun _ _ x y _ => x * y) ∧
  (∀ f, s.yields (.vmulhi f) fun t => s.VrElems t f fun g w x y _ => BitVec.ofInt w (elVal g x * elVal g y / 2 ^ w)) ∧
  (∀ f, s.yields (.vmad f) fun t => s.VrElems t f fun _ _ x y z => z + x * y) ∧
  (∀ f, s.yields (.vmin f) fun t => s.VrElems t f fun g _ x y _ => if elVal g y < elVal g x then y else x) ∧
  (∀ f, s.yields (.vmax f) fun t => s.VrElems t f fun g _ x y _ => if elVal g x < elVal g y then y else x) ∧
  (∀ f, s.yields (.vabsd f) fun t => s.VrElems t f fun g _ x y _ => if elVal g x < elVal g y then y - x else x - y) ∧
  (∀ f, s.yields (.vshl f) fun t => s.VrElems t f fun _ w x y _ => x <<< (y.toNat % w)) ∧
  (∀ f, s.yields (.vshr f) fun t => s.VrElems t f fun g w x y _ =>
    if g then x.sshiftRight (y.toNat % w) else x >>> (y.toNat % w)) ∧
  (∀ f, s.yields (.vrot f) fun t => s.VrElems t f fun _ w x y _ => x.rotateLeft (y.toNat % w)) ∧
  (∀ f, s.yields (.vpopc f) fun t => s.VrElems t f fun _ w x _ _ =>
    BitVec.ofNat w ((List.range w).filter x.getLsbD).length) ∧
  (∀ f, s.yields (.vclz f) fun t => s.VrElems t f fun _ _ x _ _ => x.clz) ∧
  (∀ f, s.yields (.vaddi f) fun t => s.ViElems t f fun _ w x => x + f.imm.signExtend w) ∧
  (∀ f, s.yields (.vshli f) fun t => s.ViElems t f fun _ _ x => x <<< f.imm.toNat) ∧
  (∀ f, s.yields (.vshri f) fun t => s.ViElems t f fun g _ x =>
    if g then x.sshiftRight f.imm.toNat else x >>> f.imm.toNat)

/-- The moves, the whole-lane logic, the bit fields and the lane movement of R182 to R185, R186, R187, R188, R189 and R191 to R194: what
every written lane receives. -/
def Obligations.VectorMovesAndBits : Prop := ∀ s : State,
  (∀ f, s.yields (.vmov f) fun t => s.WroteV t f.vd (s.lanes f.gp f.gn) fun l => s.rdV f.va l) ∧
  (∀ f, s.yields (.vsel f) fun t => s.WroteV t f.vd s.mask fun l =>
    if (s.guard f.gp f.gn).getLsbD l then s.rdV f.va l else s.rdV f.vb l) ∧
  (∀ f, s.yields (.vmovi f) fun t => s.ViElems t f fun g w _ => if g then f.imm.signExtend w else f.imm.setWidth w) ∧
  (∀ f, s.yields (.vmovs f) fun t => s.WroteV t f.v s.mask fun _ => (s.rdS f.sr).setWidth 32) ∧
  (∀ f, s.yields (.vsr f) fun t => ∃ r, s.WroteV t f.v s.mask r ∧ ∀ l, l < 32 →
    (f.x10 = 0 → r l = BitVec.ofNat 32 l) ∧
    (f.x10 = 1 → r l = BitVec.ofNat 32 (s.widBase + l)) ∧
    (f.x10 = 2 → r l = BitVec.ofNat 32 ((s.widBase + l) / 2 ^ 32)) ∧
    (∀ k, f.x10 = BitVec.ofNat 10 (3 + k) → k < 6 → r l = BitVec.ofNat 32
      ((s.widBase + l) / 2 ^ (s.chdr.widw.take k).sum % 2 ^ s.chdr.widw.getD k 0))) ∧
  (∀ f, s.yields (.vand f) fun t => s.WroteV t f.vd (s.lanes f.gp f.gn) fun l => s.rdV f.va l &&& s.rdV f.vb l) ∧
  (∀ f, s.yields (.vor f) fun t => s.WroteV t f.vd (s.lanes f.gp f.gn) fun l => s.rdV f.va l ||| s.rdV f.vb l) ∧
  (∀ f, s.yields (.vxor f) fun t => s.WroteV t f.vd (s.lanes f.gp f.gn) fun l => s.rdV f.va l ^^^ s.rdV f.vb l) ∧
  (∀ f, s.yields (.vandn f) fun t => s.WroteV t f.vd (s.lanes f.gp f.gn) fun l => s.rdV f.va l &&& ~~~s.rdV f.vb l) ∧
  (∀ f, s.yields (.vandi f) fun t => s.WroteV t f.vd s.mask fun l =>
    s.rdV f.va l &&& if f.ty = 0 then f.imm.signExtend 32 else f.imm.setWidth 32) ∧
  (∀ f, s.yields (.vbfe f) fun t => s.WroteV t f.vd (s.lanes f.gp f.gn) fun l =>
    let pos := (s.rdV f.vb l).toNat % 32
    let e := min (min ((s.rdV f.vb l).toNat / 256 % 64) 32) (32 - pos)
    let x : BitVec e := (s.rdV f.va l >>> pos).setWidth e
    if f.ty = 0 then x.signExtend 32 else x.setWidth 32) ∧
  (∀ f, s.yields (.vbfi f) fun t => s.WroteV t f.vd (s.lanes f.gp f.gn) fun l =>
    let pos := (s.rdV f.vb l).toNat % 32
    let e := min (min ((s.rdV f.vb l).toNat / 256 % 64) 32) (32 - pos)
    let m : Word := (BitVec.allOnes e).setWidth 32 <<< pos
    (s.rdV f.vd l &&& ~~~m) ||| ((s.rdV f.va l <<< pos) &&& m)) ∧
  (∀ f, s.yields (.vbrev f) fun t => s.WroteV t f.vd (s.lanes f.gp f.gn) fun l => (s.rdV f.va l).reverse) ∧
  (∀ f, s.yields (.vhsel f) fun t => ∃ r, s.WroteV t f.vd s.mask r ∧ ∀ l, l < 32 →
    let half (c : Nat) : BitVec 16 := el 16 (if c < 2 then s.rdV f.va l else s.rdV f.vb l) (c % 2)
    el 16 (r l) 0 = half (f.x4.toNat % 4) ∧ el 16 (r l) 1 = half (f.x4.toNat / 4)) ∧
  (∀ f, s.yields (.vperm f) fun t => s.WroteV t f.vd (s.lanes f.gp f.gn) fun l =>
    s.rdV f.va ((s.rdV f.vb l).toNat % 32)) ∧
  (∀ f, s.yields (.vshfl f) fun t => s.WroteV t f.vd s.mask fun l =>
    let n := f.imm.toNat % 32
    s.rdV f.va (match f.imm.toNat / 256 with
      | 0 => Nat.xor l n
      | 1 => if l ≥ n then l - n else l
      | 2 => if l + n ≤ 31 then l + n else l
      | _ => n)) ∧
  (∀ f, s.yields (.vwrl f) fun t => s.WroteV t f.v (s.mask &&& BitVec.ofNat 32 (2 ^ (f.x10.toNat % 32))) fun _ =>
    (s.rdS f.sr).setWidth 32)

/-- The words that combine lanes: `vrdl` and the integer and float reductions of R196 write a whole scalar register, `vscan` gives each lane
of A the combination of the lanes of A up to it (R197). Rests also on the model's own reading, log entry 75. -/
def Obligations.VectorReductions : Prop := ∀ s : State,
  (∀ f, s.yields (.vrdl f) fun t => s.WroteS t f.sr
    (if f.ty = 0 then (s.rdV f.v (f.x10.toNat % 32)).signExtend 64 else (s.rdV f.v (f.x10.toNat % 32)).setWidth 64)) ∧
  (∀ f, s.yields (.vred f) fun t =>
    let op := f.x10.toNat % 8
    let sx (x : Word) : DWord := if f.ty = 0 then x.signExtend 64 else x.setWidth 64
    let v (l : Nat) : Word := s.rdV f.v l
    let lt (x y : Word) : Bool := if f.ty = 0 then x.slt y else x.ult y
    let L := laneList s.mask
    ∃ r, s.WroteS t f.sr r ∧
      (f.x10.getLsbD 3 = false → L ≠ [] →
        (op = 0 → r = BitVec.ofInt 64 ((L.map fun l => if f.ty = 0 then (v l).toInt else ((v l).toNat : Int)).sum)) ∧
        (op = 1 → r = sx (runOver (fun a b => if lt b a then b else a) v 0 L)) ∧
        (op = 2 → r = sx (runOver (fun a b => if lt a b then b else a) v 0 L)) ∧
        (op = 3 → r = sx (runOver (· &&& ·) v 0 L)) ∧
        (op = 4 → r = sx (runOver (· ||| ·) v 0 L)) ∧
        (op = 5 → r = sx (runOver (· ^^^ ·) v 0 L))) ∧
      (f.x10.getLsbD 3 = false → L = [] →
        (op = 0 ∨ op = 4 ∨ op = 5 → r = 0) ∧
        (op = 1 → r = sx (if f.ty = 0 then 0x7FFFFFFF else 0xFFFFFFFF)) ∧
        (op = 2 → r = sx (if f.ty = 0 then 0x80000000 else 0)) ∧ (op = 3 → r = sx 0xFFFFFFFF)) ∧
      (f.x10.getLsbD 3 = true → r =
        match pairTree (fun a b => if op = 0 then fmtF32.add s.fenv a b else fmtF32.minmax s.fenv.ftz (op == 1) a b)
            (fun l => if s.mask.getLsbD l then some (v l).toNat else none) 5 0 with
        | some x => BitVec.ofNat 64 x
        | none => if op = 0 then 0 else if op = 1 then 0x7F800000 else 0xFF800000)) ∧
  (∀ f, s.yields (.vscan f) fun t =>
    let op := f.vb.toNat % 8
    let lt (x y : Word) : Bool := if f.ty = 0 then x.slt y else x.ult y
    let c (a b : Word) : Word :=
      if f.vb.getLsbD 3 then BitVec.ofNat 32
        (if op = 0 then fmtF32.add s.fenv a.toNat b.toNat else fmtF32.minmax s.fenv.ftz (op == 1) a.toNat b.toNat)
      else match op with
        | 0 => a + b
        | 1 => if lt b a then b else a
        | 2 => if lt a b then b else a
        | 3 => a &&& b
        | 4 => a ||| b
        | _ => a ^^^ b
    let A := s.lanes f.gp f.gn
    s.WroteV t f.vd A fun l => runOver c (s.rdV f.va) 0 ((laneList A).filter (· ≤ l)))

/-- The words that write predicates, `vcmp`, `vfcmp` and `vacs` (R190, R200), and the dot products of R198 and R199. -/
def Obligations.VectorComparesAndDots : Prop := ∀ s : State,
  let whole (l : List Nat) : List Nat := if s.mask = 0xFFFFFFFF then l else []
  (∀ f, s.yields (.vcmp f) fun t => s.WroteP t (whole [f.pd.toNat]) fun m l =>
    if m = f.pd.toNat ∧ s.mask.getLsbD l = true then
      (s.rdP f.gp.toNat).getLsbD l &&
        (let x := s.rdV f.va l
         let y := s.rdV f.vb l
         let lt (a b : Word) : Bool := if f.ty = 0 then a.slt b else a.ult b
         match f.cond.toNat with
         | 0 => x == y
         | 1 => x != y
         | 2 => lt x y
         | 3 => !lt y x
         | 4 => lt y x
         | _ => !lt x y)
    else s.oldP m l) ∧
  (∀ f, s.yields (.vfcmp f) fun t => s.WroteP t (whole [f.pd.toNat]) fun m l =>
    if m = f.pd.toNat ∧ s.mask.getLsbD l = true then
      (s.rdP f.gp.toNat).getLsbD l &&
        (let x := fmtF32.read s.fenv (s.rdV f.va l).toNat
         let y := fmtF32.read s.fenv (s.rdV f.vb l).toNat
         if x.isNan || y.isNan then f.cond == 1 || f.cond == 6
         else match f.cond.toNat with
           | 0 => x.eq y
           | 1 => !x.eq y
           | 2 => x.lt y
           | 3 => !y.lt x
           | 4 => y.lt x
           | 5 => !x.lt y
           | 6 => false
           | _ => true)
    else s.oldP m l) ∧
  (∀ f, s.yields (.vacs f) fun t =>
    let gt (i l : Nat) : Bool := (el 16 (s.rdV f.va l) i).slt (el 16 (s.rdV f.vb l) i)
    ∃ r, (s.WroteVP t f.vd s.mask r (whole [f.x4.toNat, f.x4.toNat + 1]) fun m l =>
        if s.mask.getLsbD l = true ∧ m = f.x4.toNat then gt 0 l
        else if s.mask.getLsbD l = true ∧ m = f.x4.toNat + 1 then gt 1 l
        else s.oldP m l) ∧
      ∀ l, l < 32 → ∀ i, i < 2 →
        el 16 (r l) i = if gt i l then el 16 (s.rdV f.vb l) i else el 16 (s.rdV f.va l) i) ∧
  (∀ f, s.yields (.vdot4 f) fun t => s.WroteV t f.vd (s.lanes f.gp f.gn) fun l =>
    let p (i : Nat) : Word := BitVec.ofInt 32
      (elVal (tySigned f.ty.toNat) (el 8 (s.rdV f.va l) i) * elVal (tySigned f.ty.toNat) (el 8 (s.rdV f.vb l) i))
    s.rdV f.vd l + p 0 + p 1 + p 2 + p 3) ∧
  (∀ f, s.yields (.vdot2 f) fun t => s.WroteV t f.vd (s.lanes f.gp f.gn) fun l =>
    let g := tyFmt f.ty.toNat
    let h (n : BitVec 6) (i : Nat) : FVal := g.read s.fenv (el 16 (s.rdV n l) i).toNat
    let c := fmtF32.read s.fenv (s.rdV f.vd l).toNat
    BitVec.ofNat 32 (fmtF32.flush s.fenv.ftz (fmtF32.encode 0 false
      (exactSum 0 [c, (h f.va 0).mul (h f.vb 0), (h f.va 1).mul (h f.vb 1)]))))

/-- The float words of R201 and R203 to R206 make every element of every lane of A, in its own format, from the elements of their sources
and FMT. Rests also on the model's own reading, log entry 9. -/
def Obligations.VectorFloatElements : Prop := ∀ s : State,
  (∀ f, s.yields (.vfadd f) fun t => s.VrFloats t f fun g x y _ =>
    g.write s.fenv (exactSum s.fenv.rm [g.read s.fenv x, g.read s.fenv y])) ∧
  (∀ f, s.yields (.vfsub f) fun t => s.VrFloats t f fun g x y _ =>
    g.write s.fenv (exactSum s.fenv.rm [g.read s.fenv x, (g.read s.fenv y).neg])) ∧
  (∀ f, s.yields (.vfmul f) fun t => s.VrFloats t f fun g x y _ =>
    g.write s.fenv ((g.read s.fenv x).mul (g.read s.fenv y))) ∧
  (∀ f, s.yields (.vfma f) fun t => s.VrFloats t f fun g x y z =>
    g.write s.fenv (exactSum s.fenv.rm [(g.read s.fenv x).mul (g.read s.fenv y), g.read s.fenv z])) ∧
  (∀ f, s.yields (.vrcp f) fun t => s.VrFloats t f fun g x _ _ => g.flush s.fenv.ftz (g.func 0 (g.read s.fenv x))) ∧
  (∀ f, s.yields (.vrsqrt f) fun t => s.VrFloats t f fun g x _ _ => g.flush s.fenv.ftz (g.func 1 (g.read s.fenv x))) ∧
  (∀ f, s.yields (.vsqrt f) fun t => s.VrFloats t f fun g x _ _ => g.flush s.fenv.ftz (g.func 2 (g.read s.fenv x))) ∧
  (∀ f, s.yields (.vexp2 f) fun t => s.VrFloats t f fun g x _ _ => g.flush s.fenv.ftz (g.func 3 (g.read s.fenv x))) ∧
  (∀ f, s.yields (.vlog2 f) fun t => s.VrFloats t f fun g x _ _ => g.flush s.fenv.ftz (g.func 4 (g.read s.fenv x))) ∧
  (∀ f, s.yields (.vfclass f) fun t => s.VrFloats t f fun g x _ _ => g.classify x) ∧
  (∀ f, s.yields (.vround f) fun t => s.WroteFloats t f.ty f.vd f.va f.va s.mask fun g x _ _ =>
    g.roundIntegral (if f.x4 = 4 then fmtRM s.fmt else f.x4.toNat) (g.flush s.fenv.ftz x)) ∧
  (∀ f, s.yields (.vcvt f) fun t => s.WroteV t f.vd (s.lanes f.gp f.gn) fun l =>
    convert f.vb.toNat s.fenv (s.rdV f.va l) (s.rdV f.vd l))

/-- R202: `vfmin` and `vfmax` make every element of every lane of A one of its operands, read under FTZ: of a NaN and a number the number,
of two NaNs the canonical NaN, else the smaller or the larger with −0 below +0. -/
def Obligations.MinMaxOperand : Prop :=
  (∀ (s : State) f, s.yields (.vfmin f) fun t => s.VrFloats t f fun g x y _ => g.minmax s.fenv.ftz true x y) ∧
  (∀ (s : State) f, s.yields (.vfmax f) fun t => s.VrFloats t f fun g x y _ => g.minmax s.fenv.ftz false x y) ∧
  (∀ g : FFmt, g = fmtF32 ∨ g = fmtF16 ∨ g = fmtB16 → ∀ (ftz least : Bool) (x y : Nat),
  x < 2 ^ g.width → y < 2 ^ g.width →
  let u := g.flush ftz x
  let v := g.flush ftz y
  let r := g.minmax ftz least x y
  ((g.decode u).isNan = false → (g.decode v).isNan = true → r = u) ∧
  ((g.decode u).isNan = true → (g.decode v).isNan = false → r = v) ∧
  ((g.decode u).isNan = true → (g.decode v).isNan = true → r = g.canonNan) ∧
  ((g.decode u).isNan = false → (g.decode v).isNan = false → (r = u ∨ r = v) ∧
    ((g.decode u).lt (g.decode v) = true → r = if least then u else v) ∧
    ((g.decode v).lt (g.decode u) = true → r = if least then v else u) ∧
    ((g.decode u).negZero = true → (g.decode v).eq (g.decode u) = true → (g.decode v).negZero = false →
      r = if least then u else v) ∧
    ((g.decode v).negZero = true → (g.decode u).eq (g.decode v) = true → (g.decode u).negZero = false →
      r = if least then v else u)) ∧
  (ftz = true → g.flushes = true → g.isSub x = true → u = g.zero (g.sign x)))

/-- R177: the conversions at their boundary cases, RM RNE and FTZ 0, with F8NAN 0 and 1. -/
def Obligations.ConversionBoundaries : Prop :=
  let c (code : Nat) (n : Bool) (x : Word) : Word := convert code ⟨0, false, n⟩ x 0
  (∀ n, c 0x10 n 0x3F800000 = 0x40 ∧ c 0x10 n 0xBF800000 = 0xC0) ∧
  (∀ n, c 0x10 n 0x43740000 = 0x7F) ∧
  (c 0x10 false 0x43780000 = 0x7F ∧ c 0x10 true 0x43780000 = 0x80) ∧
  (c 0x10 false 0x7F800000 = 0x7F ∧ c 0x10 true 0x7F800000 = 0x80 ∧ ∀ n, c 0x10 n 0x7FC00000 = 0x80) ∧
  (∀ n, c 0x10 n 0x3A000000 = 0x00 ∧ c 0x10 n 0x3AC00000 = 0x02) ∧
  (∀ n, c 0x10 n 0xB9800000 = 0x00) ∧
  (∀ n, c 0x14 n 0x3F800000 = 0x40 ∧ c 0x14 n 0x37000000 = 0x01) ∧
  (c 0x14 false 0x47700000 = 0x7F ∧ c 0x14 true 0x47700000 = 0x80) ∧
  (∀ n, c 0x18 n 0x7F = 0x43700000 ∧ c 0x18 n 0x80 = 0x7FC00000) ∧
  (∀ n, c 0x0A n 0x3F808000 = 0x3F80 ∧ c 0x0A n 0x3F818000 = 0x3F82) ∧
  (∀ n, c 0x08 n 0x477FF000 = 0x7C00 ∧ convert 0x08 ⟨1, false, n⟩ 0x477FF000 0 = 0x7BFF) ∧
  (∀ n, c 0x02 n 0x4F32D05E = 0x7FFFFFFF ∧ c 0x02 n 0xC0200000 = 0xFFFFFFFE ∧ c 0x02 n 0x7FC00000 = 0) ∧
  (∀ n, c 0x03 n 0xBF800000 = 0)

/-- R165: a finite result of rounding to nearest is at least as near to the exact value m × 2^e as every finite number of the format, F32,
F16 or B16, and of the two nearest the one with the even code. -/
def Obligations.RoundsToNearestEven : Prop := ∀ g : FFmt, g = fmtF32 ∨ g = fmtF16 ∨ g = fmtB16 →
  ∀ (neg : Bool) (m : Nat) (e : Int), 0 < m →
  let r := g.round 0 false neg m e false
  ∀ (sr : Bool) (mr : Nat) (er : Int), g.decode r = .fin sr mr er → ∀ c, c < 2 ^ g.width →
  ∀ (sc : Bool) (mc : Nat) (ec : Int), g.decode c = .fin sc mc ec →
  let q := min e (min er ec)
  let dr := (scaled sr mr er q - scaled neg m e q).natAbs
  let dc := (scaled sc mc ec q - scaled neg m e q).natAbs
  dr ≤ dc ∧ (dr = dc → scaled sc mc ec q ≠ scaled sr mr er q → r % 2 = 0)

/-! ### The SCA class (R148 to R159) -/

/-- The scalar integer words of R149 to R153 write sd and change nothing else; division by zero and the overflow of signed division give the
values of R150. The scalar F32 words of R154 work on bits [31:0] of their operands, round to nearest and flush nothing; `scvt` converts as
R155 gives. The result is extended to 64 bits, by sign for I32 alone. -/
def Obligations.ScalarWords : Prop :=
  (∀ s : State,
  (∀ f, s.yields (.smov f) fun t => s.WroteS t f.sd (s.rdS f.sa)) ∧
  (∀ f, s.yields (.sadd f) fun t => s.WroteS t f.sd (s.rdS f.sa + s.rdS f.sb)) ∧
  (∀ f, s.yields (.ssub f) fun t => s.WroteS t f.sd (s.rdS f.sa - s.rdS f.sb)) ∧
  (∀ f, s.yields (.smul f) fun t => s.WroteS t f.sd (s.rdS f.sa * s.rdS f.sb)) ∧
  (∀ f, s.yields (.smulh f) fun t => s.WroteS t f.sd
    (if f.f7.getLsbD 0 then ((s.rdS f.sa).setWidth 128 * (s.rdS f.sb).setWidth 128).extractLsb' 64 64
     else ((s.rdS f.sa).signExtend 128 * (s.rdS f.sb).signExtend 128).extractLsb' 64 64)) ∧
  (∀ f, s.yields (.sdiv f) fun t => s.WroteS t f.sd
    (if s.rdS f.sb = 0 then 0xFFFFFFFFFFFFFFFF
     else if f.f7.getLsbD 0 then s.rdS f.sa / s.rdS f.sb
     else if s.rdS f.sa = 0x8000000000000000 ∧ s.rdS f.sb = 0xFFFFFFFFFFFFFFFF then 0x8000000000000000
     else (s.rdS f.sa).sdiv (s.rdS f.sb))) ∧
  (∀ f, s.yields (.srem f) fun t => s.WroteS t f.sd
    (if s.rdS f.sb = 0 then s.rdS f.sa
     else if f.f7.getLsbD 0 then s.rdS f.sa % s.rdS f.sb
     else if s.rdS f.sa = 0x8000000000000000 ∧ s.rdS f.sb = 0xFFFFFFFFFFFFFFFF then 0
     else s.rdS f.sa - (s.rdS f.sa).sdiv (s.rdS f.sb) * s.rdS f.sb)) ∧
  (∀ f, s.yields (.sand f) fun t => s.WroteS t f.sd (s.rdS f.sa &&& s.rdS f.sb)) ∧
  (∀ f, s.yields (.sor f) fun t => s.WroteS t f.sd (s.rdS f.sa ||| s.rdS f.sb)) ∧
  (∀ f, s.yields (.sxor f) fun t => s.WroteS t f.sd (s.rdS f.sa ^^^ s.rdS f.sb)) ∧
  (∀ f, s.yields (.sshl f) fun t => s.WroteS t f.sd (s.rdS f.sa <<< (s.rdS f.sb).setWidth 6)) ∧
  (∀ f, s.yields (.sshr f) fun t => s.WroteS t f.sd
    (if f.f7.getLsbD 0 then (s.rdS f.sa).sshiftRight' ((s.rdS f.sb).setWidth 6)
     else s.rdS f.sa >>> (s.rdS f.sb).setWidth 6)) ∧
  (∀ f, s.yields (.smin f) fun t => s.WroteS t f.sd
    (if (if f.f7.getLsbD 0 then (s.rdS f.sb).ult (s.rdS f.sa) else (s.rdS f.sb).slt (s.rdS f.sa)) then s.rdS f.sb
     else s.rdS f.sa)) ∧
  (∀ f, s.yields (.smax f) fun t => s.WroteS t f.sd
    (if (if f.f7.getLsbD 0 then (s.rdS f.sa).ult (s.rdS f.sb) else (s.rdS f.sa).slt (s.rdS f.sb)) then s.rdS f.sb
     else s.rdS f.sa)) ∧
  (∀ f, s.yields (.spopc f) fun t => s.WroteS t f.sd
    (BitVec.ofNat 64 ((List.range 64).filter (s.rdS f.sa).getLsbD).length)) ∧
  (∀ f, s.yields (.sclz f) fun t => s.WroteS t f.sd (s.rdS f.sa).clz) ∧
  (∀ f, s.yields (.scmp f) fun t => s.WroteS t f.sd (if (match f.f7.toNat with
      | 0 => s.rdS f.sa == s.rdS f.sb
      | 1 => s.rdS f.sa != s.rdS f.sb
      | 2 => (s.rdS f.sa).slt (s.rdS f.sb)
      | 3 => (s.rdS f.sb).sle (s.rdS f.sa)
      | 4 => (s.rdS f.sa).ult (s.rdS f.sb)
      | _ => (s.rdS f.sb).ule (s.rdS f.sa)) then 1 else 0)) ∧
  (∀ f, s.yields (.sbfe f) fun t => s.WroteS t f.sd
    (let pos := (s.rdS f.sb).toNat % 64
     let e := min (min ((s.rdS f.sb).toNat / 256 % 128) 64) (64 - pos)
     let x : BitVec e := (s.rdS f.sa >>> pos).setWidth e
     if f.f7.getLsbD 0 then x.signExtend 64 else x.setWidth 64)) ∧
  (∀ f, s.yields (.saddi f) fun t => s.WroteS t f.sd (s.rdS f.sa + f.imm.signExtend 64)) ∧
  (∀ f, s.yields (.sandi f) fun t => s.WroteS t f.sd (s.rdS f.sa &&& f.imm.signExtend 64)) ∧
  (∀ f, s.yields (.sshli f) fun t => s.WroteS t f.sd (s.rdS f.sa <<< f.imm)) ∧
  (∀ f, s.yields (.sshri f) fun t => s.WroteS t f.sd (s.rdS f.sa >>> f.imm)) ∧
  (∀ f, s.yields (.smovi f) fun t => s.WroteS t f.sd (f.imm.signExtend 64)) ∧
  (∀ f, s.yields (.smovh f) fun t => s.WroteS t f.sd
    ((s.rdS f.sd &&& 0x1FFFFFFFFFFF) ||| (f.imm.setWidth 64 <<< 45)))) ∧
  (∀ s : State,
  let lo (n : BitVec 6) : Nat := ((s.rdS n).setWidth 32 : Word).toNat
  let d (n : BitVec 6) : FVal := fmtF32.decode (lo n)
  let rne (x : FVal) : DWord := BitVec.ofNat 64 (fmtF32.encode 0 false x)
  (∀ f, s.yields (.sfadd f) fun t => s.WroteS t f.sd (rne (exactSum 0 [d f.sa, d f.sb]))) ∧
  (∀ f, s.yields (.sfmul f) fun t => s.WroteS t f.sd (rne ((d f.sa).mul (d f.sb)))) ∧
  (∀ f, s.yields (.sfma f) fun t => s.WroteS t f.sd (rne (exactSum 0 [(d f.sa).mul (d f.sb), d f.sd]))) ∧
  (∀ f, s.yields (.scvt f) fun t => s.WroteS t f.sd
    (let r := convert f.f7.toNat ⟨0, false, s.fmt.getLsbD 3⟩ ((s.rdS f.sa).setWidth 32) 0
     if f.f7 = 2 then r.signExtend 64 else r.setWidth 64)))

/-- The predicate words of R158 act on whole predicates, whatever MASK is; a write to p0 is discarded. -/
def Obligations.PredicateWords : Prop := ∀ s : State,
  let p (n : BitVec 6) (l : Nat) : Bool := (s.rdP n.toNat).getLsbD l
  let put (n : BitVec 6) (v : Nat → Bool) (m l : Nat) : Bool := if m = n.toNat then v l else s.oldP m l
  (∀ f, s.yields (.pand f) fun t => s.WroteP t [f.sd.toNat] (put f.sd fun l => p f.sa l && p f.sb l)) ∧
  (∀ f, s.yields (.por f) fun t => s.WroteP t [f.sd.toNat] (put f.sd fun l => p f.sa l || p f.sb l)) ∧
  (∀ f, s.yields (.pxor f) fun t => s.WroteP t [f.sd.toNat] (put f.sd fun l => p f.sa l ^^ p f.sb l)) ∧
  (∀ f, s.yields (.pandn f) fun t => s.WroteP t [f.sd.toNat] (put f.sd fun l => p f.sa l && !p f.sb l)) ∧
  (∀ f, s.yields (.pmovsp f) fun t => s.WroteP t (f.sd.toNat :: if f.f7.getLsbD 0 then [f.sd.toNat + 1] else []) fun m l =>
    if m = f.sd.toNat then (s.rdS f.sa).getLsbD l
    else if f.f7.getLsbD 0 = true ∧ m = f.sd.toNat + 1 then (s.rdS f.sa).getLsbD (32 + l)
    else s.oldP m l) ∧
  (∀ f, s.yields (.pmovps f) fun t => s.WroteS t f.sd
    (BitVec.ofNat 64 ((s.rdP f.sa.toNat).toNat +
      if f.f7.getLsbD 0 then 2 ^ 32 * (s.rdP (f.sa.toNat + 1)).toNat else 0))) ∧
  (∀ f, s.yields (.pcnt f) fun t => s.WroteS t f.sd (BitVec.ofNat 64 ((List.range 32).filter (p f.sa)).length)) ∧
  (∀ f, s.yields (.pfirst f) fun t => s.WroteS t f.sd
    (BitVec.ofNat 64 (((List.range 32).find? (p f.sa)).getD 32)))

/-- `srd` reads the special registers of R116 as they stand when the word executes, `swr` and `sfmt` write FMT of the executing slot, of
which 24 bits exist (R113, R114, R156, R157). TIME and CYCLE are those of the next state, in which a full window may have waited. Rests also
on the model's own reading, log entries 26 and 32. -/
def Obligations.SpecialRegisters : Prop := ∀ s : State,
  (∀ f, s.yields (.srd f) fun t =>
    let c := s.ccrew
    let h := s.chdr
    let lead := isLead s.cur.tid
    let w (n : Nat) : DWord := BitVec.ofNat 64 n
    let wid := s.chdr.crewBase c.idx + if s.cur.tid < 32 then 32 * s.cur.tid else 0
    ∃ v, s.WroteS t f.sd v ∧ (match f.imm.toNat with
      | 0x00 => v = if lead then 1 else s.mask.setWidth 64
      | 0x01 => v = if lead then 0 else w (boolNat s.cur.slotB)
      | 0x02 => v = w s.cslot.depth
      | 0x03 => v = s.fmt.setWidth 64
      | 0x04 => v = if lead then 0xFFFFFFFFFFFFFFFF else w s.cur.tid
      | 0x05 => v = w c.idx
      | 0x06 => v = w c.core
      | 0x07 => v = w c.task
      | 0x08 => v = w wid
      | 0x0F => v = w h.groups
      | 0x10 => v = w t.now
      | 0x11 => v = w (t.cycles + (s.core c.core).skew)
      | 0x12 => v = (s.core c.core).mask
      | 0x13 => v = h.uses
      | 0x14 => v = w h.privw
      | 0x15 => v = h.paramh.setWidth 64
      | 0x16 => v = h.resulth.setWidth 64
      | 0x17 => v = s.carch.trapInfo
      | 0x18 => v = w h.vregs
      | 0x19 => v = if lead then w (64 - c.dq.length) else if isHandler s.cur.tid then 0
          else w (c.dqBase + c.dq.length - s.cthr.dqPos)
      | k => v = w (wid / 2 ^ (h.widw.take (k - 9)).sum % 2 ^ h.widw.getD (k - 9) 0))) ∧
  (∀ f, s.yields (.swr f) fun t => s.WroteFmt t ((s.rdS f.sd).setWidth 32 &&& 0xFFFFFF)) ∧
  (∀ f, s.yields (.sfmt f) fun t => s.WroteFmt t
    (((s.fmt &&& ~~~(s.rdS f.sb).setWidth 32) ||| ((s.rdS f.sa).setWidth 32 &&& (s.rdS f.sb).setWidth 32)) &&& 0xFFFFFF))

/-! ### The CTL class (R129 to R147) -/

/-- The uniform branches of R131 move the whole fragment to the target, or go on, and `sloop` writes its register either way; MASK, DEPTH,
RCV, RPCN and DIVID stay. `jmp` takes the target of its register (R145), `yield` goes on and ranks its pair last (R146, R60), `nop` only
goes on. Rests also on the model's own reading, log entry 29. -/
def Obligations.UniformTransfers : Prop := ∀ s : State,
  let cond (c : BitVec 3) (x y : DWord) : Bool := match c.toNat with
    | 0 => x == y
    | 1 => x != y
    | 2 => x.slt y
    | 3 => y.sle x
    | 4 => x.ult y
    | _ => y.ule x
  (∀ f, s.yields (.bra f) fun t => s.Moved t (s.label f.off.toInt) true s.rdS) ∧
  (∀ f, s.yields (.bcnd f) fun t =>
    if cond f.cond (s.rdS f.sa) (s.rdS f.sb) then s.Moved t (s.label f.off.toInt) true s.rdS else s.WentOn t s.rdS) ∧
  (∀ f, s.yields (.sloop f) fun t =>
    let r (n : BitVec 6) : DWord := if n = f.sa then s.rdS f.sa + 1 else s.rdS n
    if cond f.cond (r f.sa) (r f.sb) then s.Moved t (s.label f.off.toInt) true r else s.WentOn t r) ∧
  (∀ f, s.yields (.bany f) fun t =>
    if s.mask &&& s.guard f.gp f.gn ≠ 0 then s.Moved t (s.label f.off.toInt) true s.rdS else s.WentOn t s.rdS) ∧
  (∀ f, s.yields (.ball f) fun t =>
    if s.mask &&& s.guard f.gp f.gn = s.mask then s.Moved t (s.label f.off.toInt) true s.rdS else s.WentOn t s.rdS) ∧
  (∀ f, (s.rdS f.sa).toNat % 4 = 0 → (s.rdS f.sa).toNat < s.codeEntry.size →
    s.yields (.jmp f) fun t => s.Moved t ((s.rdS f.sa).setWidth 32) true s.rdS) ∧
  (∀ f, s.yields (.yield f) fun t => s.KeptThread t ∧ t.carch = { s.carch with a := t.carch.a, b := t.carch.b } ∧
    t.carch.slot (!s.cur.slotB) = s.carch.slot (!s.cur.slotB) ∧
    t.cslot = { s.cslot with pc := s.nextClause, word := 0, started := false, st := .ready, wait := none, waitSince := 0
                             holds := false, skipBp := false, skipWp := 0, dbgStep := false
                             lastIssue := s.issueCtr + 1 }) ∧
  (∀ f, s.yields (.nop f) fun t => s.WroteSlot t s.cslot)

/-- R133's split: with RPCN set it opens a divergence, takes a DIV entry and the next DIVID; without, the new fragment joins the divergence
of this one. This fragment goes on with the lanes outside G, the new one, of the lanes of G, stands at the target in the other slot if that
is EMPTY, else in a FRAG entry. Every register of the group stays. Where an entry cannot be had the word faults with STACK_LIMIT and no
effect (R134). `rcvpt` sets RPCN alone (R132). `brp` with no lane or every lane of MASK taken does not split: RPCN stays and no DIVID is
consumed (R133, R135). What R134 asks of a control stack of `cap` entries: a split has its entries exactly where the DIV entry (with RPCN
set) and the FRAG entry (with the other slot occupied) are both free and the next DIVID is not in use. Rests also on the model's own
reading, log entry 18. -/
def Obligations.Branches : Prop :=
  (∀ s : State, s.noneHeld = true → ∀ f : FmtCB,
  let T := s.mask &&& s.guard f.gp f.gn
  let F := s.mask &&& ~~~s.guard f.gp f.gn
  let target := s.label f.off.toInt
  let x := s.cslot
  let opens := x.rpcn ≠ Config.noneAddr
  let other := s.carch.slot (!s.cur.slotB)
  let had := s.carch.split s.cur.slotB (s.stackCap s.ccrew s.cur.tid) T F target s.nextClause
  T ≠ 0 → F ≠ 0 →
  (had = none → s.traps (.brp f) { exc := .stackLimit, eng := 3 }) ∧
  (had ≠ none → s.yields (.brp f) fun t =>
    let id := if opens then s.carch.divctr else x.divid
    let rcv := if opens then x.rpcn else x.rcv
    let isNew (n : Slot) : Prop := n.pc = target ∧ n.word = 0 ∧ n.st = .ready ∧ n.mask = T ∧ n.depth = x.depth ∧ n.rcv = rcv ∧
      n.rpcn = Config.noneAddr ∧ n.divid = id ∧ n.fmt = x.fmt ∧ n.age = 0 ∧ n.link = x.link
    s.Own t ∧
    (t.cslot.pc = s.nextClause ∧ t.cslot.word = 0 ∧ t.cslot.st = .ready ∧ t.cslot.mask = F ∧ t.cslot.depth = x.depth ∧
      t.cslot.rcv = rcv ∧ t.cslot.rpcn = Config.noneAddr ∧ t.cslot.divid = id ∧ t.cslot.fmt = x.fmt ∧
      t.cslot.link = x.link) ∧
    (other.st = .empty → isNew (t.carch.slot (!s.cur.slotB))) ∧
    (other.st ≠ .empty → t.carch.slot (!s.cur.slotB) = other ∧
      ∃ k n, s.carch.entry k = .free ∧ t.carch.entry k = .frag n false ∧ isNew n) ∧
    (opens → t.carch.divctr = nextDiv s.carch.divctr ∧ ∃ k, s.carch.entry k = .free ∧ t.carch.entry k =
      .div ⟨x.depth, id, x.rcv, x.rpcn, x.mask, 0, x.fmt, 2, x.link⟩) ∧
    (¬ opens → t.carch.divctr = s.carch.divctr) ∧
    (∀ k, s.carch.entry k ≠ .free → t.carch.entry k = match s.carch.entry k with
        | .div e => if ¬ opens ∧ s.carch.findDiv x.divid = some (k, e) then .div { e with pending := e.pending + 1 } else .div e
        | e => e) ∧
    t.carch = { s.carch with a := t.carch.a, b := t.carch.b, cstk := t.carch.cstk, divctr := t.carch.divctr })) ∧
  (∀ s : State,
  (∀ f, s.yields (.rcvpt f) fun t => s.WroteSlot t { s.cslot with rpcn := s.label f.off.toInt }) ∧
  (s.noneHeld = true →
    (∀ f, s.mask &&& s.guard f.gp f.gn = 0 → s.yields (.brp f) fun t => s.WentOn t s.rdS) ∧
    (∀ f, s.mask &&& s.guard f.gp f.gn ≠ 0 → s.mask &&& ~~~s.guard f.gp f.gn = 0 →
      s.yields (.brp f) fun t => s.Moved t (s.label f.off.toInt) false s.rdS))) ∧
  (∀ (a : Arch) (b : Bool) (cap : Nat) (T F target next : Word),
  let opens := (a.slot b).rpcn ≠ Config.noneAddr
  let needs := (if opens then 1 else 0) + (if (a.slot (!b)).st ≠ .empty then 1 else 0)
  (a.split b cap T F target next ≠ none ↔
    needs ≤ ((List.range cap).filter fun k => a.entry k == .free).length ∧ (opens → a.findDiv a.divctr = none)))

/-- `join` (R136 to R138): where one of R136's conditions fails it only goes on. Where it acts, the lanes are counted as arrived; the last
arrival fuses the divergence in the joiner's slot, READY after the join with every lane that arrived, the FMT, RCV and DEPTH from before the
split and the DIVID of OUTER, and frees the DIV entry; an earlier one waits in JOINWAIT, or hands its slot to a sibling that is not in
JOINWAIT. OUTER of R137 answers the DIVID of an outstanding DIV entry, not the one being fused, that contains every bit of the mask at no
greater depth, with the fewest bits of all of these; it answers 0 where there is none. Rests also on the model's own reading, log entry 18.
-/
def Obligations.JoinArrives : Prop :=
  (∀ s : State, s.noneHeld = true → ∀ f : FmtCR,
  let x := s.cslot
  (¬ (∃ k e, x.divid ≠ 0 ∧ x.rcv = s.cur.hdr ∧ s.carch.findDiv x.divid = some (k, e) ∧ x.depth = e.depth) →
    s.yields (.join f) fun t => s.WroteSlot t s.cslot) ∧
  (∀ k e, x.divid ≠ 0 → x.rcv = s.cur.hdr → s.carch.findDiv x.divid = some (k, e) → x.depth = e.depth →
    s.yields (.join f) fun t => s.KeptThread t ∧
      t.carch = { s.carch with a := t.carch.a, b := t.carch.b, cstk := t.carch.cstk } ∧
      (1 < e.pending →
        t.carch.entry k = .div { e with arrived := e.arrived ||| s.mask, pending := e.pending - 1 } ∧
        (if ∃ z ∈ s.carch.frags, z.2.1.divid = x.divid ∧ z.2.1.st ≠ .joinwait then
          t.cslot.divid = x.divid ∧ t.cslot.st ≠ .joinwait ∧
            ∃ y, y.st = .joinwait ∧ y.mask = s.mask ∧ y.divid = x.divid ∧
              ((∃ j, t.carch.entry j = .frag y false) ∨ ∃ z : Slot, t.carch.slot (!s.cur.slotB) =
                { y with st := z.st, lastIssue := z.lastIssue, issuedHere := z.issuedHere, entered := z.entered })
        else t.cslot.st = .joinwait ∧ t.cslot.mask = s.mask ∧ t.cslot.divid = x.divid)) ∧
      (e.pending ≤ 1 → e.arrived ||| s.mask ≠ 0 →
        t.carch.entry k = .free ∧ t.cslot.st = .ready ∧ t.cslot.pc = s.nextClause ∧ t.cslot.word = 0 ∧
        t.cslot.mask = (e.arrived ||| s.mask) ∧ t.cslot.fmt = e.fmt ∧ t.cslot.rcv = e.pc ∧ t.cslot.depth = e.depth ∧
        t.cslot.rpcn = Config.noneAddr ∧ t.cslot.divid = s.carch.outer e.mask e.depth x.divid ∧ t.cslot.link = e.link))) ∧
  (∀ (a : Arch) (m : Word) (d ex : Nat),
  let ok (e : Nat × DivRec) : Prop := e ∈ a.divs ∧ e.2.divid ≠ ex ∧ m &&& ~~~e.2.mask = 0 ∧ e.2.depth ≤ d
  let size (w : Word) : Nat := ((List.range 32).filter w.getLsbD).length
  ((∀ e, ¬ ok e) → a.outer m d ex = 0) ∧
  ((∃ e, ok e) → ∃ e, ok e ∧ e.2.divid = a.outer m d ex ∧ ∀ g, ok g → size e.2.mask ≤ size g.2.mask))

/-- `exit` (R140, R48): the fragment arrives at its divergence with no lanes and its slot becomes EMPTY. With no other fragment the thread
exits, its window empties, and the last thread of a crew whose messages are all delivered leaves the crew RETIRING (R53). -/
def Obligations.ExitEndsFragment : Prop := ∀ s : State, ∀ f : FmtCR, s.carch.frags = [] →
  (∀ k e, s.cslot.divid ≠ 0 → s.carch.findDiv s.cslot.divid = some (k, e) → 1 < e.pending →
    (s.carch.slot (!s.cur.slotB)).st ≠ .empty → s.yields (.exit f) fun t => s.KeptThread t ∧ t.cslot.st = .empty ∧
      t.carch.entry k = .div { e with pending := e.pending - 1 } ∧
      t.carch.slot (!s.cur.slotB) = s.carch.slot (!s.cur.slotB) ∧
      t.carch = { s.carch with a := t.carch.a, b := t.carch.b, cstk := t.carch.cstk }) ∧
  (s.cslot.divid = 0 → (s.carch.slot (!s.cur.slotB)).st ≠ .empty → s.yields (.exit f) fun t => s.KeptThread t ∧
    t.cthr.st = .running ∧ t.cslot.st = .empty ∧ t.cslot.mask = 0 ∧
    t.carch.slot (!s.cur.slotB) = s.carch.slot (!s.cur.slotB) ∧
    t.carch = { s.carch with a := t.carch.a, b := t.carch.b, cstk := t.carch.cstk }) ∧
  (s.cslot.divid = 0 → (s.carch.slot (!s.cur.slotB)).st = .empty → s.yields (.exit f) fun t => t.cthr.st = .exited ∧ t.cthr.window = [] ∧
    (∀ k, k ≠ s.cur.tid → (t.thread s.cur.uid k).arch.s = (s.thread s.cur.uid k).arch.s) ∧ t.mem = s.mem ∧
    t.ccrew.scratch = s.ccrew.scratch ∧
    (s.ccrew.st = .running → (s.ccrew.threads.all fun e => e.1 == s.cur.tid || e.2.st != .running) = true →
      s.spawnAssigned s.cur.uid = false → t.ccrew.st = .retiring))

/-- `call` and `callr` take a CALL entry with the caller's DEPTH, RCV, RPCN and frame link and the clause that follows, and go to the target
one deeper with RPCN NONE (R141). With no entry free, or at DEPTH 255, they fault with STACK_LIMIT and no effect; `callr` and `jmp` fault on
a target that is not a multiple of 4 or lies outside the code object (R145). `ret` (R144): at DEPTH 0, or without a frame, it faults with
STACK_LIMIT; else the fragment takes DEPTH, RCV, RPCN and the frame link from the CALL entry it links to and goes to its return address. A
fragment of a divergence made at this depth detaches: its DIVID becomes the enclosing one of OUTER(MASK, DEPTH − 1). Rests also on the
model's own reading, log entries 19 and 29. -/
def Obligations.CallsAndReturns : Prop :=
  (∀ s : State,
  let x := s.cslot
  let free := s.carch.freeEntry (s.stackCap s.ccrew s.cur.tid)
  let room := x.depth ≠ 255 ∧ free ≠ none
  let framed (t : State) (pc : Word) : Prop := s.Own t ∧
    (∃ k, free = some k ∧ t.carch.cstk = Store.set .free s.carch.cstk k (.call ⟨x.depth, s.nextClause, x.rcv, x.rpcn, x.link⟩) ∧
      t.cslot = { x with pc := pc, word := 0, started := false, st := .ready, wait := none, waitSince := 0, holds := false
                         skipBp := false, skipWp := 0, dbgStep := false, depth := x.depth + 1, rpcn := Config.noneAddr
                         link := some k }) ∧
    t.carch.slot (!s.cur.slotB) = s.carch.slot (!s.cur.slotB) ∧
    t.carch = { s.carch with a := t.carch.a, b := t.carch.b, cstk := t.carch.cstk }
  let stack : FaultInfo := { exc := .stackLimit, eng := 3 }
  let bad (e : Exc) (v : DWord) : FaultInfo := { exc := e, eng := 3, code := true, hindex := BitVec.ofNat 20 s.chdr.codeh, offset := v }
  (∀ f, room → s.yields (.call f) fun t => framed t (s.label f.off.toInt)) ∧
  (∀ f, ¬ room → s.traps (.call f) stack) ∧
  (∀ f, room → (s.rdS f.sa).toNat % 4 = 0 → (s.rdS f.sa).toNat < s.codeEntry.size →
    s.yields (.callr f) fun t => framed t ((s.rdS f.sa).setWidth 32)) ∧
  (∀ f, ¬ room → s.traps (.callr f) stack) ∧
  (∀ f, room → (s.rdS f.sa).toNat % 4 ≠ 0 → s.traps (.callr f) (bad .misaligned (s.rdS f.sa))) ∧
  (∀ f, room → (s.rdS f.sa).toNat % 4 = 0 → s.codeEntry.size ≤ (s.rdS f.sa).toNat →
    s.traps (.callr f) (bad .handleBounds (s.rdS f.sa))) ∧
  (∀ f, (s.rdS f.sa).toNat % 4 ≠ 0 → s.traps (.jmp f) (bad .misaligned (s.rdS f.sa))) ∧
  (∀ f, (s.rdS f.sa).toNat % 4 = 0 → s.codeEntry.size ≤ (s.rdS f.sa).toNat →
    s.traps (.jmp f) (bad .handleBounds (s.rdS f.sa)))) ∧
  (∀ s : State, s.noneHeld = true → ∀ f : FmtCR,
  let x := s.cslot
  (x.depth = 0 → s.traps (.ret f) { exc := .stackLimit, eng := 3 }) ∧
  (x.link = none → s.traps (.ret f) { exc := .stackLimit, eng := 3 }) ∧
  (∀ k c, x.depth ≠ 0 → x.link = some k → s.carch.calls.find? (fun e => e.1 == k) = some (k, c) →
    s.yields (.ret f) fun t => s.KeptThread t ∧ t.cslot.pc = c.pc ∧ t.cslot.word = 0 ∧ t.cslot.st = .ready ∧
      t.cslot.depth = c.depth ∧ t.cslot.rcv = c.rcv ∧ t.cslot.rpcn = c.rpcn ∧ t.cslot.link = c.link ∧ t.cslot.mask = x.mask ∧
      t.cslot.fmt = x.fmt ∧ t.cslot.inTrap = false ∧
      t.carch = { s.carch with a := t.carch.a, b := t.carch.b, cstk := t.carch.cstk } ∧
      (t.cslot.divid = match (if x.divid = 0 then none else s.carch.findDiv x.divid) with
        | some (_, e) => if e.depth = x.depth then s.carch.outer x.mask (x.depth - 1) 0 else x.divid
        | none => x.divid)))

/-- `twait` goes on where every token of its mask is clear and waits otherwise (R146); its thread has then seen all writes performed so far
(R101). `dqpop` takes the oldest entry the group has not popped, waits for one while the lead runs, and gives all-ones when it has exited
(R38, R39); `dqpush` adds an entry, waits while the queue is full, and has no effect when no group is left. Both act from the oldest end of
the window (R121). Rests also on the model's own reading, log entry 32. -/
def Obligations.WaitAndQueueWords : Prop := ∀ s : State,
  (∀ f, s.cthr.tokensClear (f.f.setWidth 8) = true → s.yields (.twait f) fun t => s.WroteSlot (s.unseen t) s.cslot ∧
    t.cthr.floor = s.writes ∧ t.cthr.seen = []) ∧
  (∀ f, s.cthr.tokensClear (f.f.setWidth 8) = false → s.waits (.twait f) (.twaitWord (f.f.setWidth 8))) ∧
  (∀ f v, s.ccrew.dq[s.cthr.dqPos - s.ccrew.dqBase]? = some v → s.yields (.dqpop f) fun t =>
    t.rdS f.sd = v ∧ (∀ n, n ≠ f.sd → t.rdS n = s.rdS n) ∧ s.FellThrough t s.cslot ∧ t.cthr.dqPos = s.cthr.dqPos + 1 ∧ s.KeptPackage t ∧
    t.ccrew = { s.ccrew with threads := t.ccrew.threads, dq := t.ccrew.dq, dqBase := t.ccrew.dqBase, regPoison := t.ccrew.regPoison } ∧
    t.cthr.floor = s.writes ∧ t.cthr.seen = [] ∧
    t.carch = { s.carch with s := t.carch.s, bank := t.carch.bank, a := t.carch.a, b := t.carch.b }) ∧
  (∀ f, s.ccrew.dq[s.cthr.dqPos - s.ccrew.dqBase]? = none → s.ccrew.leadRunning = true → s.waits (.dqpop f) .dqpop) ∧
  (∀ f, s.ccrew.dq[s.cthr.dqPos - s.ccrew.dqBase]? = none → s.ccrew.leadRunning = false →
    s.yields (.dqpop f) fun t => s.WroteS t f.sd 0xFFFFFFFFFFFFFFFF) ∧
  (∀ f, s.ccrew.liveGroups ≠ [] → s.ccrew.dq.length < 64 → s.cthr.sq = [] → s.yields (.dqpush f) fun t =>
    s.FellThrough t s.cslot ∧ s.KeptPackage t ∧ t.carch = { s.carch with a := t.carch.a, b := t.carch.b } ∧
    t.ccrew = { s.ccrew with threads := t.ccrew.threads, dq := s.ccrew.dq ++ [s.rdS f.sa] }) ∧
  (∀ f, s.ccrew.liveGroups ≠ [] → 64 ≤ s.ccrew.dq.length → s.waits (.dqpush f) .dqpush) ∧
  (∀ f, s.ccrew.liveGroups = [] → s.cthr.sq = [] → s.yields (.dqpush f) fun t => s.WroteSlot t s.cslot)

/-! ### Memory words (R82 to R107, R207 to R227) -/

/-- R86 and R88: a vector access that some lane of A fails raises the fault of the earliest step that any lane failed, and names exactly the
lanes that failed that step; one that every lane passes raises none. The steps are R86's: a loaded entry; the range; the permission; the
alignment; the arena, by the masks of the cache that serves the access (R87, R296). A vector access through h1: a lane whose word index is
not below PRIVW fails step 2 with PRIVATE_LIMIT (R211), and word i of lane l lies at private byte (32 i + l) · 4 of the object (R210), which
is memory but in the control stacks of a crew's block (R125). An access that R86 to R88 turn away traps with that fault and none of its
effect; one whose page is not mapped waits for the page (R90). Rests also on the model's own reading, log entry 30. -/
def Obligations.AccessChecks : Prop :=
  (∀ (s : State) (p : PartRef) (hn : Nat) (h : HReg) (w : Want) (cache eng : Nat) (A : Word)
    (off : Nat → DWord),
  let fails (k l : Nat) : Prop := match k with
    | 1 => ¬ (h.ent.valid = true ∧ h.ent.space ≠ 7 ∧ h.ent.policy ≠ 3)
    | 2 => h.ent.size < (off l).toNat + w.n
    | 3 => (w.rd = true ∧ h.ent.r = false) ∨ (w.wr = true ∧ h.ent.w = false)
    | 4 => (off l).toNat % w.align ≠ 0
    | _ => h.ent.space ≠ 0 ∧ h.ent.space ≠ 5 ∧ let a := s.arena (h.ent.arenaRef p)
      (h.stale = true ∨ a.goneAt cache = true ∨ a.gen ≠ h.ent.gen ∨ (w.wr = true ∧ a.sealedAt cache = true))
  let inA (l : Nat) : Prop := l < 32 ∧ A.getLsbD l = true
  (∀ k, 1 ≤ k → k ≤ 5 → (∃ l, inA l ∧ fails k l) → (∀ j, 1 ≤ j → j < k → ∀ l, inA l → ¬ fails j l) →
    ∃ f m, s.checkLanes p hn h w none cache eng A off = .bad f ∧ f.lanes = some m ∧
      (∀ l, l < 32 → (m.getLsbD l = true ↔ inA l ∧ fails k l)) ∧
      (k ≤ 4 → f.exc = match k with
        | 1 => .handleInvalid
        | 2 => .handleBounds
        | 3 => .handlePermission
        | _ => .misaligned) ∧
      (k = 5 → f.exc = .arenaStale ∨ f.exc = .sealedWrite)) ∧
  ((∀ k, 1 ≤ k → k ≤ 5 → ∀ l, inA l → ¬ fails k l) → ∀ f, s.checkLanes p hn h w none cache eng A off ≠ .bad f)) ∧
  (∀ (s : State) (p : PartRef) (h : HReg) (w : Want) (privw cache l uid : Nat) (off : DWord),
  (s.checkStep p h w (some privw) cache off 2 = if privw ≤ off.toNat / 4 then some .privLimit else none) ∧
  (h.ent.space = 1 → s.locOf uid h (some l) off.toNat =
    s.placeOf (memKey (s.crew uid).ldev (h.ent.base + (32 * (off.toNat / 4) + l) * 4 + off.toNat % 4))) ∧
  (∀ key, (∀ e ∈ s.crews, e.2.block ≠ none → let h := s.hdrOf e.2
      let lo := (s.blockOf e.2).1 + h.groups * h.privw * 128
      key < lo ∨ lo + (h.groups + h.hslots) * h.cstk ≤ key) → s.placeOf key = .mem key)) ∧
  (∀ s : State,
  let stops (a : Access) (i : Instr) : Prop := (∀ f, s.checkAccess a = .bad f → s.traps i f) ∧
    ∀ d p f, s.checkAccess a = .page d p f → s.waits i (.page d p f)
  (∀ f, s.lanes f.gp 0 ≠ 0 → stops (s.mvAccess f .load (s.lanes f.gp 0)) (.vld f) ∧
    stops (s.mvAccess f .load (s.lanes f.gp 0)) (.vlds f) ∧ stops (s.mvAccess f .store (s.lanes f.gp 0)) (.vst f)) ∧
  (∀ f, stops (s.msAccess f .load) (.sld f) ∧ stops (s.msAccess f .load) (.slds f) ∧ stops (s.msAccess f .store) (.sst f)) ∧
  (∀ f, s.midAtomic = false → let a := s.maAccess f
    stops a (.vatomI32 f) ∧ stops a (.vatomU32 f) ∧ stops a (.vatomF32 f) ∧ stops a (.vatomF16x2 f) ∧ stops a (.vatomB16x2 f) ∧
    stops a (.vatomnI32 f) ∧ stops a (.vatomnU32 f) ∧ stops a (.vatomnF32 f) ∧ stops a (.vatomnF16x2 f) ∧ stops a (.vatomnB16x2 f)) ∧
  (∀ f : FmtSA, s.midAtomic = false → stops ⟨f.h.toNat, .atomic, 8, 8, none, fun _ => s.rdS f.sa⟩ (.satom f)))

/-- `vld` and `vlds` write the lanes of A, together, with what each lane reads at its offset, extended with zeros or with the sign (R208);
with A empty they check and change nothing. A lane reads the present bytes, or earlier ones where its order leaves that open (R94, R98,
R209). Memory is left alone. `sld` and `slds` write sd with the bytes at offset sa + imm · 2^sz, extended to 64 bits (R213). Rests also on
the model's own reading, log entries 13 and 70. -/
def Obligations.Loads : Prop :=
  (∀ s : State, ∀ f : FmtMV,
  let A := s.lanes f.gp 0
  let a := s.mvAccess f .load A
  let acq := f.ord == 1 && f.scope != 0
  let loaded (ext : (w : Nat) → BitVec w → Word) (t : State) : Prop := s.ReadOnly t acq ∧ ∃ r, s.WroteV (s.unread t) f.v A r ∧
    ∀ l, l < 32 → A.getLsbD l = true → ∃ v, s.sees acq (s.memH a.hn) (s.accLoc a l) a.n v ∧ r l = ext (8 * a.n) (BitVec.ofNat _ v)
  (A ≠ 0 → s.grants a = true → s.yields (.vld f) (loaded fun _ v => v.setWidth 32) ∧
    s.yields (.vlds f) (loaded fun _ v => v.signExtend 32)) ∧
  (A = 0 → s.yields (.vld f) (s.WroteSlot · s.cslot) ∧ s.yields (.vlds f) (s.WroteSlot · s.cslot))) ∧
  (∀ s : State, ∀ f : FmtMS,
  let a := s.msAccess f .load
  let loaded (ext : (w : Nat) → BitVec w → DWord) (t : State) : Prop := s.ReadOnly t false ∧
    ∃ v, s.sees false (s.memH a.hn) (s.accLoc a 0) a.n v ∧ s.WroteS (s.unread t) f.sd (ext (8 * a.n) (BitVec.ofNat _ v))
  (a.off 0 = s.rdS f.sa + BitVec.ofNat 64 (f.imm.toNat * 2 ^ f.sz.toNat) ∧ a.n = 2 ^ f.sz.toNat) ∧
  (s.grants a = true → s.yields (.sld f) (loaded fun _ v => v.setWidth 64) ∧
    s.yields (.slds f) (loaded fun _ v => v.signExtend 64)))

/-- `vst`, `sst` and `vatomn` enter one write at the end of the thread's store queue, with the lanes of A ascending, the low bytes of each
source, the die of a remote place, and `rel` for a release store, every atomic, and any store behind a pending fence (R208, R209, R213,
R215, R220, R95). No byte of memory changes yet, nor any register. `vst` with A empty changes nothing. Rests also on the model's own
reading, log entry 11. -/
def Obligations.StoresQueue : Prop := ∀ s : State,
  let queued (a : Access) (k : WriteKind) (rel : Bool) (v : Nat → Nat) (t : State) : Prop :=
    s.WroteSlot (s.unqueued t) s.cslot ∧ s.ReadOnly t false ∧ ∃ w, t.cthr.sq = s.cthr.sq ++ [w] ∧ w.Holds s a k rel v
  let fenced := s.fencePending.isSome
  let atomn (ty : Nat) (f : FmtMA) (i : Instr) : Prop := s.issues (s.maAccess f) = true → s.fencePending = none →
    s.yields i (queued (s.maAccess f) (.atomic ty f.k.toNat) true fun l => (s.rdV f.vb l).toNat)
  (∀ f : FmtMV, let A := s.lanes f.gp 0
    let a := s.mvAccess f .store A
    (A ≠ 0 → s.issues a = true → s.yields (.vst f) (queued a .store (f.ord == 2 || fenced) fun l => (s.rdV f.v l).toNat)) ∧
    (A = 0 → s.yields (.vst f) (s.WroteSlot · s.cslot))) ∧
  (∀ f : FmtMS, let a := s.msAccess f .store
    s.issues a = true → s.yields (.sst f) (queued a .store fenced fun _ => (s.rdS f.sd).toNat)) ∧
  (∀ f, atomn atI32 f (.vatomnI32 f) ∧ atomn atU32 f (.vatomnU32 f) ∧ atomn atF32 f (.vatomnF32 f) ∧
    atomn atF16 f (.vatomnF16x2 f) ∧ atomn atB16 f (.vatomnB16x2 f))

/-- Atomics with return, when the thread has no write queued: the lanes of MASK act in ascending order, each on what the one before left
(R215, R216), all at one issue or some, the others when the pair issues again (R98); then vd (sd) receives what each lane found. Memory and
scratch hold what the last one left. `satom` acts once, on eight bytes (R217). When the word completes every invalidation queued at the
issuer's L1 has been applied. OP of R215 on 32-bit and 64-bit words: what an atomic of kind K leaves for the old value x, operand y and
compare value z; none writes nothing. Float kinds act on each element: add rounds to nearest without flushing, min and max are those of
R202. Rests also on the model's own reading, log entries 13, 32 and 70. -/
def Obligations.Atomics : Prop :=
  (∀ s : State, s.cthr.sq = [] →
  let atom (ty : Nat) (f : FmtMA) (i : Instr) : Prop :=
    let a := s.maAccess f
    let r := atomChain (s.accLoc a) 4 ty f.k.toNat (fun l => (s.rdV f.vb l).toNat) (fun l => (s.rdV f.vd l).toNat) (s.atomsNow a) s.peek
    s.atomGoes a = true → s.noRegs a = true → s.yields i fun t => s.Atomed t a r fun u v =>
      s.WroteV u f.vd s.mask fun l => BitVec.ofNat 32 (v l)
  (∀ f, atom atI32 f (.vatomI32 f) ∧ atom atU32 f (.vatomU32 f) ∧ atom atF32 f (.vatomF32 f) ∧ atom atF16 f (.vatomF16x2 f) ∧
    atom atB16 f (.vatomB16x2 f)) ∧
  (∀ f : FmtSA,
    let a : Access := { hn := f.h.toNat, kind := .atomic, n := 8, align := 8, lanes := none, off := fun _ => s.rdS f.sa }
    let r := atomChain (s.accLoc a) 8 atI64 f.k.toNat (fun _ => (s.rdS f.sb).toNat) (fun _ => (s.rdS f.sd).toNat)
      (s.atomsNow a) s.peek
    s.atomGoes a = true → s.noRegs a = true → s.yields (.satom f) fun t => s.Atomed t a r fun u v =>
      s.WroteS u f.sd (BitVec.ofNat 64 (v 0)))) ∧
  ((∀ (g : Bool) (x y z : Word), let op := fun k => (atomOp (if g then atI32 else atU32) k x.toNat y.toNat z.toNat).map (BitVec.ofNat 32)
    op 0 = some (x + y) ∧ op 1 = some (if elVal g x ≤ elVal g y then x else y) ∧ op 2 = some (if elVal g y ≤ elVal g x then x else y) ∧
    op 3 = some (x &&& y) ∧ op 4 = some (x ||| y) ∧ op 5 = some (x ^^^ y) ∧ op 6 = some y ∧ op 7 = if x = z then some y else none) ∧
  (∀ x y z : DWord, let op := fun k => (atomOp atI64 k x.toNat y.toNat z.toNat).map (BitVec.ofNat 64)
    op 0 = some (x + y) ∧ op 1 = some (if x.toInt ≤ y.toInt then x else y) ∧ op 2 = some (if y.toInt ≤ x.toInt then x else y) ∧
    op 3 = some (x &&& y) ∧ op 4 = some (x ||| y) ∧ op 5 = some (x ^^^ y) ∧ op 6 = some y ∧ op 7 = if x = z then some y else none) ∧
  (∀ (ty : Nat) (F : FFmt) (x y z : Word), (ty, F) ∈ [(atF32, fmtF32), (atF16, fmtF16), (atB16, fmtB16)] →
    let w := if ty = atF32 then 32 else 16
    let c (v : Word) (i : Nat) : Nat := (el w v i).toNat
    let op := fun k => (atomOp ty k x.toNat y.toNat z.toNat).map (BitVec.ofNat 32)
    (∃ r, op 0 = some r ∧ ∀ i, i < 32 / w → c r i = F.add ⟨0, false, false⟩ (c x i) (c y i)) ∧
    (∃ r, op 1 = some r ∧ ∀ i, i < 32 / w → c r i = F.minmax false true (c x i) (c y i)) ∧
    (∃ r, op 2 = some r ∧ ∀ i, i < 32 / w → c r i = F.minmax false false (c x i) (c y i)) ∧
    op 6 = some y ∧ op 7 = if x = z then some y else none))

/-- `hsel` copies the partition's table entry at sa + imm into its handle register, or faults with HANDLE_INVALID and no effect where the
entry is absent, invalid, or its arena is gone (R218). `hinfo` writes dword d of the copy that a handle register holds (R219). Rests also on
the model's own reading, log entry 76. -/
def Obligations.HandleWords : Prop := ∀ s : State,
  (∀ f : FmtMS, let i := (s.rdS f.sa + BitVec.ofNat 64 f.imm.toNat).toNat
    let e := s.handle s.ccrew.pref i
    let r := s.arena (e.arenaRef s.ccrew.pref)
    let good := i < 2 ^ 20 ∧ e.valid = true ∧ e.space ≠ 7 ∧ e.policy ≠ 3 ∧ r.st ≠ .free ∧ r.st ≠ .dropping ∧ r.gen = e.gen
    (good → s.yields (.hsel f) fun t => s.WroteSlot ((t.modCArch fun a => { a with h := s.carch.h }).modCrew s.cur.uid fun c =>
        { c with regPoison := s.ccrew.regPoison }) s.cslot ∧
      (∀ k, Store.get false t.ccrew.regPoison k = (Store.get false s.ccrew.regPoison k && k != regKey s.cur.tid (128 + f.h.toNat))) ∧
      ∀ n, t.rdH n = if n = f.h.toNat then ⟨BitVec.ofNat 20 i, e, false⟩ else s.rdH n) ∧
    (¬ good → s.traps (.hsel f) { exc := .handleInvalid, eng := 2, hreg := some f.h.toNat
                                  hindex := if i < 2 ^ 20 then BitVec.ofNat 20 i else 0xFFFFF })) ∧
  (∀ f : FmtMS, s.yields (.hinfo f) fun t => s.WroteS t f.sd
    (let e := (s.rdH f.h.toNat).ent
     match f.imm.toNat with
      | 0 => e.d0
      | 1 => e.d1
      | 2 => e.d2
      | _ => e.d3))

/-- A fence at die scope or wider applies every invalidation queued at the issuer's L1 (R221). One before which no local write of the thread
is queued of a kind that it orders (for `.ll` and `.acq` an atomic, which is a load too) completes at once; another is pending from then on,
and its thread goes on (R104). A second one waits for it. `flsig` gives 0 for the issuer's own die and else the next number of the thread's
flush counter for the die; `flwait` goes on once the flushes up to sd are complete, and waits until then (R222). Both fault where step 1 or
2 of R86 fails on their byte. Rests also on the model's own reading, log entries 12 and 77. -/
def Obligations.FencesAndFlushes : Prop :=
  (∀ s : State, ∀ f : FmtMF,
  let went (fence : Option (Nat × Nat)) (t : State) : Prop :=
    s.ReadOnly t (f.scope != 0) ∧ t.cthr.fence = fence ∧
    s.WroteSlot ((s.unread t).modThread s.cur.uid s.cur.tid fun x => { x with fence := s.cthr.fence }) s.cslot
  let loads := f.kind = 1 ∨ f.kind = 3
  let before := ∃ w ∈ s.cthr.sq, w.gone = false ∧ w.posted = none ∧ w.at_ < s.cthr.issued ∧ (loads → w.kind ≠ .store)
  (s.fencePending = none → ¬ before → s.yields (.fence f) (went none)) ∧
  (s.fencePending = none → before →
    s.yields (.fence f) (went (some (8 * f.scope.toNat + f.kind.toNat, s.cthr.issued)))) ∧
  (s.fencePending ≠ none → s.waits (.fence f) .fence)) ∧
  (∀ s : State, ∀ f : FmtMS,
  let e := (s.rdH f.h.toNat).ent
  let off := s.rdS f.sa + BitVec.ofNat 64 f.imm.toNat
  let die := if e.space = 4 then e.pdev else s.ccrew.die
  let good1 := e.valid = true ∧ e.space ≠ 7 ∧ e.policy ≠ 3
  let good2 := off.toNat + 1 ≤ e.size
  let bad (x : Exc) : FaultInfo := { exc := x, eng := 2, hreg := some f.h.toNat, hindex := (s.rdH f.h.toNat).idx, offset := off }
  let issued := Store.get 0 s.cthr.flIssued die
  let n := min (s.rdS f.sd).toNat issued
  (good1 → good2 → die = s.ccrew.die → s.yields (.flsig f) (s.WroteS · f.sd 0) ∧ s.yields (.flwait f) fun t => s.WroteSlot (s.unseen t) s.cslot) ∧
  (good1 → good2 → die ≠ s.ccrew.die → s.yields (.flsig f) fun t =>
    s.WroteS (t.modThread s.cur.uid s.cur.tid fun x => { x with flIssued := s.cthr.flIssued, flushes := s.cthr.flushes }) f.sd
      (BitVec.ofNat 64 (issued + 1)) ∧
    (∀ d, Store.get 0 t.cthr.flIssued d = if d = die then issued + 1 else Store.get 0 s.cthr.flIssued d) ∧
    t.cthr.flushes = s.cthr.flushes ++ [(die, issued + 1, s.cthr.issued)]) ∧
  (good1 → good2 → die ≠ s.ccrew.die → n ≤ Store.get 0 s.cthr.flDone die → s.yields (.flwait f) fun t => s.WroteSlot (s.unseen t) s.cslot) ∧
  (good1 → good2 → die ≠ s.ccrew.die → Store.get 0 s.cthr.flDone die < n → s.waits (.flwait f) (.flwait die n)) ∧
  (¬ good1 → s.traps (.flsig f) (bad .handleInvalid) ∧ s.traps (.flwait f) (bad .handleInvalid)) ∧
  (good1 → ¬ good2 → s.traps (.flsig f) (bad .handleBounds) ∧ s.traps (.flwait f) (bad .handleBounds)))

/-- The barrier words on the object at sa + imm (R223 to R226), on their first issue and with no local store queued: `barinit` arms the
object, or disarms it and releases its waiters; `barexp` raises PENDING; `barrive` arrives; `bartest` reads; `bwait` returns the status of
R226 or waits; `bsync` arrives with 1 and then waits for the flip of the phase it found. A word that already waits goes on waiting for its
phase, or returns the status that released it. Barrier words fault on an object that is not 16-aligned or does not lie inside scratch
(R225). ARRIVE_BAR of R224: the object and the answer for an arrival of n at any object in scratch. Rests also on the model's own reading,
log entries 14 and 78. -/
def Obligations.BarrierWords : Prop :=
  (∀ s : State, ∀ f : FmtMB, s.barOk f = true →
  let o := s.barAt f
  let b := s.rdBar s.cur.uid o
  let v := (s.rdS f.sr).toNat % 2 ^ 32
  let st (n : Nat) : BitVec 6 → DWord := s.withS f.sr (BitVec.ofNat 64 n)
  let did (i : Instr) (b : Bar) (status : Option Nat) (r : BitVec 6 → DWord) : Prop :=
    s.yields i fun t => s.BarDid t o b status r ∧ s.FellThrough t s.cslot
  let flag (x : Bool) (n : Nat) : Nat := if x then n else 0
  (v = 0 → did (.barinit f) { b with armed := false } (some 3) s.rdS) ∧
  (v ≠ 0 → did (.barinit f) { b with expect := v, pending := v, last := false, armed := true, overrun := false, arrivals := 0 } none
    s.rdS) ∧
  (b.armed = false → did (.barexp f) b none (st 3)) ∧
  (b.armed = true → 2 ^ 32 ≤ b.pending + v → did (.barexp f) { b with overrun := true } none (st 1)) ∧
  (b.armed = true → b.pending + v < 2 ^ 32 → did (.barexp f) { b with pending := b.pending + v } none (st 0)) ∧
  did (.barrive f) (b.arrive v).1 (b.frees v) (st (if b.armed = false then 3 else if (b.arrive v).2 then 0 else 1)) ∧
  did (.bartest f) b none
    (st (flag b.phase 1 + flag b.overrun 2 + flag b.armed 4 + flag s.ccrew.abandon 8 + 2 ^ 32 * b.pending)) ∧
  (s.cslot.wait = none → ∀ n, s.barEnds b ((s.rdS f.sr).getLsbD 0) = some n → did (.bwait f) b none (st n)) ∧
  (s.cslot.wait = none → s.barEnds b ((s.rdS f.sr).getLsbD 0) = none →
    s.executes (.bwait f) = true → s.gives (.bwait f) fun t => s.BarDid t o b none s.rdS ∧
      t.cslot.st = .blocked ∧ t.cslot.wait = some (.barrier o ((s.rdS f.sr).getLsbD 0))) ∧
  (s.cslot.wait = none → ∀ n, s.barEnds (b.arrive 1).1 b.phase = some n → did (.bsync f) (b.arrive 1).1 (b.frees 1) (st n)) ∧
  (s.cslot.wait = none → s.barEnds (b.arrive 1).1 b.phase = none →
    s.executes (.bsync f) = true → s.gives (.bsync f) fun t => s.BarDid t o (b.arrive 1).1 none s.rdS ∧
      t.cslot.st = .blocked ∧ t.cslot.wait = some (.barrier o b.phase)) ∧
  (∀ o ph n, s.cslot.wait = some (.barrier o ph) → s.barEnds (s.rdBar s.cur.uid o) ph = some n →
    let v := BitVec.ofNat 64 n
    s.yields (.bwait f) (fun t => s.WroteS (s.unseen t) f.sr v) ∧ s.yields (.bsync f) fun t => s.WroteS (s.unseen t) f.sr v) ∧
  (∀ o ph, s.cslot.wait = some (.barrier o ph) → s.barEnds (s.rdBar s.cur.uid o) ph = none →
    s.waits (.bwait f) (.barrier o ph) ∧ s.waits (.bsync f) (.barrier o ph)) ∧
  (∀ n w, s.cslot.wait = some (.released n w) →
    s.yields (.bwait f) (fun t => s.WroteS (s.unseen t) f.sr n) ∧ s.yields (.bsync f) fun t => s.WroteS (s.unseen t) f.sr n)) ∧
  (∀ s : State, ∀ f : FmtMB, s.cslot.wait = none →
  let o := s.barAt f
  let bad (x : Exc) : FaultInfo := { exc := x, eng := 2, hreg := some 0, offset := BitVec.ofNat 64 o }
  let stops (i : Instr) : Prop := (o % 16 ≠ 0 → s.traps i (bad .misaligned)) ∧
    (o % 16 = 0 → (s.rdH 0).ent.size < o + 16 → s.traps i (bad .handleBounds))
  stops (.barinit f) ∧ stops (.barexp f) ∧ stops (.barrive f) ∧ stops (.bwait f) ∧ stops (.bartest f) ∧ stops (.bsync f)) ∧
  (∀ (s : State) (uid off n : Nat),
  let b := s.rdBar uid off
  let a := b.arrive n
  (s.arriveBar uid off n).1 = a.2 ∧ (s.arriveBar uid off n).2.rdBar uid off = a.1 ∧
  (b.armed = false → a = ({ b with overrun := true }, false)) ∧
  (b.armed = true → n < b.pending → a.2 = true ∧ a.1.pending = b.pending - n ∧ a.1.last = false ∧ a.1.phase = b.phase ∧
    a.1.overrun = b.overrun) ∧
  (b.armed = true → b.pending ≤ n → a.2 = decide (n = b.pending) ∧ a.1.pending = b.expect ∧ a.1.last = true ∧
    a.1.phase = !b.phase ∧ a.1.overrun = (b.overrun || decide (b.pending < n))) ∧
  (b.armed = true → a.1.arrivals = if b.last then 1 else (b.arrivals + 1) % 2 ^ 32))

/-! ### Matrix and copy words (R229 to R287) -/

/-- The synchronous matrix words. `mshape` loads a shape slot from two registers or from 16 bytes of scratch (R267). `mzero` clears a tile,
with MAX at −∞ and SUM 0 (R268); `mside` reads and may write one row's MAX or SUM (R280); `mstat` reads the counts and may clear SAT (R281);
these three wait for every operation accepted before them (R259). `mma` adds to each C[i][j] of R269 its sixteen products, in the lanes of
MASK, and takes only 16-bit float formats (R270). `mprog` reads a progress register, and writes one where bit 63 asks (R282, R283). While
the matrix context is frozen, a progress register that software may write reads back what was written: SAT, the re-execution count, MAX, SUM
and tile words of the tiles the crew has, and shape dwords (R283). Without FREEZE no write but FREEZE's acts. Rests also on the model's own
reading, log entries 21 and 22. -/
def Obligations.MatrixWords : Prop :=
  (∀ s : State,
  let c := s.ccrew
  let idle := s.cslot.wait = none ∧ c.mtx.last ≤ c.mtx.timeline
  let busy := s.cslot.wait = none ∧ c.mtx.timeline < c.mtx.last
  let blk (f : FmtEB) (k : Nat) : DWord := s.rdS (f.sa + BitVec.ofNat 6 k)
  (∀ f : FmtEB, let slot (a b : DWord) (t : State) : Prop := s.WroteSlot (s.unseen (s.untiled t)) s.cslot ∧
      t.ccrew.SameTiles { c with shapes := t.ccrew.shapes } ∧
      ∀ n, t.ccrew.slotRec n = if n = f.f.toNat / 8 % 16 then (a, b) else c.slotRec n
    let off := (blk f 0).toNat % 2 ^ 32
    let a : Access := { hn := 0, kind := .load, n := 16, align := 16, lanes := none, off := fun _ => BitVec.ofNat 64 off }
    let bad (e : Exc) : FaultInfo := { exc := e, eng := 4, hreg := some 0, offset := BitVec.ofNat 64 off }
    let at_ (o : Nat) : DWord := BitVec.ofNat 64 (valueAt (s.own s.peek) (.scr s.cur.uid o) 8)
    (f.f.getLsbD 0 = true → s.yields (.mshape f) (slot (blk f 0) (blk f 1))) ∧
    (f.f.getLsbD 0 = false → off % 16 = 0 → off + 16 ≤ (s.rdH 0).ent.size → s.grants a = true →
      s.yields (.mshape f) (slot (at_ off) (at_ (off + 8)))) ∧
    (f.f.getLsbD 0 = false → off % 16 ≠ 0 → s.traps (.mshape f) (bad .misaligned)) ∧
    (f.f.getLsbD 0 = false → off % 16 = 0 → (s.rdH 0).ent.size < off + 16 → s.traps (.mshape f) (bad .handleBounds))) ∧
  (∀ f, (idle → s.yields (.mzero f) fun t => s.WroteSlot (s.untiled t) s.cslot ∧ t.ccrew.shapes = c.shapes ∧ t.ccrew.sat = c.sat ∧
      ∀ n r k, r < 128 → k < 128 → t.ccrew.tile n r k = (if n = FmtEB.T f then 0 else c.tile n r k) ∧
        t.ccrew.maxOf n r = (if n = FmtEB.T f then 0xFF800000 else c.maxOf n r) ∧
        t.ccrew.sumOf n r = (if n = FmtEB.T f then 0 else c.sumOf n r) ∧
        let ps := [tileKey n r k, maxKey n r, sumKey n r]
        ∀ j ∈ ps, n < 8 → Store.get false t.ccrew.tilePoison j = (n ≠ FmtEB.T f && Store.get false c.tilePoison j)) ∧
    (busy → s.waits (.mzero f) (.matrixIdle c.mtx.last))) ∧
  (∀ f, let row := (blk f 0).toNat % 128
    let sum := f.f.getLsbD 1
    let key := if sum then sumKey (FmtEB.T f) row else maxKey (FmtEB.T f) row
    let bad := Store.get false c.tilePoison key
    (idle → bad = true → s.waits (.mside f) .poison) ∧
    (idle → bad = false → s.yields (.mside f) fun t => (∀ k, Store.get false t.ccrew.tilePoison k = Store.get false c.tilePoison k) ∧
      s.WroteS (s.untiled t) f.sd ((if sum then c.sumOf (FmtEB.T f) row else c.maxOf (FmtEB.T f) row).setWidth 64) ∧
      t.ccrew.tiles = c.tiles ∧ t.ccrew.shapes = c.shapes ∧ t.ccrew.sat = c.sat ∧
      ∀ n r, r < 128 → let here := f.f.getLsbD 0 = true ∧ n = FmtEB.T f ∧ r = row
        t.ccrew.maxOf n r = (if here ∧ sum = false then (blk f 1).setWidth 32 else c.maxOf n r) ∧
        t.ccrew.sumOf n r = (if here ∧ sum = true then (blk f 1).setWidth 32 else c.sumOf n r)) ∧
    (busy → s.waits (.mside f) (.matrixIdle c.mtx.last))) ∧
  (∀ f, (idle → s.yields (.mstat f) fun t => s.WroteS (s.untiled t) f.sd
      (BitVec.ofNat 64 (65536 * min c.reexec 65535 + if c.sat then 1 else 0)) ∧
      t.ccrew.SameTiles { c with sat := c.sat && !f.f.getLsbD 0 }) ∧
    (busy → s.waits (.mstat f) (.matrixIdle c.mtx.last))) ∧
  (∀ f : FmtVR, let a (i k : Nat) := (el 16 (s.rdV (f.va + BitVec.ofNat 6 (k / 4)) (i + 16 * (k % 4 / 2))) (k % 2)).toNat
    let b (k j : Nat) := (el 16 (s.rdV (f.vb + BitVec.ofNat 6 (k / 4)) (j + 16 * (k % 4 / 2))) (k % 2)).toNat
    let old (i j : Nat) := s.rdV (f.vd + BitVec.ofNat 6 (j / 2)) (i + 16 * (j % 2))
    let F (code : Nat) := if code = 0 then fmtB16 else fmtF16
    let new (i j : Nat) : Word := BitVec.ofNat 32 (dotF (old i j).toNat ((List.range 16).map fun k =>
      [((F (fmtA s.fmt)).decode (a i k)).mul ((F (fmtB s.fmt)).decode (b k j))]))
    (fmtA s.fmt ≤ 1 → fmtB s.fmt ≤ 1 → s.yields (.mma f) fun t => s.Fell t s.cslot ∧
      t.carch = { s.carch with v := t.carch.v, a := t.carch.a, b := t.carch.b } ∧
      (∀ k, Store.get false t.ccrew.regPoison k = (Store.get false s.ccrew.regPoison k && !((List.range 8).any fun j =>
        (List.range 32).any fun l => s.mask.getLsbD l && k == regOff s.cur.tid (f.vd.toNat + j) l))) ∧
      ∀ m l, l < 32 → t.rdV m l = if s.mask.getLsbD l = true ∧ f.vd.toNat ≤ m.toNat ∧ m.toNat < f.vd.toNat + 8
        then new (l % 16) (2 * (m.toNat - f.vd.toNat) + l / 16) else s.rdV m l) ∧
    (¬ (fmtA s.fmt ≤ 1 ∧ fmtB s.fmt ≤ 1) → s.traps (.mma f) { exc := .formatCombination, eng := 4 })) ∧
  (∀ f, s.yields (.mprog f) fun t => s.WroteS (s.unmatrixed t) f.sd (s.rdMprog ((blk f 0).toNat % 2 ^ 20)) ∧
    let d := if (blk f 0).getLsbD 63 then c.wrMprog s.chdr.tiles ((blk f 0).toNat % 2 ^ 20) (blk f 1) else c
    t.ccrew = { d with threads := t.ccrew.threads, regPoison := t.ccrew.regPoison })) ∧
  (∀ (s : State) (n : Nat) (v : DWord), s.ccrew.mtx.freeze = true →
  let tiles := s.chdr.tiles
  let t := s.modCrew s.cur.uid fun c => c.wrMprog tiles n v
  (n = 0x203 → t.rdMprog n = if v.getLsbD 0 then 1 else 0) ∧
  (n = 0x204 → t.rdMprog n = BitVec.ofNat 64 (min v.toNat 65535)) ∧
  (0x400 ≤ n → n < 0x400 + 128 * tiles → n < 0xC00 → n < 0x800 → t.rdMprog n = (v.setWidth 32).setWidth 64) ∧
  (0x800 ≤ n → n < 0x800 + 128 * tiles → n < 0xC00 → t.rdMprog n = (v.setWidth 32).setWidth 64) ∧
  (0xC00 ≤ n → n < 0xC20 → t.rdMprog n = v) ∧
  (0x10000 ≤ n → n < 0x10000 + 16384 * tiles → t.rdMprog n = (v.setWidth 32).setWidth 64) ∧
  (∀ c : Crew, c.mtx.freeze = false → n ≠ 0x202 → c.wrMprog tiles n v = c))

/-- `mloop`, `mloopg`, `mloopn`, `msmx` and `mdrain`: where R263's checks find no fault the matrix context accepts an operation with the
next number, with copies of FMT, of the shape slots XA and XB and of the handle registers they name (R256, R257), and writes no register
(R258). A fault comes before acceptance, with no effect; a context with 16 operations, a frozen one, and a token at its limit make the word
wait. What R263 finds in a loop, step by step: a format pair that R264 does not list is FORMAT_COMBINATION; with a listed one a record that
R262 makes invalid is SHAPE_RANGE; with valid ones COLS of A other than ROWS of B is SHAPE_MISMATCH. Rests also on the model's own reading,
log entries 17, 21 and 68. -/
def Obligations.MatrixCommands : Prop :=
  (∀ s : State, s.calm = true → ∀ f : FmtEB,
  let recA := s.ccrew.slotRec (f.f.toNat / 8 % 16)
  let recB := s.ccrew.slotRec (f.sd.toNat % 16)
  let hreg (r : DWord × DWord) : Nat := r.1.toNat / 2 ^ 45 % 8
  let full := s.ccrew.mtx.freeze = true ∨ 16 ≤ s.ccrew.mtx.ops.length
  let room := (s.cthr.token f.tok.toNat).cnt < 15 ∧ ¬ full
  let starts (op : Nat) (i : Instr) (bad : Option FaultInfo) : Prop :=
    let hs := if op ≠ 7 then [0] else [hreg recA] ++ (if f.f.getLsbD 2 then [hreg recB] else []) ++
      if (s.rdS (f.sa + 3)).getLsbD 33 then [(s.rdS (f.sa + 1)).toNat / 2 ^ 61] else []
    (s.handlesClean hs = false → s.waits i .poison) ∧ (s.handlesClean hs = true →
    (bad = none → room → s.yields i fun t => s.WroteSlot (s.unaccepted t .matrix) s.cslot ∧
      ∃ o, s.Took t .matrix o ∧ o.Asked s op f ∧ o.recA = recA ∧ o.recB = recB ∧
        o.recI = s.ccrew.slotRec (recA.2.toNat / 2 ^ 56 % 16) ∧ o.ha = s.rdH (hreg recA) ∧ o.hb = s.rdH (hreg recB) ∧
        o.bar = if f.f.getLsbD 0 then some ((s.rdS (f.sa + 3)).toNat % 2 ^ 32) else none) ∧
    (∀ e, bad = some e → s.traps i e) ∧
    (bad = none → 15 ≤ (s.cthr.token f.tok.toNat).cnt → s.waits i (.token f.tok.toNat)) ∧
    (bad = none → (s.cthr.token f.tok.toNat).cnt < 15 → full → s.waits i (.room .matrix)))
  let o (op : Nat) : Op := s.mtxOp op f 0
  starts 3 (.mloop f) (s.loopBad (o 3) (FmtEB.T f)) ∧ starts 4 (.mloopg f) (s.loopBad (o 4) (FmtEB.T f)) ∧
  starts 5 (.mloopn f) (s.loopBad (o 5) (FmtEB.T f)) ∧ starts 6 (.msmx f) (s.smxBad (o 6)) ∧ starts 7 (.mdrain f) (s.drainBad (o 7))) ∧
  (∀ (s : State) (o : Op) (tile : Nat),
  let a := Shape.ofDwords o.recA
  let b := Shape.ofDwords o.recB
  let fa := fmtA o.fmt
  let fb := fmtB o.fmt
  let listed := if o.opcode = 5 then (fa = 4 ∨ fa = 5) ∧ fb = 8 ∧ fmtNIP o.fmt ≠ 0
    else (fa ≤ 1 ∧ fb ≤ 1) ∨ ((fa = 2 ∨ fa = 3) ∧ (fb = 2 ∨ fb = 3)) ∨ ((fa = 4 ∨ fa = 5) ∧ (fb = 4 ∨ fb = 5))
  let dim (n : Nat) : Prop := n ∈ [16, 32, 48, 64, 80, 96, 112, 128]
  let exc (e : Exc) : Prop := s.loopBad o tile = some { exc := e, eng := 4 }
  let gather := if o.opcode = 4 then a.gather = true else a.gather = false
  (o.opcode = 3 ∨ o.opcode = 4 ∨ o.opcode = 5) →
  (¬ listed → exc .formatCombination) ∧
  (listed → ¬ (dim a.rows ∧ dim a.cols ∧ dim b.rows ∧ dim b.cols) → exc .shapeRange) ∧
  (listed → ¬ (a.resv = 0 ∧ b.resv = 0 ∧ a.pm1 = 0 ∧ b.tile = false ∧ b.gather = false ∧ gather) → exc .shapeRange) ∧
  (listed → a.tile = true → (o.opcode ≠ 3 ∨ fa = 4 ∨ fa = 5 ∨ a.hreg = tile ∨ s.chdr.tiles ≤ a.hreg) → exc .shapeRange) ∧
  (s.loopBad o tile = none → listed ∧ dim a.rows ∧ dim a.cols ∧ dim b.cols ∧ a.cols = b.rows))

/-- One step of an accepted `mloop` whose A lies in scratch: T[i][j] becomes its old value plus the COLS products of row i of A and column j
of B at the step's offsets, sixteen at a time, as an I32 that clamps and then sets SAT for integer formats (R170), else by the grouped float
sum of R169, over the records' layouts (R261, R272); nothing else of the tile changes, and the operation has done one step more (R284). -/
def Obligations.LoopStep : Prop := ∀ (s : State) (uid num : Nat) (op : Op), s.op? ⟨uid, .matrix, num⟩ = some op →
  let c := s.crew uid
  let a := Shape.ofDwords op.recA
  let b := Shape.ofDwords op.recB
  let steps := (op.blk.getD 0 0).toNat % 2 ^ 32
  let at_ (x : Shape) (inc : Int) (e i k : Nat) : Nat := ((x.offset : Int) + op.prog * inc +
    if x.colMajor then k * x.stride + i * e else i * x.stride + k * e).toNat
  let size (code : Nat) : Nat := if code ≤ 1 then 2 else 1
  let code (x : Shape) (inc : DWord) (fm i k : Nat) : Nat :=
    valueAt s.peek (.scr uid (at_ x (inc.setWidth 32 : Word).toInt (size fm) i k)) (size fm)
  let av (i k : Nat) := code a (op.blk.getD 1 0) (fmtA op.fmt) i k
  let bv (k j : Nat) := code b (op.blk.getD 2 0) (fmtB op.fmt) k j
  let i8 (fm v : Nat) : Int := if fm = 4 then (BitVec.ofNat 8 v).toInt else v % 256
  let T := op.f10.toNat / 128 % 8
  let term (i j k : Nat) : Int := i8 (fmtA op.fmt) (av i k) * i8 (fmtB op.fmt) (bv k j)
  let clamp (v : Int) : Int := max (-2 ^ 31) (min (2 ^ 31 - 1) v)
  let group (i j : Nat) (acc : Int) (g : Nat) : Int := acc + ((List.range 16).map fun r => term i j (16 * g + r)).foldl (· + ·) 0
  let after (i j n : Nat) : Int := (List.range n).foldl (fun acc g => clamp (group i j acc g)) (c.tile T i j).toInt
  op.opcode = 3 → a.tile = false → op.prog < steps → c.mayRun = true → c.mtx.freeze = false → op.waitPage = none → op.st ≠ .done →
  c.mtx.timeline + 1 = op.num → c.awaited op.num = false → c.scrPoison = [] → c.tilePoison = [] → a.rows ≤ 128 → b.cols ≤ 128 → a.cols % 16 = 0 →
  ∃ t, exec (.matrixBoundary uid num) s = .next t ∧
    (∀ n i j, i < 128 → j < 128 → ¬ (n = T ∧ i < a.rows ∧ j < b.cols) → (t.crew uid).tile n i j = c.tile n i j) ∧
    ((fmtA op.fmt = 4 ∨ fmtA op.fmt = 5) → (∀ i j, i < a.rows → j < b.cols →
        (t.crew uid).tile T i j = BitVec.ofInt 32 (after i j (a.cols / 16))) ∧
      ((t.crew uid).sat = true ↔ c.sat = true ∨ ∃ i j g, i < a.rows ∧ j < b.cols ∧ g < a.cols / 16 ∧
        clamp (group i j (after i j g) g) ≠ group i j (after i j g) g)) ∧
    (fmtA op.fmt ≤ 3 → (t.crew uid).sat = c.sat ∧ ∀ i j, i < a.rows → j < b.cols →
      (t.crew uid).tile T i j = BitVec.ofNat 32 (dotF (c.tile T i j).toNat ((List.range a.cols).map fun k =>
        [((abFmt (fmtA op.fmt)).decode (av i k)).mul ((abFmt (fmtB op.fmt)).decode (bv k j))]))) ∧
    t.op? ⟨uid, .matrix, num⟩ = some { op with prog := op.prog + 1, residue := 0, st := if op.prog + 1 = steps then .done else .running } ∧
    t.mem = s.mem ∧ (t.crew uid).threads = c.threads ∧ (t.crew uid).scratch = c.scratch

/-- `cpy`, `cpy2d`, `cpymc`, `cpyfill` and `qpost` start an operation of the copy context: without a fault of R234 to R241 the context takes
it, with the next number, which sd receives, copies of the handles its dwords name, and its barrier; with YIELD the pair waits at the
continuation (R231 to R237). A fault comes first, with no effect; a full or frozen context or a token at its limit makes the word wait.
Rests also on the model's own reading, log entries 25 and 68. -/
def Obligations.CopyCommands : Prop := ∀ s : State, s.calm = true → ∀ f : FmtEB,
  let full := s.ccrew.cpy.freeze = true ∨ 32 ≤ s.ccrew.cpy.ops.length
  let room := (s.cthr.token f.tok.toNat).cnt < 15 ∧ ¬ full
  let r := s.ccrew.slotRec (f.f.toNat % 16)
  let b (k : Nat) : DWord := s.rdS (f.sa + BitVec.ofNat 6 k)
  let hreg (d : DWord) : Nat := d.toNat / 2 ^ 61
  let offset := (b 3).toNat % 2 ^ 32
  let n := s.ccrew.cpy.last + 1
  let starts (op : Nat) (i : Instr) : Prop := let bad := s.cpyBad (s.cpyOp op f 0)
    let hs := if op = 0 then [hreg (b 0), hreg (b 1)] else if op = 1 then [hreg (b 0), r.1.toNat / 2 ^ 45 % 8] else [hreg (b 0)]
    let op? (o : Op) : Prop := o.Asked s op f ∧ o.ha = s.rdH (hreg (b 0)) ∧
      (o.param = true ↔ (op = 2 ∧ ((b 2).toNat % 2 ^ 32 = 0 ∨ 65536 < (b 2).toNat % 2 ^ 32)) ∨
        ((op = 0 ∨ op = 3) ∧ 2 ^ 40 < (b 2).toNat % 2 ^ 41)) ∧
      o.hb = s.rdH (if op = 1 then r.1.toNat / 2 ^ 45 % 8 else hreg (b 1)) ∧ (op = 1 → o.recA = r) ∧
      o.bar = if op = 2 ∨ offset = 0xFFFFFFFF then none else some offset
    (s.handlesClean hs = false → s.waits i .poison) ∧ (s.handlesClean hs = true →
    (bad = none → room → f.f.getLsbD 9 = false → s.yields i fun t => s.WroteS (s.unaccepted t .copy) f.sd (BitVec.ofNat 64 n) ∧
      ∃ o, s.Took t .copy o ∧ op? o) ∧
    (bad = none → room → f.f.getLsbD 9 = true → s.yields i fun t => ∃ o, s.Took t .copy o ∧ op? o ∧
      (∀ m, t.rdS m = s.withS f.sd (BitVec.ofNat 64 n) m) ∧ t.cslot.st = .blocked ∧ t.cslot.wait = some (.copyYield n) ∧
      t.cslot.pc = s.label ((b 3).extractLsb' 32 32).toInt ∧ t.cslot.word = 0) ∧
    (∀ e, bad = some e → s.traps i e) ∧
    (bad = none → 15 ≤ (s.cthr.token f.tok.toNat).cnt → s.waits i (.token f.tok.toNat)) ∧
    (bad = none → (s.cthr.token f.tok.toNat).cnt < 15 → full → s.waits i (.room .copy)))
  starts 0 (.cpy f) ∧ starts 1 (.cpy2d f) ∧ starts 2 (.cpymc f) ∧ starts 3 (.cpyfill f) ∧ starts 8 (.qpost f)

/-- `cpyrec` reads a dword of an operation's record, with status 0xFE for one that has not completed and 0xFF for one it does not keep
(R249); `tlrd` reads a context's timeline counter or its last accepted number (R250); `tlwait` goes on with the counter once it has reached
n, and waits until then (R250); `cprog` reads a progress register of the copy context and writes it where asked (R252). Rests also on the
model's own reading, log entries 22 and 68. -/
def Obligations.RecordWords : Prop := ∀ s : State, ∀ f : FmtEB,
  let b (k : Nat) : DWord := s.rdS (f.sa + BitVec.ofNat 6 k)
  let x := s.ccrew.ctx (match (b 0).toNat % 4 with
    | 0 => .copy
    | 1 => .matrix
    | 2 => .arena
    | _ => .message)
  let n := (b 0).toNat
  let dw (r : OpRecord) : DWord := match (b 1).toNat % 4 with
    | 0 => BitVec.ofNat 64 (r.opcode * 256 + r.status)
    | 1 => BitVec.ofNat 64 r.bytes
    | 2 => r.acc
    | _ => r.ref_
  (∀ r, s.ccrew.cpy.recs.find? (fun q => q.num == n) = some r → s.yields (.cpyrec f) (s.WroteS · f.sd (dw r))) ∧
  (∀ o, s.ccrew.cpy.recs.find? (fun q => q.num == n) = none → s.ccrew.cpy.ops.find? (fun q => q.num == n) = some o →
    s.yields (.cpyrec f) (s.WroteS · f.sd (dw ⟨n, o.opcode, 0xFE, 0, 0, 0⟩))) ∧
  (s.ccrew.cpy.recs.find? (fun q => q.num == n) = none → s.ccrew.cpy.ops.find? (fun q => q.num == n) = none →
    s.yields (.cpyrec f) (s.WroteS · f.sd (dw ⟨n, 0, 0xFF, 0, 0, 0⟩))) ∧
  let acq (t : State) : Prop := t.cthr.floor = s.writes ∧ t.cthr.seen = []
  s.yields (.tlrd f) (fun t => s.WroteS (s.unseen t) f.sd (BitVec.ofNat 64 (if (b 0).getLsbD 2 then x.last else x.timeline)) ∧
    if (b 0).getLsbD 2 then t.cthr.floor = s.cthr.floor ∧ t.cthr.seen = s.cthr.seen else acq t) ∧
  ((b 1).toNat ≤ x.timeline ∨ (∃ v w, s.cslot.wait = some (.released v w)) →
    s.yields (.tlwait f) fun t => s.WroteS (s.unseen t) f.sd (BitVec.ofNat 64 x.timeline) ∧ acq t) ∧
  (x.timeline < (b 1).toNat → s.cslot.wait = none → s.executes (.tlwait f) = true → s.gives (.tlwait f) fun t => s.KeptThread t ∧
    t.cslot.st = .blocked ∧ t.cslot.pc = s.cur.hdr ∧ t.cslot.word = s.cur.word ∧ (∀ m, t.rdS m = s.rdS m) ∧
    ∃ ctx, s.ccrew.ctx ctx = x ∧ t.cslot.wait = some (.timeline ctx (b 1) ((b 2).toNat % 2 ^ 32))) ∧
  (s.yields (.cprog f) fun t =>
    s.WroteS ({ t with freeCtr := s.freeCtr }.modCrew s.cur.uid fun c => { c with cpy := s.ccrew.cpy }) f.sd (s.rdCprog ((b 0).toNat % 2 ^ 16)) ∧
    ∃ opcode, opcode ∈ [0, 1, 2, 3, 8] ∧
      t.ccrew.cpy = if (b 0).getLsbD 63 then s.ccrew.cpy.wrCprog ((b 0).toNat % 2 ^ 16) (b 1) opcode else s.ccrew.cpy)

/-! ### Arena words (R291 to R311) -/

/-- The synchronous ARN words. `arnew` takes the lowest index that is FREE and not RETIRED, raises its GEN, makes it a LIVE child and
answers its name, or NOINDEX (R293, R303); `halloc` refuses a bad size or attribute, then a charge that R294 refuses, then one without
backing or handle, and else charges every arena on the path and writes a free entry (R304); `arquota` sets QUOTA and CAP (R306); `arinfo`
reads a dword of the table (R306). A stale name faults with ARENA_STALE, a state that R302 lists with ARENA_STATE, both with no effect.
`arseal` and `ardrop` start an operation of the arena context and answer its number. A seal of a LIVE arena makes it and its LIVE
descendants SEALING, one of a SEALED arena is complete, one of a SEALING arena waits (R307, R308); a drop makes the arena and every
descendant that is not FREE DROPPING (R310). No byte of memory changes. The checks of R302 come first. Rests also on the model's own
reading, log entries 15, 37 and 72. -/
def Obligations.ArenaWords : Prop :=
  (∀ s : State, ∀ f : FmtEB,
  let b (k : Nat) : DWord := s.rdS (f.sa + BitVec.ofNat 6 k)
  let p := s.ccrew.pref
  let i := (b 0).toNat % 4096
  let r := arenaAt p i
  let a := s.arena r
  let current := a.st ≠ .free ∧ a.st ≠ .dropping ∧ a.gen = (b 0).toNat / 4096 % 2 ^ 20
  let others (t : State) (j : Nat) : Prop := ∀ k, k ≠ arenaKey (arenaAt p j) → Store.get {} t.arenas k = Store.get {} s.arenas k
  let status (c v : Nat) : DWord := BitVec.ofNat 64 (c * 2 ^ 56 + v)
  let c := ((b 1).toNat + 127) / 128 * 128
  let sealed := a.st = .sealing ∨ a.st = .sealed_
  let badParam := b 1 = 0 ∨ 2 ^ 48 ≤ (b 1).toNat ∨ (b 2).toNat / 2 % 4 = 3 ∨ 2 ^ 5 ≤ (b 2).toNat
  let past (j : Nat) : Prop := (s.arena (arenaAt p j)).quota < (s.arena (arenaAt p j)).used + c
  let stops (x : Instr) (state : Prop) : Prop := (¬ current → s.traps x { exc := .arenaStale, eng := 6 }) ∧
    (current → state → s.traps x { exc := .arenaState, eng := 6 })
  stops (.arnew f) (sealed ∨ a.held = true ∨ a.depth = 8) ∧ stops (.halloc f) (sealed ∨ a.held = true) ∧
  stops (.arquota f) (a.depth = 0 ∨ a.held = true) ∧
  (∀ j, current → ¬ (sealed ∨ a.held = true ∨ a.depth = 8) → s.freeArena p = some j → s.yields (.arnew f) fun t =>
    let old := s.arena (arenaAt p j)
    s.WroteS (s.unarena t) f.sd (status 0 ((old.gen + 1) * 4096 + j)) ∧ others t j ∧ t.handles = s.handles ∧
    t.arena (arenaAt p j) = { gen := old.gen + 1, parent := i, depth := a.depth + 1, st := .live, held := false
                              quota := (b 1).toNat % 2 ^ 48, cap := (b 2).setWidth 32 }) ∧
  (∀ j, s.freeArena p = some j ↔ 1 ≤ j ∧ j ≤ 4095 ∧ ((s.arena (arenaAt p j)).st = .free ∧ (s.arena (arenaAt p j)).retired = false) ∧
    ∀ k, 1 ≤ k → k < j → ¬ ((s.arena (arenaAt p k)).st = .free ∧ (s.arena (arenaAt p k)).retired = false)) ∧
  (current → ¬ (sealed ∨ a.held = true ∨ a.depth = 8) → s.freeArena p = none →
    s.yields (.arnew f) (s.WroteS · f.sd (status 3 0))) ∧
  (current → ¬ (sealed ∨ a.held = true) → badParam → s.yields (.halloc f) (s.WroteS · f.sd (status 5 0))) ∧
  (∀ j, current → ¬ (sealed ∨ a.held = true) → ¬ badParam → (s.pathOf p i).reverse.find? (fun j => decide (past j)) = some j →
    s.yields (.halloc f) (s.WroteS · f.sd (status 1 j))) ∧
  (current → ¬ (sealed ∨ a.held = true) → ¬ badParam → (∀ j ∈ s.pathOf p i, ¬ past j) →
    s.hasBacking p ((b 2).getLsbD 0) c = false → s.yields (.halloc f) (s.WroteS · f.sd (status 2 0))) ∧
  (∀ h, current → ¬ (sealed ∨ a.held = true) → ¬ badParam → (∀ j ∈ s.pathOf p i, ¬ past j) →
    s.hasBacking p ((b 2).getLsbD 0) c = true → (s.freeHandle p).1 = some h → s.yields (.halloc f) fun t =>
      s.WroteS (s.unarena t) f.sd (status 0 h) ∧
      (let e := t.handle p h
       e.valid = true ∧ e.size = (b 1).toNat ∧ e.arena = i ∧ e.space = (if (b 2).getLsbD 0 then 3 else 2) ∧
       e.policy = (b 2).toNat / 2 % 4 ∧ e.r = (b 2).getLsbD 3 ∧ e.w = (b 2).getLsbD 4 ∧ e.x = false) ∧
      (∀ k, k ≠ handleKey p h → Store.get {} t.handles k = Store.get {} s.handles k) ∧
      ∀ k, (t.arena (arenaAt p k)).st = (s.arena (arenaAt p k)).st ∧ (t.arena (arenaAt p k)).gen = (s.arena (arenaAt p k)).gen) ∧
  (current → ¬ (a.depth = 0 ∨ a.held = true) → s.yields (.arquota f) fun t =>
    s.WroteS (s.unarena t) f.sd 0 ∧ others t i ∧ t.handles = s.handles ∧
    t.arena r = { a with quota := if (b 1).getLsbD 63 then a.quota else (b 1).toNat % 2 ^ 48
                         cap := if (b 2).getLsbD 63 then a.cap else (b 2).setWidth 32 }) ∧
  (s.yields (.arinfo f) fun t => s.WroteS t f.sd (BitVec.ofNat 64 (match (b 1).toNat % 4 with
    | 0 => a.gen * 2 ^ 44 + i * 2 ^ 32 + a.parent * 2 ^ 20 + a.depth * 2 ^ 16 + a.st.code * 2 ^ 13 +
        (if a.held then 2 ^ 12 else 0) + if a.retired then 2 ^ 11 else 0
    | 1 => a.quota
    | 2 => a.used
    | _ => a.occ.toNat * 2 ^ 32 + a.cap.toNat)))) ∧
  (∀ s : State, s.calm = true → ∀ f : FmtEB,
  let b (k : Nat) : DWord := s.rdS (f.sa + BitVec.ofNat 6 k)
  let p := s.ccrew.pref
  let i := (b 0).toNat % 4096
  let a := s.arena (arenaAt p i)
  let stale (drop : Bool) : Prop := a.st = .free ∨ a.gen ≠ (b 0).toNat / 4096 % 2 ^ 20 ∨ (a.st = .dropping ∧ drop = false)
  let root := a.depth = 0 ∨ a.held = true
  let bar := (b 3).toNat % 2 ^ 32
  let badBar := bar ≠ 0xFFFFFFFF ∧ (bar % 16 ≠ 0 ∨ (s.rdH 0).ent.size < bar + 16)
  let room := (s.cthr.token f.tok.toNat).cnt < 15 ∧ s.ccrew.arn.freeze = false ∧ s.ccrew.arn.ops.length < 16
  let n := s.ccrew.arn.last + 1
  let took (op : Nat) (set : Nat → Prop) (st : ArenaSt) (t : State) : Prop :=
    (∀ m, t.rdS m = s.withS f.sd (BitVec.ofNat 64 n) m) ∧ s.FellThrough t s.cslot ∧ t.mem = s.mem ∧ t.ccrew.scratch = s.ccrew.scratch ∧
    t.ccrew.arn.last = n ∧ (∃ o ∈ t.ccrew.arn.ops, o.num = n ∧ o.opcode = op ∧ o.arena = some (arenaAt p i) ∧ o.tok = f.tok.toNat) ∧
    (∀ k, t.cthr.token k = if k = f.tok.toNat then ⟨true, (s.cthr.token k).cnt + 1⟩ else s.cthr.token k) ∧
    ∀ j, j < 4096 → (t.arena (arenaAt p j)).gen = (s.arena (arenaAt p j)).gen ∧
      (set j → (t.arena (arenaAt p j)).st = st) ∧ (¬ set j → (t.arena (arenaAt p j)).st = (s.arena (arenaAt p j)).st)
  let below (j : Nat) : Prop := j ∈ s.subtree p i
  (stale false → s.traps (.arseal f) { exc := .arenaStale, eng := 6 }) ∧
  (stale true → s.traps (.ardrop f) { exc := .arenaStale, eng := 6 }) ∧
  (¬ stale false → root → s.traps (.arseal f) { exc := .arenaState, eng := 6 }) ∧
  (¬ stale true → root → s.traps (.ardrop f) { exc := .arenaState, eng := 6 }) ∧
  (¬ stale false → ¬ root → ¬ badBar → room → s.yields (.arseal f)
    (took 2 (fun j => a.st = .live ∧ below j ∧ (s.arena (arenaAt p j)).st = .live) .sealing)) ∧
  (¬ stale true → ¬ root → ¬ badBar → room → s.yields (.ardrop f) (took 3 below .dropping)))

/-! ### Message words (R322 to R349) -/

/-- `send` and `asend`: a length above 128 is refused with 4 (R323); a payload outside scratch faults (R324); a target crew or handler that
is not there is refused with 2 or 3 (R326); a full cellar makes the word wait, and refuse with 1 once its limit has passed; else the message
context accepts the operation and a cellar entry holds the message, and sd receives the number (R327, R336). A group name that is not live
faults (R325). Rests also on the model's own reading, log entry 34. -/
def Obligations.SendWords : Prop := ∀ s : State, s.calm = true → ∀ f : FmtEB,
  let b (k : Nat) : Nat := (s.rdS (f.sa + BitVec.ofNat 6 k)).toNat
  let p := s.ccrew.pref
  let h0 (off : Nat) (e : Exc) : FaultInfo := { exc := e, eng := 7, hreg := some 0, hindex := (s.rdH 0).idx, offset := BitVec.ofNat 64 off }
  let inside (off len : Nat) : Prop := off % 4 = 0 ∧ off + len ≤ (s.rdH 0).ent.size
  let room := (s.cthr.token f.tok.toNat).cnt < 15 ∧ s.ccrew.msg.freeze = false ∧ s.ccrew.msg.ops.length < 32
  let n := s.ccrew.msg.last + 1
  let num : DWord := BitVec.ofNat 64 n
  let first := s.cslot.wait = none
  let core := b 0 % 256
  let target := s.sendCheck p core (b 0 / 2 ^ 32) (b 1 % 2 ^ 32) (b 2 % 16)
  let len := b 2 / 256 % 256
  let off := b 3 % 2 ^ 32
  let kept (c : Nat) : Prop := (s.core c).cellar.length < Config.cellarLen
  (128 < len → s.refuses (.send f) f.sd 4) ∧
  (len ≤ 128 → off % 4 ≠ 0 → s.traps (.send f) (h0 off .misaligned)) ∧
  (len ≤ 128 → off % 4 = 0 → (s.rdH 0).ent.size < off + len → s.traps (.send f) (h0 off .handleBounds)) ∧
  (∀ k, len ≤ 128 → inside off len → target = .error k → s.refuses (.send f) f.sd k) ∧
  (∀ u, len ≤ 128 → inside off len → target = .ok u → first → ¬ kept core →
    s.waits (.send f) (.cellar core (b 2 / 2 ^ 32))) ∧
  (∀ u v w, len ≤ 128 → inside off len → target = .ok u → s.cslot.wait = some (.released v w) → s.refuses (.send f) f.sd 1) ∧
  (∀ u, len ≤ 128 → inside off len → target = .ok u → first → kept core → room → s.yields (.send f) fun t => s.Answered t f.sd num ∧
    (∃ o, s.Took t .message o ∧ o.Asked s 0 f) ∧
    ∃ m : Parked, (t.core core).cellar = (s.core core).cellar ++ [m] ∧ m.sender = some ⟨s.cur.uid, .message, n⟩ ∧ m.dest = u ∧
      m.handler = b 2 % 16 ∧ m.len = len ∧ m.task = s.ccrew.task ∧ m.crew = s.ccrew.idx ∧ m.core = s.ccrew.core) ∧
  (let len := b 2 % 256
   let off := b 1 % 2 ^ 32
   let name := s.groupOf p (s.rdS f.sa)
   let root (g : Nat) : Nat := s.rootOf p (s.group p g).tree
   (name = none → s.traps (.asend f) { exc := .groupInvalid, eng := 7 }) ∧
   ∀ g, name = some g →
    (128 < len → s.refuses (.asend f) f.sd 4) ∧
    (len ≤ 128 → off % 4 ≠ 0 → s.traps (.asend f) (h0 off .misaligned)) ∧
    (len ≤ 128 → off % 4 = 0 → (s.rdH 0).ent.size < off + len → s.traps (.asend f) (h0 off .handleBounds)) ∧
    (len ≤ 128 → inside off len → first → ¬ kept (root g) → s.waits (.asend f) (.cellar (root g) (b 3 / 2 ^ 32))) ∧
    (∀ v w, len ≤ 128 → inside off len → s.cslot.wait = some (.released v w) → s.refuses (.asend f) f.sd 1) ∧
    (len ≤ 128 → inside off len → first → kept (root g) → room → s.yields (.asend f) fun t => s.Answered t f.sd num ∧
      (∃ o, s.Took t .message o ∧ o.Asked s 1 f ∧ o.ref_ = g) ∧
      (∃ m : GMsg, (t.group p g).msgs = (s.group p g).msgs ++ [m] ∧ m.sender = ⟨s.cur.uid, .message, n⟩ ∧ m.len = len ∧
        m.ord = decide (b 3 % 2 = 1) ∧
        m.at_ = .up (if s.onTree p (s.group p g).tree s.ccrew.core then s.ccrew.core else root g)) ∧
      (t.core (root g)).cellar.length = (s.core (root g)).cellar.length + 1))

/-- `rdy` adds n to the crew's readiness and to its node's count, and answers the number of a complete operation; `unrdy` withdraws all of
it and answers how much there was (R332 to R334). `recv` claims the next slot of the ring, waits while none is assigned, and is refused with
9 once its limit has passed (R341). Groups that are not live fault. `grpnew` takes the lowest ID that is free, makes the group live with the
next GEN and answers its name, or refuses with 7 (R330); `grpdel` makes it DELETING until its operation completes, with every member's
readiness withdrawn (R331). `msgstat` reads records (R342). Rests also on the model's own reading, log entries 35, 38 and 69. -/
def Obligations.ReadinessAndGroups : Prop :=
  (∀ s : State, s.calm = true → ∀ f : FmtEB,
  let b (k : Nat) : Nat := (s.rdS (f.sa + BitVec.ofNat 6 k)).toNat
  let p := s.ccrew.pref
  let name := s.groupOf p (s.rdS f.sa)
  let bad : FaultInfo := { exc := .groupInvalid, eng := 7 }
  let room := (s.cthr.token f.tok.toNat).cnt < 15 ∧ s.ccrew.msg.freeze = false ∧ s.ccrew.msg.ops.length < 32
  let num : DWord := BitVec.ofNat 64 (s.ccrew.msg.last + 1)
  let spawn := b 2 % 2 == 1
  let handler := b 2 / 256 % 16
  let ring := b 3 % 2 ^ 32
  let units := b 1 % 2 ^ 16
  let added := if spawn = true ∧ s.ccrew.spawning = false then 0 else units
  let node (t : State) (g : Nat) : Nat := (Store.get {} (t.group p g).nodes s.ccrew.core).l
  (name = none → s.traps (.rdy f) bad ∧ s.traps (.unrdy f) bad ∧ s.traps (.recv f) bad) ∧
  (∀ g, name = some g → s.onTree p (s.group p g).tree s.ccrew.core = false → s.traps (.rdy f) bad) ∧
  (∀ g k, name = some g → s.onTree p (s.group p g).tree s.ccrew.core = true →
    s.rdyCheck g units handler ring spawn = some (.inr k) → s.refuses (.rdy f) f.sd k) ∧
  (∀ g e, name = some g → s.onTree p (s.group p g).tree s.ccrew.core = true →
    s.rdyCheck g units handler ring spawn = some (.inl e) → s.traps (.rdy f) e) ∧
  (∀ g, name = some g → s.onTree p (s.group p g).tree s.ccrew.core = true → s.rdyCheck g units handler ring spawn = none → room →
    s.yields (.rdy f) fun t => s.Answered t f.sd num ∧ (t.ready s.cur.uid g).amount = (s.ready s.cur.uid g).amount + added ∧
      (t.ready s.cur.uid g).spawn = spawn ∧ node t g = node s g + added ∧
      (spawn = true → (t.ready s.cur.uid g).handler = handler) ∧ (spawn = false → (t.ready s.cur.uid g).ring = ring)) ∧
  (∀ g, name = some g → s.yields (.unrdy f) fun t => s.Answered t f.sd (BitVec.ofNat 64 (s.ready s.cur.uid g).amount) ∧
    (t.ready s.cur.uid g).amount = 0 ∧ (t.ready s.cur.uid g).slots = [] ∧ node t g = node s g - (s.ready s.cur.uid g).amount) ∧
  (∀ g, name = some g → (let bar := b 2 % 2 ^ 32
    bar = 0xFFFFFFFF ∨ (bar % 16 = 0 ∧ bar + 16 ≤ (s.rdH 0).ent.size)) →
    let r := s.ready s.cur.uid g
    (r.wpos ≤ r.cpos → s.cslot.wait = none → s.waits (.recv f) (.recv g (b 1 % 2 ^ 32))) ∧
    (∀ v w, r.wpos ≤ r.cpos → s.cslot.wait = some (.released v w) → s.refuses (.recv f) f.sd 9) ∧
    (r.cpos < r.wpos → room → s.yields (.recv f) fun t =>
      s.Answered t f.sd (BitVec.ofNat 64 (r.ring + 160 * (r.cpos % 16))) ∧ t.ready s.cur.uid g = { r with cpos := r.cpos + 1 } ∧
      ∃ o ∈ t.ccrew.msg.ops, o.num = s.ccrew.msg.last + 1 ∧ o.opcode = 4 ∧ o.prog = r.cpos ∧ (o.st = .done ↔ r.cpos < r.written)))) ∧
  (∀ s : State, s.calm = true → ∀ f : FmtEB,
  let b (k : Nat) : DWord := s.rdS (f.sa + BitVec.ofNat 6 k)
  let p := s.ccrew.pref
  let tree := (b 0).toNat % 8
  let name := s.groupOf p (b 0)
  let room := (s.cthr.token f.tok.toNat).cnt < 15 ∧ s.ccrew.msg.freeze = false ∧ s.ccrew.msg.ops.length < 32
  let free (g : Nat) : Prop := let x := s.group p g
    (x.st = .free ∨ x.st = .deleted) ∧ x.gen < 2 ^ 24 - 1
  ((s.part p).tree tree = none → s.traps (.grpnew f) { exc := .groupInvalid, eng := 7 }) ∧
  ((s.part p).tree tree ≠ none → (∀ g, g < 64 → ¬ free g) → s.refuses (.grpnew f) f.sd 7) ∧
  (∀ g, (s.part p).tree tree ≠ none → g < 64 → free g → (∀ k, k < g → ¬ free k) → s.yields (.grpnew f) fun t =>
    (∀ m, t.rdS m = s.withS f.sd (BitVec.ofNat 64 (((s.group p g).gen + 1) * 256 + g)) m) ∧ s.FellThrough t s.cslot ∧
    (t.group p g).st = .live ∧ (t.group p g).gen = (s.group p g).gen + 1 ∧ (t.group p g).tree = tree ∧ (t.group p g).msgs = [] ∧
    (t.group p g).orphanD = b 1 ∧ (t.group p g).orphanC = b 2 ∧ (∀ k, k ≠ g → t.group p k = s.group p k) ∧
    t.mem = s.mem ∧ t.ccrew.scratch = s.ccrew.scratch) ∧
  (name = none → s.traps (.grpdel f) { exc := .groupInvalid, eng := 7 }) ∧
  (∀ g, name = some g → room → s.yields (.grpdel f) fun t =>
    (∀ m, t.rdS m = s.withS f.sd (BitVec.ofNat 64 (s.ccrew.msg.last + 1)) m) ∧ s.FellThrough t s.cslot ∧
    (t.group p g).st = .deleting ∧ (t.group p g).delOp = some ⟨s.cur.uid, .message, s.ccrew.msg.last + 1⟩ ∧
    (t.group p g).msgs = (s.group p g).msgs ∧ (∀ k, k ≠ g → t.group p k = s.group p k) ∧
    (t.ready s.cur.uid g).amount = 0 ∧ (t.ready s.cur.uid g).saved = 0 ∧
    t.mem = s.mem ∧ t.ccrew.scratch = s.ccrew.scratch) ∧
  (s.msgRecord ((b 0).toNat % 4) (b 1) = none → s.refuses (.msgstat f) f.sd 4) ∧
  (∀ l, s.msgRecord ((b 0).toNat % 4) (b 1) = some l →
    s.yields (.msgstat f) (s.WroteS · f.sd (l.getD ((b 2).toNat % 4) 0))))

/-- `colnew` makes a collective of a free ID or refuses with 8, after the checks of R344; `redpost` adds the crew's contribution to the
round of index k, opening it if none is in progress, and answers the number (R345); `redwait` answers an ended round and waits for one in
progress, or refuses with 12 where the crew never posted (R348); `colabort` ends rounds in progress as ABORTED and answers how many (R349).
Rests also on the model's own reading, log entries 33 and 71. -/
def Obligations.CollectiveWords : Prop := ∀ s : State, s.calm = true → ∀ f : FmtEB,
  let b (k : Nat) : DWord := s.rdS (f.sa + BitVec.ofNat 6 k)
  let n (k : Nat) : Nat := (b k).toNat
  let p := s.ccrew.pref
  let bad : FaultInfo := { exc := .collectiveInvalid, eng := 7 }
  let name := s.collOf p (b 0)
  let room := (s.cthr.token f.tok.toNat).cnt < 15 ∧ s.ccrew.msg.freeze = false ∧ s.ccrew.msg.ops.length < 32
  let e := n 2 / 256 % 64
  let refused := s.colBad s.ccrew (n 0 % 8) (b 1) (n 2 % 8) e (n 2 / 2 ^ 32) (n 3 % 2 ^ 32) (n 3 / 2 ^ 32)
  let free (i : Nat) : Prop := i < 16 ∧ (s.coll p i).live = false ∧ (s.coll p i).gen < 2 ^ 24 - 1
  (refused = true → s.traps (.colnew f) bad) ∧
  (refused = false → (∀ i, ¬ free i) → s.refuses (.colnew f) f.sd 8) ∧
  (refused = false → (∃ i, free i) → s.yields (.colnew f) fun t => ∃ i, free i ∧
    s.Answered t f.sd (BitVec.ofNat 64 (((s.coll p i).gen + 1) * 256 + i)) ∧ (∀ j, j ≠ i → t.coll p j = s.coll p j) ∧
    (let c := t.coll p i
     c.live = true ∧ c.gen = (s.coll p i).gen + 1 ∧ c.task = s.ccrew.task ∧ c.tree = n 0 % 8 ∧ c.members = b 1 ∧ c.op = n 2 % 8 ∧
     c.e = e ∧ c.timeoutUs = n 2 / 2 ^ 32 ∧ c.rounds = [])) ∧
  (name = none → s.traps (.redpost f) bad ∧ s.traps (.colabort f) bad ∧ (s.cslot.wait = none → s.traps (.redwait f) bad)) ∧
  (∀ i, name = some i →
    let c := s.coll p i
    let k := n 1 % 2 ^ 16
    let live := c.rounds.filter fun r => r.ended.isNone
    let off := n 2 % 2 ^ 32
    let size := (s.rdH 0).ent.size
    let member := c.members.getLsbD (s.ccrew.core % 64) = true ∧ s.ccrew.task = c.task
    let fits := off % 4 = 0 ∧ off + 4 * c.e ≤ size ∧ c.resOff + 4 * c.e ≤ size ∧ (c.rbar = 0xFFFFFFFF ∨ c.rbar.toNat + 16 ≤ size)
    (¬ member → s.traps (.redpost f) bad) ∧
    (member → fits → (∀ r ∈ live, r.k ≠ k) → 4 ≤ live.length → s.waits (.redpost f) (.rounds i)) ∧
    (member → fits → (∃ r ∈ live, r.k = k) ∨ live.length < 4 → room → s.yields (.redpost f) fun t =>
      (∀ m, t.rdS m = s.withS f.sd (BitVec.ofNat 64 (s.ccrew.msg.last + 1)) m) ∧ s.FellThrough t s.cslot ∧
      t.mem = s.mem ∧ t.ccrew.scratch = s.ccrew.scratch ∧ t.ccrew.msg.last = s.ccrew.msg.last + 1 ∧
      ((∀ r ∈ live, r.k ≠ k) → s.collHalted p c = false → c.frozenAt = none → ∃ r ∈ (t.coll p i).rounds, r.k = k ∧ r.ended = none ∧
        s.now ≤ r.startNs ∧ ∃ q ∈ r.posts, q.core = s.ccrew.core ∧ q.num = s.ccrew.msg.last + 1)) ∧
    (s.cslot.wait = none → c.roundOf k s.cur.uid = none → s.yields (.redwait f) fun t => s.KeptThread t ∧ s.FellThrough t s.cslot ∧
      ∀ m, t.rdS m = if m = f.sd + 1 then 0 else s.withS f.sd (BitVec.ofNat 64 (2 ^ 63 + 12)) m) ∧
    (∀ r, s.cslot.wait = none → c.roundOf k s.cur.uid = some r → r.ended = none → s.waits (.redwait f) (.round i k)) ∧
    (∀ r, s.cslot.wait = none → c.roundOf k s.cur.uid = some r → r.ended ≠ none → s.yields (.redwait f) fun t =>
      s.FellThrough t s.cslot ∧ ∀ m, t.rdS m = if m = f.sd + 1 then r.answer.2 else s.withS f.sd r.answer.1 m) ∧
    (∀ v w, s.cslot.wait = some (.released v w) → s.yields (.redwait f) fun t => s.KeptThread t ∧ s.FellThrough t s.cslot ∧
      ∀ m, t.rdS m = if m = f.sd + 1 then w else s.withS f.sd v m) ∧
    s.yields (.colabort f) fun t => (∀ m, t.rdS m = s.withS f.sd (BitVec.ofNat 64
        (live.filter fun r => r.k == k || (b 1).getLsbD 16 || (b 1).getLsbD 17).length) m) ∧
      ((b 1).getLsbD 17 = false → s.FellThrough t s.cslot) ∧ t.mem = s.mem ∧ t.ccrew.scratch = s.ccrew.scratch ∧
      ((b 1).getLsbD 17 = true → (t.coll p i).live = false ∧ (t.coll p i).rounds = []) ∧
      ((b 1).getLsbD 17 = false → ∀ r ∈ (t.coll p i).rounds, r.ended = none → r.k ≠ k))

/-! ### Faults and system words (R79, R80, R391 to R411) -/

/-- Taking a fault: an intercepted one enters firmware with the pair's place and the cause kept (R396); one that R394 makes fatal halts the
crew with its record; one that finds the thread's other slot IN TRAP waits (R392); any other goes to the crew's trap entry with the record
of R393. A fault code is that of R395. Rests also on the model's own reading, log entries 10 and 20. -/
def Obligations.FaultEntry : Prop :=
  (∀ (s : State) (p : PairRef) (f : FaultInfo) (hdr : Word) (word : Nat), word < 16 →
  let t := s.take p f hdr word
  let x := s.slot p
  let c := s.crew p.uid
  let r := f.record hdr word x.mask
  let intercepted := x.priv = none ∧ (c.icept.getLsbD f.exc.code = true ∨ f.exc = .singleStep)
  let fatal := x.priv ≠ none ∨ (s.hdrOf c).trapPc = 0xFFFFFFFF ∨ x.inTrap = true
  let otherIn := p.tid ≠ 63 ∧ (s.slot { p with slotB := !p.slotB }).inTrap = true
  r.Tells f hdr word x.mask ∧
  (intercepted → (t.slot p).pc = s.fw.entry ∧ (t.slot p).word = 0 ∧ (t.slot p).retPc = hdr ∧ (t.slot p).retWord = word ∧
    (t.slot p).priv = some (if f.exc = .singleStep then 3 else 2) ∧ (t.arch p.uid p.tid).trec = r ∧
    (t.arch p.uid p.tid).cause = (if f.exc = .singleStep then 3 else 2) ∧ (t.arch p.uid p.tid).s = (s.arch p.uid p.tid).s ∧
    t.mem = s.mem) ∧
  (¬ intercepted → fatal → c.fatalRec = none → (t.crew p.uid).cause = some .fatal ∧ (t.crew p.uid).fatalRec = some r ∧ t.mem = s.mem) ∧
  (¬ intercepted → ¬ fatal → otherIn → (t.slot p).st = .blocked ∧ (t.slot p).wait = some (.trapClear f) ∧ (t.slot p).pc = hdr ∧
    (t.slot p).word = word ∧ (t.arch p.uid p.tid).s = (s.arch p.uid p.tid).s ∧ t.mem = s.mem) ∧
  (s.trapOpen p f.exc → s.ToEntry t p (s.hdrOf c).trapPc r)) ∧
  ([Exc.illegalInstruction, .clauseFormat, .opclassUndeclared, .capabilityFenced, .privileged, .misaligned].map Exc.code = [1, 2, 3, 4, 5, 6] ∧
  [Exc.handleInvalid, .handleBounds, .handlePermission, .privLimit, .stackLimit, .pageFatal].map Exc.code = [8, 9, 10, 11, 12, 13] ∧
  [Exc.arenaStale, .sealedWrite, .arenaState, .shapeMismatch, .formatCombination, .shapeRange].map Exc.code =
    [16, 17, 18, 20, 21, 22] ∧
  [Exc.groupInvalid, .collectiveInvalid, .dataUncorrectable, .residuePersistent].map Exc.code = [24, 25, 32, 33] ∧
  [Exc.breakpoint, .watchpoint, .softwareTrap, .singleStep, .watchdog].map Exc.code = [40, 41, 42, 43, 48])

/-- The checks of R80 on a word of a ready pair, in order: a form, register, tile or thread that the word may not have is
ILLEGAL_INSTRUCTION; a privileged word outside privileged code is PRIVILEGED (R79); a class that USES does not declare is
OPCLASS_UNDECLARED; a fenced one is CAPABILITY_FENCED. The fault is taken at the word after older words have retired, in a state that is
otherwise as before. Rests also on the model's own reading, log entries 16 and 17. -/
def Obligations.WordChecksInOrder : Prop := ∀ (s : State) (i : Instr) (w : WordInfo), s.issuerReady = true → wordInfo s i = some w →
  let h := s.chdr
  let tid := s.cur.tid
  let here := if tid = 63 then w.lead else if 32 ≤ tid ∧ tid < 63 then w.handler else w.group
  let legal := w.wf = true ∧ (∀ n ∈ w.vregs, n < h.vregs) ∧ (∀ n ∈ w.tiles, n < h.tiles) ∧ here = true
  let user := s.cslot.priv = none
  let declared := ∀ b ∈ w.caps, h.uses.getLsbD b = true
  let present := ∀ b ∈ w.caps, (s.core s.ccrew.core).mask.getLsbD b = true
  let faults (e : Exc) : Prop := ∃ f : FaultInfo, f.exc = e ∧ f.lanes = none ∧ f.hreg = none ∧ exec i s = .next (s.faultWord f)
  (¬ legal → faults .illegalInstruction) ∧
  (legal → w.priv = true → user → faults .privileged) ∧
  (legal → ¬ (w.priv = true ∧ user) → ¬ declared → faults .opclassUndeclared) ∧
  (legal → ¬ (w.priv = true ∧ user) → declared → ¬ present → faults .capabilityFenced) ∧
  (legal → ¬ (w.priv = true ∧ user) → declared → present → s.readsPoison w = false → s.cthr.fence = none →
    s.executes i = true)

/-- `eret` leaves privileged code for word j of the clause its register names, clears IN TRAP and starts the steps armed (R398, R400);
`sstep` arms them, or disarms with 0 (R400); `prd` reads a privileged register into the bank (R399). No register of the tenant changes. What
`pwr` writes to a tenant register, predicate, handle dword, token, slot field, DIVCTR, trap-record dword, CAUSE or flush counter, `prd` then
reads, cut to its width, and every other of them reads as before; numbers that R399 does not list read 0, and a write to them changes
nothing. Rests also on the model's own reading, log entries 6 and 42. -/
def Obligations.PrivilegedWords : Prop :=
  (∀ s : State,
  let here := if s.cur.slotB then 1 else 0
  let arm (t : State) (j : Nat) : Nat := Store.get 0 t.carch.stepArm j
  (∀ f : FmtCR, s.yields (.eret f) fun t => s.Own t ∧
    t.cslot = (let x := s.cslot
      { x with pc := (s.rdS f.sa).extractLsb' 32 32, word := (s.rdS f.sa).toNat / 2 ^ 12 % 16, started := false, st := .ready
               wait := none, waitSince := 0, holds := false, priv := none, inTrap := false, skipBp := false, skipWp := 0
               dbgStep := false }) ∧
    t.carch.slot (!s.cur.slotB) = s.carch.slot (!s.cur.slotB) ∧
    (∀ j, Store.get 0 t.carch.stepArm j = if j = here then 0 else arm s j) ∧
    (∀ j, Store.get 0 t.carch.stepLeft j = if j = here ∧ arm s j ≠ 0 then arm s j + 1 else Store.get 0 s.carch.stepLeft j) ∧
    t.carch = { s.carch with a := t.carch.a, b := t.carch.b, stepArm := t.carch.stepArm, stepLeft := t.carch.stepLeft }) ∧
  (∀ f : FmtSL, s.yields (.sstep f) fun t => s.Fell t s.cslot ∧
    (∀ j, Store.get 0 t.carch.stepArm j = if j = here then f.imm.toNat else arm s j) ∧
    (∀ j, Store.get 0 t.carch.stepLeft j = if j = here ∧ f.imm = 0 then 0 else Store.get 0 s.carch.stepLeft j) ∧
    t.carch = { s.carch with a := t.carch.a, b := t.carch.b, stepArm := t.carch.stepArm, stepLeft := t.carch.stepLeft }) ∧
  (∀ f : FmtSL, s.yields (.prd f) fun t => s.WroteS t f.sd (s.privReg s.cur.uid s.cur.tid f.imm.toNat))) ∧
  (∀ s : State, ∀ f : FmtSL,
  let u := s.cur.uid
  let k := s.cur.tid
  let n := f.imm.toNat
  let v := s.rdS f.sd
  let listed (n : Nat) : Bool := n < 0x78 || (0x80 ≤ n && n ≤ 0x88) || (0x90 ≤ n && n ≤ 0x98) || (0xA0 ≤ n && n ≤ 0xA6) ||
    (0xB0 ≤ n && n ≤ 0xB3) || n == 0xC0
  let plain (n : Nat) : Bool := n < 0x68 || (0x70 ≤ n && n < 0x78) || (0xA0 ≤ n && n ≤ 0xA4) || n == 0xA6
  let width (n : Nat) : DWord := if n < 0x40 then 0xFFFFFFFFFFFFFFFF else if n < 0x48 then 0xFFFFFFFF
    else if n < 0x68 then (match n % 4 with
      | 2 => 0xFFFFFFFFFF9F0000
      | 3 => 0xFFFFFFFF
      | _ => 0xFFFFFFFFFFFF)
    else if n < 0x78 then 0xF1 else if n = 0xA0 then 0xFFFF else if n = 0xA1 then 0xFFFFFFFF000FF0FF
    else if n = 0xA2 then 0xFFFFFFFFFC0FFFFF else if n = 0xA4 then 0xF0000000FFFFFFFF else 0xFFFFFFFFFFFFFFFF
  s.yields (.pwr f) fun t => s.KeptPackage t ∧ t.cslot.st = .ready ∧
    (if s.cur.word < s.cur.count then t.cslot.pc = s.cslot.pc ∧ t.cslot.word = s.cur.word + 1
     else t.cslot.pc = s.nextClause ∧ t.cslot.word = 0) ∧
    (plain n = true → n ≠ 0x40 → t.privReg u k n = v &&& width n) ∧
    (t.privReg u k 0x40 = 0xFFFFFFFF) ∧
    (0x68 ≤ n → n < 0x70 → (t.privReg u k n).setWidth 20 = v.setWidth 20) ∧
    (∀ m, m ≠ n → plain m = true → t.privReg u k m = s.privReg u k m) ∧
    (0xB0 ≤ n → n ≤ 0xB3 → v ≠ 0 → t.privReg u k n = v) ∧
    (listed n = false → s.WroteSlot t s.cslot) ∧
    (∀ m, listed m = false → t.privReg u k m = 0))

/-- `capmask` reads the capability mask of the core (R404); `tmark` of a crew that is not traced only goes on (R425); `respost` posts the
task's RESULT once the thread's writes are performed (R51); `kiln` answers 1 for a class that is never fenced or a core of another die, 2
for one already fenced, else 0 with the pair fenced or suspect (R408). `dump` checks its range, then stops its crew and waits, with the
range it named, until the dump is written; a crew that is stopped already makes it wait first; released, it answers in sd (R409). `trap` and
`brk` raise SOFTWARE_TRAP and BREAKPOINT with their code in INFO and MASK in LANES (R397), which go to the trap entry where it is open.
Rests also on the model's own reading, log entries 41 and 58. -/
def Obligations.SystemWords : Prop :=
  (∀ s : State,
  (∀ f, s.yields (.capmask f) (s.WroteS · f.sd (s.core s.ccrew.core).mask)) ∧
  (∀ f, s.ccrew.trace.on = false → s.yields (.tmark f) (s.WroteSlot · s.cslot)) ∧
  (∀ f, s.cthr.sq = [] → s.yields (.respost f) fun t => s.WroteSlot { t with tasks := s.tasks } s.cslot ∧
    (∀ k, k ≠ taskKey s.ccrew.ldev s.ccrew.task → Store.get {} t.tasks k = Store.get {} s.tasks k) ∧
    t.task s.ccrew.ldev s.ccrew.task = { s.task s.ccrew.ldev s.ccrew.task with result := some (s.rdS f.sa) }) ∧
  (∀ f : FmtEB, let b (k : Nat) : DWord := s.rdS (f.sa + BitVec.ofNat 6 k)
    let core := (b 0).toNat % 256
    let k := (b 1).toNat % 64
    let bad := core / 64 ≠ s.ccrew.ldev ∨ k = 0 ∨ k = 2 ∨ k = 11 ∨ 33 ≤ k
    let fence := (b 2).getLsbD 0
    let old := s.kilnOf core k
    (bad → s.yields (.kiln f) (s.WroteS · f.sd 1)) ∧
    (¬ bad → old.st = .fenced → s.yields (.kiln f) (s.WroteS · f.sd 2)) ∧
    (¬ bad → old.st ≠ .fenced → s.yields (.kiln f) fun t => s.WroteS { t with kiln := s.kiln } f.sd 0 ∧
      (t.kilnOf core k).st = (if fence then .fenced else .suspect) ∧ (t.kilnOf core k).draining = fence ∧
      ∀ j, j ≠ kilnKey core k → Store.get {} t.kiln j = Store.get {} s.kiln j))) ∧
  (∀ s : State, ∀ f : FmtEB,
  let b (k : Nat) : DWord := s.rdS (f.sa + BitVec.ofNat 6 k)
  let hn : Nat := (b 0).toNat / 2 ^ 61
  let off : Nat := (b 0).toNat % 2 ^ 48
  let n := (b 1).toNat % 2 ^ 32
  let bad := s.rangeBad 8 { hn := hn, off := off, n := n, wr := true }
  let released := ∃ v w, s.cslot.wait = some (.released v w)
  let fresh := ¬ released ∧ s.handlesClean [hn] = true
  (¬ released → s.handlesClean [hn] = false → s.waits (.dump f) .poison) ∧
  (∀ e, fresh → bad = some e → s.traps (.dump f) e) ∧
  (fresh → bad = none → s.ccrew.stop ≠ none → s.waits (.dump f) .stopped) ∧
  (fresh → bad = none → s.ccrew.stop = none → s.executes (.dump f) = true → s.gives (.dump f) fun t =>
    t.ccrew.stop = some .dump ∧ t.ccrew.stopRec = { t.ccrew.stopRec with
      proc := s.procOf s.ccrew, taskCrew := BitVec.ofNat 64 (s.ccrew.task * 2 ^ 32 + s.ccrew.idx), where_ := BitVec.ofNat 64 (whereDword s.ccrew.core s.cur.tid s.cur.slotB)
      hits := 0, lanes := 0, cyc := s.cycles } ∧ t.cslot.st = .blocked ∧ t.cslot.wait = some (.dump (s.rdH hn) hn off n ((b 2).toNat % 128)) ∧
    (∀ m, t.rdS m = s.rdS m) ∧ (∀ m l, t.rdV m l = s.rdV m l) ∧ t.mem = s.mem ∧ t.ccrew.scratch = s.ccrew.scratch ∧
    (∀ k, k ≠ s.cur.tid → t.thread s.cur.uid k = s.thread s.cur.uid k)) ∧
  (∀ v w, s.cslot.wait = some (.released v w) → s.yields (.dump f) (s.WroteS · f.sd v))) ∧
  (∀ s : State, s.cthr.sq = [] → ∀ f : FmtSL,
  let to_ (i : Instr) (e : Exc) : Prop := s.traps i { exc := e, eng := 8, info := BitVec.ofNat 32 f.imm.toNat } ∧
    (s.trapOpen s.pair e → s.executes i = true → s.gives i fun t => ∃ u r, s.KeptThread u ∧ u.carch = s.carch ∧
      r.Tells { exc := e, eng := 8, info := BitVec.ofNat 32 f.imm.toNat } s.cur.hdr s.cur.word s.mask ∧
      u.ToEntry t s.pair s.chdr.trapPc r)
  s.cur.word < 16 → to_ (.trap f) .softwareTrap ∧ to_ (.brk f) .breakpoint)

/-! ### Steps of groups that no word encodes -/

/-- A pair suspended at a word is READY again, and nothing else changes, once what its word waits for has come (R61): clear tokens, a queue
entry or an exited lead, room, an assigned slot, a flipped, disarmed or abandoned barrier, a completed flush or operation, room at its
token, no pending fence. A limit that has passed releases `send`, `asend`, `recv` and `tlwait` (R326, R341, R250); one that has not, or is
0, does nothing. The oldest word leaves the replay window once 72 cycles have passed since it executed, and not before (R120). A spilled
fragment that has waited 256 opportunities changes places with a resident slot that stands READY or JOINWAIT at a clause boundary and has
issued (R127); after 64 cycles with neither slot ready, one changes places with a BLOCKED slot, which its entry then holds with BLK (R128).
Of the thread nothing else changes but the slot and the entry, and of the package nothing but the thread. Rests also on the model's own
reading, log entries 11 and 40. -/
def Obligations.PairsAndWindows : Prop :=
  (∀ (s : State) (p : PairRef),
  let c := s.crew p.uid
  let h := s.thread p.uid p.tid
  let x := s.slot p
  let up : Prop := s.gives (.blockedWordResume p) fun t => s.OnlySlot t p { x with st := .ready }
  let out (i : Instr) (us : Nat) : Prop :=
    (us ≠ 0 → x.waitSince + us * 1000 ≤ s.now → s.gives i fun t => s.OnlySlot t p { x with wait := some (.released 0 0) }) ∧
    (us = 0 ∨ s.now < x.waitSince + us * 1000 → s.gives i (· = s))
  (∀ m, s.suspendedAt p (.twaitWord m) → (∀ k, k < 8 → m.getLsbD k = true → (h.token k).set = false) → up) ∧
  (∀ m, s.suspendedAt p (.twaitHdr m) → (∀ k, k < 8 → m.getLsbD k = true → (h.token k).set = false) → up) ∧
  (s.suspendedAt p .dqpop → (h.dqPos < c.dqBase + c.dq.length ∨ c.leadRunning = false) → up) ∧
  (s.suspendedAt p .dqpush → (c.dq.length < 64 ∨ c.liveGroups = []) → up) ∧
  (∀ off ph, s.suspendedAt p (.barrier off ph) → c.barEnds (s.rdBar p.uid off) ph → up) ∧
  (∀ die n, s.suspendedAt p (.flwait die n) → n ≤ Store.get 0 h.flDone die → up) ∧
  (∀ ctx n us, s.suspendedAt p (.timeline ctx n us) → n.toNat ≤ (c.ctx ctx).timeline → up) ∧
  (∀ k, s.suspendedAt p (.token k) → (h.token k).cnt < 15 → up) ∧
  (∀ n, s.suspendedAt p (.copyYield n) → (n ≤ c.cpy.timeline ∨ n ∈ c.cpy.done) → up) ∧
  (s.suspendedAt p .fence → h.fence = none → up) ∧
  (∀ g us, s.suspendedAt p (.recv g us) → (s.ready p.uid g).cpos < (s.ready p.uid g).wpos → up) ∧
  (∀ k us, s.suspendedAt p (.cellar k us) → (s.core k).cellar.length < Config.cellarLen → up) ∧
  (∀ n, s.suspendedAt p (.matrixIdle n) → n ≤ c.mtx.timeline → up) ∧
  (s.suspendedAt p (.room .copy) → c.cpy.freeze = false → c.cpy.ops.length < 32 → up) ∧
  (s.suspendedAt p (.room .matrix) → c.mtx.freeze = false → c.mtx.ops.length < 16 → up) ∧
  (s.suspendedAt p (.room .message) → c.msg.freeze = false → c.msg.ops.length < 32 → up) ∧
  (∀ d pg, s.suspendedAt p (.walk d pg) → (d, pg) ∈ (s.core c.core).tlb → up) ∧
  (∀ k us, x.st = .blocked → x.wait = some (.cellar k us) → out (.cellarLimit p) us) ∧
  (∀ g us, x.st = .blocked → x.wait = some (.recv g us) → out (.recvLimit p) us) ∧
  (∀ ctx n us, x.st = .blocked → x.wait = some (.timeline ctx n us) → out (.tlwaitLimit p) us)) ∧
  (∀ (s : State) (r : ThreadRef),
  let h := s.thread r.uid r.tid
  let a := h.arch
  let swap (k : Nat) (y : Slot) (b blk : Bool) (rank : Nat) (t : State) : Prop := s.OnlyThread t r ∧
    (t.arch r.uid r.tid).slot b = { y with st := .ready, lastIssue := rank, issuedHere := false, entered := true } ∧
    (t.arch r.uid r.tid).slot (!b) = a.slot (!b) ∧
    (t.arch r.uid r.tid).entry k = .frag { a.slot b with age := 0 } blk
  (∀ e w, h.window = e :: w → e.cyc + 72 ≤ s.cycles → s.gives (.windowRetire r) fun t => s.OnlyThread t r ∧
    t.thread r.uid r.tid = { h with window := w }) ∧
  (∀ e w, h.window = e :: w → s.cycles < e.cyc + 72 → s.gives (.windowRetire r) (· = s)) ∧
  (∀ k y b, h.st = .running → h.swapped = false → a.swapDue = some (k, y, b) →
    s.gives (.ageSwap r) (fun t => swap k y b false 0 t ∧ ∀ j, j ≠ k → (t.arch r.uid r.tid).entry j = a.entry j) ∧
    (k, y, false) ∈ a.frags ∧ 256 ≤ y.age ∧ y.st ≠ .joinwait ∧ (∀ e ∈ a.frags, e.2.2 = false → e.2.1.st ≠ .joinwait → e.2.1.age ≤ y.age) ∧
    (a.slot b).st ≠ .blocked ∧ (a.slot b).st ≠ .empty ∧ (a.slot b).started = false ∧ (a.slot b).issuedHere = true) ∧
  (∀ k y b, h.st = .running → (∀ e ∈ a.frags, e.2.2 = false) → a.starveDue s.cycles = some (k, y, b) →
    s.gives (.starvationSwap r) (fun t => swap k y b true (a.slot b).lastIssue t) ∧
    (k, y, false) ∈ a.frags ∧ y.st ≠ .joinwait ∧ (a.slot b).st = .blocked ∧ (a.slot (!b)).st ≠ .ready ∧
    (∃ n, a.starveCyc = some n ∧ n + 64 ≤ s.cycles) ∧
    (∀ e ∈ a.frags, e.2.2 = false → e.2.1.st ≠ .joinwait → e.2.1.age ≤ y.age)))

/-- Faults and stops that no word raises. A late or asynchronous fault that waits at a slot is taken at its next clause boundary (R391,
R392); WATCHDOG is taken at the word, the waiting `join` or the page of a clause at which a pair has stood suspended for longer than the
partition's limit (R395); a breakpoint on the clause of a selected pair, its tokens clear, stops the crew before it issues, and a watchpoint
stops it at the selected word that would touch the range by a kind of access and a handle that it names, with a stop record of the pair, its
hits and lanes (R414 to R418); a word that R81 gives no meaning is ILLEGAL_INSTRUCTION. Upsets (R401 to R403). A strike replays every thread
of its cores. A residue mismatch replays the core of the word and counts one event for each of its classes; the third in a row on one word
is RESIDUE_PERSISTENT. An uncorrectable error poisons the byte, lane, register or tile word it names and changes no value; the group that
consumes poison is killed, its crew is abandoned, which releases its words that wait at barriers, and the journal records a FAULT of code
0x20. Rests also on the model's own reading, log entries 30, 43 and 82. -/
def Obligations.FaultsStopsAndStrikes : Prop :=
  (∀ (s : State) (p : PairRef),
  let c := s.crew p.uid
  let h := s.thread p.uid p.tid
  let x := s.slot p
  let free : Prop := x.priv = none ∧ (∀ f, x.wait ≠ some (.trapClear f)) ∧ x.wait ≠ some .halted
  let queue (b : Bool) (t : Thread) : List FaultInfo := if b then t.pendB else t.pendA
  (∀ f l, c.goes = true → h.st = .running → x.started = false → x.word = 0 →
    (x.st = .ready ∨ (x.st = .blocked ∧ ∀ n, x.wait ≠ some (.copyYield n))) → free → queue p.slotB h = f :: l →
    ∃ u : State, s.OnlyThread u ⟨p.uid, p.tid⟩ ∧ u.arch p.uid p.tid = h.arch ∧ queue p.slotB (u.thread p.uid p.tid) = l ∧
      exec (.trapDelivery p) s = .next ((u.drainWindow p.uid p.tid).take p f x.pc 0)) ∧
  (∀ ms, ms = (s.part c.pref).watchdogMs →
    let atWord := x.st = .joinwait ∨ (x.st = .blocked ∧ (x.started = true ∨ ∃ d g f, x.wait = some (.page d g f)))
    let v := s.drainWindow p.uid p.tid
    c.goes = true → h.st = .running → atWord → free → (s.part c.pref).wdPausedAt = none → ms ≠ 0 →
    (ms * 1000000 < s.now - x.wdSince → ∃ u : State, v.OnlyThread u ⟨p.uid, p.tid⟩ ∧
      (x.st ≠ .joinwait → u.thread p.uid p.tid = v.thread p.uid p.tid) ∧ (∀ b, (u.arch p.uid p.tid).slot b = h.arch.slot b) ∧
      (∀ k e, x.st = .joinwait → h.arch.findDiv x.divid = some (k, e) → (u.arch p.uid p.tid).entry k =
        .div { e with arrived := e.arrived &&& ~~~x.mask, pending := e.pending + 1 }) ∧
      exec (.watchdogExpiry p) s = .next (u.take p { exc := .watchdog, eng := if x.started = true ∨ x.st = .joinwait
        then (x.hw.extractLsb' 24 4).toNat else 0 } x.pc x.word)) ∧
    (s.now - x.wdSince ≤ ms * 1000000 → s.gives (.watchdogExpiry p) (· = s))) ∧
  (∀ k w, let e := (s.refreshBlk p.uid p.tid).modArch p.uid p.tid fun a => { a with starveCyc := none }
    let v := if e.wakes p then e.resume p else e
    let y := v.slot p
    let g := v.thread p.uid p.tid
    let hits := (v.crew p.uid).bpHits p y.pc
    s.eligible p = true → y.started = false → y.word = 0 → y.priv = none → g.pendOf p.slotB = [] → (g.swapped = true ∨ g.arch.swapDue = none) →
    Store.get 0 g.arch.stepLeft (boolNat p.slotB) ≠ 1 → v.fetchWord (v.crew p.uid) y 0 y.pc.toNat = .word w → decodeHeader w = some k →
    ((g.tokensClear k.twait = false ∨ y.skipBp = true ∨ hits = 0) → s.gives (.breakpointHit p) (· = s)) ∧
    (g.tokensClear k.twait = true → y.skipBp = false → hits ≠ 0 → (v.crew p.uid).stop = none →
      s.gives (.breakpointHit p) fun t => v.StopBegan t p 0x28 hits y.mask { y with skipBp := true })) ∧
  (s.eligible p = false → s.gives (.breakpointHit p) (· = s) ∧ ∀ n l, s.gives (.watchpointHit p n l) (· = s)) ∧
  (∀ n pc, n < 8 → ((c.bpHits p pc).getLsbD n = true ↔
    let v := Store.get 0 c.bp n
    v.getLsbD 31 = true ∧ v.extractLsb' 32 32 = pc ∧ (v.getLsbD 30 = true → (v.extractLsb' 24 6).toNat = p.tid) ∧
      (v.getLsbD 23 = true → v.getLsbD 22 = p.slotB))) ∧
  (∀ i u w a n lanes, s.eligible p = true → s.issueNext p = .run i u → u.accessOf i = some (w, a) →
    let takes : Prop := u.reaches w a = true ∧ (u.wpHits a).getLsbD n = true ∧ lanes = u.wpLanes n a
    (¬ takes → s.gives (.watchpointHit p n lanes) (· = s)) ∧
    (takes → exec i u = exec (.watchpointHit p n lanes) s ∧ (u.ccrew.stop = none → s.gives (.watchpointHit p n lanes) fun t =>
      let r := t.ccrew.stopRec
      t.ccrew.stop = some .hit ∧ r.proc = u.procOf u.ccrew ∧ r.taskCrew = BitVec.ofNat 64 (u.ccrew.task * 2 ^ 32 + u.ccrew.idx) ∧
      r.where_ = BitVec.ofNat 64 (whereDword u.ccrew.core u.cur.tid u.cur.slotB) ∧ r.code = 0x29 ∧
      (∀ j, j < 32 → (r.hits.getLsbD j = true ↔ 8 ≤ j ∧ (u.wpHits a).getLsbD (j - 8) = true) ∧
        (r.lanes.getLsbD j = true ↔ ∃ m, m < 4 ∧ (u.wpHits a).getLsbD m = true ∧ (u.wpLanes m a).getLsbD j = true)) ∧
      t.cslot.st = .blocked ∧ t.cslot.wait = some .stopped ∧ t.cslot.pc = u.cur.hdr ∧ t.cslot.word = u.cur.word ∧
      t.cslot.skipWp = u.cslot.skipWp ||| u.wpHits a ∧ t.mem = u.mem ∧ t.ccrew.scratch = u.ccrew.scratch ∧ (∀ m, t.rdS m = u.rdS m) ∧
      (∀ m l, t.rdV m l = u.rdV m l) ∧ ∀ m, m ≠ u.cur.tid → t.thread u.cur.uid m = u.thread u.cur.uid m))) ∧
  (∀ k w, s.issuerReady = true → decode k w = none → ∃ f : FaultInfo, f.exc = .illegalInstruction ∧ f.lanes = none ∧
    exec (.reservedOpcodeWord k w) s = .next (s.faultWord f))) ∧
  (∀ (s : State) (a : Access) n, n < 4 → let k := Store.get 0 s.ccrew.wp (3 * n + 2)
    let named : Prop := if k.getLsbD 21 = true then a.hn = 1 else if k.getLsbD 20 = true then a.hn = 0 else 2 ≤ a.hn ∧ (s.memH a.hn).idx = k.setWidth 20
    let kind : Prop := k.getLsbD (match a.kind with
      | .load => 24
      | .store => 25
      | .atomic => 26) = true
    ((s.wpHits a).getLsbD n = true ↔ s.cslot.skipWp.getLsbD n = false ∧ s.wpLanes n a ≠ 0) ∧
    ∀ l, l < 32 → ((s.wpLanes n a).getLsbD l = true ↔ k.getLsbD 31 = true ∧ kind ∧ named ∧ (s.cslot.priv = none ∨ s.cfg.vendor = true) ∧ l ∈ a.list ∧
      (a.off l).toNat ≤ (Store.get 0 s.ccrew.wp (3 * n + 1)).toNat ∧ (Store.get 0 s.ccrew.wp (3 * n)).toNat < (a.off l).toNat + a.n)) ∧
  (∀ s : State,
  (∀ cores : List Nat, cores.Nodup → s.gives (.strike cores) fun t => s.ReplayedCores t cores) ∧
  (∀ (r : ThreadRef) j e, (s.thread r.uid r.tid).window[j]? = some e → (∀ k ∈ e.caps, k < 64) →
    let h := s.thread r.uid r.tid
    let n := if h.residueNo = e.no then h.residue + 1 else 1
    let core := (s.crew r.uid).core
    ∃ u : State, (let v : State := { u with kiln := s.kiln }
      s.ReplayedCores v [core]) ∧
      (∀ k, k < 64 → u.kilnOf core k = if k ∈ e.caps then (s.kilnOf core k).event s.now else s.kilnOf core k) ∧
      (n < 3 → s.gives (.residueMismatch (.word r j)) fun t => u.OnlyThread t r ∧
        t.thread r.uid r.tid = { u.thread r.uid r.tid with residue := n, residueNo := e.no }) ∧
      (3 ≤ n → ∃ v : State, u.OnlyThread v r ∧ v.thread r.uid r.tid =
          { h with arch := e.before, window := h.window.filter (·.no < e.no), issued := e.no
                   sq := h.sq.filter fun w => w.kind != .store || w.at_ < e.no, fence := h.fence.filter (·.2 < e.no), residue := 0 } ∧
        exec (.residueMismatch (.word r j)) s = .next ((v.drainWindow r.uid r.tid).take ⟨r.uid, r.tid, e.slotB⟩
          { exc := .residuePersistent, eng := e.eng } e.hdr e.word))) ∧
  (∀ a, s.gives (.uncorrectableError (.mem a)) fun t => t = { s with poison := t.poison } ∧
    ∀ b, Store.get false t.poison b = (Store.get false s.poison b || b == a)) ∧
  (∀ u o, s.gives (.uncorrectableError (.scratch u o)) fun t => s.OnlyCrew t u ∧
    t.crew u = { s.crew u with scrPoison := (t.crew u).scrPoison } ∧
    ∀ b, Store.get false (t.crew u).scrPoison b = (Store.get false (s.crew u).scrPoison b || b == o)) ∧
  (∀ (r : ThreadRef) n l,
    let spoils (site : EccSite) (key : Nat) : Prop := s.gives (.uncorrectableError site) fun t => s.OnlyCrew t r.uid ∧
      t.crew r.uid = { s.crew r.uid with regPoison := (t.crew r.uid).regPoison } ∧
      ∀ k, Store.get false (t.crew r.uid).regPoison k = (Store.get false (s.crew r.uid).regPoison k || k == key)
    spoils (.vreg r n l) (regOff r.tid n l) ∧ spoils (.sreg r n) (regKey r.tid n) ∧ spoils (.preg r n) (regKey r.tid (64 + n)) ∧
    spoils (.hreg r n) (regKey r.tid (128 + n))) ∧
  (∀ u o, s.gives (.uncorrectableError (.tile u o)) fun t => s.OnlyCrew t u ∧
    t.crew u = { s.crew u with tilePoison := (t.crew u).tilePoison } ∧
    ∀ b, Store.get false (t.crew u).tilePoison b = (Store.get false (s.crew u).tilePoison b || b == o)) ∧
  (∀ r : ThreadRef, let h := s.thread r.uid r.tid
    let c := s.crew r.uid
    let free (x : Slot) : Slot := match x.st, x.wait with
      | .blocked, some (.barrier _ _) => { x with wait := some (.released 2 0) }
      | _, _ => x
    h.st = .running → (∃ b, (h.arch.slot b).st = .blocked ∧ (h.arch.slot b).wait = some .poison) →
    s.gives (.poisonConsume r) fun t => t = { s with crews := t.crews, parts := t.parts, journal := t.journal, head := s.head + 1 } ∧
      (∀ u, u ≠ r.uid → t.crew u = s.crew u) ∧
      (∀ k, k ≠ r.tid → t.thread r.uid k = (s.thread r.uid k).mapArch (Arch.mapSlots · free)) ∧
      (t.thread r.uid r.tid).st = .exited ∧ (∀ w ∈ (t.thread r.uid r.tid).sq, w ∈ h.sq ∧ (w.gone = true ∨ w.posted ≠ none)) ∧
      (∀ n l, n < 64 → l < 32 → Store.get false (t.crew r.uid).regPoison (regOff r.tid n l) = false) ∧
      (t.crew r.uid).abandon = true ∧
      t.journal.getLast? = some ⟨s.head, s.now, 9, 0, c.ldev, c.part, [c.task, c.idx, 0x20, 2].map (BitVec.ofNat 64)⟩))

/-! ### Steps of the memory system and the engines -/

/-- A queued write is performed at its home lane by lane (R95, R297): a store's bytes, or the result of its atomic, stand there, and every
other byte of memory and scratch is as before; the lane leaves the queue. A write whose arena is dropped or sealed writes nothing and
becomes a late fault of the slot it issued from. A fill's return keeps the bytes written since, a slice's eviction of a sector and an L1's
write-back of a dirty private line change no byte (R93, R314). A fence completes behind every earlier local write, at die scope with the
queued invalidations of its core applied (R221); a flush completes behind every earlier posted write to its die (R222). Rests also on the
model's own reading, log entries 12 and 36. -/
def Obligations.HomeSteps : Prop := ∀ (s : State) (r : ThreadRef),
  let h := s.thread r.uid r.tid
  let c := s.crew r.uid
  let ready (die : Option Nat) (w : PendWrite) : Prop := h.head die = some w ∧ h.retired w = true ∧
    ¬ (w.rel = true ∧ w.posted ≠ none ∧ h.localBefore w.at_ false = true)
  let kept (t : State) : Prop := t = { s with mem := t.mem, poison := t.poison, fills := t.fills, absent := t.absent, writes := t.writes
                                              hist := t.hist, sharers := t.sharers, cores := t.cores, crews := t.crews } ∧
    (∀ k, t.core k = { s.core k with inval := (t.core k).inval, dirty := (t.core k).dirty }) ∧
    (∀ k, k ≠ c.core → (t.core k).dirty = (s.core k).dirty) ∧ (∀ u, (t.crew u).cpy = (s.crew u).cpy ∧ (t.crew u).mtx = (s.crew u).mtx ∧
      (t.crew u).arn = (s.crew u).arn ∧ (t.crew u).msg = (s.crew u).msg) ∧
    (∀ u k, (u ≠ r.uid ∨ k ≠ r.tid) → t.thread u k = s.thread u k)
  let wrote (t : State) (l : Loc) (bs : List Byte) : Prop := (∀ a, t.peek (.mem a) = overlay s.peek l bs (.mem a)) ∧
    (∀ u o, t.peek (.scr u o) = overlay s.peek l bs (.scr u o))
  let queued (t : State) (die : Option Nat) (w : PendWrite) (rest : List LaneWrite) : Prop :=
    ∃ pre post, h.sq = pre ++ w :: post ∧ (∀ e ∈ pre, e.posted ≠ die) ∧
      t.thread r.uid r.tid = { h with sq := if rest = [] then pre ++ post else pre ++ { w with lanes := rest } :: post
                                      seen := (t.thread r.uid r.tid).seen }
  let stale (w : PendWrite) (l : LaneWrite) (a : ArenaRef) : Prop := let x := s.arena a
    w.stale = true ∨ x.staleBit = true ∨ l.loc.slice ∈ x.staleAt ∨ x.gen ≠ w.gen
  let sealed (l : LaneWrite) (a : ArenaRef) : Prop := (s.arena a).sealBit = true ∨ l.loc.slice ∈ (s.arena a).sealAt
  let open_ (w : PendWrite) (l : LaneWrite) : Prop := match w.arena with
    | none => True
    | some a => ¬ stale w l a ∧ ¬ sealed l a
  let place (l : LaneWrite) : Prop := s.cutOff c.die l.loc = false ∧ match l.loc with
    | .reg _ _ => False
    | _ => True
  (∀ die absent w l rest, ready die w → w.lanes = l :: rest → w.kind = .store → w.failExc = none → open_ w l → place l →
    s.gives (.accessAtHome (.store r die absent)) fun t => kept t ∧ wrote t l.loc l.bytes ∧ queued t die w rest) ∧
  (∀ die absent w l rest ty k v, ready die w → w.lanes = l :: rest → w.kind = .atomic ty k → w.failExc = none → open_ w l → place l →
    s.filling l.loc l.bytes.length = none → s.poisoned l.loc l.bytes.length = false → atomOp ty k (valueAt s.peek l.loc l.bytes.length) (leNat l.bytes) l.cmp.toNat = some v →
    s.gives (.accessAtHome (.store r die absent)) fun t => kept t ∧ wrote t l.loc (leBytes l.bytes.length v) ∧ queued t die w rest) ∧
  (∀ die absent w l a, ready die w → w.lanes = [l] → w.kind = .store → w.failExc = none → w.absorbed = false → w.gone = false →
    w.arena = some a → (stale w l a ∨ sealed l a) →
    h.st = .running → (h.arch.slot w.slotB).st ≠ .empty →
    s.gives (.accessAtHome (.store r die absent)) fun t => t.mem = s.mem ∧ (∀ u, (t.crew u).scratch = (s.crew u).scratch) ∧
      ∃ f : FaultInfo, f.late = true ∧ f.hreg = some w.hreg ∧ f.info = w.hdr ∧ f.sword = w.word ∧
        ((stale w l a ∧ f.exc = .arenaStale) ∨ (¬ stale w l a ∧ f.exc = .sealedWrite)) ∧
        (t.thread r.uid r.tid).pendOf w.slotB = h.pendOf w.slotB ++ [f]) ∧
  (∀ d k, d < 4 → k < 2 ^ 43 → s.gives (.fillReturn d k) fun t => t = { s with fills := t.fills } ∧
    ∀ j, Store.get 0 t.fills j = if j = d * 2 ^ 43 + k then 0 else Store.get 0 s.fills j) ∧
  (∀ d k, d < 4 → k < 2 ^ 43 → s.gives (.accessAtHome (.evict d k)) fun t => t = { s with absent := t.absent } ∧
    ∀ j, Store.get false t.absent j =
      (Store.get false s.absent j || (j == d * 2 ^ 43 + k && Store.get 0 s.fills j == 0))) ∧
  (∀ n line, s.gives (.accessAtHome (.writeBack n line)) fun t => t = { s with cores := t.cores } ∧
    (∀ k, t.core k = if k = n then { s.core n with dirty := (t.core n).dirty } else s.core k) ∧
    ∀ j, Store.get [] (t.core n).dirty j = if j = line then [] else Store.get [] (s.core n).dirty j) ∧
  (∀ k m, h.fence = some (k, m) → h.localBefore m (fenceLoads (k % 8)) = false → s.gives (.fenceComplete r) fun t =>
    t = { s with crews := t.crews, cores := t.cores } ∧ s.OnlyThread { t with cores := s.cores } r ∧
    (let y := t.thread r.uid r.tid
     y = { h with fence := none, floor := y.floor, seen := y.seen } ∧
      if k / 8 = 0 then h.floor ≤ y.floor ∧ y.seen = h.seen else y.floor = s.writes ∧ y.seen = []) ∧ (∀ n, n ≠ c.core → t.core n = s.core n) ∧
    t.core c.core = if k / 8 = 0 then s.core c.core else { s.core c.core with inval := [] }) ∧
  (∀ k m, h.fence = some (k, m) → h.localBefore m (fenceLoads (k % 8)) = true → s.gives (.fenceComplete r) (· = s)) ∧
  (∀ die n m, h.flushes.find? (fun f => f.1 == die) = some (die, n, m) → (∀ w ∈ h.sq, w.posted = some die → w.gone = false → m ≤ w.at_) →
    s.gives (.flushComplete r die) fun t => s.OnlyThread t r ∧ t.thread r.uid r.tid =
      { h with flDone := (t.thread r.uid r.tid).flDone, flushes := (t.thread r.uid r.tid).flushes } ∧
      (∀ d, Store.get 0 (t.thread r.uid r.tid).flDone d = if d = die then n else Store.get 0 h.flDone d) ∧
      (die, n, m) ∉ (t.thread r.uid r.tid).flushes)

/-- Pages and links. A resolved page fault maps the page and lets the word or operation reissue whole; a fatal one is PAGE_FATAL at the
word, or ends the operation in error (R90). A mapping change takes the page's entries out of the device's cores and changes no byte (R91); a
walk leaves an entry at every core of its die that waits for it (R89). OCC is a report of an arena's lines (R291). A failed link is
journalled with the devices that no path reaches any more, and changes nothing else (R353). What engine contexts do without a word. A
completed operation arrives at its barrier, leaves its token and counts in its timeline, in that order of effect (R15, R18); in error it
arrives nowhere and its fault waits at the slot that issued it (R19). FREEZE stops a context's running operations, and its end lets them go
on (R252, R283). A `qpost` that has found no room when its limit passes ends as QFULL (R254). Seals and drops run through their broadcasts
to their ends (R307, R310). Rests also on the model's own reading, log entries 36, 37, 48, 62 and 79. -/
def Obligations.PagesLinksAndEngines : Prop :=
  (∀ s : State,
  let mapped (t : State) (d g n : Nat) (on : Bool) : Prop := ∀ e q, q < 2 ^ 32 → e < 4 →
    t.pagePresent e q = if e = d ∧ g ≤ q ∧ q < g + n then on else s.pagePresent e q
  let resolved (t : State) (d g : Nat) : Prop := mapped t d (s.pageAt d g).2 (pageUnits (s.pageAt d g).1) true
  let still (t : State) : Prop := t = { s with absentPages := t.absentPages, pageSize := t.pageSize, crews := t.crews, cores := t.cores } ∧
    (∀ u, (t.crew u).scratch = (s.crew u).scratch) ∧ ∀ u k, (t.thread u k).arch.s = (s.thread u k).arch.s ∧ (t.thread u k).arch.v = (s.thread u k).arch.v
  (∀ p d g f, d < 4 → g < 2 ^ 32 → (s.slot p).wait = some (.page d g f) → (s.slot p).st = .blocked → s.runs p.uid p.tid = true →
    s.gives (.pageFaultResolve (.pair p) d g true) (fun t => still t ∧ resolved t d g ∧ t.slot p = { s.slot p with st := .ready }) ∧
    ((s.crew p.uid).goes = true → exec (.pageFaultResolve (.pair p) d g false) s =
      .next ((s.drainWindow p.uid p.tid).take p f (s.slot p).pc (s.slot p).word))) ∧
  (∀ o op d g f, d < 4 → g < 2 ^ 32 → s.op? o = some op → op.waitPage = some (d, g, f) →
    s.gives (.pageFaultResolve (.op o) d g true) (fun t => still t ∧ resolved t d g ∧ t.op? o = some { op with waitPage := none }) ∧
    s.gives (.pageFaultResolve (.op o) d g false) (fun t => s.OnlyCrew t o.uid ∧
      t.op? o = some { op with waitPage := none, st := .done, err := some f })) ∧
  (∀ d g z on, d < 4 → g < 2 ^ 32 → z ≤ 2 → g % pageUnits z = 0 → s.gives (.mappingChange d g ⟨z, on⟩) fun t => still t ∧
    mapped t d g (pageUnits z) on ∧ ∀ k, t.core k = if coreDie k = d then { s.core k with tlb := (s.core k).tlb.filter fun x =>
      !(x.1 == d && g ≤ x.2 && x.2 < g + pageUnits z) && x != (d, (s.pageAt d g).2) } else s.core k) ∧
  (∀ die d g, let waits (x : Slot) : Prop := x.st = .blocked ∧ x.wait = some (.walk d g)
    let here (k : Nat) : Prop := ∃ e ∈ s.crews, e.2.die = die ∧ e.2.core = k ∧ ∃ h ∈ e.2.threads, waits h.2.arch.a ∨ waits h.2.arch.b
    ((die, d, g) ∉ s.walks → s.gives (.translationWalk die d g) (· = s)) ∧
    ((die, d, g) ∈ s.walks → s.gives (.translationWalk die d g) fun t =>
      t = { s with cores := t.cores, walks := s.walks.erase (die, d, g) } ∧ (∀ k, ¬ here k → t.core k = s.core k) ∧
      ∀ k, here k → t.core k = { s.core k with tlb := (t.core k).tlb } ∧ (d, g) ∈ (t.core k).tlb ∧
        ((s.core k).tlb.length ≤ 2048 → (t.core k).tlb.length ≤ 2048) ∧ ∀ e ∈ (t.core k).tlb, e = (d, g) ∨ e ∈ (s.core k).tlb)) ∧
  (∀ a n, (s.arena a).st ≠ .free → n.toNat ≤ max (capLines (s.arena a).cap) (s.arena a).occ.toNat → s.gives (.occReport a n) fun t =>
    t = { s with arenas := t.arenas } ∧ t.arena a = { s.arena a with occ := n, occNs := s.now } ∧
    ∀ b, arenaKey b ≠ arenaKey a → t.arena b = s.arena b) ∧
  (∀ l, isLink l = true → (∀ m ∈ s.links, linkEnds m ≠ linkEnds l) → s.gives (.linkFailure l) fun t =>
    t = { s with links := s.links ++ [l], deadDevs := t.deadDevs, journal := t.journal, head := s.head + 1 } ∧
    t.deadDevs = lostDevs (s.links ++ [l]) ∧ (∃ r, t.journal.getLast? = some r ∧ r.seq = s.head ∧ r.kind = 8 ∧ r.ldev = 0xFF ∧ r.part = 0xFF)) ∧
  lostDevs [] = [] ∧ lostDevs [.brew 0] = [] ∧ lostDevs [.ring 0 1, .ring 3 0, .brew 0] = [0]) ∧
  (∀ s : State,
  (∀ (o : OpRef) op, s.op? o = some op → op.st = .done → (s.crew o.uid).mayFinish = true → (s.crew o.uid).stop = none →
    ¬ (o.ctx = .message ∧ op.opcode = 6) → s.gives (.asyncComplete o) fun t =>
    let x := (s.crew o.uid).ctx o.ctx
    let y := (t.crew o.uid).ctx o.ctx
    let tok := (s.thread o.uid op.tid).token op.tok
    y.ops = x.ops.filter (fun q => q.num != op.num) ∧ y.last = x.last ∧ y.freeze = x.freeze ∧
      (∀ n, (n ≤ y.timeline ∨ n ∈ y.done) ↔ (n ≤ x.timeline ∨ n ∈ x.done ∨ n = op.num)) ∧ y.timeline + 1 ∉ y.done ∧
      (t.thread o.uid op.tid).token op.tok = ⟨decide (1 < tok.cnt), tok.cnt - 1⟩ ∧
      (∀ k, k ≠ op.tok → (t.thread o.uid op.tid).token k = (s.thread o.uid op.tid).token k) ∧
      (∀ off, op.bar = some off → op.err = none → op.param = false → op.qfull = false → t.rdBar o.uid off =
        ((s.rdBar o.uid off).arrive (match o.ctx with
          | .copy => op.bytes
          | .matrix => if op.opcode = 7 then op.bytes else 1
          | .arena => 1
          | .message => 160)).1) ∧
      ((op.bar = none ∨ op.err ≠ none) → ∀ a, t.peek (.scr o.uid a) = s.peek (.scr o.uid a)) ∧
      (∀ f, op.err = some f → f.exc ≠ .dataUncorrectable → (s.thread o.uid op.tid).st = .running → (s.slot ⟨o.uid, op.tid, op.slotB⟩).st ≠ .empty →
        (t.thread o.uid op.tid).pendOf op.slotB = (s.thread o.uid op.tid).pendOf op.slotB ++
          [{ f with asyn := true, info := BitVec.ofNat 32 op.num, sword := op.word }])) ∧
  (∀ u v, (s.crew u).st ≠ .retired →
    let froze (whole : Bool) (x y : EngCtx) : Prop := y.freeze = v ∧ y = { x with freeze := y.freeze, ops := y.ops } ∧
      y.ops = x.ops.map fun o =>
        let whole_ := whole = true ∧ (o.opcode = 2 ∨ o.opcode = 8)
        { o with st := if v = true ∧ ((o.st = .running ∧ ¬ whole_) ∨ (whole = true ∧ x.steps o = true)) then .stopped
            else if v = false ∧ o.st = .stopped then .running else o.st }
    s.gives (.cpyFreeze u v) (fun t => s.OnlyCrew t u ∧ t.crew u = { s.crew u with cpy := (t.crew u).cpy } ∧ froze true (s.crew u).cpy (t.crew u).cpy) ∧
    s.gives (.mtxFreeze u v) (fun t => s.OnlyCrew t u ∧ t.crew u = { s.crew u with mtx := (t.crew u).mtx } ∧ froze false (s.crew u).mtx (t.crew u).mtx)) ∧
  (∀ u n op, s.op? ⟨u, .copy, n⟩ = some op → s.roomLate op = true → (s.postQueue ⟨u, .copy, n⟩ op).1 ≤
      (s.postQueue ⟨u, .copy, n⟩ op).2.2.1 - (s.postQueue ⟨u, .copy, n⟩ op).2.2.2 → (s.crew u).mayFinish = true →
    s.gives (.qpostRoomLimit u n) fun t => s.OnlyCrew t u ∧ t.op? ⟨u, .copy, n⟩ = some { op with st := .done, qfull := true }) ∧
  (∀ u n op bit, s.op? ⟨u, .copy, n⟩ = some op → op.opcode = 2 → op.param = false → s.cpyReady ⟨u, .copy, n⟩ op = true → bit < 64 →
    (op.blk.getD 1 0).getLsbD bit = true → op.accMask.getLsbD bit = false → op.refMask.getLsbD bit = false →
    let c := s.crew u
    let d := op.blk.getD 3 0
    let doff := (d.extractLsb' 0 32).toNat
    let bar := (d.extractLsb' 32 32).toNat
    let mask : DWord := BitVec.ofNat 64 (2 ^ bit)
    let becomes (q : Op) : Prop := s.gives (.multicastReceive u n bit) fun t => s.OnlyCrew t u ∧ t.op? ⟨u, .copy, n⟩ = some q
    let refuses : Prop := becomes { op with st := .running, refMask := op.refMask ||| mask }
    match s.crewOf c.ldev c.task (((op.blk.getD 2 0).extractLsb' 32 32).toNat + bit) with
    | none => refuses
    | some v =>
      let h := s.hdrOf (s.crew v)
      let b := s.rdBar v bar
      let takes : Prop := (s.crew v).mayRun = true ∧ doff + op.total ≤ h.scratch ∧ bar % 16 = 0 ∧ bar + 16 ≤ h.scratch + 128 * h.hslots ∧
        b.armed = true ∧ b.pending = b.expect
      (op.heard.getLsbD bit = false → takes → becomes { op with st := .running, heard := op.heard ||| mask }) ∧
      (op.heard.getLsbD bit = false → ¬ takes → refuses) ∧
      (op.heard.getLsbD bit = true → (s.crew v).mayFinish = false → refuses) ∧
      (op.heard.getLsbD bit = true → (s.crew v).mayFinish = true → op.wrote.getLsbD bit = false →
        s.opStop ⟨u, .copy, n⟩ (addrReg (op.blk.getD 0 0)) op.ha op.src op.total true false = none → s.gives (.multicastReceive u n bit) fun t =>
          (∀ o, t.peek (.scr v o) = overlay s.peek (.scr v doff) (s.opRead ⟨u, .copy, n⟩ op.ha op.src op.total) (.scr v o)) ∧
          t.mem = s.mem ∧ t.op? ⟨u, .copy, n⟩ = some { op with st := .running, wrote := op.wrote ||| mask }) ∧
      (op.heard.getLsbD bit = true → (s.crew v).mayFinish = true → op.wrote.getLsbD bit = true → (s.crew v).trace.on = false →
        s.gives (.multicastReceive u n bit) fun t => (∀ o, (o < bar ∨ bar + 16 ≤ o) → t.peek (.scr v o) = s.peek (.scr v o)) ∧
          t.rdBar v bar = (b.arrive op.total).1 ∧ t.mem = s.mem ∧ t.op? ⟨u, .copy, n⟩ = some
            { op with st := .running, accMask := op.accMask ||| mask, bytes := op.total
                      row := if (b.arrive op.total).2 then op.row else 1 })) ∧
  (∀ (a : ArenaRef) set cache, let p : PartRef := ⟨a.ldev, a.part⟩
    let at_ (i : Nat) : ArenaRef := ⟨a.ldev, a.part, i⟩
    let l := s.setBytes p set
    let cleaned (t : State) (n : Nat) : Prop := t.core n = { s.core n with dirty := (t.core n).dirty, inval := (t.core n).inval } ∧
      ∀ k, if inRanges l (128 * k) 128 = true then Store.get [] (t.core n).dirty k = [] ∧ ∀ i ∈ (t.core n).inval, i.line ≠ k
        else Store.get [] (t.core n).dirty k = Store.get [] (s.core n).dirty k ∧
          (t.core n).inval.filter (·.line == k) = (s.core n).inval.filter (·.line == k)
    (s.part p).sealOps.find? (fun e => e.1 == a.idx) = some (a.idx, set) → (∀ i ∈ set, i < 4096) → set.Nodup →
    ((∃ i ∈ set, (s.arena (at_ i)).sealBit = false) → (∀ k, cache = some k → k < 512) → s.gives (.sealBroadcast ⟨a, cache⟩) fun t =>
      t = { s with arenas := t.arenas, cores := t.cores } ∧
      (∀ i, i < 4096 → let x := s.arena (at_ i)
        t.arena (at_ i) = if i ∈ set then (match cache with
          | none => { x with sealBit := true, sealAt := [] }
          | some k => { x with sealAt := k :: x.sealAt }) else x) ∧
      ∀ n, if cache = none ∨ (cache = some n ∧ n < 256) then cleaned t n else t.core n = s.core n) ∧
    ((∀ i ∈ set, (s.arena (at_ i)).sealBit = true) → s.gives (.sealComplete a) fun t => t.mem = s.mem ∧
      (∀ i, i < 4096 → t.arena (at_ i) = if i ∈ set then { s.arena (at_ i) with st := .sealed_ } else s.arena (at_ i)) ∧
      (t.part p).sealOps = (s.part p).sealOps.erase (a.idx, set) ∧
      (∀ u, (t.crew u).arn.ops = (s.crew u).arn.ops.map fun o =>
        if (s.crew u).pref = p ∧ o.opcode = 2 ∧ o.names set = true then { o with st := .done } else o))) ∧
  (∀ (p : PartRef) cache back, let set := (s.part p).dropMask
    let at_ (i : Nat) : ArenaRef := ⟨p.ldev, p.part, i⟩
    set ≠ [] → (∀ i ∈ set, i < 4096) → set.Nodup →
    ((∃ i ∈ set, (s.arena (at_ i)).staleBit = false) → (∀ k, cache = some k → k < 512) →
      (∀ n, ∀ e ∈ (s.core n).dirty, e.2.length ≤ 128) → s.gives (.dropBroadcast ⟨p, cache⟩) fun t =>
      t = { s with mem := t.mem, arenas := t.arenas, crews := t.crews, cores := t.cores, sharers := t.sharers, fills := t.fills
                   absent := t.absent } ∧
      (∀ x, inRanges (s.setBytes p set) (x / 128 * 128) 128 = false → t.peek (.mem x) = s.peek (.mem x)) ∧
      (∀ i, i < 4096 → let x := s.arena (at_ i)
        t.arena (at_ i) = if i ∈ set then (match cache with
          | none => { x with staleBit := true, staleAt := [] }
          | some k => { x with staleAt := k :: x.staleAt }) else x) ∧
      (∀ n k, (cache = none ∨ (cache = some n ∧ n < 256)) → inRanges (s.setBytes p set) (128 * k) 128 = true →
        Store.get [] (t.core n).dirty k = [] ∧ ∀ i ∈ (t.core n).inval, i.line ≠ k) ∧
      ∀ u k n, let h := Store.get {} (s.thread u k).arch.h n
        let reached := cache = none ∨ (cache = some (s.crew u).core ∧ (s.crew u).core < 256)
        h ≠ {} → Store.get {} (t.thread u k).arch.h n =
          if reached then { h with stale := h.stale || h.ent.inSet (s.crew u).pref p set } else h) ∧
    ((∀ i ∈ set, (s.arena (at_ i)).staleBit = true) → s.gives (.dropComplete ⟨p, back⟩) fun t =>
      (∀ i ∈ set, let x := s.arena (at_ i)
        t.arena (at_ i) = { gen := x.gen, retired := x.gen == 0xFFFFF, staleBit := true }) ∧
      (∀ q i, i < 2 ^ 20 → q.part < 8 → let e := s.handle q i
        t.handle q i = if e.valid = true ∧ e.inSet q p set = true then e.invalidate else e) ∧
      (t.part p).dropMask = (s.part p).dropNext ∧ (t.part p).dropNext = [])))

/-! ### Messages and rounds without a word -/

/-- The way of messages. A node with readiness gives a message to a ready crew of its core; else it sends it to a child with a positive
count; else to its parent, and a message that came down bounces (R337). A bounce zeroes the child's count, and after 8, as an ORD message
always, the message climbs to the root. An ORD message is acknowledged before it leaves (R339). Deliveries write a whole ring slot (R340) or
spawn the handler (R327, R328); messages of a deleted group are discarded where it has no orphan handler (R331). Rounds. A node that has its
own contribution and its children's partials combines them in order, a remote subtree's behind port 4 last; the root's is the result (R346),
or goes on to a fabric tree, whose result comes down to it (R350); a member writes the result, arrives at its barrier, and the last one ends
the round; a round whose timer runs out ends as TIMEOUT with the members that have not posted (R347). A halt on a fabric tree freezes the
timers of its collectives, or under abort-on-halt ends their rounds as PEER_HALTED; its end lets the timers go on from where they stood
(R351). Rests also on the model's own reading, log entries 33, 39, 44, 49 and 71. -/
def Obligations.MessagesAndRounds : Prop :=
  (∀ s : State,
  (∀ p gid k n tr nd up port total rest, n = Store.get {} (s.group p gid).nodes k → (s.part p).tree (s.group p gid).tree = some tr →
    treeNode tr k = some nd → nd.parent = some (up, port) → up ≠ k → n.sent = total :: rest →
    s.gives (.readinessReport p gid k) fun t => s.OnlyPart t p ∧ s.Reports t p gid k up port total rest) ∧
  (∀ (m : MsgRef) x tr nd k, let p : PartRef := ⟨m.ldev, m.part⟩
    let g := s.group p m.gid
    let n := Store.get {} g.nodes k
    let count (q : Nat) : Nat := Store.get 0 n.c q
    let kid (q : Nat) : Option Nat := (nd.kids.find? fun e => e.1 == q).map Prod.snd
    s.loaded m x → (s.part p).tree g.tree = some tr → treeNode tr k = some nd → tr.root ≠ k →
    (x.at_ = .up k → x.ord = true → s.gives (.messageSteer m) fun t => s.OnlyMsg t m { x with at_ := .climbing }) ∧
    (∀ u, (x.at_ = .down k ∨ (x.at_ = .up k ∧ x.ord = false)) → 0 < n.l → s.pickCrew p m.gid k n.crewRot = some u →
      (s.crew u).core = k →
      let r := s.ready u m.gid
      s.gives (.messageSteer m) (fun t => s.OnlyMsg t m { x with at_ := if r.spawn then .spawn u (r.slots.headD 0) r.handler else .ring u r.wpos r.ring, asg := (s.crew u).asg } ∧
        (t.ready u m.gid).amount = r.amount - 1 ∧ (Store.get {} (t.group p m.gid).nodes k).l = n.l - 1 ∧
        (Store.get {} (t.group p m.gid).nodes k).crewRot = (s.crew u).cslot + 1) ∧
      (Store.wf {} s.crews = true → r.amount ≠ 0 ∧ (s.crew u).pref = p)) ∧
    (∀ q c, (x.at_ = .down k ∨ (x.at_ = .up k ∧ x.ord = false)) → n.l = 0 → q < 5 → 0 < count q → kid q = some c →
      (∀ j, j < 5 → (j + 5 - n.portRot % 5) % 5 < (q + 5 - n.portRot % 5) % 5 → count j = 0 ∨ kid j = none) →
      s.gives (.messageSteer m) fun t => s.OnlyMsg t m { x with at_ := .down c } ∧
        (Store.get {} (t.group p m.gid).nodes k).portRot = (q + 1) % 5 ∧
        ∀ j, Store.get 0 (Store.get {} (t.group p m.gid).nodes k).c j = if j = q then count q - 1 else count j) ∧
    (∀ up port, n.l = 0 → (∀ q, q < 5 → count q = 0 ∨ kid q = none) → nd.parent = some (up, port) →
      (x.at_ = .up k → x.ord = false → s.gives (.messageSteer m) fun t => s.OnlyMsg t m { x with at_ := .up up }) ∧
      (x.at_ = .down k → s.gives (.messageSteer m) fun t => s.OnlyMsg t m { x with at_ := .bounced up port, bounces := x.bounces + 1 }))) ∧
  (∀ (m : MsgRef) x k port, let p : PartRef := ⟨m.ldev, m.part⟩
    s.gmsg? m = some x → x.at_ = .bounced k port → (x.ord = true ∨ 8 ≤ x.bounces) → s.gives (.messageBounce m) fun t =>
      s.OnlyMsg t m { x with at_ := .climbing } ∧ ∀ q, Store.get 0 (Store.get {} (t.group p m.gid).nodes k).c q =
        if q = port then 0 else Store.get 0 (Store.get {} (s.group p m.gid).nodes k).c q) ∧
  (∀ (m : MsgRef) x, s.gmsg? m = some x → x.at_ = .unacked → s.gives (.ordAck m) fun t => s.Gone t m false ∧ t.crews = s.crews ∧ t.mem = s.mem) ∧
  (∀ (m : MsgRef) x u pos ring, s.loaded m x → x.at_ = .ring u pos ring → s.firstAssigned u x.asg = true →
    let name := (s.group ⟨m.ldev, m.part⟩ m.gid).gen * 256 + m.gid
    s.gives (.ringDelivery m) fun t => s.Gone t m x.ord ∧ t.mem = s.mem ∧ (t.ready u m.gid).written = pos + 1 ∧
      (∀ o, t.peek (.scr u o) = overlay s.peek (.scr u (ring + 160 * (pos % 16))) (leBytes 8 (x.task * 2 ^ 32 + x.core % 256 * 256 + x.len) ++
        leBytes 8 (x.crew % 2 ^ 32) ++ leBytes 8 ((pos + 1) % 2 ^ 32 * 2 ^ 32 + name) ++ leBytes 8 0 ++ (List.range 128).map fun i => x.payload.getD i 0)
        (.scr u o)) ∧
      (t.crew u).msg.ops = (s.crew u).msg.ops.map fun o => if o.opcode = 4 ∧ o.ref_ = m.gid ∧ o.prog = pos then { o with st := .done } else o) ∧
  (∀ u m k l, let c := s.crew u
    c.goes = true → c.spawning = true → s.spawnable u = [] → s.oldestFor u = some m → m.arrived = true → s.openSlots u = k :: l →
    s.gives (.handlerSpawn u) fun t => s.Spawned t u k m.handler
        [(s.hdrOf c).scratch + 128 * k, m.len, m.core, m.task, m.crew, m.handler, m.s7.toNat] (m.payload.take 128) ∧ t.mem = s.mem ∧
      (t.core c.core).cellar = (s.core c.core).cellar.erase m ∧ (t.core c.core).inval = []) ∧
  (∀ u m x k j, let c := s.crew u
    let name := (s.group ⟨m.ldev, m.part⟩ m.gid).gen * 256 + m.gid
    c.goes = true → s.spawnable u = [m] → (c.spawning = false ∨ s.oldestFor u = none) → s.loaded m x → x.at_ = .spawn u k j →
    s.gives (.handlerSpawn u) fun t => s.Spawned t u k j
        [(s.hdrOf c).scratch + 128 * k, x.len, x.core, x.task, x.crew, j, name % 2 ^ 64] (x.payload.take 128) ∧ s.Gone t m x.ord ∧ t.mem = s.mem) ∧
  (∀ (m : MsgRef) x, let p : PartRef := ⟨m.ldev, m.part⟩
    let g := s.group p m.gid
    s.loaded m x → g.st = .deleting → (x.at_ = .parked ∨ x.at_ = .climbing ∨ x.at_ = .up (s.rootOf p g.tree)) → g.orphanC.getLsbD 63 = false →
    s.gives (.grpdelHandover m) fun t => s.Gone t m false ∧ (t.group p m.gid).discarded = g.discarded + 1 ∧ t.crews = s.crews ∧ t.mem = s.mem)) ∧
  (∀ (s : State) (r : RoundRef),
  let p : PartRef := ⟨r.ldev, r.part⟩
  let c := s.coll p r.coll
  let same (x y : Round) : Prop := y = { x with partials := y.partials, far := y.far, result := y.result, left := y.left, ended := y.ended, missing := y.missing, remote := y.remote
                                                startNs := y.startNs }
  let coll (t : State) (f : Round → Round → Prop) : Prop := s.OnlyPart { t with crews := s.crews } p ∧
    (∀ i, i ≠ r.coll → t.coll p i = s.coll p i) ∧ t.coll p r.coll = { c with rounds := (t.coll p r.coll).rounds, frozenAt := (t.coll p r.coll).frozenAt } ∧
    (t.coll p r.coll).rounds.length = c.rounds.length ∧ ∀ (j : Nat) (x y : Round), c.rounds[j]? = some x → (t.coll p r.coll).rounds[j]? = some y → same x y ∧ f x y
  let mine (x : Round) : Prop := x.k = r.k ∧ x.ended = none
  let toAll (y : Round) : Prop := ∀ k, k ∈ y.left ↔ ∃ i, i < 64 ∧ c.members.getLsbD i = true ∧ k = 64 * p.ldev + i
  (∀ tr nd, (s.part p).tree c.tree = some tr → treeNode tr r.core = some nd →
    s.gives (.reductionPartial ⟨r, none⟩) fun t => t.crews = s.crews ∧ coll t fun x y => (¬ mine x → y = x) ∧
      match c.inputs tr x r.core with
      | some (v :: vs) => mine x → (∀ e ∈ x.partials, e.1 ≠ r.core) → y.partials = x.partials ++ [(r.core, vs.foldl (combine c.op) v)] ∧
          y.far = x.far ∧ (if r.core = tr.root ∧ tr.fabric ≠ some (r.core, true) then y.result = some (vs.foldl (combine c.op) v) ∧ toAll y
            else y.result = x.result ∧ y.left = x.left)
      | _ => y = x) ∧
  (∀ tr nd x v q, treeNode tr r.core = some nd → nd.kids = [] → c.members.getLsbD (r.core % 64) = true →
    x.posts.find? (fun e => e.core == r.core && !e.extra) = some q → q.words = v → v ≠ [] →
    c.inputs tr x r.core = if tr.fabric = some (r.core, false) then x.far.map (fun w => [v, w]) else some [v]) ∧
  (∀ tr nth v, (s.part p).tree c.tree = some tr → (c.live = false ∨ tr.fabric ≠ some (r.core, false) ∨ c.nth ≠ nth ∨ v.length ≠ c.e →
      s.gives (.reductionPartial ⟨r, some (nth, v)⟩) (· = s)) ∧
    (c.live = true → tr.fabric = some (r.core, false) → c.nth = nth → v.length = c.e → (∃ x ∈ c.rounds, mine x) →
      s.gives (.reductionPartial ⟨r, some (nth, v)⟩) fun t => t.crews = s.crews ∧ coll t fun x y =>
        (mine x → x.far = none → y = { x with far := some v }) ∧ (¬ (mine x ∧ x.far = none) → y = x)) ∧
    (c.live = false ∨ tr.fabric ≠ some (r.core, true) ∨ c.nth ≠ nth ∨ v.length ≠ c.e →
      s.gives (.reductionResult ⟨r, some (nth, v)⟩) (· = s)) ∧
    (c.live = true → tr.fabric = some (r.core, true) → c.nth = nth → v.length = c.e →
      s.gives (.reductionResult ⟨r, some (nth, v)⟩) fun t => t.crews = s.crews ∧ coll t fun x y =>
        let takes := mine x ∧ x.result = none ∧ ∃ e ∈ x.partials, e.1 = r.core
        (takes → y = { x with result := some v, left := y.left } ∧ toAll y) ∧ (¬ takes → y = x))) ∧
  (∀ x y : Word, combineWord 1 x y = x + y ∧ combineWord 4 x y = (if x.toInt ≤ y.toInt then y else x) ∧ combineWord 5 x y = (if y.toInt ≤ x.toInt then y else x)) ∧
  (∀ x q res, c.rounds.find? (fun y => y.k == r.k && y.ended.isNone && y.left.contains r.core) = some x → x.posts.find? (fun e => e.core == r.core) = some q →
    (∀ y ∈ c.rounds, mine y → y = x) → x.result = some res → (s.crew q.uid).mayFinish = true → (s.crew q.uid).trace.on = false →
    let bar := c.rbar.toNat
    let bs := res.flatMap fun w => leBytes 4 w.toNat
    (bar = 0xFFFFFFFF ∨ c.resOff + bs.length ≤ bar ∨ bar + 16 ≤ c.resOff) →
    s.gives (.reductionResult ⟨r, none⟩) fun t => t.mem = s.mem ∧
      (∀ o, (bar = 0xFFFFFFFF ∨ o < bar ∨ bar + 16 ≤ o) → t.peek (.scr q.uid o) = overlay s.peek (.scr q.uid c.resOff) bs (.scr q.uid o)) ∧
      (bar ≠ 0xFFFFFFFF → t.rdBar q.uid bar = ((s.rdBar q.uid bar).arrive (4 * c.e)).1) ∧
      (t.coll p r.coll).rounds = c.rounds.map fun y => if y.k = r.k ∧ y.ended = none then
        { y with left := y.left.erase r.core, ended := if y.left.erase r.core = [] then some .ok else none } else y) ∧
  (∀ x q, c.rounds.find? (fun y => y.k == r.k && y.ended.isNone && y.left.contains r.core) = some x → x.posts.find? (fun e => e.core == r.core) = some q →
    (s.crew q.uid).mayFinish = false → (s.crew q.uid).st ≠ .killing → (s.crew q.uid).st ≠ .retired → s.gives (.reductionResult ⟨r, none⟩) (· = s)) ∧
  s.gives (.roundTimeout r) (fun t => t.crews = s.crews ∧ coll t fun x y =>
    (mine x → s.roundLate p r.coll x = true → y.ended = some .timeout ∧ y.partials = [] ∧ y.result = none ∧ y.left = [] ∧
      ∀ i, i < 64 → y.missing.getLsbD i = (c.members.getLsbD i && !(x.posts.any fun q => q.core % 64 == i))) ∧
    (¬ (mine x ∧ s.roundLate p r.coll x = true) → y = x)) ∧
  (∀ x : Round, s.roundLate p r.coll x = true → x.ended = none ∧ c.frozenAt = none ∧ x.startNs + c.timeoutUs * 1000 ≤ s.now) ∧
  (c.live = true →
    (∀ tr, (s.part p).tree c.tree = some tr → tr.fabric ≠ none → c.tree ∉ (s.part p).haltedTrees → s.gives (.haltedNotice p c.tree) fun t =>
      (t.part p).haltedTrees = (s.part p).haltedTrees ++ [c.tree] ∧ t = { s with parts := t.parts } ∧
      ((s.part p).dbgpol.getLsbD 0 = false → c.frozenAt = none → t.coll p r.coll = { c with frozenAt := some s.now }) ∧
      ((s.part p).dbgpol.getLsbD 0 = true → ∀ y ∈ (t.coll p r.coll).rounds, y.ended ≠ none) ∧
      ((s.part p).dbgpol.getLsbD 0 = true → ∀ (j : Nat) (x y : Round), c.rounds[j]? = some x → (t.coll p r.coll).rounds[j]? = some y → x.ended = none → y.ended = some .peerHalted)) ∧
    (∀ n, (s.part p).haltedTrees = [c.tree] → c.frozenAt = some n → n ≤ s.now → (∀ e ∈ s.crews, e.2.stop = none) → s.gives (.haltEnd p c.tree) fun t =>
      (t.part p).haltedTrees = [] ∧ t = { s with parts := t.parts } ∧ (t.coll p r.coll).frozenAt = none ∧
      ∀ (j : Nat) (x y : Round), c.rounds[j]? = some x → (t.coll p r.coll).rounds[j]? = some y → x.ended = none → x.startNs ≤ n → y.startNs = x.startNs + (s.now - n))))

/-! ### Packets, placement and ends -/

/-- Packets (R361 to R368). A packet that may start is skipped while a BRANCH says so, and is BADPACKET where a reserved field is set or its
type is 9 or more; else BRANCH may skip the packets that follow, WAITTL and DEPEND wait until their word or packet is there or their limit
passes, SIGNAL changes its word, MARKER writes a record, and DROP starts a drop. A COPY starts after its checks and moves an element at a
time. Rests also on the model's own reading, log entries 45, 46, 63 and 73. -/
def Obligations.Packets : Prop := ∀ (s : State) (k : PktRef), k.queue < 4096 →
  let q := s.queue k.ldev k.queue
  let p : PartRef := ⟨k.ldev, q.part⟩
  let d (i : Nat) : DWord := s.pktD k i
  let types : List (Nat × (PktRef → Instr)) := [(1, .launch), (2, .branch), (3, .waittl), (4, .depend), (5, .signal), (6, .copy), (7, .drop), (8, .marker)]
  let ok (ty : Nat) (used : List DWord) : Prop := s.pktType k = ty ∧ s.pktStarts k = true ∧ q.skip = 0 ∧ s.pktBad k used = false
  let all : DWord := 0xFFFFFFFFFFFFFFFF
  let started (t : State) : Prop := t = { s with queues := t.queues, journal := t.journal, head := s.head + 1 } ∧
    (t.queue k.ldev k.queue).next = k.index + 1 ∧ ∃ x, (t.queue k.ldev k.queue).pkts = q.pkts ++ [x] ∧ x.index = k.index ∧ x.st = .started ∧
      x.ty = s.pktType k ∧ x.startNs = s.now ∧ ∀ i, i < 4 → x.body.getD i 0 = d (i + 2)
  (∀ ty f, (ty, f) ∈ types → s.pktType k = ty → s.pktStarts k = true → 0 < q.skip → (ty = 4 → s.startedPkt k 4 = none) → (ty = 6 → s.startedPkt k 6 = none) →
    s.gives (f k) fun t => (t.queue k.ldev k.queue).skip = q.skip - 1 ∧
      ∃ u, s.Retired u k 0 8 ∧ t = { u with queues := t.queues } ∧ ∀ e n, n < 4096 → (e ≠ k.ldev ∨ n ≠ k.queue) → t.queue e n = u.queue e n) ∧
  (∀ ty f, (ty, f) ∈ types → s.pktType k = ty → s.pktStarts k = true → q.skip = 0 → (d 0).toNat / 2 ^ 9 ≠ 0 → (ty = 4 → s.startedPkt k 4 = none) →
    (ty = 6 → s.startedPkt k 6 = none) → s.gives (f k) fun t => s.Retired t k 0 9) ∧
  (9 ≤ s.pktType k → s.pktStarts k = true → q.skip = 0 → s.gives (.badpacket k) fun t => s.Retired t k 0 9) ∧
  (∀ ty f, (ty, f) ∈ types → s.pktType k = ty → s.pktStarts k = false → (ty = 4 → s.startedPkt k 4 = none) → (ty = 6 → s.startedPkt k 6 = none) →
    s.gives (f k) (· = s)) ∧
  (∀ a, ok 2 [all, all, all, 0x0000FFFF00000007] → (d 5).toNat % 8 < 6 → s.brewDword p (d 2) 8 8 true false = some a →
    s.gives (.branch k) fun t => ∃ u, s.Retired u k 0 0 ∧ t = { u with queues := t.queues } ∧
      (t.queue k.ldev k.queue).skip = (if condCC ((d 5).toNat % 8) (s.rd64 a &&& d 3) (d 4) then ((d 5).extractLsb' 32 16).toNat else 0)) ∧
  (∀ a, ok 3 [all, all, lowBits 32] → s.brewDword p (d 2) 8 8 true false = some a →
    ((s.rd64 a).toNat < (d 3).toNat → s.gives (.waittl k) started) ∧ ((d 3).toNat ≤ (s.rd64 a).toNat → s.gives (.waittl k) fun t => s.Retired t k 0 0)) ∧
  (∀ x a, s.startedPkt k 3 = some x → s.brewDword p (x.d 2) 8 8 true false = some a →
    ((s.rd64 a).toNat < (x.d 3).toNat → s.gives (.waittlNotify k) (· = s)) ∧
    ((x.d 3).toNat ≤ (s.rd64 a).toNat → s.gives (.waittlNotify k) (· = s.retirePkt k.ldev k.queue x 0))) ∧
  (s.startedPkt k 4 = none → ok 4 [lowBits 12, all, lowBits 32] → (s.queue k.ldev ((d 2).toNat % 4096)).reg = true → (d 2).toNat % 4096 ≠ k.queue →
    ((s.queue k.ldev ((d 2).toNat % 4096)).isRetired (d 3).toNat = false → s.gives (.depend k) started) ∧
    ((s.queue k.ldev ((d 2).toNat % 4096)).isRetired (d 3).toNat = true → s.gives (.depend k) fun t => s.Retired t k 0 0)) ∧
  (∀ x, s.startedPkt k 4 = some x → s.gives (.depend k) (· =
    if (s.queue k.ldev ((x.d 2).toNat % 4096)).hasRetired x.ref_ (x.d 3).toNat = true then s.retirePkt k.ldev k.queue x 0 else s)) ∧
  (∀ x, ((s.startedPkt k 3 = some x) ∨ (s.startedPkt k 3 = none ∧ s.startedPkt k 4 = some x)) →
    let us := (x.d 4).toNat % 2 ^ 32
    (us ≠ 0 → x.startNs + us * 1000 ≤ s.now → s.gives (.packetLimit k) (· = s.retirePkt k.ldev k.queue x 10)) ∧
    (us = 0 ∨ s.now < x.startNs + us * 1000 → s.gives (.packetLimit k) (· = s))) ∧
  (∀ a, ok 5 [all, all, 0xFFFF0007] → (d 4).toNat % 4 ≠ 3 → (d 4).getLsbD 2 = false → s.brewDword p (d 2) 8 8 true true = some a →
    let v : DWord := match (d 4).toNat % 4 with
      | 0 => d 3
      | 1 => s.rd64 a + d 3
      | _ => if (s.rd64 a).toNat < (d 3).toNat then d 3 else s.rd64 a
    s.gives (.signal k) fun t => ∃ u : State, s.Poked u a (leBytes 8 v.toNat) ∧ t = u.instant k 0 0) ∧
  (s.startedPkt k 6 = none → ok 6 [all, all, lowBits 41] → let n := (d 4).toNat % 2 ^ 41
    ((n = 0 ∨ 2 ^ 40 < n) → s.gives (.copy k) fun t => s.Retired t k 0 9) ∧
    (n ≠ 0 → n ≤ 2 ^ 40 → (s.brewAddr p (addrH (d 2)) (addrOff (d 2)) n 1 true false).isSome = true →
      (s.brewAddr p (addrH (d 3)) (addrOff (d 3)) n 1 false true).isSome = true → s.gives (.copy k) started)) ∧
  (∀ x a b, s.startedPkt k 6 = some x → let n := min (32 - (addrOff (x.d 3) + x.prog) % 32) ((x.d 4).toNat % 2 ^ 41 - x.prog)
    s.brewAddr p (addrH (x.d 2)) (addrOff (x.d 2) + x.prog) n 1 true false = some a →
    s.brewAddr p (addrH (x.d 3)) (addrOff (x.d 3) + x.prog) n 1 false true = some b →
    ((s.goneUnit a n).isSome = true ∨ (s.goneUnit b n).isSome = true → s.gives (.copy k) (· = s)) ∧
    (s.goneUnit a n = none → s.goneUnit b n = none → s.poisoned (keyLoc a) n = true → s.gives (.copy k) (· = s.retirePkt k.ldev k.queue x 11)) ∧
    (s.goneUnit a n = none → s.goneUnit b n = none → s.poisoned (keyLoc a) n = false → x.prog + n < (x.d 4).toNat % 2 ^ 41 →
      s.gives (.copy k) fun t => let moved (y : Pkt) : Pkt := if y = x then { x with prog := x.prog + n } else y
        s.Poked { t with queues := s.queues } b (s.peekN (keyLoc a) n) ∧
        (t.queue k.ldev k.queue).pkts = q.pkts.map moved ∧ (t.queue k.ldev k.queue).orphans = q.orphans.map moved)) ∧
  (ok 7 [lowBits 32] → (s.arenaBad p (d 2) true badRoot) = none → s.gives (.drop k) fun t => t.mem = s.mem ∧
    (∀ j, j < 4096 → j ∈ s.subtree p ((d 2).toNat % 4096) → (t.arena ⟨p.ldev, p.part, j⟩).st = .dropping) ∧
    (t.queue k.ldev k.queue).next = k.index + 1) ∧
  (ok 8 [all, all, all, all, all] → d 1 = 0xFFFFFFFF00000000 → s.gives (.marker k) fun t => ∃ u : State,
    u = { s with journal := u.journal, head := s.head + 1 } ∧ u.journal.getLast? = some ⟨s.head, s.now, 11, 0, k.ldev, q.part,
      ([k.queue, k.index] ++ (List.range 5).map fun i => (d (i + 2)).toNat).map (BitVec.ofNat 64)⟩ ∧ u.Retired t k 0 0)

/-- LAUNCH (R29 to R34, R365). A header that R30 refuses ends the packet with HEADER_INVALID; one that no core could hold ends it with
NO_FIT, and one whose classes no core has with NO_CAPABLE_CORE; with no crews at all it retires at once; else the task runs from then on
with its own private arena, all its crews PENDING. Rests also on the model's own reading, log entries 46 and 67. -/
def Obligations.Launches : Prop := ∀ (s : State) (k : PktRef) (a : Nat), k.queue < 4096 →
  let q := s.queue k.ldev k.queue
  let p : PartRef := ⟨k.ldev, q.part⟩
  let d (i : Nat) : Nat := (s.rd64 (a + 8 * i)).toNat
  let raw := readHdr d
  let h : Hdr := { raw with handTbl := s.handTable p d raw }
  let size := (s.handle p h.codeh).size
  let n := Store.get 0 s.nextTask k.ldev + 1
  let table : Prop := ∀ pc ∈ h.handTbl, pc = 0xFFFFFFFF ∨ (pc.toNat % 4 = 0 ∧ pc.toNat + 8 ≤ size)
  let crews := (h.widCount + 2 ^ h.crewBits - 1) / 2 ^ h.crewBits
  s.pktType k = 1 → s.pktStarts k = true → q.skip = 0 → s.pktBad k [0xFFFFFFFFFFFFFFFF] = false → n < 2 ^ 32 →
  s.brewDword p (s.pktD k 2) 128 128 true false = some a →
  (s.badHeader p d raw = true → s.gives (.launch k) fun t => s.Retired t k 0 1) ∧
  (s.badHeader p d raw = false → ¬ table → s.gives (.launch k) fun t => s.Retired t k 0 1) ∧
  (s.badHeader p d raw = false → table →
    let ends (status : Nat) : Prop := s.gives (.launch k) fun t => Store.get 0 t.nextTask k.ldev = n ∧ (t.task k.ldev n).st = .ended ∧
      (t.task k.ldev n).status = status ∧ (t.task k.ldev n).hdr = h ∧ (t.queue k.ldev k.queue).isRetired k.index = true ∧ t.arenas = s.arenas ∧ t.crews = s.crews
    let fits (l : List Hdr) : Prop := l.length ≤ 4 ∧ (l.map Hdr.regBytes).sum ≤ 524288 ∧ (l.map Hdr.storeBytes).sum + 262144 ≤ 3145728 ∧
      ∀ j, j < 4 → (l.map fun x => x.schedSlots j).sum ≤ 16
    (crews = 0 → ends 0) ∧
    (crews ≠ 0 → ¬ fits [h] → ends 2) ∧
    (crews ≠ 0 → fits [h] → (∀ c ∈ s.partCores p, h.uses &&& ~~~(s.core c).mask ≠ 0) → ends 3) ∧
    (∀ i base u, crews ≠ 0 → s.launchFails p h = none → ({ s with nextTask := Store.set 0 s.nextTask k.ldev n } : State).newPrivate p h (min crews (4 * (s.partCores p).length)) =
        some (i, base, u) → s.gives (.launch k) fun t => Store.get 0 t.nextTask k.ldev = n ∧ t.crews = s.crews ∧
      (t.queue k.ldev k.queue).next = k.index + 1 ∧ (t.arena ⟨p.ldev, p.part, i⟩).held = true ∧ (t.arena ⟨p.ldev, p.part, i⟩).st = .live ∧
      (s.arena ⟨p.ldev, p.part, i⟩).st = .free ∧
      t.task k.ldev n = { st := .running, part := p.part, queue := k.queue, index := k.index, hdr := h, code := s.handle p h.codeh, crews := crews, arena := i
                          blocks := min crews (4 * (s.partCores p).length), arenaGen := (s.arena ⟨p.ldev, p.part, i⟩).gen + 1, blockBase := base } ∧
      (∀ b, b < min crews (4 * (s.partCores p).length) * h.blockBytes → t.peek (.mem (memKey p.ldev base + b)) = 0)))

/-- Placement and pre-emption (R35, R369 to R375). Nothing is placed without a placeable crew; the highest level that has one is served, its
queues in turn, each turn adding 2^QLOG to the deficit, at most to twice that; a placed crew starts with the state of R35. A SAVED crew, or
the victims of a core that would make room, are taken instead where the rules say so. A pre-empted crew is SAVED once its writes are
performed and its readiness is withdrawn, with every register kept, and runs again, unfrozen and with its readiness, once it is restored. A
queue that has waited AGE µs is aged (R371). Rests also on the model's own reading, log entries 49, 51 and 67. -/
def Obligations.PlacementSteps : Prop := ∀ s : State,
  (∀ (p : PartRef) core, (∀ l, l < 8 → s.ready? p l = []) → s.gives (.placement p core) (· = s)) ∧
  (∀ (p : PartRef) core l n, l < 8 → (∀ j, l < j → j < 8 → s.ready? p j = []) → s.ready? p l ≠ [] →
    (((∀ c, Store.get none (s.part p).curQueue l = some c → (s.ready? p l).any (fun e => e.1 == c) = false) ∧ n = (s.ready? p l).head?.map Prod.fst) ∨ (∃ c, Store.get none (s.part p).curQueue l = some c ∧
      (s.ready? p l).any (fun e => e.1 == c) = true ∧ (s.queue p.ldev c).deficit ≤ 0 ∧
      n = (((s.ready? p l).find? fun e => decide (c < e.1)).or (s.ready? p l).head?).map Prod.fst)) →
    s.gives (.placement p core) fun t => t = { s with parts := t.parts, queues := t.queues } ∧ Store.get none (t.part p).curQueue l = n ∧
      ∀ k, n = some k → let g : Int := 2 ^ (s.queue p.ldev k).qLog
        (t.queue p.ldev k).deficit = min ((s.queue p.ldev k).deficit + g) (2 * g)) ∧
  (∀ (p : PartRef) core l n k idx, let task := s.task p.ldev k
    let h := task.hdr
    let u := s.nextUid
    l < 8 → (∀ j, l < j → j < 8 → s.ready? p j = []) → (s.ready? p l).any (fun e => e.1 == n) = true → Store.get none (s.part p).curQueue l = some n →
    0 < (s.queue p.ldev n).deficit → s.candidate p l n (s.queue p.ldev n) = some k → h.cosched = false →
    (s.nextCrewOf p.ldev k = some (idx, none) → s.blocksFor p.ldev k [(idx, none)] = true → core ∈ s.bestCores p h (idx, none) [] →
      task.traced = false → h.groups ≤ 32 →
    s.gives (.placement p core) fun t => t.nextUid = u + 1 ∧ (∀ v, v ≠ u → t.crew v = s.crew v) ∧
      (t.task p.ldev k).nextCrew = max task.nextCrew (idx + 1) ∧
      (∃ b, (t.crew u).block = some b ∧ b < task.blocks ∧ (∀ e ∈ s.taskCrews p.ldev k, e.2.block ≠ some b) ∧
        let lo := memKey p.ldev (task.blockBase + b * h.blockBytes)
        ∀ a, t.peek (.mem a) = if lo ≤ a ∧ a < lo + h.ownBytes then 0 else s.peek (.mem a)) ∧
      (∀ c, c = t.crew u → c.pref = p ∧ c.task = k ∧ c.idx = idx ∧ c.st = .running ∧ c.core = core ∧ c.scratch = [] ∧ c.tiles = [] ∧ c.dq = [] ∧
        c.regPoison = [] ∧ c.scrPoison = [] ∧ c.tilePoison = [] ∧ c.cpy = {} ∧ c.mtx = {} ∧ c.arn = {} ∧ c.msg = {} ∧ c.sums = [] ∧ c.maxs = [] ∧ c.shapes = [] ∧ Store.get 0 (t.core core).cslots c.cslot = u ∧
        ∀ g x, x = c.thread g →
          (g < h.groups → let m := startMask h (idx * 2 ^ h.crewBits + 32 * g)
            if m = 0 then x.st = .absent else x.st = .running ∧ x.arch.a.pc = h.groupPc ∧ x.arch.a.mask = m) ∧
          (g = 63 → x.st = .running ∧ x.arch.a.pc = h.leadPc) ∧ (h.groups ≤ g → g ≠ 63 → x.st = .absent) ∧
          (x.st = .running → x.arch.a.st = .ready ∧ x.arch.a.word = 0 ∧ x.arch.a.depth = 0 ∧ x.arch.a.fmt = 0 ∧ x.arch.b = {} ∧ x.arch.s = [] ∧ x.arch.v = [] ∧
            x.arch.p = [] ∧ x.arch.cstk = [] ∧ x.toks = [] ∧ ∀ i, 2 ≤ i → Store.get {} x.arch.h i = {}))) ∧
    (∀ v, s.nextCrewOf p.ldev k = some (idx, some v) → s.blocksFor p.ldev k [(idx, some v)] = true → core ∈ s.bestCores p h (idx, some v) [] →
      s.gives (.placement p core) fun t => t.mem = s.mem ∧ (∀ w, w ≠ v → t.crew w = s.crew w) ∧ t.tasks = s.tasks ∧
        t.crew v = { s.crew v with st := .placing, core := core, cslot := (t.crew v).cslot, placedNs := s.now, placedCyc := s.cycles } ∧
        Store.get 0 (t.core core).cslots (t.crew v).cslot = v) ∧
    (∀ x l', s.nextCrewOf p.ldev k = some x → s.blocksFor p.ldev k [x] = true → core ∉ s.bestCores p h x [] → s.planSoon p h [x] = [] →
      (s.queue p.ldev n).preempt = true → s.victimCore p h (task.base (s.queue p.ldev n)) [] = some (core, l') →
      (∀ v ∈ l', (s.hdrOf (s.crew v)).cosched = false) → s.gives (.placement p core) fun t => t = { s with crews := t.crews, queues := t.queues } ∧
        ∀ v, let c := s.crew v
          t.crew v = if v ∈ l' ∧ c.st = .running then { c with st := .preempting, cpy := c.cpy.setFreeze true true, mtx := c.mtx.setFreeze false true }
            else c)) ∧
  (∀ u, let c := s.crew u
    c.st = .preempting → c.cause = none → c.quiet = true → c.opsSettled = true → s.hearsTile u = false → c.cpy.frozen = true → c.mtx.frozen = true →
    (∀ k, ∀ w ∈ (s.thread u k).sq, w.kind = .store ∧ (w.posted = none ∨ ∃ d, d < 4 ∧ w.posted = some d) ∧
      ∀ l ∈ w.lanes, ∀ v o, l.loc ≠ .reg v o) → Store.wf {} c.ready = true →
    s.gives (.saveComplete u) fun t => (t.crew u).st = .saved ∧ (∀ k, (t.thread u k).sq = [] ∧ (t.thread u k).window = [] ∧
        (t.thread u k).arch.s = (s.thread u k).arch.s ∧ (t.thread u k).arch.v = (s.thread u k).arch.v ∧ (t.thread u k).arch.p = (s.thread u k).arch.p ∧
        (t.thread u k).arch.h = (s.thread u k).arch.h ∧ (t.thread u k).arch.cstk = (s.thread u k).arch.cstk ∧
        ((s.thread u k).st = .running → (t.thread u k).arch.cause = 0)) ∧
      (∀ g, (t.ready u g).amount = 0 ∧ ((s.ready u g).amount ≠ 0 → (t.ready u g).saved = (s.ready u g).amount)) ∧
      (t.crew u).tiles = c.tiles ∧ (t.crew u).mtx = c.mtx ∧ (t.crew u).cpy = c.cpy ∧
      (0 < u → Store.get 0 (s.core c.core).cslots c.cslot = u → Store.get 0 (t.core c.core).cslots c.cslot = 0 ∧
        ∀ line, s.blockLine c line = true → Store.get [] (t.core c.core).dirty line = [])) ∧
  (∀ u, let c := s.crew u
    c.st = .placing → c.cause = none → ((s.hdrOf c).cosched = true → s.resumesWith u = [u]) → Store.wf {} c.ready = true → s.gives (.crewResume u c.core) fun t =>
      (t.crew u).st = (if c.spawning = false ∧ c.liveHandlers = [] ∧ s.spawnAssigned u = false then .retiring else .running) ∧
      (t.crew u).cpy.freeze = false ∧ (t.crew u).mtx.freeze = false ∧ (t.crew u).savedMsgs = [] ∧ (t.core c.core).cellar = c.savedMsgs ++ (s.core c.core).cellar ∧
      (∀ g, (t.ready u g).amount = if (s.ready u g).saved = 0 then (s.ready u g).amount else (s.ready u g).saved) ∧
      (t.crew u).scratch = c.scratch ∧ (t.crew u).tiles = c.tiles ∧
      ∀ k, (t.thread u k).arch.s = (s.thread u k).arch.s ∧ (t.thread u k).arch.v = (s.thread u k).arch.v ∧ (t.thread u k).arch.p = (s.thread u k).arch.p ∧
        (t.thread u k).arch.h = (s.thread u k).arch.h ∧ (t.thread u k).toks = (s.thread u k).toks ∧
        ((s.thread u k).st = .running → (t.thread u k).arch.cause = 1) ∧
        (t.thread u k).arch.a = { (s.thread u k).arch.a with age := 0 } ∧ (t.thread u k).arch.b = { (s.thread u k).arch.b with age := 0 }) ∧
  (∀ u v, (s.crew u).st = .placing → (s.crew u).cause = none → (s.hdrOf (s.crew u)).cosched = true → v ∈ s.resumesWith u → (s.crew v).st = .placing →
    s.gives (.crewResume u (s.crew u).core) fun t => (t.crew v).st = .running ∨ (t.crew v).st = .retiring) ∧
  (∀ d n since, let q := s.queue d n
    q.waitSince = some since → q.aged = false →
    (since + q.ageUs * 1000 ≤ s.now → s.gives (.queueAged d n) fun t => t = { s with queues := t.queues } ∧ t.queue d n = { q with aged := true, agedCharge := 0 } ∧
      ∀ e m, queueKey e m ≠ queueKey d n → t.queue e m = s.queue e m) ∧
    (s.now < since + q.ageUs * 1000 → s.gives (.queueAged d n) (· = s)))

/-- Ends (R49 to R52, R344, R366, R367, R379, R380, R409, R411). A crew retires once its work and writes have ended, and a killed one once
it has been stopped, when its unperformed writes are discarded: nothing of either is left, and with the last crew of a task its collectives
end. The task then drops its private arena, and retires with its status and RESULT when that is gone. A TIMEOUT kills every crew of its
task. A fatal dump ends with its FAULT record and the kill of the rest of its task; a requested one with its status. Rests also on the
model's own reading, log entries 20, 50, 56, 61, 64 and 67. -/
def Obligations.Ends : Prop := ∀ s : State,
  let gone (i : Instr) (u : Nat) : Prop :=
    let c := s.crew u
    c.stop = none → c.trace.buf = [] → c.trace.held = [] → s.gives i fun t => t.crew u = {} ∧ t.mem = s.mem ∧
      (∀ i, c.regwin = some i → (t.handle c.pref i).valid = false) ∧
      (0 < u → Store.get 0 (s.core c.core).cslots c.cslot = u → Store.get 0 (t.core c.core).cslots c.cslot = 0) ∧
      ((∀ e ∈ s.crews, e.1 = u ∨ e.2.ldev ≠ c.ldev ∨ e.2.task ≠ c.task ∨ e.2.st = .retired) → (s.task c.ldev c.task).part = c.part →
        (s.task c.ldev c.task).st = .ending → ∀ j, (s.coll c.pref j).live = true → (s.coll c.pref j).task = c.task →
          (t.coll c.pref j).live = false ∧ (t.coll c.pref j).gen = (s.coll c.pref j).gen)
  (∀ u, let c := s.crew u
    c.st = .retiring → c.cause = none → c.quiet = true → (c.cpy.ops = [] ∧ c.mtx.ops = [] ∧ c.arn.ops = [] ∧ c.msg.ops = []) →
    (∀ e ∈ c.threads, e.2.sq = []) → s.hearsTile u = false → gone (.crewRetire u) u ∧ let k := s.task c.ldev c.task
      ((∀ e ∈ s.crews, e.1 = u ∨ e.2.ldev ≠ c.ldev ∨ e.2.task ≠ c.task ∨ e.2.st = .retired) → k.st = .running → k.nextCrew = k.crews →
        s.gives (.crewRetire u) fun t => (t.task c.ldev c.task).endNs = some s.now)) ∧
  (∀ u, (s.crew u).st = .killing → gone (.killComplete u) u) ∧
  (∀ u, let c := s.crew u
    c.cause ≠ none → c.st ≠ .killing → c.st ≠ .retired → c.quiet = true → s.waitsDump u = false → s.gives (.kill u) fun t => t.mem = s.mem ∧
      (t.crew u).st = .killing ∧ (t.crew u).cpy.ops = [] ∧ (t.crew u).mtx.ops = [] ∧ (t.crew u).msg.ops = [] ∧ (t.crew u).arn = c.arn ∧
      (∀ k, let x := t.thread u k
        x.sq = [] ∧ x.window = [] ∧ x.pendA = [] ∧ x.pendB = [] ∧ x.fence = none ∧ x.arch = (s.thread u k).arch) ∧
      ∀ v, (t.crew v).scratch = (s.crew v).scratch ∧ (t.crew v).threads = if v = u then (t.crew v).threads else (s.crew v).threads) ∧
  (∀ d n, let k := s.task d n
    s.crewsEnded d n = true → n < 2 ^ 32 → s.gives (.taskRetire d n) fun t => (t.task d n).st = .dropping ∧ (t.task d n).status = k.status ∧ t.mem = s.mem ∧
      ((s.arena ⟨d, k.part, k.arena⟩).st = .live → k.arena < 4096 → k.arena ∈ s.subtree ⟨d, k.part⟩ k.arena → (t.arena ⟨d, k.part, k.arena⟩).st = .dropping)) ∧
  (∀ d n, let k := s.task d n
    let p : PartRef := ⟨d, k.part⟩
    let a := s.arena ⟨d, k.part, k.arena⟩
    k.st = .dropping → (a.st = .free ∨ a.gen ≠ k.arenaGen) →
    ((k.result = none ∨ k.status ≠ 0 ∨ k.hdr.resulth.toNat = 0xFFFFFFFF) → s.gives (.taskRetire d n) fun t => (t.task d n).st = .ended ∧
      (t.task d n).status = k.status) ∧
    (∀ v b, k.result = some v → k.status = 0 → k.hdr.resulth.toNat ≠ 0xFFFFFFFF → s.brewAddr p k.hdr.resulth.toNat 0 8 8 false true = some b →
      (s.queue d k.queue).launchOf n = none → s.gives (.taskRetire d n) fun t => (t.task d n).st = .ended ∧ (t.task d n).status = 0 ∧
        s.Poked { t with tasks := s.tasks } b (leBytes 8 v.toNat))) ∧
  (∀ d n since, let k := s.task d n
    let due := since + k.pausedNs + k.hdr.timeoutUs * 1000
    k.firstNs = some since → k.st = .running → k.pausedAt = none → k.hdr.timeoutUs ≠ 0 →
    (due ≤ s.now → (∀ e, k.endNs = some e → due / 1000 ≤ e / 1000) → s.gives (.taskTimeout d n) fun t => t.task d n = { k with st := .ending, status := 5 } ∧
      t = { s with tasks := t.tasks, crews := t.crews, journal := t.journal, head := s.head + 1 } ∧ ∀ u, let c := s.crew u
        c.st ≠ .retired → t.crew u = if c.ldev = d ∧ c.task = n ∧ c.cause = none then { c with cause := some .timeout } else c) ∧
    ((s.now < due ∨ ∃ e, k.endNs = some e ∧ e / 1000 < due / 1000) → s.gives (.taskTimeout d n) (· = s))) ∧
  (∀ (p : PartRef) ok m u, let q := s.part p
    let c := s.crew u
    let code := (((c.fatalRec.getD {}).d0).extractLsb' 0 8).toNat
    let rest (t : State) (how : Nat) : Prop := (t.part p).dumping = q.dumpQueue.head? ∧ (t.part p).dumpQueue = q.dumpQueue.drop 1 ∧
      (⟨s.head, s.now, 9, 0, c.ldev, c.part, [c.task, c.idx, code, how].map (BitVec.ofNat 64)⟩ : JRec) ∈ t.journal ∧
      (⟨s.head + 1, s.now, 4, 0, c.ldev, (s.task c.ldev c.task).part, [c.task, 4, (s.crews.filter fun e =>
        e.2.ldev == c.ldev && e.2.task == c.task && e.2.cause.isNone).length + 1].map (BitVec.ofNat 64)⟩ : JRec) ∈ t.journal ∧
      ∀ v, let x := s.crew v
        x.st ≠ .retired → t.crew v = if x.ldev = c.ldev ∧ x.task = c.task ∧ x.cause = none then { x with cause := some .fatal } else x
    q.dumping = some u →
    (q.dumpTarget = none → s.gives (.dumpWritten p ⟨ok, m⟩) fun t => rest t 2 ∧ t.mem = s.mem) ∧
    (∀ d n, q.dumpTarget = some (d, n) → c.quiet = true →
      let l := s.dumpBody u 127
      (s.brewDword p d n 1 false true = none → s.gives (.dumpWritten p ⟨ok, m⟩) fun t => rest t 2 ∧ t.mem = s.mem) ∧
      (∀ a, s.brewDword p d n 1 false true = some a → s.gives (.dumpWritten p ⟨ok, m⟩) fun t => rest t (if ok = true then 0 else 2) ∧
        (∀ line, s.blockLine c line = true → Store.get [] (t.core c.core).dirty line = []) ∧
        ∀ b, t.peek (.mem b) = (if ok = true then overlay s.peek (.mem a) (dumpImage (s.fatalHead u) l n) (.mem b)
          else overlay s.peek (.mem (a + 256)) ((dumpSectBytes l n).take m) (.mem b))))) ∧
  (∀ (p : PairRef) h hn off n mask ok m, let c := s.crew p.uid
    let l := s.dumpBody p.uid mask
    let need := dumpNeeds l
    let fits : Prop := n = 0 ∨ s.dumpWritable p.uid h off n = true
    let place (o : Nat) : Loc := s.locOf p.uid h none o
    (s.slot p).wait = some (.dump h hn off n mask) → c.stop ≠ none → c.atRest = true → c.cause = none →
    (∀ e ∈ s.crews, e.1 = p.uid ∨ e.2.stop = none) → (s.part c.pref).wdPausedAt = none → (∀ v k, place off ≠ .reg v k ∧ place (off + 256) ≠ .reg v k) →
    s.gives (.requestedDumpComplete p ⟨ok, m⟩) fun t => (t.crew p.uid).stop = (if c.stop = some .dump then none else c.stop) ∧ (t.slot p).st = .ready ∧
      (∀ status, (¬ (ok = true ∧ fits) → status = 2) → (ok = true → fits → n < need → status = 1) → (ok = true → fits → need ≤ n → status = 0) →
        (t.slot p).wait = some (.released (BitVec.ofNat 64 (status * 2 ^ 56 + need % 2 ^ 32)) 0)) ∧
      (¬ fits → t.mem = s.mem ∧ ∀ u, (t.crew u).scratch = (s.crew u).scratch) ∧
      (fits → ∀ x, t.peek x = (if ok = true then overlay s.peek (place off) (dumpImage (s.askedHead p) l n) x
        else overlay s.peek (place (off + 256)) ((dumpSectBytes l n).take m) x)))

/-! ### Commands (R383 to R389, R459) -/

/-- The frame of the commands (R384 to R387, R433, R459): for each its opcode, issuer, signature, what it names and the range of its
arguments. A record with a reserved field set answers PARAM, one beyond 256 outstanding BUSY, one that its master may not send DENIED and
one that does not verify BADSIG, both journalled, one whose arguments are out of range PARAM, one that names a partition that is not there
ERROR; none has another effect. An opcode that R387 does not list answers UNKNOWN. A store to CMDWR hands the records of the ring up to it
to the brewhouse (R388). The order of these checks is the model's choice, and so is what the journal record holds. Rests also on the model's
own reading, log entries 47 and 53. -/
def Obligations.CommandChecks : Prop := ∀ (s : State) (c : Cmd),
  let n (i : Nat) : Nat := cArgN c i
  let device (i : Nat) : Bool := n i / 2 ^ 56 < 4 && n i / 2 ^ 48 % 256 < 8
  let ring (lo : Nat) : Bool := n 1 == 0 || (lo ≤ n 1 && n 1 ≤ 24)
  let mem : Bool := n 4 ≤ 2 && 1 ≤ n 6 && n 6 ≤ 56
  let reg : Bool := if (cArg c 4).getLsbD 63 then n 5 ≤ 63 else n 4 % 4 == 0 && n 4 % 2 ^ 20 < 327680
  let owner : List ((Cmd → Instr) × CmdRule) := [
    (.claim, { op := 0x01, who := .any, signed := true, scope := 0 }), (.handover, { op := 0x02, signed := true, scope := 0, range := n 0 % 4 != 0 }),
    (.override, { op := 0x03, who := .mgmt, signed := true, scope := 0, range := n 0 % 4 != 0 }),
    (.cmdQreg, { op := 0x10, range := n 0 ≤ 4095 }), (.qreset, { op := 0x11, range := n 0 ≤ 4095 }), (.qremove, { op := 0x12, range := n 0 ≤ 4095 }),
    (.qappend, { op := 0x13, who := .any, range := n 0 ≤ 4095 }), (.partchg, { op := 0x20, scope := 1, range := layoutOk (cArg c 0) (cArg c 1) (cArg c 2) }),
    (.killtask, { op := 0x21, scope := 1 }), (.killpart, { op := 0x22 }),
    (.cmdPower, { op := 0x23, scope := if n 0 = 3 then 0 else 2, range := n 0 == 0 || n 0 == 2 || n 0 == 3 }),
    (.watchdog, { op := 0x24, range := n 0 ≤ 3600000 }), (.dumph, { op := 0x25 })]
  let tables : List ((Cmd → Instr) × CmdRule) := [
    (.cmdArnew, { op := 0x30 }), (.cmdHalloc, { op := 0x31 }), (.cmdArseal, { op := 0x32 }), (.cmdArdrop, { op := 0x33 }), (.cmdArquota, { op := 0x34 }),
    (.cmdArinfo, { op := 0x35, who := .any }), (.map, { op := 0x38, who := .os }), (.unmap, { op := 0x39, who := .os, scope := 0 }),
    (.importHandle, { op := 0x3A, range := device 0 }), (.mread, { op := 0x3C, who := .any, range := 1 ≤ n 1 && n 1 ≤ 56 }),
    (.mwrite, { op := 0x3D, who := .any, range := 1 ≤ n 1 && n 1 ≤ 56 }), (.debugtoken, { op := 0x41, who := .any, signed := true }),
    (.attest, { op := 0x48, who := .any, scope := if n 4 = 0 then 0 else 2 }), (.bindvec, { op := 0x49, who := .os, scope := 0, range := n 0 ≤ 65535 }),
    (.jread, { op := 0x4A, who := .any, scope := 0, range := 1 ≤ n 1 && n 1 ≤ 16 })]
  let debug (k : Nat) (range : Bool) : CmdRule := { op := 0x40, sub := some k, who := .any, range := range }
  let debugs : List ((Cmd → Instr) × CmdRule) := [
    (.halt, debug 1 (n 1 ≤ 2)), (.resume, debug 2 (n 1 ≤ 2)), (.step, debug 3 true), (.bpset, debug 4 (n 4 ≤ 7)), (.wpset, debug 5 (n 4 ≤ 3)),
    (.intercept, debug 6 true), (.regrd, debug 7 reg), (.regwr, debug 8 reg), (.sample, debug 9 (ring 8)), (.series, debug 10 (ring 10)),
    (.trace, debug 11 (n 1 % 64 == 0 || (6 ≤ n 1 % 64 && n 1 % 64 ≤ 24))), (.dbgpol, debug 12 true), (.stoprec, debug 13 true), (.memrd, debug 14 mem), (.memwr, debug 15 mem)]
  let rules := owner ++ tables ++ debugs
  let only (status : Nat) (t : State) : Prop := s.Responds t c status [] ∧ s.unsaid t = s
  let noted (status why : Nat) (t : State) : Prop := s.Responds t c status [] ∧ s.unsaid t = { s with journal := t.journal, head := t.head } ∧
    s.Logged t 6 (masterCode c.source) 0xFF 0xFF [ownerCode s.owner, ownerCode s.owner, why, c.opcode.toNat]
  let plain : Prop := c.resvHi = 0 ∧ c.resvMid = 0
  let room : Prop := s.outstanding c.source < 256
  (∀ f r, (f, r) ∈ rules → (r.op = 0x13 → ∀ p ∈ s.cmds, p.cmd ≠ c) →
    let mine : Prop := c.opcode.toNat = r.op ∧ ∀ k, r.sub = some k → n 0 = k
    let may : Prop := s.allowed r.who c.source = true
    let verified : Prop := r.signed = false ∨ (c.sigLen ≠ 0 ∧ c.sigOk = true)
    let named : Prop := r.scope = 0 ∨ (c.ldev.toNat < 4 ∧ (r.scope = 1 ∨ c.part.toNat < 8))
    ((¬ mine ∨ s.unheard c = true) → s.gives (f c) (· = s)) ∧
    (mine → s.unheard c = false → (¬ plain → s.gives (f c) (only 3)) ∧ (plain → ¬ room → s.gives (f c) (only 2)) ∧
      (plain → room → ¬ may → s.gives (f c) (noted 1 4)) ∧ (plain → room → may → ¬ verified → s.gives (f c) (noted 5 5)) ∧
      (plain → room → may → verified → ¬ (named ∧ r.range = true) → s.gives (f c) (only 3)) ∧
      (plain → room → may → verified → named → r.range = true → r.scope = 2 → (s.part (cmdPart c)).live = false → s.gives (f c) (only 8)))) ∧
  (s.unheard c = false → (∀ e ∈ rules, e.2.op ≠ c.opcode.toNat) → (plain → s.gives (.unknownCommand c) (only 6)) ∧ (¬ plain → s.gives (.unknownCommand c) (only 3))) ∧
  (s.unheard c = false → c.opcode = 0x40 → (n 0 = 0 ∨ 15 < n 0) → s.gives (.unknownCommand c) (only 3)) ∧
  (s.unheard c = true → s.gives (.unknownCommand c) (· = s)) ∧
  (∀ v : DWord, let slot := 128 * ((s.winReg 0xC008).toNat % 256)
    let w (i : Nat) : Nat := (s.winReg (slot + 8 * i)).toNat
    s.cfg.recovery = false → v.toNat = (s.winReg 0xC008).toNat + 1 → c.source = .os → c.opcode.toNat = w 0 % 2 ^ 16 → c.resvHi.toNat = w 0 / 2 ^ 16 % 2 ^ 16 →
    c.seq.toNat = w 0 / 2 ^ 32 → c.sigLen.toNat = w 1 % 2 ^ 32 → c.resvMid.toNat = w 1 / 2 ^ 32 % 2 ^ 16 → c.part.toNat = w 1 / 2 ^ 48 % 256 → c.ldev.toNat = w 1 / 2 ^ 56 →
    c.args = (List.range 14).map (fun i => s.winReg (slot + 8 * (i + 2))) → (∀ p ∈ s.cmds, p.cmd.seq ≠ c.seq) → s.gives (.registerWrite 0xF00000C000 ⟨.store, 8, v⟩) fun t =>
      ∃ (signed : Bool) (u : State), u = { s with win := u.win, hostAns := 0, hostFault := false, freeCtr := s.freeCtr + 1 } ∧
        (∀ o, u.winReg o = if o = 0xC000 then v else s.winReg o) ∧
        ∃ f, ((∃ r, (f, r) ∈ rules ∧ r.op = c.opcode.toNat ∧ ∀ k, r.sub = some k → n 0 = k) ∨
          (f = .unknownCommand ∧ ((∀ e ∈ rules, e.2.op ≠ c.opcode.toNat) ∨ (c.opcode = 0x40 ∧ (n 0 = 0 ∨ 15 < n 0))))) ∧ exec (f { c with sigOk := signed }) u = .next t)

/-- Ownership, kills, limits, power, interrupts and the journal (R383, R384, R387, R389, R395, R411, R455, R458): what each command that
R387 gives the owner or every master does once it is carried out, and the end of the election window. Rests also on the model's own reading,
log entries 47, 53 and 54. -/
def Obligations.OwnerCommands : Prop := ∀ (s : State) (c : Cmd),
  let n (i : Nat) : Nat := cArgN c i
  let p := cmdPart c
  let src := masterCode c.source
  let only (status : Nat) (results : List Nat) (t : State) : Prop := s.Responds t c status results ∧ s.unsaid t = s
  let granted (m : Master) (how from_ : Nat) (t : State) : Prop := t.owner = some m ∧ t.claims = [] ∧ t.windowOpen = false ∧
    s.Logged t 6 from_ 0xFF 0xFF [ownerCode s.owner, masterCode m, how] ∧
    s.unsaid t = { s with owner := t.owner, claims := t.claims, windowOpen := t.windowOpen, journal := t.journal, head := t.head }
  let past : Prop := s.windowOpen = true ∧ s.windowNs + s.cfg.windowSec * 1000000000 ≤ s.now
  let part (t : State) (f : Part → Part) : Prop := s.Responds t c 0 [] ∧ s.unsaid t = { s with parts := t.parts } ∧ t.part p = f (s.part p) ∧
    ∀ q, partKey q ≠ partKey p → t.part q = s.part q
  (s.Admits c { op := 0x01, who := .any, signed := true, scope := 0 } →
    (s.owner = some c.source → s.gives (.claim c) (only 0 [1])) ∧ (∀ m, s.owner = some m → m ≠ c.source → s.gives (.claim c) (only 1 [])) ∧
    (s.owner = none → (s.cfg.priority.head? = some c.source ∨ s.windowOpen = false) → s.gives (.claim c) fun t => s.Responds t c 0 [1] ∧ granted c.source 1 src t) ∧
    (s.owner = none → s.cfg.priority.head? ≠ some c.source → s.windowOpen = true → s.gives (.claim c) fun t => s.Responds t c 0 [0] ∧ c.source ∈ t.claims ∧
      (∀ m ∈ s.claims, m ∈ t.claims) ∧ s.unsaid t = { s with claims := t.claims })) ∧
  ((¬ past → s.gives .electionWindowEnd (· = s)) ∧
    (past → (∀ m ∈ s.cfg.priority, m ∉ s.claims) → s.gives .electionWindowEnd (· = { s with windowOpen := false })) ∧
    (∀ hi m lo, past → s.cfg.priority = hi ++ m :: lo → (∀ x ∈ hi, x ∉ s.claims) → m ∈ s.claims → s.gives .electionWindowEnd fun t => granted m 1 0 t ∧
      t.resps = s.resps ∧ t.win = s.win ∧ t.msis = s.msis)) ∧
  (∀ m, s.Admits c { op := 0x02, signed := true, scope := 0 } → n 0 % 4 = masterCode m → s.gives (.handover c) fun t => s.Responds t c 0 [] ∧ granted m 2 src t) ∧
  (∀ m, s.Admits c { op := 0x03, who := .mgmt, signed := true, scope := 0 } → n 0 % 4 = masterCode m →
    s.gives (.override c) fun t => s.Responds t c 0 [] ∧ granted m 3 src t) ∧
  (s.Admits c { op := 0x21, scope := 1 } → let k := s.task c.ldev.toNat (n 0)
    ((n 0 = 0 ∨ Store.get 0 s.nextTask c.ldev.toNat < n 0) → s.gives (.killtask c) (only 8 [])) ∧
    (n 0 ≠ 0 → n 0 ≤ Store.get 0 s.nextTask c.ldev.toNat → n 0 < 2 ^ 32 →
      (k.st = .running → s.gives (.killtask c) fun t => s.Held t c (n 0) ∧ s.Killed t c.ldev.toNat (· == n 0) 6 .command ∧ t.change = s.change) ∧
      (k.st = .ending → s.gives (.killtask c) fun t => s.Held t c (n 0) ∧ t = { s with cmds := t.cmds, win := t.win }) ∧
      (k.st ≠ .running → k.st ≠ .ending → s.gives (.killtask c) (only 0 [])))) ∧
  (s.Admits c { op := 0x22 } → Store.wf {} s.tasks = true → let hit (k : Nat) : Bool := (s.task p.ldev k).part == p.part
    ((∀ k, k < 2 ^ 32 → hit k = true → (s.task p.ldev k).st ≠ .running ∧ (s.task p.ldev k).st ≠ .ending) → s.gives (.killpart c) (only 0 [])) ∧
    (∀ k, k < 2 ^ 32 → hit k = true → ((s.task p.ldev k).st = .running ∨ (s.task p.ldev k).st = .ending) → s.gives (.killpart c) fun t => s.Held t c 0 ∧ s.Killed t p.ldev hit 6 .command ∧ t.change = s.change)) ∧
  (s.Admits c { op := 0x23, scope := if n 0 = 3 then 0 else 2 } → let old := if s.standby then 3 else (s.part p).power.code
    let logs (t : State) (who was now_ refused : Nat) : Prop := s.Logged t 12 src c.ldev.toNat who [who, was, now_, src, refused]
    let kept (t : State) : Prop := s.unsaid t = { s with journal := t.journal, head := t.head }
    let gated : Prop := ∀ q ∈ s.liveParts, (s.part q).power = .gated
    (n 0 = 3 → gated → s.gives (.cmdPower c) fun t => s.Responds t c 0 [] ∧ logs t 0xFF 2 3 0 ∧
      s.unsaid t = { s with journal := t.journal, head := t.head, standby := true }) ∧
    (n 0 = 3 → ¬ gated → s.gives (.cmdPower c) fun t => s.Responds t c 2 [] ∧ logs t 0xFF 0 3 1 ∧ kept t) ∧
    (n 0 = 2 → s.crewsAbout p = true → s.gives (.cmdPower c) fun t => s.Responds t c 2 [] ∧ logs t p.part old 2 1 ∧ kept t) ∧
    (n 0 = 2 → s.crewsAbout p = false → s.gives (.cmdPower c) fun t => s.Responds t c 0 [] ∧ logs t p.part old 2 0 ∧ t.part p = { s.part p with power := .gated } ∧
      s.unsaid t = { s with journal := t.journal, head := t.head, parts := t.parts } ∧ ∀ q, partKey q ≠ partKey p → t.part q = s.part q) ∧
    (n 0 = 0 → s.gives (.cmdPower c) fun t => s.Responds t c 0 [] ∧ logs t p.part old 0 0 ∧ (t.part p).power = .active ∧ (t.part p).idleSince = s.now ∧ t.standby = false ∧
      s.unsaid t = { s with journal := t.journal, head := t.head, parts := t.parts, queues := t.queues, standby := false } ∧
      ∀ q, partKey q ≠ partKey p → t.part q = s.part q)) ∧
  (s.Admits c { op := 0x24 } → n 0 ≤ 3600000 → s.gives (.watchdog c) fun t => part t fun q => { q with watchdogMs := n 0 }) ∧
  (s.Admits c { op := 0x25 } → (n 0 = 0 ∧ n 1 = 0 → s.gives (.dumph c) fun t => part t fun q => { q with dumpTarget := none }) ∧
    (¬ (n 0 = 0 ∧ n 1 = 0) → s.brewDword p (cArg c 0) (n 1) 1 false true = none → s.gives (.dumph c) (only 8 [])) ∧
    (∀ a, ¬ (n 0 = 0 ∧ n 1 = 0) → s.brewDword p (cArg c 0) (n 1) 1 false true = some a →
      s.gives (.dumph c) fun t => part t fun q => { q with dumpTarget := some (cArg c 0, n 1) })) ∧
  (s.Admits c { op := 0x49, who := .os, scope := 0 } → n 0 ≤ 65535 → s.gives (.bindvec c) fun t => s.Responds t c 0 [] ∧ s.unsaid t = { s with vecs := t.vecs } ∧
    ∀ k, Store.get none t.vecs k = if k = n 0 then (if n 2 = 0 then none else some (n 1, n 2)) else Store.get none s.vecs k) ∧
  (s.Admits c { op := 0x4A, who := .any, scope := 0 } → 1 ≤ n 1 → n 1 ≤ 16 → s.gives (.jread c) fun t =>
    s.Responds t c 0 [s.head] ((s.journal.filter fun r => decide (n 0 ≤ r.seq ∧ r.seq < n 0 + n 1)).flatMap JRec.bytes) ∧ s.unsaid t = s) ∧
  (s.Admits c { op := 0x48, who := .any, scope := if n 4 = 0 then 0 else 2 } → ∃ r : List Byte, r.length = 2304 + Config.lmsBytes ∧
    r.take 8 = leBytes 8 (0x41545354 * 2 ^ 32 + 1) ∧ (r.drop 8).take 8 = leBytes 8 s.now ∧
    (r.drop 16).take 32 = (leBytes 8 (n 0) ++ leBytes 8 (n 1) ++ leBytes 8 (n 2) ++ leBytes 8 (n 3)) ∧
    (r.drop 144).take 16 = leBytes 8 (s.cfg.fwVer * 2 ^ 32 + s.cfg.cfgVer) ++ leBytes 8 s.cfg.grade ∧
    (∀ k, k < 256 → (r.drop (160 + 8 * k)).take 8 = leBytes 8 (s.core k).mask.toNat) ∧
    (n 4 = 0 → s.gives (.attest c) fun t => s.Responds t c 0 [] r ∧ s.unsaid t = { s with freeCtr := s.freeCtr + 1 }) ∧
    (n 4 ≠ 0 → s.brewDword p (cArg c 4) r.length 1 false true = none → s.gives (.attest c) fun t => s.Responds t c 8 [] ∧
      s.unsaid t = { s with freeCtr := s.freeCtr + 1 }) ∧
    (∀ a, n 4 ≠ 0 → s.brewDword p (cArg c 4) r.length 1 false true = some a → s.gives (.attest c) fun t => s.Responds t c 0 [] ∧
      s.Poked { s.unsaid t with freeCtr := s.freeCtr } a r))

/-- Partition changes (R378, R387). PARTCHG answers BUSY while a change is pending, OK where no partition changes, and else waits as
PENDING; at its deadline it is answered BUSY, or with FORCE kills every task of an affected partition that has a crew; once no crew of one
is left on a core the new layout holds, a new partition has a LIVE root arena, trees that no group or collective uses are stitched anew, a
removed one holds nothing, and the command is answered OK. Rests also on the model's own reading, log entries 45, 53, 54, 61 and 80. -/
def Obligations.PartitionChanges : Prop := ∀ s : State,
  (∀ c, let d := c.ldev.toNat
    let n (i : Nat) : DWord := cArg c i
    let x : PartChange := { st := .pending, source := c.source, seq := c.seq, regions := n 0, ways := n 1, pcs := n 2, deadlineUs := (n 3).toNat % 2 ^ 32
                            force := (n 3).getLsbD 63, startNs := s.now }
    let same : Prop := ∀ i, i < 8 → byteOf (n 0) i = (s.part ⟨d, i⟩).regions.toNat ∧ byteOf (n 1) i = (s.part ⟨d, i⟩).ways ∧ byteOf (n 2) i = (s.part ⟨d, i⟩).pcs
    s.Admits c { op := 0x20, scope := 1 } → layoutOk (n 0) (n 1) (n 2) = true →
    (Store.get none s.change d ≠ none → s.gives (.partchg c) fun t => s.Responds t c 2 [] ∧ s.unsaid t = s) ∧
    (Store.get none s.change d = none → same → s.gives (.partchg c) fun t => s.Responds t c 0 [] ∧ s.unsaid t = s) ∧
    (Store.get none s.change d = none → ¬ same → s.gives (.partchg c) fun t => s.Held t c 0 ∧
      s.Logged t 3 (masterCode c.source) d 0xFF ([c.seq.toNat, 1, boolNat x.force] ++ s.layoutOf d ++ [(n 0).toNat, (n 1).toNat, (n 2).toNat]) ∧
      (∀ e, Store.get none t.change e = if e = d then some x else Store.get none s.change e) ∧
      t = { s with change := t.change, cmds := t.cmds, win := t.win, journal := t.journal, head := t.head })) ∧
  (∀ regions ways pcs : DWord, layoutOk regions ways pcs = true ↔
    (∀ r, r < 8 → ∀ i j, i < 8 → j < 8 → regions.getLsbD (8 * i + r) = true → regions.getLsbD (8 * j + r) = true → i = j) ∧
    ((List.range 8).map fun i => ways.toNat / 2 ^ (8 * i) % 256).sum ≤ 16 ∧ ((List.range 8).map fun i => pcs.toNat / 2 ^ (8 * i) % 256).sum ≤ 32 ∧
    ∀ i, i < 8 → regions.toNat / 2 ^ (8 * i) % 256 ≠ 0 → ways.toNat / 2 ^ (8 * i) % 256 ≠ 0 ∧ pcs.toNat / 2 ^ (8 * i) % 256 ≠ 0) ∧
  (∀ d x, Store.get none s.change d = some x →
    let mine (p : PendCmd) : Bool := p.cmd.opcode.toNat == 0x20 && p.cmd.ldev.toNat == d
    let due := x.st = .pending ∧ x.startNs + x.deadlineUs * 1000 ≤ s.now
    let hit (k : Nat) : Bool := (s.affected d x).contains (s.task d k).part && !(s.taskCrews d k).isEmpty
    (¬ due → s.gives (.partitionDeadline d) (· = s)) ∧
    (due → x.force = false → s.gives (.partitionDeadline d) fun t => s.Closed t mine 2 ∧ (∀ e, Store.get none t.change e = if e = d then none else Store.get none s.change e) ∧
      s.Logged t 3 (masterCode x.source) d 0xFF ([x.seq.toNat, 2, 0] ++ s.layoutOf d ++ [x.regions.toNat, x.ways.toNat, x.pcs.toNat]) ∧
      t = { s with change := t.change, cmds := t.cmds, resps := t.resps, win := t.win, msis := t.msis, journal := t.journal, head := t.head }) ∧
    (due → x.force = true → Store.wf {} s.tasks = true → s.gives (.partitionDeadline d) fun t => s.Killed t d hit 6 .force ∧
      (∀ e, Store.get none t.change e = if e = d then some { x with st := .deadline } else Store.get none s.change e) ∧ t.cmds = s.cmds ∧ t.resps = s.resps)) ∧
  (∀ d x, Store.get none s.change d = some x →
    let mine (p : PendCmd) : Bool := p.cmd.opcode.toNat == 0x20 && p.cmd.ldev.toNat == d
    let held := ∃ e ∈ s.crews, e.2.ldev = d ∧ e.2.part ∈ s.affected d x ∧ e.2.st ≠ .pending ∧ e.2.st ≠ .retired
    (held → s.gives (.partitionApply d) (· = s)) ∧
    (¬ held → s.gives (.partitionApply d) fun t => Store.get none t.change d = none ∧ t.cmds = (s.cmds.filter fun c => !mine c) ∧
      (∀ i, i ∈ s.affected d x → byteOf x.regions i = 0 → (s.part ⟨d, i⟩).live = true → t.part ⟨d, i⟩ = {} ∧
        ∀ h, h < 2 ^ 20 → t.handle ⟨d, i⟩ h = {}) ∧
      (∀ i, i ∈ s.affected d x → byteOf x.regions i ≠ 0 → (t.part ⟨d, i⟩).regions.toNat = byteOf x.regions i ∧ (t.part ⟨d, i⟩).ways = byteOf x.ways i ∧
        (t.part ⟨d, i⟩).pcs = byteOf x.pcs i ∧
        (∀ j, j < 8 → ((s.part ⟨d, i⟩).usesTree j = true → (t.part ⟨d, i⟩).tree j = (s.part ⟨d, i⟩).tree j) ∧
          ((s.part ⟨d, i⟩).usesTree j = false → ∀ tr, (t.part ⟨d, i⟩).tree j = some tr → treeOk (t.partCores ⟨d, i⟩) tr = true)) ∧ ((s.part ⟨d, i⟩).live = false → (t.arena ⟨d, i, 0⟩).st = .live ∧ (t.arena ⟨d, i, 0⟩).gen = 1)) ∧
      ∀ q, (q.ldev ≠ d ∨ q.part ∉ s.affected d x) → q.part < 8 → t.part q = s.part q)) ∧
  (∀ d, Store.get none s.change d = none → s.gives (.partitionDeadline d) (· = s) ∧ s.gives (.partitionApply d) (· = s))

/-- Queues (R358 to R360, R387, R459). QREG checks the header and its CONFIG and registers the queue, which goes on where it was if it was
registered; QRESET and QREMOVE retire what has not started as SKIPPED and let what has started run on, QRESET with its slots freed; QAPPEND
claims an index, writes the packet and answers the index, or waits while the ring is full, and BUSY after 1 ms. Rests also on the model's
own reading, log entries 54 and 73. -/
def Obligations.QueueCommands : Prop := ∀ (s : State) (c : Cmd),
  let n := cArgN c 0
  let p := cmdPart c
  let q := s.queue p.ldev n
  let src := masterCode c.source
  let only (status : Nat) (t : State) : Prop := s.Responds t c status [] ∧ s.unsaid t = s
  let has : Prop := q.reg = true ∧ q.part = p.part
  let hdr := s.queueHdr p.ldev q
  let wr := (s.rd64 hdr).toNat
  let rd := (s.rd64 (hdr + 0x80)).toNat
  let started := q.pkts.filter fun k => k.st == .started
  let freed (l : Loc) : Byte := if started.any (fun k => l == .mem (s.queueSlot p.ldev q k.index)) then 0 else s.peek l
  let others (t : State) : Prop := ∀ e m, m < 4096 → (e ≠ p.ldev ∨ m ≠ n) → t.queue e m = s.queue e m
  let next : PktRef := ⟨p.ldev, n, q.next⟩
  let skips (t : State) : Prop := q.capLog ≤ 15 → q.next < wr → s.pktType next ≠ 0 →
    ∃ r ∈ t.journal, r.kind = 2 ∧ r.data = [n, q.next, s.pktType next, 8].map (BitVec.ofNat 64)
  let noted (t : State) (what : Nat) : Prop := wr ≤ q.next → s.Logged t 10 src p.ldev p.part [n, what]
  (s.Admits c { op := 0x10 } → n ≤ 4095 →
    (s.brewDword p (cArg c 1) 256 256 true true = none → s.gives (.cmdQreg c) (only 8)) ∧
    (∀ a, s.brewDword p (cArg c 1) 256 256 true true = some a →
      let d (off : Nat) : Nat := (s.rd64 (a + off)).toNat
      let h := d 0x88 / 2 ^ 32
      let off := d 0x88 % 2 ^ 32
      let cfg := d 0x90
      let cap := cfg / 2 ^ 24 % 16
      let qlog := cfg / 2 ^ 12 % 64
      let hbm : Prop := (s.handle p (addrH (cArg c 1))).space = 2
      let good : Prop := (∀ i, i < 13 → d (0x98 + 8 * i) = 0) ∧ (∀ i, i < 15 → d (8 + 8 * i) = 0) ∧ cfg / 2 ^ 48 = 0 ∧ cfg / 2 ^ 28 % 16 = 0 ∧ cfg / 2 ^ 18 % 64 = 0 ∧
        cfg / 2 ^ 9 % 8 = 0 ∧ cfg / 2 ^ 3 % 32 = 0 ∧ cap ≠ 0 ∧ cfg / 2 ^ 32 % 2 ^ 16 ≠ 0 ∧ off % 64 = 0 ∧ (qlog = 0 ∨ (10 ≤ qlog ∧ qlog ≤ 40)) ∧
        (s.brewAddr p h off (64 * 2 ^ cap) 1 true true).isSome = true
      (¬ hbm → s.gives (.cmdQreg c) (only 8)) ∧ (hbm → ¬ good → s.gives (.cmdQreg c) (only 3)) ∧
      (hbm → good → s.gives (.cmdQreg c) fun t => s.Responds t c 0 [] ∧ s.Logged t 10 src p.ldev p.part [n, 1] ∧ others t ∧
        (q.reg = true ∨ started = [] → s.unsaid t = { s with queues := t.queues, journal := t.journal, head := t.head }) ∧
        (q.reg = false → ∀ a, t.peek (.mem a) = freed (.mem a)) ∧
        (let x := t.queue p.ldev n
         x.reg = true ∧ x.part = p.part ∧ x.hdrH = addrH (cArg c 1) ∧ x.hdrOff = addrOff (cArg c 1) ∧ x.proc = cArg c 2 ∧ x.ringH = h ∧ x.ringOff = off ∧
         x.ageUs = cfg / 2 ^ 32 % 2 ^ 16 ∧ x.capLog = cap ∧ x.qLog = (if qlog = 0 then 20 else qlog) ∧ x.preempt = decide (cfg / 2 ^ 8 % 2 = 1) ∧ x.prioMax = cfg % 8 ∧
         x.orphans = (if q.reg = true then q.orphans else q.orphans ++ started) ∧ (q.reg = true → x.next = q.next ∧ x.pkts = q.pkts ∧ x.skip = q.skip) ∧ (q.reg = false → x.next = d 0x80 ∧ x.pkts = [] ∧ x.skip = 0))))) ∧
  (s.Admits c { op := 0x11 } → n ≤ 4095 → (¬ has → s.gives (.qreset c) (only 8)) ∧
    (has → (∀ x ∈ q.pkts, x.index < q.next) → s.gives (.qreset c) fun t => s.Responds t c 0 [] ∧ others t ∧ skips t ∧ noted t 2 ∧
      t.rd64 hdr = 0 ∧ t.rd64 (hdr + 0x80) = 0 ∧ (let x := t.queue p.ldev n
        x.reg = true ∧ x.part = p.part ∧ x.next = 0 ∧ x.pkts = [] ∧ x.skip = 0 ∧ x.orphans = q.orphans ++ started) ∧
      (wr ≤ q.next → ∀ a, t.peek (.mem a) = overlay (overlay freed (.mem hdr) (leBytes 8 0)) (.mem (hdr + 0x80)) (leBytes 8 0) (.mem a)))) ∧
  (s.Admits c { op := 0x12 } → n ≤ 4095 → (¬ has → s.gives (.qremove c) (only 8)) ∧
    (has → (∀ x ∈ q.pkts, x.index < q.next) → s.gives (.qremove c) fun t => s.Responds t c 0 [] ∧ others t ∧ skips t ∧ noted t 3 ∧
      (let x := t.queue p.ldev n
       x.reg = false ∧ (x.pkts.filter fun k => k.st == .started) = started ∧ x.orphans = q.orphans ∧ x.skip = 0 ∧ x.waitSince = none) ∧
      (wr ≤ q.next → t.mem = s.mem ∧ (t.queue p.ldev n).pkts = q.pkts))) ∧
  (s.Admits c { op := 0x13, who := .any } → n ≤ 4095 → (∀ x ∈ s.cmds, x.cmd ≠ c) → let a := s.queueSlot p.ldev q wr
    (¬ has → s.gives (.qappend c) (only 8)) ∧
    (has → wr - rd < 2 ^ q.capLog → s.gives (.qappend c) fun t => s.Responds t c 0 [wr] ∧
      (∀ x, t.peek (.mem x) = overlay (overlay s.peek (.mem hdr) (leBytes 8 (wr + 1))) (.mem a) ((List.range 8).flatMap fun i => leBytes 8 (cArgN c (i + 1))) (.mem x)) ∧
      s.unsaid t = { s with mem := t.mem, poison := t.poison, cores := t.cores, sharers := t.sharers, writes := s.writes + 3, hist := t.hist
                            fills := t.fills, absent := t.absent }) ∧
    (has → 2 ^ q.capLog ≤ wr - rd → s.gives (.qappend c) fun t => s.Held t c 0 ∧ t = { s with cmds := t.cmds, win := t.win })) ∧
  (∀ x ∈ s.cmds, x.cmd = c → c.opcode = 0x13 →
    (¬ has → s.gives (.qappend c) fun t => t.cmds = (s.cmds.eraseP fun y => y.cmd == c) ∧ t.resps = s.resps ++ [⟨c.source, c.seq, c.opcode, 8, [], []⟩]) ∧
    (has → wr - rd < 2 ^ q.capLog → s.gives (.qappend c) fun t => t.cmds = (s.cmds.eraseP fun y => y.cmd == c) ∧
      t.resps = s.resps ++ [⟨c.source, c.seq, c.opcode, 0, [BitVec.ofNat 64 wr], []⟩]) ∧
    (has → 2 ^ q.capLog ≤ wr - rd → s.gives (.qappend c) (· = s))) ∧
  (∀ m (seq : Word), s.gives (.qappendBusy m seq) fun t => s.Closed t (fun x => x.cmd.opcode == 0x13 && x.cmd.source == m && x.cmd.seq == seq &&
    decide (x.sinceNs + 1000000 ≤ s.now)) 2 ∧ t = { s with cmds := t.cmds, resps := t.resps, win := t.win, msis := t.msis })

/-- Arenas, handles and memory (R291 to R310, R85, R387, R388). The arena commands act as the words do on the partition's table, with ERROR
for a name or state that fails; a seal and a drop are answered at their completion. MREAD and MWRITE move bytes, MAP and UNMAP change the
host window, IMPORT makes a PEER entry that no permission of the exporter widens, and an access of an application core, a load, a store, an
AMO, a load-reserved or a store-conditional, reaches a register or ring of the window or a mapped object, or is an access fault. Rests also
on the model's own reading, log entries 15, 55, 63 and 72. -/
def Obligations.MemoryCommands : Prop := ∀ (s : State) (c : Cmd),
  let n (i : Nat) : Nat := cArgN c i
  let p := cmdPart c
  let only (status : Nat) (t : State) : Prop := s.Responds t c status [] ∧ s.unsaid t = s
  let i := n 0 % 4096
  let a := s.arena (arenaAt p i)
  let names (drop : Bool) : Prop := a.st ≠ .free ∧ a.gen = n 0 / 4096 % 2 ^ 20 ∧ (a.st = .dropping → drop = true)
  let sealed := a.st = .sealing ∨ a.st = .sealed_
  let root := a.depth = 0 ∨ a.held = true
  let charge := (n 1 + 127) / 128 * 128
  let past (j : Nat) : Prop := (s.arena (arenaAt p j)).quota < (s.arena (arenaAt p j)).used + charge
  let others (t : State) (j : Nat) : Prop := ∀ k, k ≠ arenaKey (arenaAt p j) → Store.get {} t.arenas k = Store.get {} s.arenas k
  let failing (f : Cmd → Instr) (op : Nat) (drop : Bool) (bad : Prop) : Prop := s.Admits c { op := op } → (¬ names drop ∨ bad) → s.gives (f c) (only 8)
  let result (t : State) (status v : Nat) : Prop := s.Responds t c 0 [status * 2 ^ 56 + v]
  failing .cmdArnew 0x30 false (sealed ∨ a.held = true ∨ a.depth = 8) ∧ failing .cmdHalloc 0x31 false (sealed ∨ a.held = true) ∧
  failing .cmdArseal 0x32 false root ∧ failing .cmdArdrop 0x33 true root ∧ failing .cmdArquota 0x34 false root ∧
  (s.Admits c { op := 0x30 } → names false → ¬ (sealed ∨ a.held = true ∨ a.depth = 8) →
    (s.freeArena p = none → s.gives (.cmdArnew c) fun t => result t 3 0 ∧ s.unsaid t = s) ∧
    (∀ j, s.freeArena p = some j → let old := s.arena (arenaAt p j)
      s.gives (.cmdArnew c) fun t => result t 0 ((old.gen + 1) * 4096 + j) ∧ s.unsaid t = { s with arenas := t.arenas } ∧ others t j ∧
        t.arena (arenaAt p j) = { gen := old.gen + 1, parent := i, depth := a.depth + 1, st := .live, held := false, quota := n 1 % 2 ^ 48, cap := (cArg c 2).setWidth 32 })) ∧
  (s.Admits c { op := 0x31 } → names false → ¬ (sealed ∨ a.held = true) → let bad : Prop := n 1 = 0 ∨ 2 ^ 48 ≤ n 1 ∨ n 2 / 2 % 4 = 3 ∨ 2 ^ 5 ≤ n 2
    (bad → s.gives (.cmdHalloc c) fun t => result t 5 0 ∧ s.unsaid t = s) ∧
    (∀ j, ¬ bad → (s.pathOf p i).reverse.find? (fun j => decide (past j)) = some j → s.gives (.cmdHalloc c) fun t => result t 1 j ∧ s.unsaid t = s) ∧
    (¬ bad → (∀ j ∈ s.pathOf p i, ¬ past j) → s.hasBacking p ((cArg c 2).getLsbD 0) charge = false → s.gives (.cmdHalloc c) fun t => result t 2 0 ∧ s.unsaid t = s) ∧
    (¬ bad → (∀ j ∈ s.pathOf p i, ¬ past j) → s.hasBacking p ((cArg c 2).getLsbD 0) charge = true → (s.freeHandle p).1 = none →
      s.gives (.cmdHalloc c) fun t => result t 4 0 ∧ s.unsaid t = s) ∧
    (∀ h, ¬ bad → (∀ j ∈ s.pathOf p i, ¬ past j) → s.hasBacking p ((cArg c 2).getLsbD 0) charge = true → (s.freeHandle p).1 = some h → s.gives (.cmdHalloc c) fun t =>
      result t 0 h ∧ s.unsaid t = { s with arenas := t.arenas, handles := t.handles, vaNext := t.vaNext, freeVa := t.freeVa, freeCtr := t.freeCtr } ∧
      (let e := t.handle p h
       e.valid = true ∧ e.size = n 1 ∧ e.arena = i ∧ e.space = (if (cArg c 2).getLsbD 0 then 3 else 2) ∧ e.policy = n 2 / 2 % 4 ∧ e.r = (cArg c 2).getLsbD 3 ∧
       e.w = (cArg c 2).getLsbD 4 ∧ e.x = false) ∧ ∀ k, k ≠ handleKey p h → Store.get {} t.handles k = Store.get {} s.handles k)) ∧
  (s.Admits c { op := 0x32 } → names false → ¬ root →
    (a.st = .sealed_ → s.gives (.cmdArseal c) (only 0)) ∧ (a.st = .sealing → s.gives (.cmdArseal c) fun t => s.Held t c i ∧ t.arenas = s.arenas) ∧
    (a.st = .live → s.gives (.cmdArseal c) fun t => s.Held t c i ∧ t = { s with arenas := t.arenas, parts := t.parts, cmds := t.cmds, win := t.win } ∧
      ∀ j, j < 4096 → (t.arena (arenaAt p j)).gen = (s.arena (arenaAt p j)).gen ∧
        (t.arena (arenaAt p j)).st = if j ∈ s.subtree p i ∧ (s.arena (arenaAt p j)).st = .live then .sealing else (s.arena (arenaAt p j)).st)) ∧
  (s.Admits c { op := 0x33 } → names true → ¬ root → s.gives (.cmdArdrop c) fun t => (∃ x ∈ t.cmds, x.cmd = c ∧ x.ref_ = i ∧ x.sinceNs = s.now) ∧ t.mem = s.mem ∧
    t.handles = s.handles ∧ ∀ j, j < 4096 → (t.arena (arenaAt p j)).gen = (s.arena (arenaAt p j)).gen ∧
      (t.arena (arenaAt p j)).st = if j ∈ s.subtree p i then .dropping else (s.arena (arenaAt p j)).st) ∧
  (s.Admits c { op := 0x34 } → names false → ¬ root → s.gives (.cmdArquota c) fun t => s.Responds t c 0 [] ∧ s.unsaid t = { s with arenas := t.arenas } ∧ others t i ∧
    t.arena (arenaAt p i) = { a with quota := if (cArg c 1).getLsbD 63 then a.quota else n 1 % 2 ^ 48, cap := if (cArg c 2).getLsbD 63 then a.cap else (cArg c 2).setWidth 32 }) ∧
  (s.Admits c { op := 0x35, who := .any } → s.gives (.cmdArinfo c) fun t => s.unsaid t = s ∧ s.Responds t c 0 [match n 1 % 4 with
    | 0 => a.gen * 2 ^ 44 + i * 2 ^ 32 + a.parent * 2 ^ 20 + a.depth * 2 ^ 16 + a.st.code * 2 ^ 13 + boolNat a.held * 2 ^ 12 + boolNat a.retired * 2 ^ 11
    | 1 => a.quota
    | 2 => a.used
    | _ => a.occ.toNat * 2 ^ 32 + a.cap.toNat]) ∧
  (s.Admits c { op := 0x3C, who := .any } → 1 ≤ n 1 → n 1 ≤ 56 →
    (s.brewDword p (cArg c 0) (n 1) 1 true false = none → s.gives (.mread c) (only 8)) ∧
    (∀ b, s.brewDword p (cArg c 0) (n 1) 1 true false = some b → ∃ r : List Nat, r.length = (n 1 + 7) / 8 ∧
      (∀ k, k < n 1 → r.getD (k / 8) 0 / 2 ^ (8 * (k % 8)) % 256 = (s.peek ((keyLoc b).plus k)).toNat) ∧ s.gives (.mread c) fun t => s.Responds t c 0 r ∧ s.unsaid t = s)) ∧
  (s.Admits c { op := 0x3D, who := .any } → 1 ≤ n 1 → n 1 ≤ 56 →
    (s.brewDword p (cArg c 0) (n 1) 1 false true = none → s.gives (.mwrite c) (only 8)) ∧
    (∀ b, s.brewDword p (cArg c 0) (n 1) 1 false true = some b → s.gives (.mwrite c) fun t => s.Responds t c 0 [] ∧
      s.Poked (s.unsaid t) b (((List.range 7).flatMap fun k => leBytes 8 (n (k + 2))).take (n 1)))) ∧
  (s.Admits c { op := 0x3A } → let e : PartRef := ⟨n 0 / 2 ^ 56, n 0 / 2 ^ 48 % 256⟩
    let x := s.handle e (n 0 % 2 ^ 20)
    let y := s.arena (x.arenaRef e)
    let fine : Prop := x.valid = true ∧ (x.space = 2 ∨ x.space = 3) ∧ (y.st = .live ∨ y.st = .sealing ∨ y.st = .sealed_) ∧ y.gen = x.gen ∧ e.ldev ≠ p.ldev
    e.ldev < 4 → e.part < 8 → (¬ fine → s.gives (.importHandle c) (only 8)) ∧
    (fine → (s.freeHandle p).1 = none → s.gives (.importHandle c) fun t => s.Responds t c 7 [] ∧ s.unsaid t = { s with freeCtr := t.freeCtr }) ∧
    (∀ h, fine → (s.freeHandle p).1 = some h → s.gives (.importHandle c) fun t => s.Responds t c 0 [h] ∧ s.unsaid t = { s with handles := t.handles, freeCtr := t.freeCtr } ∧
      (∀ k, k ≠ handleKey p h → Store.get {} t.handles k = Store.get {} s.handles k) ∧
      (let z := t.handle p h
       z.valid = true ∧ z.space = 4 ∧ z.base = x.base ∧ z.size = x.size ∧ z.gen = x.gen ∧ z.arena = x.arena ∧ z.policy = x.policy ∧ z.x = false ∧
       z.r = (x.r && (cArg c 1).getLsbD 0) ∧ z.w = (x.w && (cArg c 1).getLsbD 1)))) ∧
  (∀ h, (s.freeHandle p).1 = some h → h < 2 ^ 20 ∧ (s.handle p h).valid = false) ∧
  (s.Admits c { op := 0x38, who := .os } → let e := s.handle p (n 0)
    let named : Prop := n 0 < 2 ^ 20 ∧ e.valid = true ∧ (e.space = 2 ∨ e.space = 3 ∨ e.space = 4)
    let pages := (e.size + 65535) / 65536 * 65536
    (¬ named → s.gives (.map c) (only 8)) ∧
    (named → s.mapPlaces e.size = [] → s.gives (.map c) (only 7)) ∧
    (named → s.mapPlaces e.size ≠ [] → (∀ m ∈ s.maps, 0x010000000000 ≤ m.addr) → s.gives (.map c) fun t => ∃ m : HostMap, s.Responds t c 0 [m.addr] ∧ t.maps = s.maps ++ [m] ∧
      m.addr % 65536 = 0 ∧ 0x010000000000 ≤ m.addr ∧ m.addr + e.size ≤ 0x010000000000 + 2 ^ 44 ∧ (∀ k ∈ s.maps, k.meets m.addr pages = false) ∧
      m.ldev = p.ldev ∧ m.part = p.part ∧ m.h = n 0 ∧ m.ent = e ∧ m.r = (cArg c 1).getLsbD 0 ∧ m.w = (cArg c 1).getLsbD 1 ∧
      s.unsaid t = { s with maps := t.maps, freeCtr := t.freeCtr })) ∧
  (s.Admits c { op := 0x39, who := .os, scope := 0 } → let at_ (m : HostMap) : Bool := m.addr == n 0
    (s.maps.any at_ = false → s.gives (.unmap c) (only 8)) ∧
    (s.maps.any at_ = true → s.gives (.unmap c) fun t => s.Responds t c 0 [] ∧ s.unsaid t = { s with maps := s.maps.filter fun m => !at_ m })) ∧
  (∀ (k : Nat) (o v : DWord), amoValue 0 k o v = v ∧ amoValue 1 k o v = o + v ∧ amoValue 2 k o v = o ^^^ v ∧ amoValue 3 k o v = o &&& v ∧
    amoValue 4 k o v = o ||| v ∧ amoValue 5 8 o v = (if v.toInt < o.toInt then v else o) ∧ amoValue 6 8 o v = (if o.toInt < v.toInt then v else o) ∧
    amoValue 7 8 o v = (if v.toNat < o.toNat then v else o) ∧ amoValue 8 8 o v = (if o.toNat < v.toNat then v else o)) ∧
  (∀ addr (v : DWord) (o : HostOp) k, let off := addr - 0x00F000000000
    let here : Prop := 0x00F000000000 ≤ addr ∧ off < 2 ^ 30
    let heard : Prop := s.cfg.recovery = false ∧ (k = 4 ∨ k = 8 ∨ ((k = 1 ∨ k = 2) ∧ (o = .load ∨ o = .store))) ∧ (∀ j, o = .amo j → j < 9) ∧ addr % k = 0
    let stores (old : DWord) (held : Bool) : Option DWord := match o with
      | .store => some v
      | .amo j => some (amoValue j k old v)
      | .sc => if held then some v else none
      | _ => none
    let told (t : State) (old : DWord) (held : Bool) : Prop := t.hostFault = false ∧ t.hostAns = (match o with
        | .store => 0
        | .sc => if held then 0 else 1
        | _ => old) ∧ t.hostRes = match o with
      | .lr => some (addr, k, s.writes, old)
      | .sc => none
      | _ => s.hostRes
    let faults : Prop := s.gives (.registerWrite addr ⟨o, k, v⟩) (· = { s with hostAns := 0, hostFault := true, hostRes := if o = .sc then none else s.hostRes })
    (¬ heard → s.gives (.registerWrite addr ⟨o, k, v⟩) (· = s)) ∧
    (heard → here → (off / 8 ≠ 0xC000 / 8 ∨ o = .load ∨ o = .lr) → let w := off / 8 * 8
      let fixed : Prop := (0x8000 ≤ w ∧ w < 0xC000) ∨ w = 0xC008 ∨ w = 0xC010 ∨ w = 0xC020 ∨ 0x4000000 ≤ w
      let old : DWord := BitVec.ofNat 64 ((s.winDword w).toNat / 2 ^ (8 * (off % 8)) % 2 ^ (8 * k))
      let held := s.reserved addr k old none
      (w < 0x4000000 → s.winDword w = s.winReg w) ∧ s.gives (.registerWrite addr ⟨o, k, v⟩) fun t => told t old held ∧
        t = { s with win := t.win, hostAns := t.hostAns, hostFault := t.hostFault, hostRes := t.hostRes } ∧ (∀ r, r ≠ w → t.winReg r = s.winReg r) ∧
        ((fixed ∨ stores old held = none) → t.winReg w = s.winReg w) ∧ (∀ x, ¬ fixed → stores old held = some x → ∀ i, i < 8 → byteOf (t.winReg w) i =
          if off % 8 ≤ i ∧ i < off % 8 + k then byteOf x (i - off % 8) else byteOf (s.winReg w) i)) ∧
    (heard → ¬ here → (∀ m ∈ s.maps, m.meets addr k = false) → faults) ∧
    (∀ m, heard → ¬ here → s.maps.find? (fun m => m.meets addr k) = some m → let h : HReg := ⟨BitVec.ofNat 20 m.h, m.ent, false⟩
      let key := memKey (m.ent.home m.ldev) (m.ent.base + (addr - m.addr))
      let rd := o ≠ .store ∧ o ≠ .sc
      let wr := o ≠ .load ∧ o ≠ .lr
      let old : DWord := BitVec.ofNat 64 (leNat (s.peekN (.mem key) k))
      let held := s.reserved addr k old (some (.mem key))
      let ok : Prop := (rd → m.r = true) ∧ (wr → m.w = true) ∧
        ∀ j, 1 ≤ j → j ≤ 5 → s.checkStep ⟨m.ldev, m.part⟩ h ⟨k, k, decide rd, decide wr⟩ none (sliceOf key) (BitVec.ofNat 64 (addr - m.addr)) j = none
      (¬ ok → faults) ∧
      (ok → (s.goneUnit key k ≠ none ∨ (rd ∧ s.filling (.mem key) k ≠ none)) → s.gives (.registerWrite addr ⟨o, k, v⟩) (· = s)) ∧
      (ok → s.goneUnit key k = none → (rd → s.filling (.mem key) k = none) → s.gives (.registerWrite addr ⟨o, k, v⟩) fun t => told t old held ∧
        ∃ u, t = { u with hostAns := t.hostAns, hostFault := t.hostFault, hostRes := t.hostRes } ∧
          (∀ x, stores old held = some x → s.Poked u key (leBytes k x.toNat)) ∧ (stores old held = none → u = s))))

/-! ### Debug and trace (R390, R413 to R433) -/

/-- The DEBUG command (R390, R417 to R424, R432, R433). Outside the counter series a production-locked partition refuses every request and a
tenant one what reaches beyond it, and every one once its token has expired; a configuration may enter vendor-debug for all; a gated or
standby one answers POWERED_DOWN; an idle one is ungated for the request, which the journal shows. HALT and RESUME stop and release crews,
STEP lets one pair run a clause, and the other requests set and read what they name, of a stopped crew alone where R390 says so, once it has
come to rest. A HALT writes a stop record with code 0 (R418); a crew that a dump has stopped stays stopped past its end. Rests also on the
model's own reading, log entries 53, 54, 81 and 82. -/
def Obligations.DebugRequests : Prop := ∀ (s : State) (c : Cmd),
  let n (i : Nat) : Nat := cArgN c i
  let p := cmdPart c
  let q := s.part p
  let asks (k : Nat) : Prop := s.Admits c { op := 0x40, sub := some k, who := .any }
  let only (status : Nat) (t : State) : Prop := s.Responds t c status [] ∧ s.unsaid t = s
  let refused (k : Nat) (wide : Bool) : Prop := k ≠ 10 ∧ s.cfg.vendor = false ∧ (q.security = .locked ∨ ∃ e, q.security = .tenant e ∧ (wide = true ∨ e ≤ s.now))
  let down : Prop := s.standby = true ∨ q.power = .gated
  let may (k : Nat) (wide : Bool) : Prop := asks k ∧ ¬ refused k wide ∧ ¬ down
  let chip : Bool := n 1 == 2
  let reg : Bool := (cArg c 4).getLsbD 63
  let requests : List (Nat × (Cmd → Instr) × Bool × Bool) := [(1, .halt, chip, n 1 ≤ 2), (2, .resume, chip, n 1 ≤ 2), (3, .step, false, true), (4, .bpset, false, n 4 ≤ 7),
    (5, .wpset, false, n 4 ≤ 3), (6, .intercept, false, true), (7, .regrd, reg, regRange c), (8, .regwr, reg, regRange c), (9, .sample, false, n 1 == 0 || (8 ≤ n 1 && n 1 ≤ 24)),
    (10, .series, false, n 1 == 0 || (10 ≤ n 1 && n 1 ≤ 24)), (11, .trace, false, n 1 % 64 == 0 || (6 ≤ n 1 % 64 && n 1 % 64 ≤ 24)), (12, .dbgpol, false, true),
    (13, .stoprec, false, true), (14, .memrd, false, n 4 ≤ 2 && 1 ≤ n 6 && n 6 ≤ 56), (15, .memwr, false, n 4 ≤ 2 && 1 ≤ n 6 && n 6 ≤ 56)]
  let logs (t : State) : Prop := if q.power = .idle then t.head = s.head + 2 ∧ t.journal.getLast? = some ⟨s.head + 1, s.now, 12, 0, p.ldev, p.part,
      [p.part, 0, 1, 0].map (BitVec.ofNat 64)⟩ ∧ (⟨s.head, s.now, 12, 0, p.ldev, p.part, [p.part, 1, 0, 0].map (BitVec.ofNat 64)⟩ : JRec) ∈ t.journal
    else t.head = s.head ∧ t.journal = s.journal
  let said (t : State) : State := { s.unsaid t with journal := s.journal, head := s.head }
  let ok (t : State) (results : List Nat) : Prop := s.Responds t c 0 results ∧ logs t
  let fails (t : State) (status : Nat) : Prop := s.Responds t c status [] ∧ logs t ∧ said t = s
  let crew (t : State) (u : Nat) (x : Crew) : Prop := ok t [] ∧ said t = { s with crews := t.crews } ∧ t.crew u = x ∧ ∀ v, v ≠ u → t.crew v = s.crew v
  let scope (v : Nat) : Prop := (n 1 = 0 ∧ s.dbgCrew c = some v) ∨ (n 1 ≠ 0 ∧ (s.crew v).st ≠ .retired ∧ (s.crew v).st ≠ .killing ∧ (n 1 = 1 → (s.crew v).pref = p))
  let bytes (r : List Nat) (len : Nat) (m : Nat → Byte) : Prop := r.length = (len + 7) / 8 ∧ ∀ k, k < len → r.getD (k / 8) 0 / 2 ^ (8 * (k % 8)) % 256 = (m k).toNat
  (∀ k f wide range, (k, f, wide, range) ∈ requests → asks k → range = true → (refused k wide → s.gives (f c) (only 1)) ∧
    (¬ refused k wide → down → s.gives (f c) (only 4))) ∧
  (∀ k f wide range, (k, f, wide, range) ∈ requests → k ∉ [1, 2, 9, 10, 11, 12] → may k wide → range = true → s.dbgCrew c = none → s.gives (f c) (fails · 8)) ∧
  (∀ k f wide range u, (k, f, wide, range) ∈ requests → k ∈ [3, 7, 8, 14, 15] → may k wide → range = true → s.dbgCrew c = some u →
    ((s.crew u).stop = none ∨ (s.crew u).atRest = false) → s.gives (f c) (fails · 2)) ∧
  (∀ u, Store.wf {} s.crews = true → s.dbgCrew c = some u → (s.crew u).ldev = p.ldev ∧ (s.crew u).part = p.part ∧ (s.crew u).task = n 2 ∧ (s.crew u).idx = n 3 ∧
    (s.crew u).st ≠ .retired) ∧
  (may 1 chip → n 1 ≤ 2 → Store.wf {} s.crews = true → (n 1 = 0 → s.dbgCrew c = none → s.gives (.halt c) (fails · 8)) ∧
    ((n 1 = 0 → s.dbgCrew c ≠ none) → s.gives (.halt c) fun t => ok t [] ∧ t.mem = s.mem ∧ t.halted = (s.halted || chip) ∧ t.notices = s.notices + (if n 1 = 2 then 1 else 0) ∧
      (∀ v, let x := s.crew v
        (scope v → x.stop = none → t.crew v = { x with stop := some .halt, stopNs := s.now, stopRec := ⟨s.procOf x, BitVec.ofNat 64 (x.task * 2 ^ 32 + x.idx),
          BitVec.ofNat 64 (whereDword x.core 63 false), 0, 0, 0, s.cycles⟩ } ∧ (t.task x.ldev x.task).pausedAt ≠ none) ∧
        (scope v → x.stop ≠ none → t.crew v = { x with stop := if x.stop = some .dump then some .halt else x.stop }) ∧ (¬ scope v → t.crew v = x)) ∧
      said t = { s with crews := t.crews, tasks := t.tasks, parts := t.parts, halted := t.halted, notices := t.notices })) ∧
  (may 2 chip → n 1 ≤ 2 → Store.wf {} s.crews = true → (n 1 = 0 → s.dbgCrew c = none → s.gives (.resume c) (fails · 8)) ∧
    ((n 1 = 0 → s.dbgCrew c ≠ none) → s.gives (.resume c) fun t => ok t [] ∧ t.mem = s.mem ∧ t.halted = (s.halted && !chip) ∧
      (∀ v, let x := s.crew v
        let ends : Prop := scope v ∧ (x.stop = some .hit ∨ x.stop = some .halt)
        (ends → (t.crew v).stop = if x.dumps = true then some .dump else none) ∧ (¬ ends → (t.crew v).stop = x.stop) ∧ (t.crew v).scratch = x.scratch ∧
        ∀ k, (t.thread v k).arch.s = (s.thread v k).arch.s ∧ (t.thread v k).arch.v = (s.thread v k).arch.v ∧ (t.thread v k).sq = (s.thread v k).sq ∧
          (t.thread v k).arch.a = { (s.thread v k).arch.a with wdSince := (t.thread v k).arch.a.wdSince }) ∧
      said t = { s with crews := t.crews, tasks := t.tasks, parts := t.parts, halted := t.halted })) ∧
  (∀ u, may 3 false → s.dbgCrew c = some u → (s.crew u).stop ≠ none → (s.crew u).atRest = true → let r : PairRef := ⟨u, n 4 % 64, (cArg c 4).getLsbD 8⟩
    let x := s.slot r
    let able : Prop := s.runs u r.tid = true ∧ x.st ≠ .empty
    (¬ able → s.gives (.step c) (fails · 8)) ∧
    (able → s.gives (.step c) fun t => ok t [] ∧ s.OnlySlot (said t) r { x with dbgStep := true, st := if x.wait = some .stopped ∧ x.st = .blocked then .ready else x.st })) ∧
  (∀ u, s.dbgCrew c = some u → let x := s.crew u
    (may 4 false → n 4 ≤ 7 → s.gives (.bpset c) fun t => crew t u { x with bp := Store.set 0 x.bp (n 4) (cArg c 5) }) ∧
    (may 5 false → n 4 ≤ 3 → s.gives (.wpset c) fun t => crew t u { x with wp := (t.crew u).wp } ∧ ∀ k, Store.get 0 (t.crew u).wp k =
      if k = 3 * n 4 then cArg c 5 else if k = 3 * n 4 + 1 then cArg c 6 else if k = 3 * n 4 + 2 then cArg c 7 else Store.get 0 x.wp k) ∧
    (may 6 false → s.gives (.intercept c) fun t => crew t u { x with icept := cArg c 4 }) ∧
    (may 13 false → s.gives (.stoprec c) fun t => ok t [x.stopRec.proc.toNat, x.stopRec.taskCrew.toNat, x.stopRec.where_.toNat,
      x.stopRec.code + x.stopRec.hits.toNat * 256, x.stopRec.lanes.toNat] ∧ said t = s)) ∧
  (∀ u, s.dbgCrew c = some u → (s.crew u).stop ≠ none → (s.crew u).atRest = true → let off := n 4 % 2 ^ 20
    (may 7 reg → regRange c = true → reg = true → s.gives (.regrd c) fun t => ok t [(s.privReg u (n 5) off).toNat] ∧ said t = s) ∧
    (may 7 reg → regRange c = true → reg = false → s.gives (.regrd c) fun t => ok t [valueAt s.peek (.reg u off) 4] ∧ said t = s) ∧
    (may 8 reg → regRange c = true → reg = true → s.gives (.regwr c) fun t => ok t [] ∧ said t = s.setPrivReg u (n 5) off (cArg c 6)) ∧
    (may 8 reg → regRange c = true → reg = false → s.gives (.regwr c) fun t => ok t [] ∧ said t = { s with crews := t.crews } ∧ (∀ v, v ≠ u → t.crew v = s.crew v) ∧
      ∀ k, t.peek (.reg u k) = if s.regAlloc (s.crew u) k = true ∧ off ≤ k ∧ k < off + 4 then BitVec.ofNat 8 (n 6 / 2 ^ (8 * (k - off))) else s.peek (.reg u k))) ∧
  (∀ u, s.dbgCrew c = some u → (s.crew u).stop ≠ none → (s.crew u).atRest = true → n 4 ≤ 2 → 1 ≤ n 6 → n 6 ≤ 56 → let off := n 5
    let h := s.hdrOf (s.crew u)
    let tile (x : State) (k : Nat) : Byte := (Store.get 0 (x.crew u).tiles (k / 4)).extractLsb' (8 * (k % 4)) 8
    let named (wr : Bool) : Prop := match n 4 with
      | 0 => off + n 6 ≤ h.scratch + 128 * h.hslots
      | 1 => off + n 6 ≤ h.tiles * 65536
      | _ => s.brewDword p (cArg c 5) (n 6) 1 (!wr) wr ≠ none
    let given := ((List.range 7).flatMap fun k => leBytes 8 (n (k + 7))).take (n 6)
    (may 14 false → ¬ named false → s.gives (.memrd c) (fails · 8)) ∧ (may 15 false → ¬ named true → s.gives (.memwr c) (fails · 8)) ∧
    (may 14 false → named false → n 4 = 0 → ∃ r, bytes r (n 6) (fun k => s.peek (.scr u (off + k))) ∧ s.gives (.memrd c) fun t => ok t r ∧ said t = s) ∧
    (may 14 false → named false → n 4 = 1 → ∃ r, bytes r (n 6) (fun k => tile s (off + k)) ∧ s.gives (.memrd c) fun t => ok t r ∧ said t = s) ∧
    (∀ a, may 14 false → n 4 = 2 → s.brewDword p (cArg c 5) (n 6) 1 true false = some a → ∃ r, bytes r (n 6) (fun k => s.peek ((keyLoc a).plus k)) ∧
      s.gives (.memrd c) fun t => ok t r ∧ said t = s) ∧
    (may 15 false → named true → n 4 = 0 → s.gives (.memwr c) fun t => ok t [] ∧
      said t = { s with crews := t.crews, writes := s.writes + 1, hist := t.hist } ∧
      ∀ v k, t.peek (.scr v k) = overlay s.peek (.scr u off) given (.scr v k)) ∧
    (may 15 false → named true → n 4 = 1 → s.gives (.memwr c) fun t => crew t u { s.crew u with tiles := (t.crew u).tiles, tilePoison := (t.crew u).tilePoison } ∧
      ∀ k, tile t k = if off ≤ k ∧ k < off + n 6 then given.getD (k - off) 0 else tile s k) ∧
    (∀ a, may 15 false → n 4 = 2 → s.brewDword p (cArg c 5) (n 6) 1 false true = some a → s.gives (.memwr c) fun t => ok t [] ∧ s.Poked (said t) a given)) ∧
  (may 12 false → s.gives (.dbgpol c) fun t => ok t [] ∧ (t.part p).dbgpol = cArg c 1 ∧ said t = { s with parts := t.parts } ∧
    ∀ r, partKey r ≠ partKey p → t.part r = s.part r)

/-- Tool rings, samples, counters, traces and tokens (R420 to R427, R432). A ring is registered when its header is readable and its fields
fit, and refused with PARAM where it lies beyond its object; a record that has room is written at the ring's write offset, which rises, and
one that has not counts as lost. A sample and a series record are due at each 2^k cycles; a frame closes after 1 µs; a loss is told once
there is room; a token enters tenant-debug until it expires. Rests also on the model's own reading, log entries 27, 31, 60 and 81. -/
def Obligations.ToolRings : Prop := ∀ s : State,
  (∀ (p : PartRef) (r : ToolRing) rec, let b := s.ringBase p r
    let n := rec.length
    let w := if (s.rd64 b).toNat % n = 0 then (s.rd64 b).toNat else (s.rd64 b).toNat + (n - (s.rd64 b).toNat % n)
    let rd := (s.rd64 (b + 0x40)).toNat
    let full : Prop := rd + 2 ^ r.sz < w + rec.length
    n ≠ 0 → (s.ringRoom p r n = true ↔ r.mode = 1 ∨ w + n ≤ rd + 2 ^ r.sz) ∧
    (s.ringRoom p r rec.length = true → ∀ a, (s.ringWrite p r rec).peek (.mem a) = overlay (overlay (if full ∧ r.mode = 1
        then overlay s.peek (.mem (b + 0x40)) (leBytes 8 (w + rec.length - 2 ^ r.sz)) else s.peek) (.mem (b + 128 + w % 2 ^ r.sz)) rec) (.mem b) (leBytes 8 (w + rec.length)) (.mem a)) ∧
    (s.ringRoom p r rec.length = false → s.Poked (s.ringWrite p r rec) (b + 0x48) (leBytes 8 ((s.rd64 (b + 0x48)).toNat + 1)))) ∧
  (∀ c, let k := cArgN c 1
    let p := cmdPart c
    let task := s.task p.ldev (cArgN c 2)
    let asks (n : Nat) : Prop := s.Admits c { op := 0x40, sub := some n, who := .any } ∧ s.standby = false ∧ (s.part p).power = .active ∧ (n = 10 ∨ s.cfg.vendor = true ∨ (s.part p).security = .vendor ∨ ∃ e, (s.part p).security = .tenant e ∧ s.now < e)
    let bad (d : DWord) (a least : Nat) : Prop := let m := (s.rd64 (a + 0x50)).toNat
      m % 64 < least ∨ 40 < m % 64 ∨ 2 ≤ m / 64 % 4 ∨ s.brewAddr p (addrH d) (addrOff d) (128 + 2 ^ (m % 64)) 128 true true = none
    let only (status : Nat) (t : State) : Prop := s.Responds t c status [] ∧ s.unsaid t = s
    let outside (d : DWord) : Prop := (s.handle p (addrH d)).valid = true ∧ (s.handle p (addrH d)).size < addrOff d + 128
    let unfit (i : Instr) (d : DWord) : Prop := s.brewDword p d 128 128 true true = none →
      (outside d → s.gives i (only 3)) ∧ (¬ outside d → s.gives i (only 8))
    let set_ (t : State) (a : Nat) : Prop := s.Responds t c 0 [] ∧ (∀ x, t.peek (.mem x) = overlay (overlay s.peek (.mem a) (leBytes 8 (s.rd64 (a + 0x40)).toNat))
      (.mem (a + 0x48)) (leBytes 8 0) (.mem x)) ∧ 
      s.unsaid t = { s with mem := t.mem, poison := t.poison, cores := t.cores, sharers := t.sharers, parts := t.parts
                            writes := s.writes + 2, hist := t.hist, fills := t.fills, absent := t.absent }
    let ring (d : DWord) (a k : Nat) : ToolRing := ⟨addrH d, addrOff d, k, (s.rd64 (a + 0x50)).toNat % 64, (s.rd64 (a + 0x50)).toNat / 64 % 4⟩
    let stop (t : State) (x : Part) : Prop := s.Responds t c 0 [] ∧ s.unsaid t = { s with parts := t.parts } ∧ t.part p = x
    let known : Prop := task.st ≠ .none ∧ task.part = p.part
    (asks 9 → k = 0 → s.gives (.sample c) fun t => stop t { s.part p with sampleRing := none }) ∧
    (asks 10 → k = 0 → s.gives (.series c) fun t => stop t { s.part p with seriesRing := none }) ∧
    (asks 9 → 8 ≤ k → k ≤ 24 → let d := cArg c 2
      unfit (.sample c) d ∧
      (∀ a, s.brewDword p d 128 128 true true = some a → (bad d a 12 → s.gives (.sample c) (only 3)) ∧
        (¬ bad d a 12 → s.gives (.sample c) fun t => set_ t a ∧ t.part p = { s.part p with sampleRing := some (ring d a k), sampleTick := s.cycles / 2 ^ k }))) ∧
    (asks 10 → 10 ≤ k → k ≤ 24 → let d := cArg c 2
      unfit (.series c) d ∧
      (∀ a, s.brewDword p d 128 128 true true = some a → (bad d a 14 → s.gives (.series c) (only 3)) ∧
        (¬ bad d a 14 → s.gives (.series c) fun t => set_ t a ∧ t.part p = { s.part p with seriesRing := some (ring d a k), seriesTick := s.cycles / 2 ^ k }))) ∧
    (asks 11 → (k % 64 = 0 ∨ (6 ≤ k % 64 ∧ k % 64 ≤ 24)) → ¬ known → s.gives (.trace c) (only 8)) ∧
    (asks 11 → k % 64 = 0 → known → s.gives (.trace c) fun t => s.Responds t c 0 [] ∧ t.task p.ldev (cArgN c 2) = { task with traced := false } ∧
      ∀ u ∈ (s.taskCrews p.ldev (cArgN c 2)).map Prod.fst, (t.crew u).trace = {}) ∧
    (asks 11 → 6 ≤ k % 64 → k % 64 ≤ 24 → known → let d := cArg c 3
      unfit (.trace c) d ∧
      (∀ a, s.brewDword p d 128 128 true true = some a → (bad d a 12 → s.gives (.trace c) (only 3)) ∧
        (¬ bad d a 12 → s.gives (.trace c) fun t => s.Responds t c 0 [] ∧ (t.part p).traceRing = some (ring d a (k % 64)) ∧
          t.task p.ldev (cArgN c 2) = { task with traced := true, traceLead := (cArg c 1).getLsbD 8, tracePort := (cArg c 1).getLsbD 9, traceLog := k % 64 } ∧
          ∀ u ∈ (s.taskCrews p.ldev (cArgN c 2)).map Prod.fst, (t.crew u).trace.on = true ∧ (t.crew u).trace.lead = (cArg c 1).getLsbD 8 ∧
            (t.crew u).trace.port = (cArg c 1).getLsbD 9 ∧ (t.crew u).trace.syncLog = k % 64)))) ∧
  (∀ (p : PartRef), ((s.part p).sampleRing = none → s.gives (.sampleTick p) (· = s)) ∧ ((s.part p).seriesRing = none → s.gives (.seriesTick p) (· = s))) ∧
  (∀ (p : PartRef) r, (s.part p).sampleRing = some r → let n := s.cycles / 2 ^ r.k
    (n ≤ (s.part p).sampleTick → s.gives (.sampleTick p) (· = s)) ∧
    ((s.part p).sampleTick < n → s.gives (.sampleTick p) fun t => (t.part p).sampleTick = n ∧
      t = { s with mem := t.mem, poison := t.poison, cores := t.cores, sharers := t.sharers, parts := t.parts, freeCtr := t.freeCtr, writes := t.writes
                   hist := t.hist, fills := t.fills, absent := t.absent } ∧
      ((∀ core ∈ s.partCores p, s.corePairs core = []) → t.mem = s.mem))) ∧
  (∀ (q : PairRef) reason, reason < 16 → let c := s.crew q.uid
    let x := s.slot q
    whereDword c.core q.tid q.slotB < 2 ^ 40 → ∃ r, r = s.sampleBytes q reason ∧ r.length = 32 ∧ r.take 8 = leBytes 8 (s.procOf c).toNat ∧ (r.drop 8).take 8 = leBytes 8 (c.task * 2 ^ 32 + c.idx) ∧
      r.drop 24 = leBytes 8 (x.pc.toNat * 2 ^ 32 + s.cycles % 2 ^ 32) ∧ leNat ((r.drop 16).take 8) / 2 ^ 40 % 2 ^ 8 = reason * 16 + x.word % 16) ∧
  (∀ (p : PartRef) r, (s.part p).seriesRing = some r → let n := s.cycles / 2 ^ r.k
    (n ≤ (s.part p).seriesTick → s.gives (.seriesTick p) (· = s)) ∧
    ((s.part p).seriesTick < n → s.gives (.seriesTick p) fun t => (t.part p).seriesTick = n ∧ (t.part p).seriesSeq = (s.part p).seriesSeq + 1 ∧
      ∃ u : State, u = { s with parts := u.parts, cores := u.cores, dieCtrs := u.dieCtrs, freeCtr := s.freeCtr + 4 } ∧
        t = [0, 1, 2, 3].foldl (fun (x : State) die => x.ringWrite p r (x.seriesRecord die r.k ((s.part p).seriesSeq + 1))) u)) ∧
  (∀ die k seq, ∃ r, r = s.seriesRecord die k seq ∧ r.length = 16384 ∧ r.take 32 = leBytes 8 seq ++ leBytes 8 s.now ++ leBytes 8 die ++ leBytes 8 k ∧
    (∀ j i, j < 64 → i < 32 → (r.drop (64 + 128 * j + 4 * i)).take 4 = leBytes 4 (Store.get 0 (s.core (64 * die + j)).counters i)) ∧
    ∀ i, i < 32 → (r.drop (64 + 8192 + 4 * i)).take 4 = leBytes 4 (Store.get 0 s.dieCtrs (32 * die + i))) ∧
  (∀ u, let x := (s.crew u).trace
    let ready := x.held.head?.any fun h => decide (h.cyc < s.cycles) && (s.crew u).isFinal h
    (ready = true → s.gives (.traceFrameClose u) (· = s.traceOut u)) ∧
    (ready = false → (x.buf = [] ∨ s.now < x.lastNs + 1000) → s.gives (.traceFrameClose u) (· = s)) ∧
    (ready = false → x.buf ≠ [] → x.lastNs + 1000 ≤ s.now → s.gives (.traceFrameClose u) fun t => t.crew u = { s.crew u with trace := { x with buf := [] } } ∧
      (∀ v, v ≠ u → t.crew v = s.crew v) ∧ ((s.part (s.crew u).pref).traceRing = none → t.mem = s.mem) ∧
      t.portOut = s.portOut ++ (if x.port then leBytes 8 ((s.crew u).task * 2 ^ 32 + (s.crew u).idx % 2 ^ 24 * 256 + x.buf.length) ++ x.buf ++ List.replicate (56 - x.buf.length) 0
        else []))) ∧
  (∀ u, let x := (s.crew u).trace
    ((x.lost = 0 ∨ x.held ≠ [] ∨ s.chimneyRoom (s.crew u) = false) → s.gives (.traceLoss u) (· = s)) ∧
    (x.lost ≠ 0 → x.held = [] → s.chimneyRoom (s.crew u) = true → s.gives (.traceLoss u) fun t => (t.crew u).trace.lost = 0 ∧ (t.crew u).trace.lostName = false ∧
      (t.crew u).trace.sync = (s.crew u).syncPairs ∧ (t.crew u).trace.mute = (s.crew u).syncPairs ∧ (t.crew u).threads = (s.crew u).threads ∧ ∀ v, v ≠ u → t.crew v = s.crew v)) ∧
  (∀ c, let p := cmdPart c
    s.Admits c { op := 0x41, who := .any, signed := true } →
    ((cArg c 1 ≠ Config.serial ∨ cArgN c 0 ≤ s.now) → s.gives (.debugtoken c) fun t => s.Responds t c 8 [] ∧ s.unsaid t = s) ∧
    (cArg c 1 = Config.serial → s.now < cArgN c 0 → s.gives (.debugtoken c) fun t => s.Responds t c 0 [] ∧ s.OnlyPart (s.unsaid t) p ∧
      t.part p = { s.part p with security := if s.cfg.vendor = true then (s.part p).security else if (s.part p).security = .vendor then .vendor else .tenant (cArgN c 0) })) ∧
  (∀ p : PartRef, ((s.cfg.vendor = true ∨ ∀ e, (s.part p).security = .tenant e → s.now < e) → s.gives (.tokenExpiry p) (· = s)) ∧
    (∀ e, s.cfg.vendor = false → (s.part p).security = .tenant e → e ≤ s.now → Store.wf {} s.crews = true → Store.wf {} s.tasks = true → s.gives (.tokenExpiry p) fun t => (t.part p).security = .locked ∧
      (∀ u, (s.crew u).st ≠ .retired → (s.crew u).pref = p → (t.crew u).bp = [] ∧ (t.crew u).wp = [] ∧ (t.crew u).stop ≠ some .hit ∧ (t.crew u).stop ≠ some .halt ∧ ((s.crew u).dumps = false → (s.crew u).stop ≠ some .dump → (t.crew u).stop = none)) ∧
      ∀ n, n < 2 ^ 32 → (s.task p.ldev n).part = p.part → (t.task p.ldev n).traced = false))

/-! ### The package (R376, R383, R407, R430, R431, R453 to R457) -/

/-- The kiln (R376, R407). A suspect class is tested once no resident crew holds it, and after KILNWAIT its crews are pre-empted; a pass
clears it, a failure makes it tested again, a second one fences it; a fenced class's crews are pre-empted, and when each has left the bit
clears in the mask, the configuration is written at VERSION + 1, the journal holds a FENCE record, and a task that no core of its partition
can take any more is killed. Device time, rails, power, boot (R383, R430, R431, R453 to R457). An offset of 1 ms or more ahead is a forward
step, any other a slew that ends when 100 ppm can have removed it; each is journalled. A rail takes a setting of 300 to 450 mV and changes
nothing else; throttling lowers the matrix engines first; a partition without a crew is idle after 100 µs. After a package reset nothing is
left but what the boot images give, the rollback minima and the fences that the configuration holds; slot 1's firmware boots where slot 0's
does not; the accepted configuration with the highest VERSION applies where it is above the one applied last, which else stays in force; an
image that the module has signed counts where it only adds fences to one of Tabven's, and clears none. That no other state survives it, and
the boot's inputs, are the model's reading. Rests also on the model's own reading, log entries 52, 58 and 59. -/
def Obligations.KilnAndPackage : Prop :=
  (∀ (s : State) (c : ClassRef), c.cls < 64 →
  let x := s.kilnOf c.core c.cls
  let l := s.classCrews c
  let held (u : Nat) (d : Crew) : Prop := let e := s.crew u
    d = { e with st := .preempting, cpy := e.cpy.setFreeze true true, mtx := e.mtx.setFreeze false true }
  let stopped (t : State) : Prop := (∀ u ∈ l, (s.crew u).st = .running → held u (t.crew u)) ∧ ∀ u, t.crew u = s.crew u ∨ ((s.crew u).st = .running ∧ held u (t.crew u))
  let others (t : State) : Prop := ∀ k, k ≠ kilnKey c.core c.cls → Store.get {} t.kiln k = Store.get {} s.kiln k
  let turns (i : Instr) (y : KilnPair) : Prop := s.gives i fun t => t.kilnOf c.core c.cls = y ∧ others t ∧ t = { s with kiln := t.kiln, queues := t.queues }
  let due : Prop := x.st = .suspect ∧ x.since + s.cfg.kilnWaitMs * 1000000 ≤ s.now ∧ ∃ u ∈ l, (s.crew u).st = .running
  let whole : Prop := c.cls = 0 ∨ c.cls = 2 ∨ c.cls = 11 ∨ 33 ≤ c.cls
  (¬ due → s.gives (.kilnwaitExpiry c) (· = s)) ∧
  (due → s.gives (.kilnwaitExpiry c) fun t => stopped t ∧ t.kilnOf c.core c.cls = { x with draining := true } ∧ others t ∧ t = { s with crews := t.crews, kiln := t.kiln }) ∧
  (¬ (x.st = .suspect ∧ l = []) → s.gives (.kilnTest c) (· = s)) ∧ (x.st = .suspect → l = [] → turns (.kilnTest c) { x with st := .testing, draining := false }) ∧
  (∀ pass, x.st ≠ .testing → x.st ≠ .retest → s.gives (.kilnTestResult c pass) (· = s)) ∧
  ((x.st = .testing ∨ x.st = .retest) → turns (.kilnTestResult c true) { x with st := .clear, events := [] }) ∧
  (x.st = .testing → turns (.kilnTestResult c false) { x with st := .retest }) ∧ (x.st = .retest → turns (.kilnTestResult c false) { x with st := .fenced, draining := true }) ∧
  ((x.st ≠ .fenced ∨ x.draining = false) → s.gives (.kilnFenceApply c) (· = s)) ∧
  (x.st = .fenced → x.draining = true → l ≠ [] → s.gives (.kilnFenceApply c) fun t => stopped t ∧ t = { s with crews := t.crews }) ∧
  (x.st = .fenced → x.draining = true → l = [] → s.gives (.kilnFenceApply c) fun t => t.kilnOf c.core c.cls = { x with draining := false } ∧ others t ∧
    (∀ k, t.core k = if k = c.core then { s.core k with mask := if whole then 0 else (s.core k).mask &&& ~~~(BitVec.ofNat 64 (2 ^ c.cls)) } else s.core k) ∧
    t.cfg = { s.cfg with cfgVer := s.cfg.cfgVer + 1, cfgMin := s.cfg.cfgVer + 1 } ∧
    let lost := ({ s with cores := t.cores } : State).stranded c.core
    (2 * lost.length < Config.journalLen → ∃ r ∈ t.journal, r.seq = s.head ∧ r.kind = 5 ∧
      r.data = [c.core, 2 ^ c.cls, (lost.head?.map Prod.snd).getD 0].map (BitVec.ofNat 64)) ∧
    (∀ e ∈ lost, e.1 < 4 → e.2 < 2 ^ 32 → (s.task e.1 e.2).st = .running → (t.task e.1 e.2).st = .ending ∧ (t.task e.1 e.2).status = 6) ∧
    (lost = [] → t = { s with cores := t.cores, kiln := t.kiln, queues := t.queues, cfg := t.cfg, journal := t.journal, head := s.head + 1 }))) ∧
  (∀ s : State,
  (let told (t : State) (time : Nat) (ns : Int) (src : DWord) : Prop := t.head = s.head + 1 ∧
     t.journal.getLast? = some ⟨s.head, time, 7, 0, 0xFF, 0xFF, [BitVec.ofInt 64 ns, src]⟩
   (∀ src, s.gives (.ptpMessage ⟨0, src⟩) (· = s)) ∧
   (∀ (ns : Int) src, 1000000 ≤ ns → s.gives (.ptpMessage ⟨ns, src⟩) fun t => t.now = s.now + ns.toNat ∧ told t t.now ns src ∧ t = { s with now := t.now, journal := t.journal, head := t.head }) ∧
   (∀ (ns : Int) src, ns ≠ 0 → ns < 1000000 → s.gives (.ptpMessage ⟨ns, src⟩) fun t => t.slew = ns ∧ t.slewNs = s.now ∧ t.slewSrc = src ∧ told t s.now ns src ∧
     t = { s with slew := t.slew, slewNs := t.slewNs, slewSrc := t.slewSrc, journal := t.journal, head := t.head }) ∧
   (s.slew ≠ 0 → s.slewNs + 10000 * s.slew.natAbs ≤ s.now → s.gives .clockSlewEnd fun t => t.slew = 0 ∧ told t s.now s.slew s.slewSrc ∧
     t = { s with slew := 0, journal := t.journal, head := t.head }) ∧
   ((s.slew = 0 ∨ s.now < s.slewNs + 10000 * s.slew.natAbs) → s.gives .clockSlewEnd (· = s))) ∧
  (∀ core mv, (300 ≤ mv → mv ≤ 450 → core < 256 → s.gives (.railAdjust core mv) fun t => t = { s with cores := t.cores } ∧
      ∀ k, t.core k = if k = core then { s.core k with railMv := mv } else s.core k) ∧
    ((mv < 300 ∨ 450 < mv ∨ 256 ≤ core) → s.gives (.railAdjust core mv) (· = s))) ∧
  (∀ m k, (m ≤ 100 → k ≤ 100 → (k < 100 → m < 100) → s.gives (.powerThrottle m k) (· = { s with throttle := (m, k) })) ∧
    ((100 < m ∨ 100 < k ∨ (k < 100 ∧ m = 100)) → s.gives (.powerThrottle m k) (· = s))) ∧
  (∀ p : PartRef, let q := s.part p
    let idle : Prop := q.live = true ∧ q.power = .active ∧ (∀ c ∈ s.partCores p, s.residents c = []) ∧ q.idleSince + 100000 ≤ s.now
    (¬ idle → s.gives (.idleTimeout p) (· = s)) ∧
    (idle → s.gives (.idleTimeout p) fun t => t.part p = { q with power := .idle } ∧ s.Logged t 12 0 p.ldev p.part [p.part, 0, 1, 0] ∧
      s.OnlyPart { t with journal := s.journal, head := s.head } p)) ∧
  (∀ b : BootImage, let fresh (t : State) : Prop := t = { State.reset with cfg := t.cfg, cores := t.cores, kiln := t.kiln, windowOpen := t.windowOpen, freeCtr := s.freeCtr, agenda := s.agenda } ∧
      (Store.wf {} s.kiln = true → ∀ k n, n < 64 → let x := s.kilnOf k n
        t.kilnOf k n = if x.st = .fenced ∧ x.draining = false ∧ (t.core k).mask.getLsbD n = false then { st := .fenced } else {})
    let keeps (t : State) : Prop := Store.wf {} s.cores = true → ∀ k, t.core k = { mask := (s.core k).mask }
    let good (x : SignedImage) : Prop := x.ecdsa = true ∧ x.lms = true
    let runs (x : SignedImage) : Prop := good x ∧ s.cfg.fwMin ≤ x.ver
    let adds (x y : CfgImage) : Prop := (∀ k, k < 256 → cfgMask x k &&& cfgMask y k = cfgMask x k) ∧ x.priority = y.priority ∧ x.windowSec = y.windowSec ∧
      x.kilnWaitMs = y.kilnWaitMs ∧ x.grade = y.grade ∧ x.vendor = y.vendor
    let taken (x : CfgImage) : Prop := x ∈ b.cfgs ∧ good x.sig ∧ s.cfg.cfgMin ≤ x.sig.ver ∧
      ∀ n, x.base = some n → ∃ y, b.cfgs[n]? = some y ∧ y.base = none ∧ good y.sig ∧ adds x y
    (¬ runs b.slot0 → ¬ runs b.slot1 → s.gives (.packageReset b) fun t => fresh t ∧ keeps t ∧ t.cfg = { s.cfg with recovery := true } ∧ t.windowOpen = false) ∧
    (∀ fw, (if runs b.slot0 then fw = b.slot0 else fw = b.slot1 ∧ runs b.slot1) → let kept : BootCfg := { s.cfg with fwVer := fw.ver, fwMin := max s.cfg.fwMin fw.ver, recovery := false }
      ((∀ x, taken x → x.sig.ver ≤ s.cfg.cfgVer) → s.gives (.packageReset b) fun t => fresh t ∧ keeps t ∧ t.windowOpen = true ∧ t.cfg = kept) ∧
      ((∃ x, taken x ∧ s.cfg.cfgVer < x.sig.ver) → s.gives (.packageReset b) fun t => fresh t ∧ t.windowOpen = true ∧
        ∃ x, taken x ∧ (∀ y, taken y → y.sig.ver ≤ x.sig.ver) ∧ t.cfg = { kept with
          cfgVer := x.sig.ver, cfgMin := max s.cfg.cfgMin x.sig.ver, priority := x.priority, windowSec := x.windowSec, kilnWaitMs := x.kilnWaitMs
          grade := x.grade, vendor := x.vendor } ∧
        (∀ k, 256 ≤ k → t.core k = {}) ∧ ∀ k, k < 256 → t.core k = { mask := if x.base = none then cfgMask x k else cfgMask x k &&& (s.core k).mask })))) ∧
  (∀ (x : CfgImage) k, ((∀ m, (k, m) ∉ x.capMap) → cfgMask x k = 0xFFFFFFFFFFFFFFFF) ∧
    ∀ m, (k, m) ∈ x.capMap → x.capMap.Pairwise (fun y z => y.1 ≠ z.1) → cfgMask x k = m)

/-! ### The machine as a whole -/

/-- What reset leaves (R94, R383, R404, R413, R419, R430, R455): device time 0, no owner with the election window open, no partition, crew
or queue, every capability bit of every core set, nothing stopped or halted, and a memory that lists nothing and so has the canonical form.
That there is no pending input, and what memory reads where nothing is listed, is the model's choice (log entries 2, 4 and 5). -/
def Obligations.ResetValues : Prop := let s := State.reset
  s.now = 0 ∧ s.cycles = 0 ∧ s.owner = none ∧ s.claims = [] ∧ s.windowOpen = true ∧ s.windowNs = 0 ∧ s.journal = [] ∧ s.cmds = [] ∧ s.resps = [] ∧ s.maps = [] ∧
  s.halted = false ∧ s.standby = false ∧ s.deadDevs = [] ∧ s.msis = [] ∧ s.JournalInOrder ∧ Memory.wf s.mem = true ∧ s.mem = [] ∧
  (∀ k, (s.core k).mask = 0xFFFFFFFFFFFFFFFF ∧ (s.core k).inval = [] ∧ (s.core k).cellar = [] ∧ (s.core k).railMv = 350 ∧ s.residents k = []) ∧
  (∀ p : PartRef, (s.part p).live = false ∧ (s.part p).dbgpol = 0 ∧ (s.part p).security = .locked ∧ (s.part p).watchdogMs = 0 ∧ (s.part p).dumpTarget = none) ∧
  (∀ u, (s.crew u).st = .retired ∧ (s.crew u).icept = 0 ∧ ∀ k, Store.get 0 (s.crew u).bp k = 0 ∧ Store.get 0 (s.crew u).wp k = 0) ∧
  (∀ d n, (s.queue d n).reg = false ∧ (s.task d n).st = .none) ∧ (∀ a, (s.arena a).st = .free ∧ (s.arena a).gen = 0) ∧ (∀ p i, (s.handle p i).valid = false) ∧
  (∀ c k, (s.kilnOf c k).st = .clear)

/-- Every step keeps memory in its canonical form: addresses rising, no byte listed that reads 0 anyway. Rests also on the model's own
reading, log entry 4. -/
def Obligations.StepKeepsMemoryCanonical : Prop := ∀ s t : State, Memory.wf s.mem = true → step s = .next t → Memory.wf t.mem = true

/-- Every step keeps the journal in order (R381), and no step but a package reset takes device time back (R430). Rests also on the model's
own reading, log entries 52 and 59. -/
def Obligations.StepKeepsJournalInOrder : Prop := ∀ s t : State, s.JournalInOrder → step s = .next t →
  t.JournalInOrder ∧ (s.now ≤ t.now ∨ ∃ m b, s.agenda.head? = some m ∧ m.act = .event (.packageReset b))

/-- A step runs what is next. A move of the agenda passes its time and carries out its event; a pair that its scheduler may not pick does
nothing; one that it picks runs the instruction that the bytes at its place decode to, in its clause or at a clause boundary where nothing
stands before it, or stops at a breakpoint there (R54 to R58, R62, R415); bytes that are no legal word of the class run as such (R81). With
an empty agenda and nothing open, 5 ns pass. Rests also on the model's own reading, log entries 1, 8, 26 and 70. -/
def Obligations.StepRunsDecodedWord : Prop := ∀ (s : State) (p : PairRef) (back only : Nat) (m : Move) (rest : List Move),
  let s1 : State := { s with agenda := rest, now := s.now + m.dNs, cycles := s.cycles + m.dCyc }
  let e1 := (({ s1 with cur := { s1.cur with back := back, only := only } } : State).refreshBlk p.uid p.tid).modArch p.uid p.tid fun a => { a with starveCyc := none }
  let s2 := if e1.wakes p then e1.resume p else e1
  let x := s2.slot p
  let bytes (u : State) (k : Nat) (w : Word) : Prop := let c := u.crew p.uid
    let y := u.slot p
    let e := u.codeOf c y
    let a := memKey (u.codeDev c y) (e.base + (x.pc.toNat + 4 * k))
    x.pc.toNat + 4 * k + 4 ≤ e.size ∧ (y.priv = none → u.step5 c.pref e false false c.core = none) ∧ u.missingPage (u.codeDev c y) e (x.pc.toNat + 4 * k) 4 = none ∧
      wordOfBytes (u.peek (.mem a)) (u.peek (.mem (a + 1))) (u.peek (.mem (a + 2))) (u.peek (.mem (a + 3))) = w
  let fits (h : Header) (k : Nat) (w : Word) : Prop := ¬ (isTransferWord h.cls w = true ∧ k < h.count)
  let u := if x.holds then s2 else s2.payTrace p x.pc x.word
  let inside := x.word ≠ 0
  let boundary (h : Header) (w : Word) : Prop := x.started = false ∧ (inside ∨ x.priv ≠ none ∨
      ((s2.thread p.uid p.tid).pendOf p.slotB = [] ∧ Store.get 0 (s2.arch p.uid p.tid).stepLeft (boolNat p.slotB) ≠ 1)) ∧
    ((s2.thread p.uid p.tid).swapped = true ∨ (s2.thread p.uid p.tid).arch.swapDue = none) ∧ bytes s2 0 w ∧ decodeHeader w = some h ∧
    (s2.thread p.uid p.tid).tokensClear h.twait = true ∧ x.word ≤ h.count
  let passes : Prop := inside ∨ x.priv ≠ none ∨ x.skipBp = true ∨ (s2.crew p.uid).bpHits p x.pc = 0
  (s.agenda = m :: rest →
    (m.act = .idle → step s = .next s1) ∧
    (∀ i, m.act = .event i → fromFetch i = true → step s = .next s1) ∧ (∀ i, m.act = .event i → fromFetch i = false → step s = exec i s1) ∧
    (m.act = .issue p back only → s1.eligible p = false → step s = .next s1) ∧
    (m.act = .issue p back only → s1.eligible p = true →
      (∀ h w, x.started = true → decodeHeader x.hw = some h → bytes u x.word w → (u.slot p).pc = x.pc → fits h x.word w →
        (∀ i, decode h.cls w = some i → step s = exec i ((u.setCur p x.pc x.word h).rankAt p x.word h)) ∧
        (decode h.cls w = none → step s = exec (.reservedOpcodeWord h.cls w) ((u.setCur p x.pc x.word h).rankAt p x.word h))) ∧
      (∀ h hw, boundary h hw → ¬ passes → step s = .next (s2.breakHit p)) ∧
      (∀ h hw w, boundary h hw → passes → let v := s2.startClause p hw h
        bytes v (max 1 x.word) w → (v.slot p).pc = x.pc → fits h (max 1 x.word) w →
        (∀ i, decode h.cls w = some i → step s = exec i ((v.setCur p x.pc (max 1 x.word) h).rankAt p (max 1 x.word) h)) ∧
        (decode h.cls w = none → step s = exec (.reservedOpcodeWord h.cls w) ((v.setCur p x.pc (max 1 x.word) h).rankAt p (max 1 x.word) h))))) ∧
  (s.agenda = [] → s.candidates = [] → step s = .next { s with now := s.now + 5, cycles := s.cycles + 9 })

/-- Words that the manual writes out decode to the instruction they stand for, with their fields; words with an opcode or a field that no
instruction of the class has are illegal (R81). -/
def Obligations.SampleWordsDecode : Prop :=
  decode .vec 0x02380000 = some (.vmovi ⟨7, 0, 0, 0⟩) ∧ decode .vec 0x36280402 = some (.vshli ⟨5, 0, 1, 2⟩) ∧ decode .vec 0x4C000400 = some (.vsr ⟨0, 0, 1, 0⟩) ∧
  decode .vec 0x6CD021C0 = some (.vcmp ⟨3, 4, 2, 7, 0, 0⟩) ∧ decode .vec 0x66202100 = some (.vfma ⟨4, 1, 2, 0, 0, 0⟩) ∧ decode .sca 0x38080015 = some (.srd ⟨1, 21⟩) ∧
  decode .mem 0x0008AA00 = some (.vld ⟨1, 5, 2, 2, 0, 0, 0, 0⟩) ∧ decode .mem 0x06280210 = some (.sld ⟨5, 0, 0, 2, 0, 16⟩) ∧ decode .mem 0x2C519000 = some (.barinit ⟨10, 12, 0x1000⟩) ∧
  decode .ctl 0x14000000 = some (.exit ⟨0, 0⟩) ∧ decode .cpy 0x00A10400 = some (.cpy ⟨20, 8, 1, 0⟩) ∧ decode .cpy 0x0ABA0000 = some (.tlrd ⟨23, 16, 0, 0⟩) ∧
  decode .sys 0x14A10000 = some (.kiln ⟨20, 8, 0, 0⟩) ∧ decode .sys 0x08200080 = some (.pwr ⟨4, 0x80⟩) ∧ decode .sys 0x05E00000 = some (.eret ⟨60, 0⟩) ∧
  decode .sys 0x16000000 = none ∧ decode .ctl 0x24000000 = none ∧ decode .arn 0x0C000000 = none ∧ decode .mtx 0x16000000 = none ∧ decode .cpy 0x12000000 = none ∧
  decode .msg 0x18000000 = none ∧ decodeHeader 0xB3100000 = some ⟨.ctl, 1, 0, false⟩ ∧ decodeHeader 0xB0200000 = some ⟨.vec, 2, 0, false⟩ ∧ decodeHeader 0xA3100000 = none ∧
  decodeHeader 0xB9100000 = none ∧ decodeHeader 0xB3000000 = none

/-- Encoding and decoding agree (R55, R67 to R78, R81): a word that decodes in a class gives a legal instruction of that class whose word it
is, every legal instruction of a class decodes from its word there, and so do clause headers. -/
def Obligations.DecodeOfEncode : Prop :=
  (∀ c w i, decode c w = some i → i.wf = true ∧ i.cls? = some c ∧ encode i = w) ∧
  (∀ c i, i.cls? = some c → i.wf = true → decode c (encode i) = some i) ∧
  (∀ c n, 1 ≤ n → n ≤ 15 → decodeHeader (encodeHeader c n) = some ⟨c, n, 0, false⟩) ∧
  (∀ w h, decodeHeader w = some h → 1 ≤ h.count ∧ h.count ≤ 15 ∧ w.extractLsb' 28 4 = 0xB ∧ w.extractLsb' 24 4 = BitVec.ofNat 4 (engOfCls h.cls) ∧
    w.extractLsb' 20 4 = BitVec.ofNat 4 h.count ∧ w.extractLsb' 12 8 = h.twait ∧ w.getLsbD 10 = h.yld ∧ w.extractLsb' 0 10 = 0)
end

