-- ==== Sys2Proof/Laws/Store.lean ====
section
/-! SUPPORT. Laws of sparse maps: what reading gives after a write, and that writing keeps the canonical form. -/

namespace Sys2Proof.Machine

section Reading

variable {α : Type}

@[simp] theorem Store.get_nil (d : α) (k : Nat) : Store.get d [] k = d := rfl

theorem Store.get_erase_self (d : α) (m : Store α) (k : Nat) : Store.get d (Store.erase m k) k = d := by
  induction m with
  | nil => rfl
  | cons e t ih =>
    unfold Store.erase
    split
    · exact ih
    · next h => simp [Store.get, h, ih]

theorem Store.get_erase_ne (d : α) (m : Store α) {j k : Nat} (h : j ≠ k) :
    Store.get d (Store.erase m k) j = Store.get d m j := by
  induction m with
  | nil => rfl
  | cons e t ih =>
    unfold Store.erase
    split
    · next h1 => rw [ih]; simp [Store.get, h1, h.symm]
    · simp only [Store.get, ih]

theorem Store.get_insert_self (d v : α) (m : Store α) (k : Nat) (h : ∀ e ∈ m, e.1 ≠ k) :
    Store.get d (Store.insert k v m) k = v := by
  induction m with
  | nil => simp [Store.insert, Store.get]
  | cons e t ih =>
    have he := h e (by simp)
    unfold Store.insert
    split
    · simp [Store.get]
    · simp [Store.get, he, ih fun x hx => h x (by simp [hx])]

theorem Store.get_insert_ne (d v : α) (m : Store α) {j k : Nat} (h : j ≠ k) :
    Store.get d (Store.insert k v m) j = Store.get d m j := by
  induction m with
  | nil => simp [Store.insert, Store.get, h.symm]
  | cons e t ih =>
    unfold Store.insert
    split
    · simp [Store.get, h.symm]
    · simp only [Store.get, ih]

theorem Store.not_mem_erase (m : Store α) (k : Nat) : ∀ e ∈ Store.erase m k, e.1 ≠ k := by
  induction m with
  | nil => simp [Store.erase]
  | cons e t ih =>
    unfold Store.erase
    split
    · exact ih
    · next h =>
      intro x hx
      rcases List.mem_cons.1 hx with rfl | hx
      · exact h
      · exact ih x hx

theorem Store.erase_insert (m : Store α) (k : Nat) (v : α) : Store.erase (Store.insert k v m) k = Store.erase m k := by
  induction m with
  | nil => simp [Store.insert, Store.erase]
  | cons e t ih =>
    unfold Store.insert
    split
    · simp [Store.erase]
    · simp only [Store.erase, ih]

theorem Store.erase_erase (m : Store α) (k : Nat) : Store.erase (Store.erase m k) k = Store.erase m k := by
  induction m with
  | nil => rfl
  | cons e t ih =>
    by_cases h : e.1 = k
    · simpa [Store.erase, h] using ih
    · simp [Store.erase, h, ih]

end Reading

variable {α : Type} [DecidableEq α] {d v : α} {m : Store α} {k : Nat}

@[simp] theorem Store.get_set_self (d v : α) (m : Store α) (k : Nat) : Store.get d (Store.set d m k v) k = v := by
  unfold Store.set
  split
  · next h => rw [h, Store.get_erase_self]
  · exact Store.get_insert_self d v _ k (Store.not_mem_erase m k)

theorem Store.get_set_ne (d v : α) (m : Store α) {j k : Nat} (h : j ≠ k) :
    Store.get d (Store.set d m k v) j = Store.get d m j := by
  unfold Store.set
  split
  · exact Store.get_erase_ne d m h
  · rw [Store.get_insert_ne d v _ h, Store.get_erase_ne d m h]

/-- Reading any key after a write. -/
theorem Store.get_set (d v : α) (m : Store α) (k j : Nat) :
    Store.get d (Store.set d m k v) j = if j = k then v else Store.get d m j := by
  split
  · next h => rw [h, Store.get_set_self]
  · next h => exact Store.get_set_ne d v m h

/-- The later of two writes to one key decides. -/
@[simp] theorem Store.set_set (d v w : α) (m : Store α) (k : Nat) :
    Store.set d (Store.set d m k v) k w = Store.set d m k w := by
  have h : Store.erase (Store.set d m k v) k = Store.erase m k := by
    unfold Store.set
    split
    · exact Store.erase_erase m k
    · rw [Store.erase_insert, Store.erase_erase]
  rw [Store.set, h, ← Store.set]

/-! ### The canonical form -/

theorem Store.wfFrom_mono {b c : Nat} (h : b ≤ c) : Store.wfFrom d c m = true → Store.wfFrom d b m = true := by
  cases m with
  | nil => simp [Store.wfFrom]
  | cons e t =>
    simp only [Store.wfFrom, Bool.and_eq_true, decide_eq_true_eq]
    exact fun ⟨⟨h1, h2⟩, h3⟩ => ⟨⟨Nat.le_trans h h1, h2⟩, h3⟩

theorem Store.wfFrom_erase {b : Nat} (h : Store.wfFrom d b m = true) : Store.wfFrom d b (Store.erase m k) = true := by
  induction m generalizing b with
  | nil => exact h
  | cons e t ih =>
    simp only [Store.wfFrom, Bool.and_eq_true, decide_eq_true_eq] at h
    obtain ⟨⟨hb, hx⟩, ht⟩ := h
    unfold Store.erase
    split
    · exact Store.wfFrom_mono (Nat.le_succ_of_le hb) (ih ht)
    · simp [Store.wfFrom, hb, hx, ih ht]

theorem Store.wfFrom_insert {b : Nat} (hb : b ≤ k) (hv : v ≠ d) (hk : ∀ e ∈ m, e.1 ≠ k)
    (h : Store.wfFrom d b m = true) : Store.wfFrom d b (Store.insert k v m) = true := by
  induction m generalizing b with
  | nil => simp [Store.insert, Store.wfFrom, hb, hv]
  | cons e t ih =>
    simp only [Store.wfFrom, Bool.and_eq_true, decide_eq_true_eq] at h
    obtain ⟨⟨he, hx⟩, ht⟩ := h
    have hne := hk e (by simp)
    unfold Store.insert
    split
    · next hlt => simp [Store.wfFrom, hb, hv, hx, ht]; exact hlt
    · next hlt =>
      have : e.1 + 1 ≤ k := by omega
      simp [Store.wfFrom, he, hx, ih this (fun x hx => hk x (by simp [hx])) ht]

/-- A write keeps the canonical form. -/
theorem Store.wf_set (h : Store.wf d m = true) : Store.wf d (Store.set d m k v) = true := by
  unfold Store.wf Store.set at *
  split
  · exact Store.wfFrom_erase h
  · next hv => exact Store.wfFrom_insert (Nat.zero_le k) hv (Store.not_mem_erase m k) (Store.wfFrom_erase h)

/-- Keeping some of the entries keeps the canonical form. -/
theorem Store.wfFrom_filter {b : Nat} (p : Nat × α → Bool) (h : Store.wfFrom d b m = true) :
    Store.wfFrom d b (m.filter p) = true := by
  induction m generalizing b with
  | nil => exact h
  | cons e t ih =>
    simp only [Store.wfFrom, Bool.and_eq_true, decide_eq_true_eq] at h
    obtain ⟨⟨hb, hx⟩, ht⟩ := h
    by_cases hp : p e = true
    · simp [hp, Store.wfFrom, hb, hx, ih ht]
    · simp [hp, Store.wfFrom_mono (Nat.le_succ_of_le hb) (ih ht)]

theorem Store.wf_filter (p : Nat × α → Bool) (h : Store.wf d m = true) : Store.wf d (m.filter p) = true :=
  Store.wfFrom_filter p h

end Sys2Proof.Machine
end

