-- ==== Sys2Proof/Laws/State.lean ====
section
/-! SUPPORT. Laws of the state's parts: what each update of a part leaves of every field, by `rfl`, and what reading a part
gives after an update of it. The updates of a crew's threads, slots and registers are all `setCrew`s. -/

namespace Sys2Proof.Machine

/-! ### What an update leaves -/

@[simp] theorem State.setCrew_agenda (s : State) (u : Nat) (c : Crew) : (s.setCrew u c).agenda = s.agenda := rfl
@[simp] theorem State.setCrew_cur (s : State) (u : Nat) (c : Crew) : (s.setCrew u c).cur = s.cur := rfl
@[simp] theorem State.setCrew_freeCtr (s : State) (u : Nat) (c : Crew) : (s.setCrew u c).freeCtr = s.freeCtr := rfl
@[simp] theorem State.setCrew_nextUid (s : State) (u : Nat) (c : Crew) : (s.setCrew u c).nextUid = s.nextUid := rfl
@[simp] theorem State.setCrew_issueCtr (s : State) (u : Nat) (c : Crew) : (s.setCrew u c).issueCtr = s.issueCtr := rfl
@[simp] theorem State.setCrew_now (s : State) (u : Nat) (c : Crew) : (s.setCrew u c).now = s.now := rfl
@[simp] theorem State.setCrew_cycles (s : State) (u : Nat) (c : Crew) : (s.setCrew u c).cycles = s.cycles := rfl
@[simp] theorem State.setCrew_slew (s : State) (u : Nat) (c : Crew) : (s.setCrew u c).slew = s.slew := rfl
@[simp] theorem State.setCrew_slewNs (s : State) (u : Nat) (c : Crew) : (s.setCrew u c).slewNs = s.slewNs := rfl
@[simp] theorem State.setCrew_slewSrc (s : State) (u : Nat) (c : Crew) : (s.setCrew u c).slewSrc = s.slewSrc := rfl
@[simp] theorem State.setCrew_mem (s : State) (u : Nat) (c : Crew) : (s.setCrew u c).mem = s.mem := rfl
@[simp] theorem State.setCrew_poison (s : State) (u : Nat) (c : Crew) : (s.setCrew u c).poison = s.poison := rfl
@[simp] theorem State.setCrew_absentPages (s : State) (u : Nat) (c : Crew) : (s.setCrew u c).absentPages = s.absentPages := rfl
@[simp] theorem State.setCrew_pageSize (s : State) (u : Nat) (c : Crew) : (s.setCrew u c).pageSize = s.pageSize := rfl
@[simp] theorem State.setCrew_walks (s : State) (u : Nat) (c : Crew) : (s.setCrew u c).walks = s.walks := rfl
@[simp] theorem State.setCrew_writes (s : State) (u : Nat) (c : Crew) : (s.setCrew u c).writes = s.writes := rfl
@[simp] theorem State.setCrew_hist (s : State) (u : Nat) (c : Crew) : (s.setCrew u c).hist = s.hist := rfl
@[simp] theorem State.setCrew_absent (s : State) (u : Nat) (c : Crew) : (s.setCrew u c).absent = s.absent := rfl
@[simp] theorem State.setCrew_fills (s : State) (u : Nat) (c : Crew) : (s.setCrew u c).fills = s.fills := rfl
@[simp] theorem State.setCrew_sharers (s : State) (u : Nat) (c : Crew) : (s.setCrew u c).sharers = s.sharers := rfl
@[simp] theorem State.setCrew_handles (s : State) (u : Nat) (c : Crew) : (s.setCrew u c).handles = s.handles := rfl
@[simp] theorem State.setCrew_arenas (s : State) (u : Nat) (c : Crew) : (s.setCrew u c).arenas = s.arenas := rfl
@[simp] theorem State.setCrew_vaNext (s : State) (u : Nat) (c : Crew) : (s.setCrew u c).vaNext = s.vaNext := rfl
@[simp] theorem State.setCrew_freeVa (s : State) (u : Nat) (c : Crew) : (s.setCrew u c).freeVa = s.freeVa := rfl
@[simp] theorem State.setCrew_cores (s : State) (u : Nat) (c : Crew) : (s.setCrew u c).cores = s.cores := rfl
@[simp] theorem State.setCrew_dieCtrs (s : State) (u : Nat) (c : Crew) : (s.setCrew u c).dieCtrs = s.dieCtrs := rfl
@[simp] theorem State.setCrew_links (s : State) (u : Nat) (c : Crew) : (s.setCrew u c).links = s.links := rfl
@[simp] theorem State.setCrew_deadDevs (s : State) (u : Nat) (c : Crew) : (s.setCrew u c).deadDevs = s.deadDevs := rfl
@[simp] theorem State.setCrew_parts (s : State) (u : Nat) (c : Crew) : (s.setCrew u c).parts = s.parts := rfl
@[simp] theorem State.setCrew_change (s : State) (u : Nat) (c : Crew) : (s.setCrew u c).change = s.change := rfl
@[simp] theorem State.setCrew_queues (s : State) (u : Nat) (c : Crew) : (s.setCrew u c).queues = s.queues := rfl
@[simp] theorem State.setCrew_tasks (s : State) (u : Nat) (c : Crew) : (s.setCrew u c).tasks = s.tasks := rfl
@[simp] theorem State.setCrew_nextTask (s : State) (u : Nat) (c : Crew) : (s.setCrew u c).nextTask = s.nextTask := rfl
@[simp] theorem State.setCrew_kiln (s : State) (u : Nat) (c : Crew) : (s.setCrew u c).kiln = s.kiln := rfl
@[simp] theorem State.setCrew_journal (s : State) (u : Nat) (c : Crew) : (s.setCrew u c).journal = s.journal := rfl
@[simp] theorem State.setCrew_head (s : State) (u : Nat) (c : Crew) : (s.setCrew u c).head = s.head := rfl
@[simp] theorem State.setCrew_owner (s : State) (u : Nat) (c : Crew) : (s.setCrew u c).owner = s.owner := rfl
@[simp] theorem State.setCrew_claims (s : State) (u : Nat) (c : Crew) : (s.setCrew u c).claims = s.claims := rfl
@[simp] theorem State.setCrew_windowOpen (s : State) (u : Nat) (c : Crew) : (s.setCrew u c).windowOpen = s.windowOpen := rfl
@[simp] theorem State.setCrew_windowNs (s : State) (u : Nat) (c : Crew) : (s.setCrew u c).windowNs = s.windowNs := rfl
@[simp] theorem State.setCrew_cmds (s : State) (u : Nat) (c : Crew) : (s.setCrew u c).cmds = s.cmds := rfl
@[simp] theorem State.setCrew_resps (s : State) (u : Nat) (c : Crew) : (s.setCrew u c).resps = s.resps := rfl
@[simp] theorem State.setCrew_maps (s : State) (u : Nat) (c : Crew) : (s.setCrew u c).maps = s.maps := rfl
@[simp] theorem State.setCrew_win (s : State) (u : Nat) (c : Crew) : (s.setCrew u c).win = s.win := rfl
@[simp] theorem State.setCrew_vecs (s : State) (u : Nat) (c : Crew) : (s.setCrew u c).vecs = s.vecs := rfl
@[simp] theorem State.setCrew_msis (s : State) (u : Nat) (c : Crew) : (s.setCrew u c).msis = s.msis := rfl
@[simp] theorem State.setCrew_hostAns (s : State) (u : Nat) (c : Crew) : (s.setCrew u c).hostAns = s.hostAns := rfl
@[simp] theorem State.setCrew_hostFault (s : State) (u : Nat) (c : Crew) : (s.setCrew u c).hostFault = s.hostFault := rfl
@[simp] theorem State.setCrew_hostRes (s : State) (u : Nat) (c : Crew) : (s.setCrew u c).hostRes = s.hostRes := rfl
@[simp] theorem State.setCrew_halted (s : State) (u : Nat) (c : Crew) : (s.setCrew u c).halted = s.halted := rfl
@[simp] theorem State.setCrew_notices (s : State) (u : Nat) (c : Crew) : (s.setCrew u c).notices = s.notices := rfl
@[simp] theorem State.setCrew_portOut (s : State) (u : Nat) (c : Crew) : (s.setCrew u c).portOut = s.portOut := rfl
@[simp] theorem State.setCrew_standby (s : State) (u : Nat) (c : Crew) : (s.setCrew u c).standby = s.standby := rfl
@[simp] theorem State.setCrew_throttle (s : State) (u : Nat) (c : Crew) : (s.setCrew u c).throttle = s.throttle := rfl
@[simp] theorem State.setCrew_cfg (s : State) (u : Nat) (c : Crew) : (s.setCrew u c).cfg = s.cfg := rfl
@[simp] theorem State.setCrew_fw (s : State) (u : Nat) (c : Crew) : (s.setCrew u c).fw = s.fw := rfl

@[simp] theorem State.modCore_agenda (s : State) (n : Nat) (f : Core → Core) : (s.modCore n f).agenda = s.agenda := rfl
@[simp] theorem State.modCore_cur (s : State) (n : Nat) (f : Core → Core) : (s.modCore n f).cur = s.cur := rfl
@[simp] theorem State.modCore_freeCtr (s : State) (n : Nat) (f : Core → Core) : (s.modCore n f).freeCtr = s.freeCtr := rfl
@[simp] theorem State.modCore_nextUid (s : State) (n : Nat) (f : Core → Core) : (s.modCore n f).nextUid = s.nextUid := rfl
@[simp] theorem State.modCore_issueCtr (s : State) (n : Nat) (f : Core → Core) : (s.modCore n f).issueCtr = s.issueCtr := rfl
@[simp] theorem State.modCore_now (s : State) (n : Nat) (f : Core → Core) : (s.modCore n f).now = s.now := rfl
@[simp] theorem State.modCore_cycles (s : State) (n : Nat) (f : Core → Core) : (s.modCore n f).cycles = s.cycles := rfl
@[simp] theorem State.modCore_slew (s : State) (n : Nat) (f : Core → Core) : (s.modCore n f).slew = s.slew := rfl
@[simp] theorem State.modCore_slewNs (s : State) (n : Nat) (f : Core → Core) : (s.modCore n f).slewNs = s.slewNs := rfl
@[simp] theorem State.modCore_slewSrc (s : State) (n : Nat) (f : Core → Core) : (s.modCore n f).slewSrc = s.slewSrc := rfl
@[simp] theorem State.modCore_mem (s : State) (n : Nat) (f : Core → Core) : (s.modCore n f).mem = s.mem := rfl
@[simp] theorem State.modCore_poison (s : State) (n : Nat) (f : Core → Core) : (s.modCore n f).poison = s.poison := rfl
@[simp] theorem State.modCore_absentPages (s : State) (n : Nat) (f : Core → Core) : (s.modCore n f).absentPages = s.absentPages := rfl
@[simp] theorem State.modCore_pageSize (s : State) (n : Nat) (f : Core → Core) : (s.modCore n f).pageSize = s.pageSize := rfl
@[simp] theorem State.modCore_walks (s : State) (n : Nat) (f : Core → Core) : (s.modCore n f).walks = s.walks := rfl
@[simp] theorem State.modCore_writes (s : State) (n : Nat) (f : Core → Core) : (s.modCore n f).writes = s.writes := rfl
@[simp] theorem State.modCore_hist (s : State) (n : Nat) (f : Core → Core) : (s.modCore n f).hist = s.hist := rfl
@[simp] theorem State.modCore_absent (s : State) (n : Nat) (f : Core → Core) : (s.modCore n f).absent = s.absent := rfl
@[simp] theorem State.modCore_fills (s : State) (n : Nat) (f : Core → Core) : (s.modCore n f).fills = s.fills := rfl
@[simp] theorem State.modCore_sharers (s : State) (n : Nat) (f : Core → Core) : (s.modCore n f).sharers = s.sharers := rfl
@[simp] theorem State.modCore_handles (s : State) (n : Nat) (f : Core → Core) : (s.modCore n f).handles = s.handles := rfl
@[simp] theorem State.modCore_arenas (s : State) (n : Nat) (f : Core → Core) : (s.modCore n f).arenas = s.arenas := rfl
@[simp] theorem State.modCore_vaNext (s : State) (n : Nat) (f : Core → Core) : (s.modCore n f).vaNext = s.vaNext := rfl
@[simp] theorem State.modCore_freeVa (s : State) (n : Nat) (f : Core → Core) : (s.modCore n f).freeVa = s.freeVa := rfl
@[simp] theorem State.modCore_dieCtrs (s : State) (n : Nat) (f : Core → Core) : (s.modCore n f).dieCtrs = s.dieCtrs := rfl
@[simp] theorem State.modCore_links (s : State) (n : Nat) (f : Core → Core) : (s.modCore n f).links = s.links := rfl
@[simp] theorem State.modCore_deadDevs (s : State) (n : Nat) (f : Core → Core) : (s.modCore n f).deadDevs = s.deadDevs := rfl
@[simp] theorem State.modCore_parts (s : State) (n : Nat) (f : Core → Core) : (s.modCore n f).parts = s.parts := rfl
@[simp] theorem State.modCore_change (s : State) (n : Nat) (f : Core → Core) : (s.modCore n f).change = s.change := rfl
@[simp] theorem State.modCore_queues (s : State) (n : Nat) (f : Core → Core) : (s.modCore n f).queues = s.queues := rfl
@[simp] theorem State.modCore_tasks (s : State) (n : Nat) (f : Core → Core) : (s.modCore n f).tasks = s.tasks := rfl
@[simp] theorem State.modCore_nextTask (s : State) (n : Nat) (f : Core → Core) : (s.modCore n f).nextTask = s.nextTask := rfl
@[simp] theorem State.modCore_crews (s : State) (n : Nat) (f : Core → Core) : (s.modCore n f).crews = s.crews := rfl
@[simp] theorem State.modCore_kiln (s : State) (n : Nat) (f : Core → Core) : (s.modCore n f).kiln = s.kiln := rfl
@[simp] theorem State.modCore_journal (s : State) (n : Nat) (f : Core → Core) : (s.modCore n f).journal = s.journal := rfl
@[simp] theorem State.modCore_head (s : State) (n : Nat) (f : Core → Core) : (s.modCore n f).head = s.head := rfl
@[simp] theorem State.modCore_owner (s : State) (n : Nat) (f : Core → Core) : (s.modCore n f).owner = s.owner := rfl
@[simp] theorem State.modCore_claims (s : State) (n : Nat) (f : Core → Core) : (s.modCore n f).claims = s.claims := rfl
@[simp] theorem State.modCore_windowOpen (s : State) (n : Nat) (f : Core → Core) : (s.modCore n f).windowOpen = s.windowOpen := rfl
@[simp] theorem State.modCore_windowNs (s : State) (n : Nat) (f : Core → Core) : (s.modCore n f).windowNs = s.windowNs := rfl
@[simp] theorem State.modCore_cmds (s : State) (n : Nat) (f : Core → Core) : (s.modCore n f).cmds = s.cmds := rfl
@[simp] theorem State.modCore_resps (s : State) (n : Nat) (f : Core → Core) : (s.modCore n f).resps = s.resps := rfl
@[simp] theorem State.modCore_maps (s : State) (n : Nat) (f : Core → Core) : (s.modCore n f).maps = s.maps := rfl
@[simp] theorem State.modCore_win (s : State) (n : Nat) (f : Core → Core) : (s.modCore n f).win = s.win := rfl
@[simp] theorem State.modCore_vecs (s : State) (n : Nat) (f : Core → Core) : (s.modCore n f).vecs = s.vecs := rfl
@[simp] theorem State.modCore_msis (s : State) (n : Nat) (f : Core → Core) : (s.modCore n f).msis = s.msis := rfl
@[simp] theorem State.modCore_hostAns (s : State) (n : Nat) (f : Core → Core) : (s.modCore n f).hostAns = s.hostAns := rfl
@[simp] theorem State.modCore_hostFault (s : State) (n : Nat) (f : Core → Core) : (s.modCore n f).hostFault = s.hostFault := rfl
@[simp] theorem State.modCore_hostRes (s : State) (n : Nat) (f : Core → Core) : (s.modCore n f).hostRes = s.hostRes := rfl
@[simp] theorem State.modCore_halted (s : State) (n : Nat) (f : Core → Core) : (s.modCore n f).halted = s.halted := rfl
@[simp] theorem State.modCore_notices (s : State) (n : Nat) (f : Core → Core) : (s.modCore n f).notices = s.notices := rfl
@[simp] theorem State.modCore_portOut (s : State) (n : Nat) (f : Core → Core) : (s.modCore n f).portOut = s.portOut := rfl
@[simp] theorem State.modCore_standby (s : State) (n : Nat) (f : Core → Core) : (s.modCore n f).standby = s.standby := rfl
@[simp] theorem State.modCore_throttle (s : State) (n : Nat) (f : Core → Core) : (s.modCore n f).throttle = s.throttle := rfl
@[simp] theorem State.modCore_cfg (s : State) (n : Nat) (f : Core → Core) : (s.modCore n f).cfg = s.cfg := rfl
@[simp] theorem State.modCore_fw (s : State) (n : Nat) (f : Core → Core) : (s.modCore n f).fw = s.fw := rfl

@[simp] theorem State.modPart_agenda (s : State) (p : PartRef) (f : Part → Part) : (s.modPart p f).agenda = s.agenda := rfl
@[simp] theorem State.modPart_cur (s : State) (p : PartRef) (f : Part → Part) : (s.modPart p f).cur = s.cur := rfl
@[simp] theorem State.modPart_freeCtr (s : State) (p : PartRef) (f : Part → Part) : (s.modPart p f).freeCtr = s.freeCtr := rfl
@[simp] theorem State.modPart_nextUid (s : State) (p : PartRef) (f : Part → Part) : (s.modPart p f).nextUid = s.nextUid := rfl
@[simp] theorem State.modPart_issueCtr (s : State) (p : PartRef) (f : Part → Part) : (s.modPart p f).issueCtr = s.issueCtr := rfl
@[simp] theorem State.modPart_now (s : State) (p : PartRef) (f : Part → Part) : (s.modPart p f).now = s.now := rfl
@[simp] theorem State.modPart_cycles (s : State) (p : PartRef) (f : Part → Part) : (s.modPart p f).cycles = s.cycles := rfl
@[simp] theorem State.modPart_slew (s : State) (p : PartRef) (f : Part → Part) : (s.modPart p f).slew = s.slew := rfl
@[simp] theorem State.modPart_slewNs (s : State) (p : PartRef) (f : Part → Part) : (s.modPart p f).slewNs = s.slewNs := rfl
@[simp] theorem State.modPart_slewSrc (s : State) (p : PartRef) (f : Part → Part) : (s.modPart p f).slewSrc = s.slewSrc := rfl
@[simp] theorem State.modPart_mem (s : State) (p : PartRef) (f : Part → Part) : (s.modPart p f).mem = s.mem := rfl
@[simp] theorem State.modPart_poison (s : State) (p : PartRef) (f : Part → Part) : (s.modPart p f).poison = s.poison := rfl
@[simp] theorem State.modPart_absentPages (s : State) (p : PartRef) (f : Part → Part) : (s.modPart p f).absentPages = s.absentPages := rfl
@[simp] theorem State.modPart_pageSize (s : State) (p : PartRef) (f : Part → Part) : (s.modPart p f).pageSize = s.pageSize := rfl
@[simp] theorem State.modPart_walks (s : State) (p : PartRef) (f : Part → Part) : (s.modPart p f).walks = s.walks := rfl
@[simp] theorem State.modPart_writes (s : State) (p : PartRef) (f : Part → Part) : (s.modPart p f).writes = s.writes := rfl
@[simp] theorem State.modPart_hist (s : State) (p : PartRef) (f : Part → Part) : (s.modPart p f).hist = s.hist := rfl
@[simp] theorem State.modPart_absent (s : State) (p : PartRef) (f : Part → Part) : (s.modPart p f).absent = s.absent := rfl
@[simp] theorem State.modPart_fills (s : State) (p : PartRef) (f : Part → Part) : (s.modPart p f).fills = s.fills := rfl
@[simp] theorem State.modPart_sharers (s : State) (p : PartRef) (f : Part → Part) : (s.modPart p f).sharers = s.sharers := rfl
@[simp] theorem State.modPart_handles (s : State) (p : PartRef) (f : Part → Part) : (s.modPart p f).handles = s.handles := rfl
@[simp] theorem State.modPart_arenas (s : State) (p : PartRef) (f : Part → Part) : (s.modPart p f).arenas = s.arenas := rfl
@[simp] theorem State.modPart_vaNext (s : State) (p : PartRef) (f : Part → Part) : (s.modPart p f).vaNext = s.vaNext := rfl
@[simp] theorem State.modPart_freeVa (s : State) (p : PartRef) (f : Part → Part) : (s.modPart p f).freeVa = s.freeVa := rfl
@[simp] theorem State.modPart_cores (s : State) (p : PartRef) (f : Part → Part) : (s.modPart p f).cores = s.cores := rfl
@[simp] theorem State.modPart_dieCtrs (s : State) (p : PartRef) (f : Part → Part) : (s.modPart p f).dieCtrs = s.dieCtrs := rfl
@[simp] theorem State.modPart_links (s : State) (p : PartRef) (f : Part → Part) : (s.modPart p f).links = s.links := rfl
@[simp] theorem State.modPart_deadDevs (s : State) (p : PartRef) (f : Part → Part) : (s.modPart p f).deadDevs = s.deadDevs := rfl
@[simp] theorem State.modPart_change (s : State) (p : PartRef) (f : Part → Part) : (s.modPart p f).change = s.change := rfl
@[simp] theorem State.modPart_queues (s : State) (p : PartRef) (f : Part → Part) : (s.modPart p f).queues = s.queues := rfl
@[simp] theorem State.modPart_tasks (s : State) (p : PartRef) (f : Part → Part) : (s.modPart p f).tasks = s.tasks := rfl
@[simp] theorem State.modPart_nextTask (s : State) (p : PartRef) (f : Part → Part) : (s.modPart p f).nextTask = s.nextTask := rfl
@[simp] theorem State.modPart_crews (s : State) (p : PartRef) (f : Part → Part) : (s.modPart p f).crews = s.crews := rfl
@[simp] theorem State.modPart_kiln (s : State) (p : PartRef) (f : Part → Part) : (s.modPart p f).kiln = s.kiln := rfl
@[simp] theorem State.modPart_journal (s : State) (p : PartRef) (f : Part → Part) : (s.modPart p f).journal = s.journal := rfl
@[simp] theorem State.modPart_head (s : State) (p : PartRef) (f : Part → Part) : (s.modPart p f).head = s.head := rfl
@[simp] theorem State.modPart_owner (s : State) (p : PartRef) (f : Part → Part) : (s.modPart p f).owner = s.owner := rfl
@[simp] theorem State.modPart_claims (s : State) (p : PartRef) (f : Part → Part) : (s.modPart p f).claims = s.claims := rfl
@[simp] theorem State.modPart_windowOpen (s : State) (p : PartRef) (f : Part → Part) : (s.modPart p f).windowOpen = s.windowOpen := rfl
@[simp] theorem State.modPart_windowNs (s : State) (p : PartRef) (f : Part → Part) : (s.modPart p f).windowNs = s.windowNs := rfl
@[simp] theorem State.modPart_cmds (s : State) (p : PartRef) (f : Part → Part) : (s.modPart p f).cmds = s.cmds := rfl
@[simp] theorem State.modPart_resps (s : State) (p : PartRef) (f : Part → Part) : (s.modPart p f).resps = s.resps := rfl
@[simp] theorem State.modPart_maps (s : State) (p : PartRef) (f : Part → Part) : (s.modPart p f).maps = s.maps := rfl
@[simp] theorem State.modPart_win (s : State) (p : PartRef) (f : Part → Part) : (s.modPart p f).win = s.win := rfl
@[simp] theorem State.modPart_vecs (s : State) (p : PartRef) (f : Part → Part) : (s.modPart p f).vecs = s.vecs := rfl
@[simp] theorem State.modPart_msis (s : State) (p : PartRef) (f : Part → Part) : (s.modPart p f).msis = s.msis := rfl
@[simp] theorem State.modPart_hostAns (s : State) (p : PartRef) (f : Part → Part) : (s.modPart p f).hostAns = s.hostAns := rfl
@[simp] theorem State.modPart_hostFault (s : State) (p : PartRef) (f : Part → Part) : (s.modPart p f).hostFault = s.hostFault := rfl
@[simp] theorem State.modPart_hostRes (s : State) (p : PartRef) (f : Part → Part) : (s.modPart p f).hostRes = s.hostRes := rfl
@[simp] theorem State.modPart_halted (s : State) (p : PartRef) (f : Part → Part) : (s.modPart p f).halted = s.halted := rfl
@[simp] theorem State.modPart_notices (s : State) (p : PartRef) (f : Part → Part) : (s.modPart p f).notices = s.notices := rfl
@[simp] theorem State.modPart_portOut (s : State) (p : PartRef) (f : Part → Part) : (s.modPart p f).portOut = s.portOut := rfl
@[simp] theorem State.modPart_standby (s : State) (p : PartRef) (f : Part → Part) : (s.modPart p f).standby = s.standby := rfl
@[simp] theorem State.modPart_throttle (s : State) (p : PartRef) (f : Part → Part) : (s.modPart p f).throttle = s.throttle := rfl
@[simp] theorem State.modPart_cfg (s : State) (p : PartRef) (f : Part → Part) : (s.modPart p f).cfg = s.cfg := rfl
@[simp] theorem State.modPart_fw (s : State) (p : PartRef) (f : Part → Part) : (s.modPart p f).fw = s.fw := rfl

@[simp] theorem State.modArena_agenda (s : State) (a : ArenaRef) (f : Arena → Arena) : (s.modArena a f).agenda = s.agenda := rfl
@[simp] theorem State.modArena_cur (s : State) (a : ArenaRef) (f : Arena → Arena) : (s.modArena a f).cur = s.cur := rfl
@[simp] theorem State.modArena_freeCtr (s : State) (a : ArenaRef) (f : Arena → Arena) : (s.modArena a f).freeCtr = s.freeCtr := rfl
@[simp] theorem State.modArena_nextUid (s : State) (a : ArenaRef) (f : Arena → Arena) : (s.modArena a f).nextUid = s.nextUid := rfl
@[simp] theorem State.modArena_issueCtr (s : State) (a : ArenaRef) (f : Arena → Arena) : (s.modArena a f).issueCtr = s.issueCtr := rfl
@[simp] theorem State.modArena_now (s : State) (a : ArenaRef) (f : Arena → Arena) : (s.modArena a f).now = s.now := rfl
@[simp] theorem State.modArena_cycles (s : State) (a : ArenaRef) (f : Arena → Arena) : (s.modArena a f).cycles = s.cycles := rfl
@[simp] theorem State.modArena_slew (s : State) (a : ArenaRef) (f : Arena → Arena) : (s.modArena a f).slew = s.slew := rfl
@[simp] theorem State.modArena_slewNs (s : State) (a : ArenaRef) (f : Arena → Arena) : (s.modArena a f).slewNs = s.slewNs := rfl
@[simp] theorem State.modArena_slewSrc (s : State) (a : ArenaRef) (f : Arena → Arena) : (s.modArena a f).slewSrc = s.slewSrc := rfl
@[simp] theorem State.modArena_mem (s : State) (a : ArenaRef) (f : Arena → Arena) : (s.modArena a f).mem = s.mem := rfl
@[simp] theorem State.modArena_poison (s : State) (a : ArenaRef) (f : Arena → Arena) : (s.modArena a f).poison = s.poison := rfl
@[simp] theorem State.modArena_absentPages (s : State) (a : ArenaRef) (f : Arena → Arena) : (s.modArena a f).absentPages = s.absentPages := rfl
@[simp] theorem State.modArena_pageSize (s : State) (a : ArenaRef) (f : Arena → Arena) : (s.modArena a f).pageSize = s.pageSize := rfl
@[simp] theorem State.modArena_walks (s : State) (a : ArenaRef) (f : Arena → Arena) : (s.modArena a f).walks = s.walks := rfl
@[simp] theorem State.modArena_writes (s : State) (a : ArenaRef) (f : Arena → Arena) : (s.modArena a f).writes = s.writes := rfl
@[simp] theorem State.modArena_hist (s : State) (a : ArenaRef) (f : Arena → Arena) : (s.modArena a f).hist = s.hist := rfl
@[simp] theorem State.modArena_absent (s : State) (a : ArenaRef) (f : Arena → Arena) : (s.modArena a f).absent = s.absent := rfl
@[simp] theorem State.modArena_fills (s : State) (a : ArenaRef) (f : Arena → Arena) : (s.modArena a f).fills = s.fills := rfl
@[simp] theorem State.modArena_sharers (s : State) (a : ArenaRef) (f : Arena → Arena) : (s.modArena a f).sharers = s.sharers := rfl
@[simp] theorem State.modArena_handles (s : State) (a : ArenaRef) (f : Arena → Arena) : (s.modArena a f).handles = s.handles := rfl
@[simp] theorem State.modArena_vaNext (s : State) (a : ArenaRef) (f : Arena → Arena) : (s.modArena a f).vaNext = s.vaNext := rfl
@[simp] theorem State.modArena_freeVa (s : State) (a : ArenaRef) (f : Arena → Arena) : (s.modArena a f).freeVa = s.freeVa := rfl
@[simp] theorem State.modArena_cores (s : State) (a : ArenaRef) (f : Arena → Arena) : (s.modArena a f).cores = s.cores := rfl
@[simp] theorem State.modArena_dieCtrs (s : State) (a : ArenaRef) (f : Arena → Arena) : (s.modArena a f).dieCtrs = s.dieCtrs := rfl
@[simp] theorem State.modArena_links (s : State) (a : ArenaRef) (f : Arena → Arena) : (s.modArena a f).links = s.links := rfl
@[simp] theorem State.modArena_deadDevs (s : State) (a : ArenaRef) (f : Arena → Arena) : (s.modArena a f).deadDevs = s.deadDevs := rfl
@[simp] theorem State.modArena_parts (s : State) (a : ArenaRef) (f : Arena → Arena) : (s.modArena a f).parts = s.parts := rfl
@[simp] theorem State.modArena_change (s : State) (a : ArenaRef) (f : Arena → Arena) : (s.modArena a f).change = s.change := rfl
@[simp] theorem State.modArena_queues (s : State) (a : ArenaRef) (f : Arena → Arena) : (s.modArena a f).queues = s.queues := rfl
@[simp] theorem State.modArena_tasks (s : State) (a : ArenaRef) (f : Arena → Arena) : (s.modArena a f).tasks = s.tasks := rfl
@[simp] theorem State.modArena_nextTask (s : State) (a : ArenaRef) (f : Arena → Arena) : (s.modArena a f).nextTask = s.nextTask := rfl
@[simp] theorem State.modArena_crews (s : State) (a : ArenaRef) (f : Arena → Arena) : (s.modArena a f).crews = s.crews := rfl
@[simp] theorem State.modArena_kiln (s : State) (a : ArenaRef) (f : Arena → Arena) : (s.modArena a f).kiln = s.kiln := rfl
@[simp] theorem State.modArena_journal (s : State) (a : ArenaRef) (f : Arena → Arena) : (s.modArena a f).journal = s.journal := rfl
@[simp] theorem State.modArena_head (s : State) (a : ArenaRef) (f : Arena → Arena) : (s.modArena a f).head = s.head := rfl
@[simp] theorem State.modArena_owner (s : State) (a : ArenaRef) (f : Arena → Arena) : (s.modArena a f).owner = s.owner := rfl
@[simp] theorem State.modArena_claims (s : State) (a : ArenaRef) (f : Arena → Arena) : (s.modArena a f).claims = s.claims := rfl
@[simp] theorem State.modArena_windowOpen (s : State) (a : ArenaRef) (f : Arena → Arena) : (s.modArena a f).windowOpen = s.windowOpen := rfl
@[simp] theorem State.modArena_windowNs (s : State) (a : ArenaRef) (f : Arena → Arena) : (s.modArena a f).windowNs = s.windowNs := rfl
@[simp] theorem State.modArena_cmds (s : State) (a : ArenaRef) (f : Arena → Arena) : (s.modArena a f).cmds = s.cmds := rfl
@[simp] theorem State.modArena_resps (s : State) (a : ArenaRef) (f : Arena → Arena) : (s.modArena a f).resps = s.resps := rfl
@[simp] theorem State.modArena_maps (s : State) (a : ArenaRef) (f : Arena → Arena) : (s.modArena a f).maps = s.maps := rfl
@[simp] theorem State.modArena_win (s : State) (a : ArenaRef) (f : Arena → Arena) : (s.modArena a f).win = s.win := rfl
@[simp] theorem State.modArena_vecs (s : State) (a : ArenaRef) (f : Arena → Arena) : (s.modArena a f).vecs = s.vecs := rfl
@[simp] theorem State.modArena_msis (s : State) (a : ArenaRef) (f : Arena → Arena) : (s.modArena a f).msis = s.msis := rfl
@[simp] theorem State.modArena_hostAns (s : State) (a : ArenaRef) (f : Arena → Arena) : (s.modArena a f).hostAns = s.hostAns := rfl
@[simp] theorem State.modArena_hostFault (s : State) (a : ArenaRef) (f : Arena → Arena) : (s.modArena a f).hostFault = s.hostFault := rfl
@[simp] theorem State.modArena_hostRes (s : State) (a : ArenaRef) (f : Arena → Arena) : (s.modArena a f).hostRes = s.hostRes := rfl
@[simp] theorem State.modArena_halted (s : State) (a : ArenaRef) (f : Arena → Arena) : (s.modArena a f).halted = s.halted := rfl
@[simp] theorem State.modArena_notices (s : State) (a : ArenaRef) (f : Arena → Arena) : (s.modArena a f).notices = s.notices := rfl
@[simp] theorem State.modArena_portOut (s : State) (a : ArenaRef) (f : Arena → Arena) : (s.modArena a f).portOut = s.portOut := rfl
@[simp] theorem State.modArena_standby (s : State) (a : ArenaRef) (f : Arena → Arena) : (s.modArena a f).standby = s.standby := rfl
@[simp] theorem State.modArena_throttle (s : State) (a : ArenaRef) (f : Arena → Arena) : (s.modArena a f).throttle = s.throttle := rfl
@[simp] theorem State.modArena_cfg (s : State) (a : ArenaRef) (f : Arena → Arena) : (s.modArena a f).cfg = s.cfg := rfl
@[simp] theorem State.modArena_fw (s : State) (a : ArenaRef) (f : Arena → Arena) : (s.modArena a f).fw = s.fw := rfl

@[simp] theorem State.setHandle_agenda (s : State) (p : PartRef) (i : Nat) (e : HEntry) : (s.setHandle p i e).agenda = s.agenda := rfl
@[simp] theorem State.setHandle_cur (s : State) (p : PartRef) (i : Nat) (e : HEntry) : (s.setHandle p i e).cur = s.cur := rfl
@[simp] theorem State.setHandle_freeCtr (s : State) (p : PartRef) (i : Nat) (e : HEntry) : (s.setHandle p i e).freeCtr = s.freeCtr := rfl
@[simp] theorem State.setHandle_nextUid (s : State) (p : PartRef) (i : Nat) (e : HEntry) : (s.setHandle p i e).nextUid = s.nextUid := rfl
@[simp] theorem State.setHandle_issueCtr (s : State) (p : PartRef) (i : Nat) (e : HEntry) : (s.setHandle p i e).issueCtr = s.issueCtr := rfl
@[simp] theorem State.setHandle_now (s : State) (p : PartRef) (i : Nat) (e : HEntry) : (s.setHandle p i e).now = s.now := rfl
@[simp] theorem State.setHandle_cycles (s : State) (p : PartRef) (i : Nat) (e : HEntry) : (s.setHandle p i e).cycles = s.cycles := rfl
@[simp] theorem State.setHandle_slew (s : State) (p : PartRef) (i : Nat) (e : HEntry) : (s.setHandle p i e).slew = s.slew := rfl
@[simp] theorem State.setHandle_slewNs (s : State) (p : PartRef) (i : Nat) (e : HEntry) : (s.setHandle p i e).slewNs = s.slewNs := rfl
@[simp] theorem State.setHandle_slewSrc (s : State) (p : PartRef) (i : Nat) (e : HEntry) : (s.setHandle p i e).slewSrc = s.slewSrc := rfl
@[simp] theorem State.setHandle_mem (s : State) (p : PartRef) (i : Nat) (e : HEntry) : (s.setHandle p i e).mem = s.mem := rfl
@[simp] theorem State.setHandle_poison (s : State) (p : PartRef) (i : Nat) (e : HEntry) : (s.setHandle p i e).poison = s.poison := rfl
@[simp] theorem State.setHandle_absentPages (s : State) (p : PartRef) (i : Nat) (e : HEntry) : (s.setHandle p i e).absentPages = s.absentPages := rfl
@[simp] theorem State.setHandle_pageSize (s : State) (p : PartRef) (i : Nat) (e : HEntry) : (s.setHandle p i e).pageSize = s.pageSize := rfl
@[simp] theorem State.setHandle_walks (s : State) (p : PartRef) (i : Nat) (e : HEntry) : (s.setHandle p i e).walks = s.walks := rfl
@[simp] theorem State.setHandle_writes (s : State) (p : PartRef) (i : Nat) (e : HEntry) : (s.setHandle p i e).writes = s.writes := rfl
@[simp] theorem State.setHandle_hist (s : State) (p : PartRef) (i : Nat) (e : HEntry) : (s.setHandle p i e).hist = s.hist := rfl
@[simp] theorem State.setHandle_absent (s : State) (p : PartRef) (i : Nat) (e : HEntry) : (s.setHandle p i e).absent = s.absent := rfl
@[simp] theorem State.setHandle_fills (s : State) (p : PartRef) (i : Nat) (e : HEntry) : (s.setHandle p i e).fills = s.fills := rfl
@[simp] theorem State.setHandle_sharers (s : State) (p : PartRef) (i : Nat) (e : HEntry) : (s.setHandle p i e).sharers = s.sharers := rfl
@[simp] theorem State.setHandle_arenas (s : State) (p : PartRef) (i : Nat) (e : HEntry) : (s.setHandle p i e).arenas = s.arenas := rfl
@[simp] theorem State.setHandle_vaNext (s : State) (p : PartRef) (i : Nat) (e : HEntry) : (s.setHandle p i e).vaNext = s.vaNext := rfl
@[simp] theorem State.setHandle_freeVa (s : State) (p : PartRef) (i : Nat) (e : HEntry) : (s.setHandle p i e).freeVa = s.freeVa := rfl
@[simp] theorem State.setHandle_cores (s : State) (p : PartRef) (i : Nat) (e : HEntry) : (s.setHandle p i e).cores = s.cores := rfl
@[simp] theorem State.setHandle_dieCtrs (s : State) (p : PartRef) (i : Nat) (e : HEntry) : (s.setHandle p i e).dieCtrs = s.dieCtrs := rfl
@[simp] theorem State.setHandle_links (s : State) (p : PartRef) (i : Nat) (e : HEntry) : (s.setHandle p i e).links = s.links := rfl
@[simp] theorem State.setHandle_deadDevs (s : State) (p : PartRef) (i : Nat) (e : HEntry) : (s.setHandle p i e).deadDevs = s.deadDevs := rfl
@[simp] theorem State.setHandle_parts (s : State) (p : PartRef) (i : Nat) (e : HEntry) : (s.setHandle p i e).parts = s.parts := rfl
@[simp] theorem State.setHandle_change (s : State) (p : PartRef) (i : Nat) (e : HEntry) : (s.setHandle p i e).change = s.change := rfl
@[simp] theorem State.setHandle_queues (s : State) (p : PartRef) (i : Nat) (e : HEntry) : (s.setHandle p i e).queues = s.queues := rfl
@[simp] theorem State.setHandle_tasks (s : State) (p : PartRef) (i : Nat) (e : HEntry) : (s.setHandle p i e).tasks = s.tasks := rfl
@[simp] theorem State.setHandle_nextTask (s : State) (p : PartRef) (i : Nat) (e : HEntry) : (s.setHandle p i e).nextTask = s.nextTask := rfl
@[simp] theorem State.setHandle_crews (s : State) (p : PartRef) (i : Nat) (e : HEntry) : (s.setHandle p i e).crews = s.crews := rfl
@[simp] theorem State.setHandle_kiln (s : State) (p : PartRef) (i : Nat) (e : HEntry) : (s.setHandle p i e).kiln = s.kiln := rfl
@[simp] theorem State.setHandle_journal (s : State) (p : PartRef) (i : Nat) (e : HEntry) : (s.setHandle p i e).journal = s.journal := rfl
@[simp] theorem State.setHandle_head (s : State) (p : PartRef) (i : Nat) (e : HEntry) : (s.setHandle p i e).head = s.head := rfl
@[simp] theorem State.setHandle_owner (s : State) (p : PartRef) (i : Nat) (e : HEntry) : (s.setHandle p i e).owner = s.owner := rfl
@[simp] theorem State.setHandle_claims (s : State) (p : PartRef) (i : Nat) (e : HEntry) : (s.setHandle p i e).claims = s.claims := rfl
@[simp] theorem State.setHandle_windowOpen (s : State) (p : PartRef) (i : Nat) (e : HEntry) : (s.setHandle p i e).windowOpen = s.windowOpen := rfl
@[simp] theorem State.setHandle_windowNs (s : State) (p : PartRef) (i : Nat) (e : HEntry) : (s.setHandle p i e).windowNs = s.windowNs := rfl
@[simp] theorem State.setHandle_cmds (s : State) (p : PartRef) (i : Nat) (e : HEntry) : (s.setHandle p i e).cmds = s.cmds := rfl
@[simp] theorem State.setHandle_resps (s : State) (p : PartRef) (i : Nat) (e : HEntry) : (s.setHandle p i e).resps = s.resps := rfl
@[simp] theorem State.setHandle_maps (s : State) (p : PartRef) (i : Nat) (e : HEntry) : (s.setHandle p i e).maps = s.maps := rfl
@[simp] theorem State.setHandle_win (s : State) (p : PartRef) (i : Nat) (e : HEntry) : (s.setHandle p i e).win = s.win := rfl
@[simp] theorem State.setHandle_vecs (s : State) (p : PartRef) (i : Nat) (e : HEntry) : (s.setHandle p i e).vecs = s.vecs := rfl
@[simp] theorem State.setHandle_msis (s : State) (p : PartRef) (i : Nat) (e : HEntry) : (s.setHandle p i e).msis = s.msis := rfl
@[simp] theorem State.setHandle_hostAns (s : State) (p : PartRef) (i : Nat) (e : HEntry) : (s.setHandle p i e).hostAns = s.hostAns := rfl
@[simp] theorem State.setHandle_hostFault (s : State) (p : PartRef) (i : Nat) (e : HEntry) : (s.setHandle p i e).hostFault = s.hostFault := rfl
@[simp] theorem State.setHandle_hostRes (s : State) (p : PartRef) (i : Nat) (e : HEntry) : (s.setHandle p i e).hostRes = s.hostRes := rfl
@[simp] theorem State.setHandle_halted (s : State) (p : PartRef) (i : Nat) (e : HEntry) : (s.setHandle p i e).halted = s.halted := rfl
@[simp] theorem State.setHandle_notices (s : State) (p : PartRef) (i : Nat) (e : HEntry) : (s.setHandle p i e).notices = s.notices := rfl
@[simp] theorem State.setHandle_portOut (s : State) (p : PartRef) (i : Nat) (e : HEntry) : (s.setHandle p i e).portOut = s.portOut := rfl
@[simp] theorem State.setHandle_standby (s : State) (p : PartRef) (i : Nat) (e : HEntry) : (s.setHandle p i e).standby = s.standby := rfl
@[simp] theorem State.setHandle_throttle (s : State) (p : PartRef) (i : Nat) (e : HEntry) : (s.setHandle p i e).throttle = s.throttle := rfl
@[simp] theorem State.setHandle_cfg (s : State) (p : PartRef) (i : Nat) (e : HEntry) : (s.setHandle p i e).cfg = s.cfg := rfl
@[simp] theorem State.setHandle_fw (s : State) (p : PartRef) (i : Nat) (e : HEntry) : (s.setHandle p i e).fw = s.fw := rfl

@[simp] theorem State.modQueue_agenda (s : State) (d q : Nat) (f : Queue → Queue) : (s.modQueue d q f).agenda = s.agenda := rfl
@[simp] theorem State.modQueue_cur (s : State) (d q : Nat) (f : Queue → Queue) : (s.modQueue d q f).cur = s.cur := rfl
@[simp] theorem State.modQueue_freeCtr (s : State) (d q : Nat) (f : Queue → Queue) : (s.modQueue d q f).freeCtr = s.freeCtr := rfl
@[simp] theorem State.modQueue_nextUid (s : State) (d q : Nat) (f : Queue → Queue) : (s.modQueue d q f).nextUid = s.nextUid := rfl
@[simp] theorem State.modQueue_issueCtr (s : State) (d q : Nat) (f : Queue → Queue) : (s.modQueue d q f).issueCtr = s.issueCtr := rfl
@[simp] theorem State.modQueue_now (s : State) (d q : Nat) (f : Queue → Queue) : (s.modQueue d q f).now = s.now := rfl
@[simp] theorem State.modQueue_cycles (s : State) (d q : Nat) (f : Queue → Queue) : (s.modQueue d q f).cycles = s.cycles := rfl
@[simp] theorem State.modQueue_slew (s : State) (d q : Nat) (f : Queue → Queue) : (s.modQueue d q f).slew = s.slew := rfl
@[simp] theorem State.modQueue_slewNs (s : State) (d q : Nat) (f : Queue → Queue) : (s.modQueue d q f).slewNs = s.slewNs := rfl
@[simp] theorem State.modQueue_slewSrc (s : State) (d q : Nat) (f : Queue → Queue) : (s.modQueue d q f).slewSrc = s.slewSrc := rfl
@[simp] theorem State.modQueue_mem (s : State) (d q : Nat) (f : Queue → Queue) : (s.modQueue d q f).mem = s.mem := rfl
@[simp] theorem State.modQueue_poison (s : State) (d q : Nat) (f : Queue → Queue) : (s.modQueue d q f).poison = s.poison := rfl
@[simp] theorem State.modQueue_absentPages (s : State) (d q : Nat) (f : Queue → Queue) : (s.modQueue d q f).absentPages = s.absentPages := rfl
@[simp] theorem State.modQueue_pageSize (s : State) (d q : Nat) (f : Queue → Queue) : (s.modQueue d q f).pageSize = s.pageSize := rfl
@[simp] theorem State.modQueue_walks (s : State) (d q : Nat) (f : Queue → Queue) : (s.modQueue d q f).walks = s.walks := rfl
@[simp] theorem State.modQueue_writes (s : State) (d q : Nat) (f : Queue → Queue) : (s.modQueue d q f).writes = s.writes := rfl
@[simp] theorem State.modQueue_hist (s : State) (d q : Nat) (f : Queue → Queue) : (s.modQueue d q f).hist = s.hist := rfl
@[simp] theorem State.modQueue_absent (s : State) (d q : Nat) (f : Queue → Queue) : (s.modQueue d q f).absent = s.absent := rfl
@[simp] theorem State.modQueue_fills (s : State) (d q : Nat) (f : Queue → Queue) : (s.modQueue d q f).fills = s.fills := rfl
@[simp] theorem State.modQueue_sharers (s : State) (d q : Nat) (f : Queue → Queue) : (s.modQueue d q f).sharers = s.sharers := rfl
@[simp] theorem State.modQueue_handles (s : State) (d q : Nat) (f : Queue → Queue) : (s.modQueue d q f).handles = s.handles := rfl
@[simp] theorem State.modQueue_arenas (s : State) (d q : Nat) (f : Queue → Queue) : (s.modQueue d q f).arenas = s.arenas := rfl
@[simp] theorem State.modQueue_vaNext (s : State) (d q : Nat) (f : Queue → Queue) : (s.modQueue d q f).vaNext = s.vaNext := rfl
@[simp] theorem State.modQueue_freeVa (s : State) (d q : Nat) (f : Queue → Queue) : (s.modQueue d q f).freeVa = s.freeVa := rfl
@[simp] theorem State.modQueue_cores (s : State) (d q : Nat) (f : Queue → Queue) : (s.modQueue d q f).cores = s.cores := rfl
@[simp] theorem State.modQueue_dieCtrs (s : State) (d q : Nat) (f : Queue → Queue) : (s.modQueue d q f).dieCtrs = s.dieCtrs := rfl
@[simp] theorem State.modQueue_links (s : State) (d q : Nat) (f : Queue → Queue) : (s.modQueue d q f).links = s.links := rfl
@[simp] theorem State.modQueue_deadDevs (s : State) (d q : Nat) (f : Queue → Queue) : (s.modQueue d q f).deadDevs = s.deadDevs := rfl
@[simp] theorem State.modQueue_parts (s : State) (d q : Nat) (f : Queue → Queue) : (s.modQueue d q f).parts = s.parts := rfl
@[simp] theorem State.modQueue_change (s : State) (d q : Nat) (f : Queue → Queue) : (s.modQueue d q f).change = s.change := rfl
@[simp] theorem State.modQueue_tasks (s : State) (d q : Nat) (f : Queue → Queue) : (s.modQueue d q f).tasks = s.tasks := rfl
@[simp] theorem State.modQueue_nextTask (s : State) (d q : Nat) (f : Queue → Queue) : (s.modQueue d q f).nextTask = s.nextTask := rfl
@[simp] theorem State.modQueue_crews (s : State) (d q : Nat) (f : Queue → Queue) : (s.modQueue d q f).crews = s.crews := rfl
@[simp] theorem State.modQueue_kiln (s : State) (d q : Nat) (f : Queue → Queue) : (s.modQueue d q f).kiln = s.kiln := rfl
@[simp] theorem State.modQueue_journal (s : State) (d q : Nat) (f : Queue → Queue) : (s.modQueue d q f).journal = s.journal := rfl
@[simp] theorem State.modQueue_head (s : State) (d q : Nat) (f : Queue → Queue) : (s.modQueue d q f).head = s.head := rfl
@[simp] theorem State.modQueue_owner (s : State) (d q : Nat) (f : Queue → Queue) : (s.modQueue d q f).owner = s.owner := rfl
@[simp] theorem State.modQueue_claims (s : State) (d q : Nat) (f : Queue → Queue) : (s.modQueue d q f).claims = s.claims := rfl
@[simp] theorem State.modQueue_windowOpen (s : State) (d q : Nat) (f : Queue → Queue) : (s.modQueue d q f).windowOpen = s.windowOpen := rfl
@[simp] theorem State.modQueue_windowNs (s : State) (d q : Nat) (f : Queue → Queue) : (s.modQueue d q f).windowNs = s.windowNs := rfl
@[simp] theorem State.modQueue_cmds (s : State) (d q : Nat) (f : Queue → Queue) : (s.modQueue d q f).cmds = s.cmds := rfl
@[simp] theorem State.modQueue_resps (s : State) (d q : Nat) (f : Queue → Queue) : (s.modQueue d q f).resps = s.resps := rfl
@[simp] theorem State.modQueue_maps (s : State) (d q : Nat) (f : Queue → Queue) : (s.modQueue d q f).maps = s.maps := rfl
@[simp] theorem State.modQueue_win (s : State) (d q : Nat) (f : Queue → Queue) : (s.modQueue d q f).win = s.win := rfl
@[simp] theorem State.modQueue_vecs (s : State) (d q : Nat) (f : Queue → Queue) : (s.modQueue d q f).vecs = s.vecs := rfl
@[simp] theorem State.modQueue_msis (s : State) (d q : Nat) (f : Queue → Queue) : (s.modQueue d q f).msis = s.msis := rfl
@[simp] theorem State.modQueue_hostAns (s : State) (d q : Nat) (f : Queue → Queue) : (s.modQueue d q f).hostAns = s.hostAns := rfl
@[simp] theorem State.modQueue_hostFault (s : State) (d q : Nat) (f : Queue → Queue) : (s.modQueue d q f).hostFault = s.hostFault := rfl
@[simp] theorem State.modQueue_hostRes (s : State) (d q : Nat) (f : Queue → Queue) : (s.modQueue d q f).hostRes = s.hostRes := rfl
@[simp] theorem State.modQueue_halted (s : State) (d q : Nat) (f : Queue → Queue) : (s.modQueue d q f).halted = s.halted := rfl
@[simp] theorem State.modQueue_notices (s : State) (d q : Nat) (f : Queue → Queue) : (s.modQueue d q f).notices = s.notices := rfl
@[simp] theorem State.modQueue_portOut (s : State) (d q : Nat) (f : Queue → Queue) : (s.modQueue d q f).portOut = s.portOut := rfl
@[simp] theorem State.modQueue_standby (s : State) (d q : Nat) (f : Queue → Queue) : (s.modQueue d q f).standby = s.standby := rfl
@[simp] theorem State.modQueue_throttle (s : State) (d q : Nat) (f : Queue → Queue) : (s.modQueue d q f).throttle = s.throttle := rfl
@[simp] theorem State.modQueue_cfg (s : State) (d q : Nat) (f : Queue → Queue) : (s.modQueue d q f).cfg = s.cfg := rfl
@[simp] theorem State.modQueue_fw (s : State) (d q : Nat) (f : Queue → Queue) : (s.modQueue d q f).fw = s.fw := rfl

@[simp] theorem State.modTask_agenda (s : State) (d t : Nat) (f : Task → Task) : (s.modTask d t f).agenda = s.agenda := rfl
@[simp] theorem State.modTask_cur (s : State) (d t : Nat) (f : Task → Task) : (s.modTask d t f).cur = s.cur := rfl
@[simp] theorem State.modTask_freeCtr (s : State) (d t : Nat) (f : Task → Task) : (s.modTask d t f).freeCtr = s.freeCtr := rfl
@[simp] theorem State.modTask_nextUid (s : State) (d t : Nat) (f : Task → Task) : (s.modTask d t f).nextUid = s.nextUid := rfl
@[simp] theorem State.modTask_issueCtr (s : State) (d t : Nat) (f : Task → Task) : (s.modTask d t f).issueCtr = s.issueCtr := rfl
@[simp] theorem State.modTask_now (s : State) (d t : Nat) (f : Task → Task) : (s.modTask d t f).now = s.now := rfl
@[simp] theorem State.modTask_cycles (s : State) (d t : Nat) (f : Task → Task) : (s.modTask d t f).cycles = s.cycles := rfl
@[simp] theorem State.modTask_slew (s : State) (d t : Nat) (f : Task → Task) : (s.modTask d t f).slew = s.slew := rfl
@[simp] theorem State.modTask_slewNs (s : State) (d t : Nat) (f : Task → Task) : (s.modTask d t f).slewNs = s.slewNs := rfl
@[simp] theorem State.modTask_slewSrc (s : State) (d t : Nat) (f : Task → Task) : (s.modTask d t f).slewSrc = s.slewSrc := rfl
@[simp] theorem State.modTask_mem (s : State) (d t : Nat) (f : Task → Task) : (s.modTask d t f).mem = s.mem := rfl
@[simp] theorem State.modTask_poison (s : State) (d t : Nat) (f : Task → Task) : (s.modTask d t f).poison = s.poison := rfl
@[simp] theorem State.modTask_absentPages (s : State) (d t : Nat) (f : Task → Task) : (s.modTask d t f).absentPages = s.absentPages := rfl
@[simp] theorem State.modTask_pageSize (s : State) (d t : Nat) (f : Task → Task) : (s.modTask d t f).pageSize = s.pageSize := rfl
@[simp] theorem State.modTask_walks (s : State) (d t : Nat) (f : Task → Task) : (s.modTask d t f).walks = s.walks := rfl
@[simp] theorem State.modTask_writes (s : State) (d t : Nat) (f : Task → Task) : (s.modTask d t f).writes = s.writes := rfl
@[simp] theorem State.modTask_hist (s : State) (d t : Nat) (f : Task → Task) : (s.modTask d t f).hist = s.hist := rfl
@[simp] theorem State.modTask_absent (s : State) (d t : Nat) (f : Task → Task) : (s.modTask d t f).absent = s.absent := rfl
@[simp] theorem State.modTask_fills (s : State) (d t : Nat) (f : Task → Task) : (s.modTask d t f).fills = s.fills := rfl
@[simp] theorem State.modTask_sharers (s : State) (d t : Nat) (f : Task → Task) : (s.modTask d t f).sharers = s.sharers := rfl
@[simp] theorem State.modTask_handles (s : State) (d t : Nat) (f : Task → Task) : (s.modTask d t f).handles = s.handles := rfl
@[simp] theorem State.modTask_arenas (s : State) (d t : Nat) (f : Task → Task) : (s.modTask d t f).arenas = s.arenas := rfl
@[simp] theorem State.modTask_vaNext (s : State) (d t : Nat) (f : Task → Task) : (s.modTask d t f).vaNext = s.vaNext := rfl
@[simp] theorem State.modTask_freeVa (s : State) (d t : Nat) (f : Task → Task) : (s.modTask d t f).freeVa = s.freeVa := rfl
@[simp] theorem State.modTask_cores (s : State) (d t : Nat) (f : Task → Task) : (s.modTask d t f).cores = s.cores := rfl
@[simp] theorem State.modTask_dieCtrs (s : State) (d t : Nat) (f : Task → Task) : (s.modTask d t f).dieCtrs = s.dieCtrs := rfl
@[simp] theorem State.modTask_links (s : State) (d t : Nat) (f : Task → Task) : (s.modTask d t f).links = s.links := rfl
@[simp] theorem State.modTask_deadDevs (s : State) (d t : Nat) (f : Task → Task) : (s.modTask d t f).deadDevs = s.deadDevs := rfl
@[simp] theorem State.modTask_parts (s : State) (d t : Nat) (f : Task → Task) : (s.modTask d t f).parts = s.parts := rfl
@[simp] theorem State.modTask_change (s : State) (d t : Nat) (f : Task → Task) : (s.modTask d t f).change = s.change := rfl
@[simp] theorem State.modTask_queues (s : State) (d t : Nat) (f : Task → Task) : (s.modTask d t f).queues = s.queues := rfl
@[simp] theorem State.modTask_nextTask (s : State) (d t : Nat) (f : Task → Task) : (s.modTask d t f).nextTask = s.nextTask := rfl
@[simp] theorem State.modTask_crews (s : State) (d t : Nat) (f : Task → Task) : (s.modTask d t f).crews = s.crews := rfl
@[simp] theorem State.modTask_kiln (s : State) (d t : Nat) (f : Task → Task) : (s.modTask d t f).kiln = s.kiln := rfl
@[simp] theorem State.modTask_journal (s : State) (d t : Nat) (f : Task → Task) : (s.modTask d t f).journal = s.journal := rfl
@[simp] theorem State.modTask_head (s : State) (d t : Nat) (f : Task → Task) : (s.modTask d t f).head = s.head := rfl
@[simp] theorem State.modTask_owner (s : State) (d t : Nat) (f : Task → Task) : (s.modTask d t f).owner = s.owner := rfl
@[simp] theorem State.modTask_claims (s : State) (d t : Nat) (f : Task → Task) : (s.modTask d t f).claims = s.claims := rfl
@[simp] theorem State.modTask_windowOpen (s : State) (d t : Nat) (f : Task → Task) : (s.modTask d t f).windowOpen = s.windowOpen := rfl
@[simp] theorem State.modTask_windowNs (s : State) (d t : Nat) (f : Task → Task) : (s.modTask d t f).windowNs = s.windowNs := rfl
@[simp] theorem State.modTask_cmds (s : State) (d t : Nat) (f : Task → Task) : (s.modTask d t f).cmds = s.cmds := rfl
@[simp] theorem State.modTask_resps (s : State) (d t : Nat) (f : Task → Task) : (s.modTask d t f).resps = s.resps := rfl
@[simp] theorem State.modTask_maps (s : State) (d t : Nat) (f : Task → Task) : (s.modTask d t f).maps = s.maps := rfl
@[simp] theorem State.modTask_win (s : State) (d t : Nat) (f : Task → Task) : (s.modTask d t f).win = s.win := rfl
@[simp] theorem State.modTask_vecs (s : State) (d t : Nat) (f : Task → Task) : (s.modTask d t f).vecs = s.vecs := rfl
@[simp] theorem State.modTask_msis (s : State) (d t : Nat) (f : Task → Task) : (s.modTask d t f).msis = s.msis := rfl
@[simp] theorem State.modTask_hostAns (s : State) (d t : Nat) (f : Task → Task) : (s.modTask d t f).hostAns = s.hostAns := rfl
@[simp] theorem State.modTask_hostFault (s : State) (d t : Nat) (f : Task → Task) : (s.modTask d t f).hostFault = s.hostFault := rfl
@[simp] theorem State.modTask_hostRes (s : State) (d t : Nat) (f : Task → Task) : (s.modTask d t f).hostRes = s.hostRes := rfl
@[simp] theorem State.modTask_halted (s : State) (d t : Nat) (f : Task → Task) : (s.modTask d t f).halted = s.halted := rfl
@[simp] theorem State.modTask_notices (s : State) (d t : Nat) (f : Task → Task) : (s.modTask d t f).notices = s.notices := rfl
@[simp] theorem State.modTask_portOut (s : State) (d t : Nat) (f : Task → Task) : (s.modTask d t f).portOut = s.portOut := rfl
@[simp] theorem State.modTask_standby (s : State) (d t : Nat) (f : Task → Task) : (s.modTask d t f).standby = s.standby := rfl
@[simp] theorem State.modTask_throttle (s : State) (d t : Nat) (f : Task → Task) : (s.modTask d t f).throttle = s.throttle := rfl
@[simp] theorem State.modTask_cfg (s : State) (d t : Nat) (f : Task → Task) : (s.modTask d t f).cfg = s.cfg := rfl
@[simp] theorem State.modTask_fw (s : State) (d t : Nat) (f : Task → Task) : (s.modTask d t f).fw = s.fw := rfl

@[simp] theorem State.pass_agenda (s : State) (n : Nat) : (s.pass n).agenda = s.agenda := rfl
@[simp] theorem State.pass_cur (s : State) (n : Nat) : (s.pass n).cur = s.cur := rfl
@[simp] theorem State.pass_freeCtr (s : State) (n : Nat) : (s.pass n).freeCtr = s.freeCtr := rfl
@[simp] theorem State.pass_nextUid (s : State) (n : Nat) : (s.pass n).nextUid = s.nextUid := rfl
@[simp] theorem State.pass_issueCtr (s : State) (n : Nat) : (s.pass n).issueCtr = s.issueCtr := rfl
@[simp] theorem State.pass_slew (s : State) (n : Nat) : (s.pass n).slew = s.slew := rfl
@[simp] theorem State.pass_slewNs (s : State) (n : Nat) : (s.pass n).slewNs = s.slewNs := rfl
@[simp] theorem State.pass_slewSrc (s : State) (n : Nat) : (s.pass n).slewSrc = s.slewSrc := rfl
@[simp] theorem State.pass_mem (s : State) (n : Nat) : (s.pass n).mem = s.mem := rfl
@[simp] theorem State.pass_poison (s : State) (n : Nat) : (s.pass n).poison = s.poison := rfl
@[simp] theorem State.pass_absentPages (s : State) (n : Nat) : (s.pass n).absentPages = s.absentPages := rfl
@[simp] theorem State.pass_pageSize (s : State) (n : Nat) : (s.pass n).pageSize = s.pageSize := rfl
@[simp] theorem State.pass_walks (s : State) (n : Nat) : (s.pass n).walks = s.walks := rfl
@[simp] theorem State.pass_writes (s : State) (n : Nat) : (s.pass n).writes = s.writes := rfl
@[simp] theorem State.pass_hist (s : State) (n : Nat) : (s.pass n).hist = s.hist := rfl
@[simp] theorem State.pass_absent (s : State) (n : Nat) : (s.pass n).absent = s.absent := rfl
@[simp] theorem State.pass_fills (s : State) (n : Nat) : (s.pass n).fills = s.fills := rfl
@[simp] theorem State.pass_sharers (s : State) (n : Nat) : (s.pass n).sharers = s.sharers := rfl
@[simp] theorem State.pass_handles (s : State) (n : Nat) : (s.pass n).handles = s.handles := rfl
@[simp] theorem State.pass_arenas (s : State) (n : Nat) : (s.pass n).arenas = s.arenas := rfl
@[simp] theorem State.pass_vaNext (s : State) (n : Nat) : (s.pass n).vaNext = s.vaNext := rfl
@[simp] theorem State.pass_freeVa (s : State) (n : Nat) : (s.pass n).freeVa = s.freeVa := rfl
@[simp] theorem State.pass_cores (s : State) (n : Nat) : (s.pass n).cores = s.cores := rfl
@[simp] theorem State.pass_dieCtrs (s : State) (n : Nat) : (s.pass n).dieCtrs = s.dieCtrs := rfl
@[simp] theorem State.pass_links (s : State) (n : Nat) : (s.pass n).links = s.links := rfl
@[simp] theorem State.pass_deadDevs (s : State) (n : Nat) : (s.pass n).deadDevs = s.deadDevs := rfl
@[simp] theorem State.pass_parts (s : State) (n : Nat) : (s.pass n).parts = s.parts := rfl
@[simp] theorem State.pass_change (s : State) (n : Nat) : (s.pass n).change = s.change := rfl
@[simp] theorem State.pass_queues (s : State) (n : Nat) : (s.pass n).queues = s.queues := rfl
@[simp] theorem State.pass_tasks (s : State) (n : Nat) : (s.pass n).tasks = s.tasks := rfl
@[simp] theorem State.pass_nextTask (s : State) (n : Nat) : (s.pass n).nextTask = s.nextTask := rfl
@[simp] theorem State.pass_crews (s : State) (n : Nat) : (s.pass n).crews = s.crews := rfl
@[simp] theorem State.pass_kiln (s : State) (n : Nat) : (s.pass n).kiln = s.kiln := rfl
@[simp] theorem State.pass_journal (s : State) (n : Nat) : (s.pass n).journal = s.journal := rfl
@[simp] theorem State.pass_head (s : State) (n : Nat) : (s.pass n).head = s.head := rfl
@[simp] theorem State.pass_owner (s : State) (n : Nat) : (s.pass n).owner = s.owner := rfl
@[simp] theorem State.pass_claims (s : State) (n : Nat) : (s.pass n).claims = s.claims := rfl
@[simp] theorem State.pass_windowOpen (s : State) (n : Nat) : (s.pass n).windowOpen = s.windowOpen := rfl
@[simp] theorem State.pass_windowNs (s : State) (n : Nat) : (s.pass n).windowNs = s.windowNs := rfl
@[simp] theorem State.pass_cmds (s : State) (n : Nat) : (s.pass n).cmds = s.cmds := rfl
@[simp] theorem State.pass_resps (s : State) (n : Nat) : (s.pass n).resps = s.resps := rfl
@[simp] theorem State.pass_maps (s : State) (n : Nat) : (s.pass n).maps = s.maps := rfl
@[simp] theorem State.pass_win (s : State) (n : Nat) : (s.pass n).win = s.win := rfl
@[simp] theorem State.pass_vecs (s : State) (n : Nat) : (s.pass n).vecs = s.vecs := rfl
@[simp] theorem State.pass_msis (s : State) (n : Nat) : (s.pass n).msis = s.msis := rfl
@[simp] theorem State.pass_hostAns (s : State) (n : Nat) : (s.pass n).hostAns = s.hostAns := rfl
@[simp] theorem State.pass_hostFault (s : State) (n : Nat) : (s.pass n).hostFault = s.hostFault := rfl
@[simp] theorem State.pass_hostRes (s : State) (n : Nat) : (s.pass n).hostRes = s.hostRes := rfl
@[simp] theorem State.pass_halted (s : State) (n : Nat) : (s.pass n).halted = s.halted := rfl
@[simp] theorem State.pass_notices (s : State) (n : Nat) : (s.pass n).notices = s.notices := rfl
@[simp] theorem State.pass_portOut (s : State) (n : Nat) : (s.pass n).portOut = s.portOut := rfl
@[simp] theorem State.pass_standby (s : State) (n : Nat) : (s.pass n).standby = s.standby := rfl
@[simp] theorem State.pass_throttle (s : State) (n : Nat) : (s.pass n).throttle = s.throttle := rfl
@[simp] theorem State.pass_cfg (s : State) (n : Nat) : (s.pass n).cfg = s.cfg := rfl
@[simp] theorem State.pass_fw (s : State) (n : Nat) : (s.pass n).fw = s.fw := rfl

/-! ### Crews, threads, slots -/

@[simp] theorem Crew.setThread_ldev (c : Crew) (k : Nat) (t : Thread) : (c.setThread k t).ldev = c.ldev := rfl
@[simp] theorem Crew.setThread_part (c : Crew) (k : Nat) (t : Thread) : (c.setThread k t).part = c.part := rfl
@[simp] theorem Crew.setThread_task (c : Crew) (k : Nat) (t : Thread) : (c.setThread k t).task = c.task := rfl
@[simp] theorem Crew.setThread_idx (c : Crew) (k : Nat) (t : Thread) : (c.setThread k t).idx = c.idx := rfl
@[simp] theorem Crew.setThread_st (c : Crew) (k : Nat) (t : Thread) : (c.setThread k t).st = c.st := rfl
@[simp] theorem Crew.setThread_core (c : Crew) (k : Nat) (t : Thread) : (c.setThread k t).core = c.core := rfl
@[simp] theorem Crew.setThread_cslot (c : Crew) (k : Nat) (t : Thread) : (c.setThread k t).cslot = c.cslot := rfl
@[simp] theorem Crew.setThread_block (c : Crew) (k : Nat) (t : Thread) : (c.setThread k t).block = c.block := rfl
@[simp] theorem Crew.setThread_placedNs (c : Crew) (k : Nat) (t : Thread) : (c.setThread k t).placedNs = c.placedNs := rfl
@[simp] theorem Crew.setThread_placedCyc (c : Crew) (k : Nat) (t : Thread) : (c.setThread k t).placedCyc = c.placedCyc := rfl
@[simp] theorem Crew.setThread_scratch (c : Crew) (k : Nat) (t : Thread) : (c.setThread k t).scratch = c.scratch := rfl
@[simp] theorem Crew.setThread_scrPoison (c : Crew) (k : Nat) (t : Thread) : (c.setThread k t).scrPoison = c.scrPoison := rfl
@[simp] theorem Crew.setThread_regPoison (c : Crew) (k : Nat) (t : Thread) : (c.setThread k t).regPoison = c.regPoison := rfl
@[simp] theorem Crew.setThread_tilePoison (c : Crew) (k : Nat) (t : Thread) : (c.setThread k t).tilePoison = c.tilePoison := rfl
@[simp] theorem Crew.setThread_dq (c : Crew) (k : Nat) (t : Thread) : (c.setThread k t).dq = c.dq := rfl
@[simp] theorem Crew.setThread_dqBase (c : Crew) (k : Nat) (t : Thread) : (c.setThread k t).dqBase = c.dqBase := rfl
@[simp] theorem Crew.setThread_tiles (c : Crew) (k : Nat) (t : Thread) : (c.setThread k t).tiles = c.tiles := rfl
@[simp] theorem Crew.setThread_maxs (c : Crew) (k : Nat) (t : Thread) : (c.setThread k t).maxs = c.maxs := rfl
@[simp] theorem Crew.setThread_sums (c : Crew) (k : Nat) (t : Thread) : (c.setThread k t).sums = c.sums := rfl
@[simp] theorem Crew.setThread_shapes (c : Crew) (k : Nat) (t : Thread) : (c.setThread k t).shapes = c.shapes := rfl
@[simp] theorem Crew.setThread_sat (c : Crew) (k : Nat) (t : Thread) : (c.setThread k t).sat = c.sat := rfl
@[simp] theorem Crew.setThread_reexec (c : Crew) (k : Nat) (t : Thread) : (c.setThread k t).reexec = c.reexec := rfl
@[simp] theorem Crew.setThread_cpy (c : Crew) (k : Nat) (t : Thread) : (c.setThread k t).cpy = c.cpy := rfl
@[simp] theorem Crew.setThread_mtx (c : Crew) (k : Nat) (t : Thread) : (c.setThread k t).mtx = c.mtx := rfl
@[simp] theorem Crew.setThread_arn (c : Crew) (k : Nat) (t : Thread) : (c.setThread k t).arn = c.arn := rfl
@[simp] theorem Crew.setThread_msg (c : Crew) (k : Nat) (t : Thread) : (c.setThread k t).msg = c.msg := rfl
@[simp] theorem Crew.setThread_ready (c : Crew) (k : Nat) (t : Thread) : (c.setThread k t).ready = c.ready := rfl
@[simp] theorem Crew.setThread_readyOld (c : Crew) (k : Nat) (t : Thread) : (c.setThread k t).readyOld = c.readyOld := rfl
@[simp] theorem Crew.setThread_savedMsgs (c : Crew) (k : Nat) (t : Thread) : (c.setThread k t).savedMsgs = c.savedMsgs := rfl
@[simp] theorem Crew.setThread_asg (c : Crew) (k : Nat) (t : Thread) : (c.setThread k t).asg = c.asg := rfl
@[simp] theorem Crew.setThread_stop (c : Crew) (k : Nat) (t : Thread) : (c.setThread k t).stop = c.stop := rfl
@[simp] theorem Crew.setThread_stopRec (c : Crew) (k : Nat) (t : Thread) : (c.setThread k t).stopRec = c.stopRec := rfl
@[simp] theorem Crew.setThread_stopNs (c : Crew) (k : Nat) (t : Thread) : (c.setThread k t).stopNs = c.stopNs := rfl
@[simp] theorem Crew.setThread_bp (c : Crew) (k : Nat) (t : Thread) : (c.setThread k t).bp = c.bp := rfl
@[simp] theorem Crew.setThread_wp (c : Crew) (k : Nat) (t : Thread) : (c.setThread k t).wp = c.wp := rfl
@[simp] theorem Crew.setThread_icept (c : Crew) (k : Nat) (t : Thread) : (c.setThread k t).icept = c.icept := rfl
@[simp] theorem Crew.setThread_abandon (c : Crew) (k : Nat) (t : Thread) : (c.setThread k t).abandon = c.abandon := rfl
@[simp] theorem Crew.setThread_cause (c : Crew) (k : Nat) (t : Thread) : (c.setThread k t).cause = c.cause := rfl
@[simp] theorem Crew.setThread_fatalRec (c : Crew) (k : Nat) (t : Thread) : (c.setThread k t).fatalRec = c.fatalRec := rfl
@[simp] theorem Crew.setThread_fatalWhere (c : Crew) (k : Nat) (t : Thread) : (c.setThread k t).fatalWhere = c.fatalWhere := rfl
@[simp] theorem Crew.setThread_nested (c : Crew) (k : Nat) (t : Thread) : (c.setThread k t).nested = c.nested := rfl
@[simp] theorem Crew.setThread_nrec (c : Crew) (k : Nat) (t : Thread) : (c.setThread k t).nrec = c.nrec := rfl
@[simp] theorem Crew.setThread_trace (c : Crew) (k : Nat) (t : Thread) : (c.setThread k t).trace = c.trace := rfl
@[simp] theorem Crew.setThread_regwin (c : Crew) (k : Nat) (t : Thread) : (c.setThread k t).regwin = c.regwin := rfl

@[simp] theorem Thread.modArch_st (t : Thread) (f : Arch → Arch) : (t.modArch f).st = t.st := rfl
@[simp] theorem Thread.modArch_window (t : Thread) (f : Arch → Arch) : (t.modArch f).window = t.window := rfl
@[simp] theorem Thread.modArch_swapped (t : Thread) (f : Arch → Arch) : (t.modArch f).swapped = t.swapped := rfl
@[simp] theorem Thread.modArch_issued (t : Thread) (f : Arch → Arch) : (t.modArch f).issued = t.issued := rfl
@[simp] theorem Thread.modArch_sq (t : Thread) (f : Arch → Arch) : (t.modArch f).sq = t.sq := rfl
@[simp] theorem Thread.modArch_fence (t : Thread) (f : Arch → Arch) : (t.modArch f).fence = t.fence := rfl
@[simp] theorem Thread.modArch_toks (t : Thread) (f : Arch → Arch) : (t.modArch f).toks = t.toks := rfl
@[simp] theorem Thread.modArch_pendA (t : Thread) (f : Arch → Arch) : (t.modArch f).pendA = t.pendA := rfl
@[simp] theorem Thread.modArch_pendB (t : Thread) (f : Arch → Arch) : (t.modArch f).pendB = t.pendB := rfl
@[simp] theorem Thread.modArch_flIssued (t : Thread) (f : Arch → Arch) : (t.modArch f).flIssued = t.flIssued := rfl
@[simp] theorem Thread.modArch_flDone (t : Thread) (f : Arch → Arch) : (t.modArch f).flDone = t.flDone := rfl
@[simp] theorem Thread.modArch_flushes (t : Thread) (f : Arch → Arch) : (t.modArch f).flushes = t.flushes := rfl
@[simp] theorem Thread.modArch_dqPos (t : Thread) (f : Arch → Arch) : (t.modArch f).dqPos = t.dqPos := rfl
@[simp] theorem Thread.modArch_residue (t : Thread) (f : Arch → Arch) : (t.modArch f).residue = t.residue := rfl
@[simp] theorem Thread.modArch_residueNo (t : Thread) (f : Arch → Arch) : (t.modArch f).residueNo = t.residueNo := rfl
@[simp] theorem Thread.modArch_floor (t : Thread) (f : Arch → Arch) : (t.modArch f).floor = t.floor := rfl
@[simp] theorem Thread.modArch_seen (t : Thread) (f : Arch → Arch) : (t.modArch f).seen = t.seen := rfl
@[simp] theorem Thread.modArch_past (t : Thread) (f : Arch → Arch) : (t.modArch f).past = t.past := rfl

theorem State.thread_eq (s : State) (u k : Nat) : s.thread u k = (s.crew u).thread k := rfl

theorem State.modCrew_eq (s : State) (u : Nat) (f : Crew → Crew) : s.modCrew u f = s.setCrew u (f (s.crew u)) := rfl
theorem State.modThread_eq (s : State) (u k : Nat) (f : Thread → Thread) :
    s.modThread u k f = s.setCrew u ((s.crew u).setThread k (f (s.thread u k))) := rfl
theorem State.modArch_eq (s : State) (u k : Nat) (f : Arch → Arch) :
    s.modArch u k f = s.setCrew u ((s.crew u).setThread k ((s.thread u k).modArch f)) := rfl
theorem State.modSlot_eq (s : State) (p : PairRef) (f : Slot → Slot) :
    s.modSlot p f = s.modArch p.uid p.tid (Arch.modSlot · p.slotB f) := rfl

@[simp] theorem Thread.modArch_arch (t : Thread) (f : Arch → Arch) : (t.modArch f).arch = f t.arch := rfl

@[simp] theorem State.setCrew_crew (s : State) (u : Nat) (c : Crew) : (s.setCrew u c).crew u = c := by
  simp [State.crew, State.setCrew]

theorem State.setCrew_crew_ne (s : State) (u : Nat) (c : Crew) {v : Nat} (h : v ≠ u) :
    (s.setCrew u c).crew v = s.crew v := by
  simp [State.crew, State.setCrew, Store.get_set_ne, h]

@[simp] theorem State.setCrew_setCrew (s : State) (u : Nat) (c e : Crew) :
    (s.setCrew u c).setCrew u e = s.setCrew u e := by
  simp [State.setCrew]

@[simp] theorem Crew.setThread_setThread (c : Crew) (k : Nat) (t x : Thread) :
    (c.setThread k t).setThread k x = c.setThread k x := by
  simp [Crew.setThread]

@[simp] theorem Crew.setThread_thread (c : Crew) (k : Nat) (t : Thread) : (c.setThread k t).thread k = t := by
  simp [Crew.thread, Crew.setThread]

theorem Crew.setThread_thread_ne (c : Crew) (k : Nat) (t : Thread) {j : Nat} (h : j ≠ k) :
    (c.setThread k t).thread j = c.thread j := by
  simp [Crew.thread, Crew.setThread, Store.get_set_ne, h]

@[simp] theorem State.modCrew_crew (s : State) (u : Nat) (f : Crew → Crew) : (s.modCrew u f).crew u = f (s.crew u) := by
  simp [State.modCrew]

@[simp] theorem State.modThread_thread (s : State) (u k : Nat) (f : Thread → Thread) :
    (s.modThread u k f).thread u k = f (s.thread u k) := by
  simp [State.modThread, State.thread, Crew.modThread]

@[simp] theorem State.modArch_arch (s : State) (u k : Nat) (f : Arch → Arch) :
    (s.modArch u k f).arch u k = f (s.arch u k) := by
  simp [State.modArch, State.arch]

/-- Two changes of one thread's registers and slots are one. -/
theorem State.modArch_modArch (s : State) (u k : Nat) (f g : Arch → Arch) :
    (s.modArch u k f).modArch u k g = s.modArch u k fun a => g (f a) := by
  simp [State.modArch_eq, State.thread_eq, Thread.modArch]

@[simp] theorem Arch.setSlot_setSlot (a : Arch) (b : Bool) (x y : Slot) : (a.setSlot b x).setSlot b y = a.setSlot b y := by
  cases b <;> rfl

@[simp] theorem Arch.setSlot_slot (a : Arch) (b : Bool) (x : Slot) : (a.setSlot b x).slot b = x := by
  cases b <;> rfl

@[simp] theorem Arch.setSlot_slot_other (a : Arch) (b : Bool) (x : Slot) : (a.setSlot b x).slot (!b) = a.slot (!b) := by
  cases b <;> rfl

@[simp] theorem Arch.modSlot_slot (a : Arch) (b : Bool) (f : Slot → Slot) : (a.modSlot b f).slot b = f (a.slot b) := by
  simp [Arch.modSlot]

@[simp] theorem State.modSlot_slot (s : State) (p : PairRef) (f : Slot → Slot) : (s.modSlot p f).slot p = f (s.slot p) := by
  simp [State.modSlot, State.slot]

theorem State.modSlot_modSlot (s : State) (p : PairRef) (f g : Slot → Slot) :
    (s.modSlot p f).modSlot p g = s.modSlot p fun x => g (f x) := by
  simp [State.modSlot_eq, State.modArch_modArch, Arch.modSlot]

/-! ### Registers -/

@[simp] theorem State.pair_slot (s : State) : s.slot s.pair = s.cslot := rfl

@[simp] theorem State.modCArch_carch (s : State) (f : Arch → Arch) : (s.modCArch f).carch = f s.carch := by
  simp [State.modCArch, State.carch, State.cthr, State.modArch_eq, State.thread_eq]

@[simp] theorem State.modCSlot_cslot (s : State) (f : Slot → Slot) : (s.modCSlot f).cslot = f s.cslot := by
  show (s.modCArch (Arch.modSlot · s.cur.slotB f)).carch.slot s.cur.slotB = _
  simp [State.cslot]

end Sys2Proof.Machine
end

