-- ==== Sys2Proof/Laws/Brew.lean ====
section
/-! SUPPORT. Laws of the brewhouse's shared operations: the journal, the window registers, answers to commands, and the frame
of every command. -/

namespace Sys2Proof.Machine

/-! ### The journal (R381) -/

/-- Journalling writes one record and nothing else; the ring keeps its last records. -/
theorem State.log_logged (s : State) (kind source ldev part : Nat) (data : List Nat) :
    s.Logged (s.log kind source ldev part data) kind source ldev part data ∧
      s.log kind source ldev part data = { s with journal := (s.log kind source ldev part data).journal, head := s.head + 1 } := by
  have hl : (s.log kind source ldev part data).journal.getLast? = some ⟨s.head, s.now, kind, source, ldev, part, data.map (BitVec.ofNat 64)⟩ :=
    List.getLast?_concat
  refine ⟨⟨rfl, hl, fun r hr => ?_⟩, rfl⟩
  rcases List.mem_append.1 hr with h | h
  · refine .inl ?_
    split at h
    · exact h
    · exact List.mem_of_mem_drop h
  · exact .inr (by rw [hl, List.mem_singleton.1 h])

/-! ### Window registers (R388) -/

@[simp] theorem State.winReg_setWin (s : State) (off : Nat) (v : DWord) (o : Nat) :
    (s.setWin off v).winReg o = if o = off then v else s.winReg o := by
  simp only [State.winReg, State.setWin, Store.get_set]

@[simp] theorem State.setWin_vecs (s : State) (off : Nat) (v : DWord) : (s.setWin off v).vecs = s.vecs := rfl
@[simp] theorem State.setWin_msis (s : State) (off : Nat) (v : DWord) : (s.setWin off v).msis = s.msis := rfl
@[simp] theorem State.setWin_resps (s : State) (off : Nat) (v : DWord) : (s.setWin off v).resps = s.resps := rfl
@[simp] theorem State.setWin_cmds (s : State) (off : Nat) (v : DWord) : (s.setWin off v).cmds = s.cmds := rfl

/-- An interrupt is delivered where its vector is bound, and counted in VECDROP where it is not (R389); nothing else changes. -/
theorem State.raise_frame (s : State) (vec : Nat) : s.raise vec = { s with win := (s.raise vec).win, msis := (s.raise vec).msis } := by
  unfold State.raise
  cases Store.get none s.vecs vec <;> rfl

theorem State.raise_winReg (s : State) (vec o : Nat) :
    (s.raise vec).winReg o = if o = 0xC020 ∧ Store.get none s.vecs vec = none then s.winReg o + 1 else s.winReg o := by
  unfold State.raise
  cases Store.get none s.vecs vec with
  | none =>
    simp only [State.winReg_setWin, and_true]
    split
    · next h => rw [h]
    · rfl
  | some q => simp only [reduceCtorEq, and_false, if_false]; rfl

theorem State.raise_msis (s : State) (vec : Nat) : (s.raise vec).msis = s.msis ++ match Store.get none s.vecs vec with
    | some (hart, id) => [(vec, hart, id)]
    | none => [] := by
  unfold State.raise
  cases Store.get none s.vecs vec with
  | none => exact (List.append_nil _).symm
  | some q => rfl

/-- Dwords written one after the other: what a register of the window outside them holds then, and what one of them. -/
theorem State.setWins_out (s : State) (off : Nat) (l : List DWord) (o : Nat) (h : o < off ∨ off + 8 * l.length ≤ o) :
    (s.setWins off l).winReg o = s.winReg o := by
  induction l generalizing s off with
  | nil => rfl
  | cons v l ih =>
    rw [State.setWins, ih _ _ (by simp only [List.length_cons] at h; omega), State.winReg_setWin, if_neg]
    simp only [List.length_cons] at h; omega

theorem State.setWins_at (s : State) (off : Nat) (l : List DWord) (k : Nat) (h : k < l.length) :
    (s.setWins off l).winReg (off + 8 * k) = l.getD k 0 := by
  induction l generalizing s off k with
  | nil => simp at h
  | cons v l ih =>
    cases k with
    | zero => rw [State.setWins, State.setWins_out _ _ _ _ (by omega), State.winReg_setWin, if_pos (by omega)]; rfl
    | succ k =>
      have e : off + 8 * (k + 1) = off + 8 + 8 * k := by omega
      rw [State.setWins, e, ih _ _ _ (by simpa using h)]; rfl

theorem State.setWins_frame (s : State) (off : Nat) (l : List DWord) : ∃ w, s.setWins off l = { s with win := w } := by
  induction l generalizing s off with
  | nil => exact ⟨_, rfl⟩
  | cons v l ih =>
    obtain ⟨w, h⟩ := ih (s.setWin off v) (off + 8)
    exact ⟨w, h⟩

/-! ### Answers (R385, R386) -/

/-- Taking the operating system's command moves CMDRD on, and CMDWR with it where it lay behind. -/
theorem State.takeCmd_os (s : State) (c : Cmd) (h : c.source = .os) :
    (∃ w, s.takeCmd c = { s with win := w }) ∧ (s.takeCmd c).winReg 0xC000 = s.cmdWrote c ∧
      ∀ o, o ≠ 0xC000 → (s.takeCmd c).winReg o = if o = 0xC008 then s.winReg o + 1 else s.winReg o := by
  unfold State.takeCmd State.cmdWrote
  rw [h]
  refine ⟨⟨_, rfl⟩, by simp, fun o ho => ?_⟩
  rw [State.winReg_setWin, if_neg ho, State.winReg_setWin]
  split
  · next e => rw [e]
  · rfl

/-- The operating system's response at slot RSPWR, which moves on, before the interrupt. -/
def State.said (s : State) (r : Resp) : State :=
  (({ s with resps := s.resps ++ [r] } : State).setWins s.respSlot r.dwords).setWin 0xC010 (s.winReg 0xC010 + 1)

theorem State.said_frame (s : State) (r : Resp) : ∃ w, s.said r = { s with win := w, resps := s.resps ++ [r] } := by
  obtain ⟨w, h⟩ := State.setWins_frame { s with resps := s.resps ++ [r] } s.respSlot r.dwords
  exact ⟨_, by unfold State.said; rw [h]; rfl⟩

theorem State.said_out (s : State) (r : Resp) (o : Nat) (h : o < s.respSlot ∨ s.respSlot + 64 ≤ o) :
    (s.said r).winReg o = if o = 0xC010 then s.winReg o + 1 else s.winReg o := by
  unfold State.said
  rw [State.winReg_setWin]
  split
  · next e => rw [e]
  · exact State.setWins_out { s with resps := s.resps ++ [r] } _ _ _ (by simpa [Resp.dwords] using h)

theorem State.said_at (s : State) (r : Resp) (k : Nat) (h : k < 8) : (s.said r).winReg (s.respSlot + 8 * k) = r.dwords.getD k 0 := by
  unfold State.said
  rw [State.winReg_setWin, if_neg (by unfold State.respSlot; omega)]
  exact State.setWins_at { s with resps := s.resps ++ [r] } _ _ _ (by simpa [Resp.dwords] using h)

/-- A command that is taken and answered: what the answer does, and that it does nothing else. -/
theorem State.answered (s : State) (c : Cmd) (status : Nat) (results : List Nat) (tail : List Byte) :
    s.Responds ((s.takeCmd c).respond c status results tail) c status results tail ∧
      s.unsaid ((s.takeCmd c).respond c status results tail) = s := by
  generalize hr : (⟨c.source, c.seq, c.opcode, status, results.map (BitVec.ofNat 64), tail⟩ : Resp) = r
  by_cases h : c.source = .os
  · obtain ⟨⟨w, hw⟩, h0, h8⟩ := s.takeCmd_os c h
    have e : (s.takeCmd c).respond c status results tail = ((s.takeCmd c).said r).raise 0 := by
      rw [← hr]; unfold State.respond State.said State.respSlot; rw [h]; rfl
    obtain ⟨w2, hw2⟩ := (s.takeCmd c).said_frame r
    have hv : (((s.takeCmd c).said r).raise 0).vecs = s.vecs := by rw [State.raise_frame, hw2, hw]
    have hs : ((s.takeCmd c).said r).vecs = s.vecs := by rw [hw2, hw]
    have hsl : (s.takeCmd c).respSlot = s.respSlot := by
      unfold State.respSlot; rw [h8 _ (by decide), if_neg (by decide)]
    have lo : s.respSlot + 64 ≤ 0xC000 := by unfold State.respSlot; omega
    have hi : 0x8000 ≤ s.respSlot := by unfold State.respSlot; omega
    have at_ (k : Nat) (hk : k < 8) : (((s.takeCmd c).said r).raise 0).winReg (s.respSlot + 8 * k) = r.dwords.getD k 0 := by
      rw [State.raise_winReg, if_neg (by omega), ← hsl, State.said_at _ _ _ hk]
    rw [e]
    refine ⟨⟨?_, fun _ => ⟨?_, fun k hk => ?_⟩, ?_, fun o h1 h2 => ?_, ?_⟩, ?_⟩
    · rw [State.raise_frame, hw2, hw, hr]
    · have := at_ 0 (by decide); simpa [Resp.dwords, ← hr] using this
    · rw [at_ (k + 1) (by omega), ← hr]
      simp [Resp.dwords, List.getD, hk]
    · rw [State.raise_winReg, if_neg (by omega), State.said_out _ _ _ (by rw [hsl]; omega), if_neg (by decide), h0]
    · have h2 := h2 h
      rw [State.raise_winReg, hs, State.said_out _ _ _ (by rw [hsl]; exact h2), hv, h8 o h1]
      by_cases a : o = 0xC020
      · subst a; simp [h]
      · by_cases b : o = 0xC010
        · subst b; simp [h]
        · by_cases d : o = 0xC008
          · subst d; simp [h]
          · simp [a, b, d]
    · rw [State.raise_msis, hs, hv, h]
      have : ((s.takeCmd c).said r).msis = s.msis := by rw [hw2, hw]
      rw [this]
      cases Store.get none s.vecs 0 <;> rfl
    · rw [State.raise_frame, hw2, hw]; rfl
  · have e : (s.takeCmd c).respond c status results tail = { s with resps := s.resps ++ [r] } := by
      unfold State.takeCmd State.respond
      cases hm : c.source with
      | os => exact absurd hm h
      | mgmt => rw [← hr, hm]
      | remote => rw [← hr, hm]
    rw [e]
    refine ⟨⟨by rw [hr], fun k => absurd k h, ?_, fun o _ _ => ?_, ?_⟩, rfl⟩
    · unfold State.cmdWrote; rw [if_neg (fun k => h k.1)]; rfl
    · rw [if_neg (fun k => h k.1)]; rfl
    · show s.msis = _
      split
      · next k _ => exact absurd k h
      · exact (List.append_nil _).symm

/-! ### The frame of a command (R385, R386) -/

/-- A command that meets its rule and whose arguments are in range has its effect, in the state that has taken it. -/
theorem cmdFrame_admits {s : State} {c : Cmd} {r : CmdRule} {go : State → State} (h : s.Admits c r) (hr : r.range = true) :
    cmdFrame r c s go = .next (go (s.takeCmd c)) := by
  have hout : (s.takeCmd c).outstanding c.source = s.outstanding c.source := by unfold State.takeCmd; cases c.source <;> rfl
  have hall : (s.takeCmd c).allowed r.who c.source = s.allowed r.who c.source := by
    unfold State.takeCmd; cases c.source <;> cases r.who <;> rfl
  have hpart : (s.takeCmd c).part (cmdPart c) = s.part (cmdPart c) := by unfold State.takeCmd; cases c.source <;> rfl
  have hsig : (r.signed && !(c.sigLen != 0 && c.sigOk)) = false := by
    cases hs : r.signed with
    | false => rfl
    | true =>
      obtain ⟨h1, h2⟩ := h.signed hs
      rw [h2, Bool.and_true, bne_iff_ne.2 h1]
      rfl
  have hlive : (decide (r.scope = 2) && !(s.part (cmdPart c)).live) = false := by
    by_cases hs : r.scope = 2
    · simp [hs, h.live hs]
    · simp [hs]
  unfold cmdFrame
  dsimp only
  rw [if_neg ?_, if_neg (by simp [h.record.2.2.1, h.record.2.2.2]), if_neg (by rw [hout]; exact Nat.not_le.2 h.room),
    if_neg (by rw [hall, h.issuer]; decide), if_neg (by rw [hsig]; decide), if_neg (by rw [h.scope, hr]; decide), if_neg ?_]
  · rw [hpart]
    intro hl
    rw [hlive] at hl
    cases hl
  · rw [h.heard]
    obtain ⟨h1, h2, -, -⟩ := h.record
    cases hs : r.sub with
    | none => simp [h1]
    | some k => simp [h1, h2 k hs]

end Sys2Proof.Machine
end

