-- ==== Sys2Proof/Laws/Memory.lean ====
section
/-! SUPPORT. Laws of memory: what the operations that write bytes leave of the state, what reading a byte gives after them, and
that each keeps memory in its canonical form. -/

namespace Sys2Proof.Machine

/-! ### Runs of bytes -/

theorem putByte_wf (m : List Host.Cell) (a : Nat) (bs : List Byte) (h : Memory.wf m = true) : Memory.wf (putByte m a bs) = true := by
  induction bs generalizing m a with
  | nil => exact h
  | cons b t ih => exact ih _ _ (Store.wf_set h)

/-- A byte of the run written reads as written, every other as before. -/
theorem get_putByte (m : List Host.Cell) (a : Nat) (bs : List Byte) (x : Nat) :
    Store.get 0 (putByte m a bs) x = if a ≤ x ∧ x < a + bs.length then bs.getD (x - a) 0 else Store.get 0 m x := by
  induction bs generalizing m a with
  | nil => simp only [putByte, List.length_nil, Nat.add_zero]; rw [if_neg (by omega)]
  | cons b t ih =>
    simp only [putByte, List.length_cons]
    rw [ih]
    by_cases hx : x = a
    · subst hx
      rw [if_neg (by omega), if_pos (by omega), Nat.sub_self, Store.get_set_self]; rfl
    · rw [Store.get_set_ne _ _ _ hx]
      by_cases hi : a + 1 ≤ x ∧ x < a + 1 + t.length
      · rw [if_pos hi, if_pos (by omega), show x - a = x - (a + 1) + 1 by omega]; rfl
      · rw [if_neg hi, if_neg (by omega)]

/-! ### Writes -/

/-- Folding steps that keep memory keeps memory. -/
theorem foldl_mem {α : Type} (f : State → α → State) (h : ∀ s x, (f s x).mem = s.mem) (l : List α) (s : State) : (l.foldl f s).mem = s.mem := by
  induction l generalizing s with
  | nil => rfl
  | cons x t ih => exact (ih _).trans (h s x)

@[simp] theorem State.poke_mem_mem (s : State) (a : Nat) (bs : List Byte) : (s.poke (.mem a) bs).mem = putByte s.mem a bs := rfl
@[simp] theorem State.poke_scr_mem (s : State) (u off : Nat) (bs : List Byte) : (s.poke (.scr u off) bs).mem = s.mem := rfl

theorem State.poke_reg_mem (s : State) (u off : Nat) (bs : List Byte) : (s.poke (.reg u off) bs).mem = s.mem := by
  refine foldl_mem _ (fun s x => ?_) _ s
  split <;> rfl

theorem State.poke_wf (s : State) (l : Loc) (bs : List Byte) (h : Memory.wf s.mem = true) : Memory.wf (s.poke l bs).mem = true := by
  cases l with
  | scr u off => exact h
  | mem a => exact putByte_wf _ _ _ h
  | reg u off => rw [State.poke_reg_mem]; exact h

@[simp] theorem State.clearPoison_mem (s : State) (l : Loc) (n : Nat) : (s.clearPoison l n).mem = s.mem := by cases l <;> rfl

/-- The state differs from `s` in its cores and sharers alone. -/
def State.Shares (s t : State) : Prop := ∃ cs sh, t = { s with cores := cs, sharers := sh }

theorem State.Shares.modCore {s t : State} (h : s.Shares t) (n : Nat) (f : Core → Core) : s.Shares (t.modCore n f) := by
  obtain ⟨cs, sh, rfl⟩ := h
  exact ⟨_, sh, rfl⟩

theorem State.Shares.foldl {s : State} {f : State → Nat → State} (hf : ∀ t k, s.Shares t → s.Shares (f t k)) (l : List Nat) {t : State}
    (h : s.Shares t) : s.Shares (l.foldl f t) := by
  induction l generalizing t with
  | nil => exact h
  | cons k r ih => exact ih (hf t k h)

/-- The invalidations of a write touch the sharers and the cores' queued invalidations alone (R94). -/
theorem State.invalidate_eq (s : State) (w : Option Nat) (ar : Option ArenaRef) (a : Nat) :
    ∃ cs sh, s.invalidate w ar a = { s with cores := cs, sharers := sh } := by
  have tail (u : State) (h : s.Shares u) (g : State → Nat → State) (hg : ∀ t k, s.Shares t → s.Shares (g t k)) (m : Store DWord) :
      s.Shares { (List.range 64).foldl g u with sharers := m } := by
    obtain ⟨cs, sh, e⟩ := State.Shares.foldl hg (List.range 64) h
    exact ⟨cs, m, by rw [e]⟩
  show s.Shares _
  unfold State.invalidate
  cases w with
  | none =>
    dsimp only
    split
    · exact ⟨s.cores, s.sharers, rfl⟩
    · refine tail s ⟨s.cores, s.sharers, rfl⟩ _ (fun t k ht => ?_) _
      split
      · exact ht.modCore _ _
      · exact ht
  | some w =>
    have h1 : s.Shares (s.applyInval w a) := State.Shares.modCore ⟨s.cores, s.sharers, rfl⟩ _ _
    dsimp only
    split
    · exact h1
    · refine tail _ h1 _ (fun t k ht => ?_) _
      split
      · exact ht.modCore _ _
      · exact ht

@[simp] theorem State.invalidate_mem (s : State) (w : Option Nat) (ar : Option ArenaRef) (a : Nat) : (s.invalidate w ar a).mem = s.mem := by
  obtain ⟨_, _, h⟩ := s.invalidate_eq w ar a
  rw [h]

/-- The byte masks of a write touch the pending and absent sectors alone (R314). -/
theorem State.maskFills_eq (s : State) (a n : Nat) : ∃ fl ab, s.maskFills a n = { s with fills := fl, absent := ab } := by
  have step (t : State) (k : Nat) (h : ∃ fl ab, t = { s with fills := fl, absent := ab }) :
      ∃ fl ab, t.maskSector a n k = { s with fills := fl, absent := ab } := by
    obtain ⟨fl, ab, rfl⟩ := h
    unfold State.maskSector
    dsimp only
    split <;> exact ⟨_, _, rfl⟩
  have fold (l : List Nat) : ∀ t : State, (∃ fl ab, t = { s with fills := fl, absent := ab }) →
      ∃ fl ab, l.foldl (fun s k => s.maskSector a n k) t = { s with fills := fl, absent := ab } := by
    induction l with
    | nil => exact fun t h => h
    | cons k r ih => exact fun t h => ih _ (step t k h)
  unfold State.maskFills
  split
  · exact ⟨_, _, rfl⟩
  · exact fold _ s ⟨_, _, rfl⟩

/-- The invalidations and byte masks of a write touch the caches, the sharers and the sectors alone. -/
theorem State.announce_eq (s : State) (w : Option Nat) (ar : Option ArenaRef) (l : Loc) (n : Nat) :
    ∃ cs sh fl ab, s.announce w ar l n = { s with cores := cs, sharers := sh, fills := fl, absent := ab } := by
  cases l with
  | mem a =>
    obtain ⟨cs, sh, e⟩ := State.Shares.foldl (s := s) (f := fun t k => t.invalidate w ar k)
      (fun t k ht => by
        obtain ⟨cs, sh, rfl⟩ := ht
        obtain ⟨cs', sh', h⟩ := State.invalidate_eq { s with cores := cs, sharers := sh } w ar k
        exact ⟨cs', sh', h⟩) (unitsOf 128 a n) ⟨s.cores, s.sharers, rfl⟩
    obtain ⟨fl, ab, h⟩ := State.maskFills_eq { s with cores := cs, sharers := sh } a n
    exact ⟨cs, sh, fl, ab, by simp only [State.announce, e, h]⟩
  | scr u o => exact ⟨_, _, _, _, rfl⟩
  | reg u o => exact ⟨_, _, _, _, rfl⟩

/-- What a write of memory at its home can do (R94, R314): the bytes and their history, the poison of whole sectors, the
invalidations and byte masks. -/
theorem State.homeWrite_mem_eq (s : State) (w : Option Nat) (ar : Option ArenaRef) (a : Nat) (bs : List Byte) :
    ∃ cs sh fl ab hi po, s.homeWrite w ar (.mem a) bs =
      { s with mem := putByte s.mem a bs, cores := cs, sharers := sh, fills := fl, absent := ab, writes := s.writes + 1, hist := hi
               poison := po } := by
  obtain ⟨cs, sh, fl, ab, h⟩ := s.announce_eq w ar (.mem a) bs.length
  unfold State.homeWrite
  rw [h]
  exact ⟨cs, sh, fl, ab, _, _, rfl⟩

@[simp] theorem State.homeWrite_mem_mem (s : State) (w : Option Nat) (ar : Option ArenaRef) (a : Nat) (bs : List Byte) :
    (s.homeWrite w ar (.mem a) bs).mem = putByte s.mem a bs := by
  obtain ⟨_, _, _, _, _, _, h⟩ := s.homeWrite_mem_eq w ar a bs
  rw [h]

@[simp] theorem State.homeWrite_scr_mem (s : State) (w : Option Nat) (ar : Option ArenaRef) (u off : Nat) (bs : List Byte) :
    (s.homeWrite w ar (.scr u off) bs).mem = s.mem := rfl

/-- The home write of a place keeps the canonical form. -/
theorem State.homeWrite_wf (s : State) (w : Option Nat) (ar : Option ArenaRef) (l : Loc) (bs : List Byte) (h : Memory.wf s.mem = true) :
    Memory.wf (s.homeWrite w ar l bs).mem = true := by
  cases l with
  | scr u off => exact h
  | mem a => rw [State.homeWrite_mem_mem]; exact putByte_wf _ _ _ h
  | reg u off => unfold State.homeWrite; rw [State.clearPoison_mem]; exact s.poke_wf _ _ h

/-- Reading a byte of memory after a write at its home. -/
theorem State.peek_homeWrite (s : State) (w : Option Nat) (ar : Option ArenaRef) (a : Nat) (bs : List Byte) (x : Nat) :
    (s.homeWrite w ar (.mem a) bs).peek (.mem x) = if a ≤ x ∧ x < a + bs.length then bs.getD (x - a) 0 else s.peek (.mem x) := by
  simp only [State.peek, State.homeWrite_mem_mem]
  exact get_putByte _ _ _ _

theorem State.wr64_wf (s : State) (a v : Nat) (h : Memory.wf s.mem = true) : Memory.wf (s.wr64 a v).mem = true := s.homeWrite_wf _ _ _ _ h

/-! ### The chimney's writes (R420, R424) -/

theorem State.ringWrite_wf (s : State) (p : PartRef) (r : ToolRing) (rec : List Byte) (h : Memory.wf s.mem = true) :
    Memory.wf (s.ringWrite p r rec).mem = true := by
  unfold State.ringWrite
  dsimp only
  split
  · refine State.wr64_wf _ _ _ (State.homeWrite_wf _ _ _ _ _ ?_)
    split
    · exact s.wr64_wf _ _ h
    · exact h
  · exact s.wr64_wf _ _ h

theorem State.sendFrame_wf (s : State) (u : Nat) (bs : List Byte) (h : Memory.wf s.mem = true) : Memory.wf (s.sendFrame u bs).mem = true := by
  unfold State.sendFrame
  dsimp only
  split <;> split
  · exact s.ringWrite_wf _ _ _ h
  · exact h
  · exact s.ringWrite_wf _ _ _ h
  · exact h

theorem State.streamBytes_wf (s : State) (u : Nat) (bs : List Byte) (h : Memory.wf s.mem = true) : Memory.wf (s.streamBytes u bs).mem = true := by
  have fold : ∀ (l : List Nat) (t : State) (g : Nat → List Byte), Memory.wf t.mem = true → Memory.wf (l.foldl (fun s k => s.sendFrame u (g k)) t).mem = true := by
    intro l
    induction l with
    | nil => intro t _ ht; exact ht
    | cons k r ih => intro t g ht; exact ih _ g (t.sendFrame_wf u _ ht)
  exact fold _ _ _ h

theorem State.writePacket_wf (s : State) (u cyc kind arg : Nat) (payload : List Byte) (h : Memory.wf s.mem = true) :
    Memory.wf (s.writePacket u cyc kind arg payload).mem = true := s.streamBytes_wf _ _ h

theorem State.emitAt_wf (s : State) (u cyc kind arg : Nat) (payload : List Byte) (h : Memory.wf s.mem = true) :
    Memory.wf (s.emitAt u cyc kind arg payload).mem = true := by
  unfold State.emitAt
  dsimp only [State.free]
  split
  · exact h
  · rw [apply_ite (fun t : State => Memory.wf t.mem)]
    split
    · exact h
    · exact State.writePacket_wf _ _ _ _ _ _ h

theorem State.holdPacket_wf (s : State) (u : Nat) (o : Option (Nat × Nat)) (kind arg : Nat) (payload : List Byte)
    (h : Memory.wf s.mem = true) : Memory.wf (s.holdPacket u o kind arg payload).mem = true := by
  unfold State.holdPacket
  split <;> exact h

theorem State.traceWhile_wf (s : State) (u : Nat) (ok : HeldPacket → Bool) (h : Memory.wf s.mem = true) :
    Memory.wf (s.traceWhile u ok).mem = true := by
  have fold (l : List HeldPacket) : ∀ t : State, Memory.wf t.mem = true →
      Memory.wf (l.foldl (fun (s : State) x => s.emitAt u x.cyc x.kind x.arg x.payload) t).mem = true := by
    induction l with
    | nil => exact fun t ht => ht
    | cons x r ih => exact fun t ht => ih _ (t.emitAt_wf u _ _ _ _ ht)
  unfold State.traceWhile
  dsimp only
  split
  · exact h
  · exact fold _ _ h

theorem State.emit_wf (s : State) (u kind arg : Nat) (payload : List Byte) (h : Memory.wf s.mem = true) :
    Memory.wf (s.emit u kind arg payload).mem = true :=
  State.holdPacket_wf _ _ _ _ _ _ (s.traceWhile_wf u _ h)

theorem State.packet_wf (s : State) (u tid kind arg : Nat) (payload : List Byte) (h : Memory.wf s.mem = true) :
    Memory.wf (s.packet u tid kind arg payload).mem = true := by
  unfold State.packet
  split
  · exact h
  · exact s.emit_wf _ _ _ _ h

/-- Memory after reset has the canonical form. -/
theorem State.reset_wf : Memory.wf State.reset.mem = true := rfl

end Sys2Proof.Machine
end

