-- ==== Sys2Proof/Laws/Ops.lean ====
section
/-! SUPPORT. Laws of the core's shared operations: which of them leave memory alone, that the others keep its canonical form, and
the four ways a fault is taken. -/

namespace Sys2Proof.Machine

/-! ### Operations that leave memory alone -/

@[simp] theorem State.log_mem (s : State) (kind source ldev part : Nat) (data : List Nat) : (s.log kind source ldev part data).mem = s.mem := rfl

@[simp] theorem State.logFault_mem (s : State) (c : Crew) (code dump : Nat) : (s.logFault c code dump).mem = s.mem := s.log_mem ..

@[simp] theorem State.modCrew_mem (s : State) (u : Nat) (f : Crew → Crew) : (s.modCrew u f).mem = s.mem := rfl
@[simp] theorem State.modThread_mem (s : State) (u k : Nat) (f : Thread → Thread) : (s.modThread u k f).mem = s.mem := rfl
@[simp] theorem State.modArch_mem (s : State) (u k : Nat) (f : Arch → Arch) : (s.modArch u k f).mem = s.mem := rfl
@[simp] theorem State.modSlot_mem (s : State) (p : PairRef) (f : Slot → Slot) : (s.modSlot p f).mem = s.mem := rfl

@[simp] theorem State.killCrews_mem (s : State) (src ldev task : Nat) (k : KillCause) : (s.killCrews src ldev task k).mem = s.mem := by
  simp only [State.killCrews, State.log_mem]

theorem State.killTask_mem (s : State) (src ldev task status : Nat) (k : KillCause) : (s.killTask src ldev task status k).mem = s.mem := by
  unfold State.killTask
  split
  · rfl
  · rw [State.modTask_mem, State.killCrews_mem]

@[simp] theorem State.fatal_mem (s : State) (p : PairRef) (r : TrapRec) : (s.fatal p r).mem = s.mem := by
  unfold State.fatal
  dsimp only
  repeat' split
  all_goals simp only [State.killCrews_mem, State.logFault_mem, State.modPart_mem, State.modTask_mem, State.modSlot_mem, State.modCrew_mem]

theorem State.withdraw_mem (s : State) (u gid : Nat) : (s.withdraw u gid).mem = s.mem := by
  unfold State.withdraw
  rw [State.modPart_mem, State.modCrew_mem]

theorem State.closeSpawns_mem (s : State) (u : Nat) : (s.closeSpawns u).mem = s.mem := by
  unfold State.closeSpawns
  dsimp only
  split
  · rfl
  · generalize List.filter _ (s.crew u).ready = l
    exact foldl_mem (fun (t : State) (e : Nat × Ready) => t.withdraw u e.1) (fun t e => t.withdraw_mem u e.1) l s

@[simp] theorem State.retireIdle_mem (s : State) (u : Nat) : (s.retireIdle u).mem = s.mem := by
  unfold State.retireIdle
  dsimp only
  split <;> rfl

@[simp] theorem State.setAbandon_mem (s : State) (u : Nat) : (s.setAbandon u).mem = s.mem := rfl

@[simp] theorem State.afterExit_mem (s : State) (u : Nat) : (s.afterExit u).mem = s.mem := by
  unfold State.afterExit
  rw [State.retireIdle_mem, State.closeSpawns_mem, State.modCrew_mem]

@[simp] theorem State.killConsumer_mem (s : State) (u k : Nat) : (s.killConsumer u k).mem = s.mem := by
  unfold State.killConsumer
  dsimp only
  split
  · rfl
  · rw [State.afterExit_mem, State.logFault_mem, State.modCrew_mem, State.setAbandon_mem, State.modThread_mem]

@[simp] theorem State.pend_mem (s : State) (p : PairRef) (f : FaultInfo) : (s.pend p f).mem = s.mem := by
  unfold State.pend
  dsimp only
  split
  · exact s.fatal_mem _ _
  · rw [State.modThread_mem]

theorem State.keepPast_mem (s : State) : (s.modThread s.cur.uid s.cur.tid Thread.keepPast).mem = s.mem := rfl

theorem State.passTo_mem (s : State) (c n : Nat) : (s.passTo c n).mem = s.mem := rfl

theorem State.drainWindow_mem (s : State) (u k : Nat) : (s.drainWindow u k).mem = s.mem := by
  unfold State.drainWindow; split <;> rfl

theorem State.enterWindow_mem (s : State) (u k eng : Nat) (caps : List Nat) : (s.enterWindow u k eng caps).mem = s.mem := by
  unfold State.enterWindow
  dsimp only
  repeat' split
  all_goals rfl

theorem State.suspend_mem (s : State) (w : Wait) : (s.suspend w).mem = s.mem := rfl

theorem State.wake_mem (s : State) (u : Nat) (p : Wait → Bool) (v w : DWord) : (s.wake u p v w).mem = s.mem := rfl

theorem State.wrBar_mem (s : State) (u off : Nat) (b : Bar) : (s.wrBar u off b).mem = s.mem := rfl

theorem State.accept_mem (s : State) (x : Ctx) (mk : Nat → Op) : (s.accept x mk).2.mem = s.mem := rfl

/-! ### Taking a fault (R391, R392, R394, R396) -/

/-- An intercepted fault of ordinary code enters firmware. -/
theorem State.take_firmware {s : State} {p : PairRef} {f : FaultInfo} (hdr : Word) (word : Nat) (hp : (s.slot p).priv = none)
    (hi : (s.crew p.uid).icept.getLsbD f.exc.code = true ∨ f.exc = .singleStep) :
    s.take p f hdr word = (s.modArch p.uid p.tid fun a => { a with trec := f.record hdr word (s.slot p).mask }).enterFirmware p
      (if f.exc == .singleStep then 3 else 2) hdr word := by
  have hp' : ((s.arch p.uid p.tid).slot p.slotB).priv = none := hp
  unfold State.take
  dsimp only
  rw [if_pos]
  · rfl
  · rw [hp']
    rcases hi with h | h <;> simp [h]

/-- A fault with no place to go is fatal: in privileged code, without a trap entry, or in a trap entry. -/
theorem State.take_fatal {s : State} {p : PairRef} {f : FaultInfo} (hdr : Word) (word : Nat)
    (hi : (s.slot p).priv = none → (s.crew p.uid).icept.getLsbD f.exc.code = false ∧ f.exc ≠ .singleStep)
    (h : (s.slot p).priv ≠ none ∨ (s.hdrOf (s.crew p.uid)).trapPc = Config.noneAddr ∨ (s.slot p).inTrap = true) :
    s.take p f hdr word = s.fatal p (f.record hdr word (s.slot p).mask) := by
  change (((s.arch p.uid p.tid).slot p.slotB).priv = none → _) at hi
  change (((s.arch p.uid p.tid).slot p.slotB).priv ≠ none ∨ _ ∨ ((s.arch p.uid p.tid).slot p.slotB).inTrap = true) at h
  unfold State.take
  dsimp only
  rw [if_neg, if_pos]
  · rfl
  · rcases h with h | h | h
    · rw [Option.isSome_iff_ne_none.2 h]; rfl
    · simp [h]
    · simp [h]
  · intro k
    rw [Bool.and_eq_true, Option.isNone_iff_eq_none, Bool.or_eq_true, beq_iff_eq] at k
    obtain ⟨h1, h2⟩ := hi k.1
    rcases k.2 with k2 | k2
    · rw [h1] at k2; cases k2
    · exact h2 k2

/-- A fault of ordinary code that may enter the trap entry does so. -/
theorem State.take_trap {s : State} {p : PairRef} {f : FaultInfo} (hdr : Word) (word : Nat) (hp : (s.slot p).priv = none)
    (hi : (s.crew p.uid).icept.getLsbD f.exc.code = false) (hs : f.exc ≠ .singleStep) (ht : (s.hdrOf (s.crew p.uid)).trapPc ≠ Config.noneAddr)
    (hx : (s.slot p).inTrap = false) (ho : isLead p.tid = true ∨ (s.slot ⟨p.uid, p.tid, !p.slotB⟩).inTrap = false) :
    s.take p f hdr word = s.enterTrap p (s.hdrOf (s.crew p.uid)).trapPc (f.record hdr word (s.slot p).mask) := by
  change ((s.arch p.uid p.tid).slot p.slotB).priv = none at hp
  change ((s.arch p.uid p.tid).slot p.slotB).inTrap = false at hx
  change isLead p.tid = true ∨ ((s.arch p.uid p.tid).slot (!p.slotB)).inTrap = false at ho
  unfold State.take
  dsimp only
  rw [if_neg, if_neg, if_neg]
  · rfl
  · rcases ho with h | h <;> simp [h]
  · simp [hp, hx, ht]
  · simp [hi, hs]

theorem State.take_wf (s : State) (p : PairRef) (f : FaultInfo) (hdr : Word) (word : Nat) (h : Memory.wf s.mem = true) :
    Memory.wf (s.take p f hdr word).mem = true := by
  unfold State.take
  dsimp only
  split
  · exact h
  · split
    · rw [State.fatal_mem]; exact h
    · split
      · exact h
      · exact State.packet_wf _ _ _ _ _ _ h

theorem State.faultWord_wf (s : State) (f : FaultInfo) (h : Memory.wf s.mem = true) : Memory.wf (s.faultWord f).mem = true :=
  State.take_wf _ _ _ _ _ (by rw [State.drainWindow_mem]; exact h)

/-! ### Store queues (R95, R208, R297) -/

/-- A private line that becomes dirty leaves memory as it was. -/
@[simp] theorem State.soil_mem (s : State) (core a n : Nat) : (s.soil core a n).mem = s.mem :=
  foldl_mem (fun s k => if (Store.get [] (s.core core).dirty k).isEmpty then
    let old := s.peekN (.mem (128 * k)) 128
    s.modCore core fun c => { c with dirty := Store.set [] c.dirty k old } else s) (fun t k => by dsimp only; split <;> rfl) _ s

theorem State.coreWrite_wf (s : State) (core : Nat) (priv : Bool) (ar : Option ArenaRef) (l : Loc) (bs : List Byte)
    (h : Memory.wf s.mem = true) : Memory.wf (s.coreWrite core priv ar l bs).mem = true := by
  unfold State.coreWrite
  refine State.homeWrite_wf _ _ _ _ _ ?_
  cases l with
  | mem a =>
    dsimp only
    split
    · rw [State.soil_mem]; exact h
    · exact h
  | scr u o => exact h
  | reg u o => exact h

@[simp] theorem State.awaitFill_mem (s : State) (l : Loc) (n : Nat) : (s.awaitFill l n).mem = s.mem := by
  unfold State.awaitFill
  split <;> rfl

theorem State.performLane_wf (s : State) (u : Nat) (w : PendWrite) (l : LaneWrite) (h : Memory.wf s.mem = true) :
    Memory.wf (s.performLane u w l).2.mem = true := by
  unfold State.performLane
  dsimp only
  repeat' split
  all_goals first | exact h | (rw [State.awaitFill_mem]; exact h) | exact State.coreWrite_wf _ _ _ _ _ _ (by
    first | exact h | (rw [State.awaitFill_mem]; exact h))

theorem State.performHead_wf (s : State) (u k : Nat) (die : Option Nat) (h : Memory.wf s.mem = true) :
    Memory.wf (s.performHead u k die).mem = true := by
  unfold State.performHead
  split
  · exact h
  · split
    · exact h
    · next w _ _ l rest _ =>
      have h1 : Memory.wf (if (w.kind != .store && s.poisoned l.loc l.bytes.length) = true then
          ((none : Option Exc), if w.gone then s else s.killConsumer u k) else s.performLane u w l).2.mem = true := by
        split
        · dsimp only; split
          · exact h
          · rw [State.killConsumer_mem]; exact h
        · exact s.performLane_wf _ _ _ h
      generalize hx : (if (w.kind != .store && s.poisoned l.loc l.bytes.length) = true then
          ((none : Option Exc), if w.gone then s else s.killConsumer u k) else s.performLane u w l) = x at h1
      dsimp only
      rw [hx]
      generalize hy : (if ((w.kind != .store && s.poisoned l.loc l.bytes.length) || x.1.isSome || w.gone) = true then x.2
          else x.2.modThread u k fun t => t.saw l.loc l.bytes.length x.2.writes) = y
      have h2 : Memory.wf y.mem = true := by
        rw [← hy]; split
        · exact h1
        · rw [State.modThread_mem]; exact h1
      repeat' split
      all_goals first
        | (rw [State.modThread_mem]; exact h2)
        | (rw [State.pend_mem, State.modThread_mem]; exact h2)
        | (rw [State.fatal_mem, State.modThread_mem]; exact h2)

theorem performN_wf (f : State → State) (hf : ∀ s, Memory.wf s.mem = true → Memory.wf (f s).mem = true) (n : Nat) (s : State)
    (h : Memory.wf s.mem = true) : Memory.wf (performN n f s).mem = true := by
  induction n generalizing s with
  | zero => exact h
  | succ n ih => exact ih _ (hf _ h)

theorem State.drain_wf (s : State) (u k : Nat) (die : Option Nat) (h : Memory.wf s.mem = true) : Memory.wf (s.drain u k die).mem = true :=
  performN_wf _ (fun t ht => t.performHead_wf u k die ht) _ _ h

theorem State.drainLocal_wf (s : State) (u k : Nat) (h : Memory.wf s.mem = true) : Memory.wf (s.drainLocal u k).mem = true := s.drain_wf _ _ _ h

theorem State.drainAll_wf (s : State) (u k : Nat) (h : Memory.wf s.mem = true) : Memory.wf (s.drainAll u k).mem = true := by
  simp only [State.drainAll, List.foldl]
  exact State.drain_wf _ _ _ _ (State.drain_wf _ _ _ _ (State.drain_wf _ _ _ _ (State.drain_wf _ _ _ _ (s.drain_wf _ _ _ h))))

/-! ### Barriers, completions, clause ends -/

theorem State.arriveBar_wf (s : State) (u off n : Nat) (h : Memory.wf s.mem = true) : Memory.wf (s.arriveBar u off n).2.mem = true := by
  have hw (b : Bar) : Memory.wf (s.wrBar u off b).mem = true := h
  unfold State.arriveBar
  dsimp only
  repeat' split
  all_goals first
    | exact hw _
    | (dsimp only [State.wakeBar]; rw [State.wake_mem]; exact State.emit_wf _ _ _ _ _ (hw _))

theorem State.finishOp_wf (s : State) (o : OpRef) (op : Op) (count : Nat) (err : Option FaultInfo) (r : Option OpRecord)
    (h : Memory.wf s.mem = true) : Memory.wf (s.finishOp o op count err r).mem = true := by
  have h1 : Memory.wf (match err, op.bar with
      | none, some off => s.arriveBar o.uid off count
      | _, _ => (true, s)).2.mem = true := by
    split
    · exact s.arriveBar_wf _ _ _ h
    · exact h
  unfold State.finishOp
  dsimp only
  split
  · split
    · exact h1
    · rw [State.pend_mem]; exact h1
  · exact h1

theorem State.countStep_wf (s : State) (p : PairRef) (h : Memory.wf s.mem = true) : Memory.wf (s.countStep p).mem = true := by
  unfold State.countStep
  dsimp only
  repeat' split
  all_goals first | exact h | exact State.take_wf _ _ _ _ _ h

theorem State.clauseEnd_wf (s : State) (p : PairRef) (h : Memory.wf s.mem = true) : Memory.wf (s.clauseEnd p).mem = true :=
  State.countStep_wf _ _ h

/-- What the meaning of a word leaves is the state that its answer holds. -/
def Res.state : Res → State
  | .done s => s
  | .goto s _ _ => s
  | .placed s => s
  | .block s _ => s
  | .trap s _ => s

theorem State.settle_wf (s : State) (old : Bool) (r : Res) (h : Memory.wf r.state.mem = true) : Memory.wf (s.settle old r).mem = true := by
  cases r with
  | done t =>
    simp only [State.settle, State.advance]
    split
    · exact h
    · exact State.clauseEnd_wf _ _ h
  | goto t pc clears => exact State.clauseEnd_wf _ _ h
  | placed t => exact h
  | block t w => cases old <;> exact h
  | trap t f => exact t.faultWord_wf f h

/-- A word keeps memory in its canonical form where its meaning does. -/
theorem runWord_wf (i : WordInfo) (body : State → Res) (hb : ∀ s, Memory.wf s.mem = true → Memory.wf (body s).state.mem = true) (s t : State)
    (h : Memory.wf s.mem = true) (ht : runWord i body s = .next t) : Memory.wf t.mem = true := by
  unfold runWord at ht
  split at ht
  · cases ht
  · split at ht
    · cases ht; exact s.faultWord_wf _ h
    · split at ht
      · cases ht; exact h
      · split at ht
        · cases ht; exact h
        · cases ht
          refine State.settle_wf _ _ _ (hb _ ?_)
          split
          · rw [State.drainWindow_mem]; exact h
          · rw [State.enterWindow_mem]; exact h

end Sys2Proof.Machine
end

