-- ==== Sys2Proof/Laws/PerInstr.lean ====
section
/-! SUPPORT. The case split over `Instr` for statements about encodings: the word that `encode` gives an instruction of a
class reads back, by that class's opcode table, as the instruction (R67, R78). -/

namespace Sys2Proof.Laws

set_option Elab.async false

/-! ### The formats: a packed word has its opcode and its fields (R67) -/

theorem opcodeOf_packVR (op : BitVec 7) (f : FmtVR) : opcodeOf (packVR op f) = op := BitVec.extractLsb'_append_eq_left

theorem unpackVR_packVR (op : BitVec 7) (f : FmtVR) : unpackVR (packVR op f) = f := by
  cases f
  simp only [unpackVR, packVR, FmtVR.mk.injEq]
  refine ⟨?_, ?_, ?_, ?_, ?_, ?_⟩ <;>
    rw [BitVec.extractLsb'_append_eq_of_add_le (by decide)] <;>
    (repeat rw [BitVec.extractLsb'_append_eq_of_le (by decide)]) <;>
    first | exact BitVec.extractLsb'_append_eq_right | exact BitVec.extractLsb'_eq_self

theorem opcodeOf_packVI (op : BitVec 7) (f : FmtVI) : opcodeOf (packVI op f) = op := BitVec.extractLsb'_append_eq_left

theorem unpackVI_packVI (op : BitVec 7) (f : FmtVI) : unpackVI (packVI op f) = f := by
  cases f
  simp only [unpackVI, packVI, FmtVI.mk.injEq]
  refine ⟨?_, ?_, ?_, ?_⟩ <;>
    rw [BitVec.extractLsb'_append_eq_of_add_le (by decide)] <;>
    (repeat rw [BitVec.extractLsb'_append_eq_of_le (by decide)]) <;>
    first | exact BitVec.extractLsb'_append_eq_right | exact BitVec.extractLsb'_eq_self

theorem opcodeOf_packVX (op : BitVec 7) (f : FmtVX) : opcodeOf (packVX op f) = op := BitVec.extractLsb'_append_eq_left

theorem unpackVX_packVX (op : BitVec 7) (f : FmtVX) : unpackVX (packVX op f) = f := by
  cases f
  simp only [unpackVX, packVX, FmtVX.mk.injEq]
  refine ⟨?_, ?_, ?_, ?_, ?_⟩ <;>
    rw [BitVec.extractLsb'_append_eq_of_add_le (by decide)] <;>
    (repeat rw [BitVec.extractLsb'_append_eq_of_le (by decide)]) <;>
    first | exact BitVec.extractLsb'_append_eq_right | exact BitVec.extractLsb'_eq_self

theorem opcodeOf_packVP (op : BitVec 7) (f : FmtVP) : opcodeOf (packVP op f) = op := BitVec.extractLsb'_append_eq_left

theorem unpackVP_packVP (op : BitVec 7) (f : FmtVP) : unpackVP (packVP op f) = f := by
  cases f
  simp only [unpackVP, packVP, FmtVP.mk.injEq]
  refine ⟨?_, ?_, ?_, ?_, ?_, ?_⟩ <;>
    rw [BitVec.extractLsb'_append_eq_of_add_le (by decide)] <;>
    (repeat rw [BitVec.extractLsb'_append_eq_of_le (by decide)]) <;>
    first | exact BitVec.extractLsb'_append_eq_right | exact BitVec.extractLsb'_eq_self

theorem opcodeOf_packVS (op : BitVec 7) (f : FmtVS) : opcodeOf (packVS op f) = op := BitVec.extractLsb'_append_eq_left

theorem unpackVS_packVS (op : BitVec 7) (f : FmtVS) : unpackVS (packVS op f) = f := by
  cases f
  simp only [unpackVS, packVS, FmtVS.mk.injEq]
  refine ⟨?_, ?_, ?_, ?_⟩ <;>
    rw [BitVec.extractLsb'_append_eq_of_add_le (by decide)] <;>
    (repeat rw [BitVec.extractLsb'_append_eq_of_le (by decide)]) <;>
    first | exact BitVec.extractLsb'_append_eq_right | exact BitVec.extractLsb'_eq_self

theorem opcodeOf_packSR (op : BitVec 7) (f : FmtSR) : opcodeOf (packSR op f) = op := BitVec.extractLsb'_append_eq_left

theorem unpackSR_packSR (op : BitVec 7) (f : FmtSR) : unpackSR (packSR op f) = f := by
  cases f
  simp only [unpackSR, packSR, FmtSR.mk.injEq]
  refine ⟨?_, ?_, ?_, ?_⟩ <;>
    rw [BitVec.extractLsb'_append_eq_of_add_le (by decide)] <;>
    (repeat rw [BitVec.extractLsb'_append_eq_of_le (by decide)]) <;>
    first | exact BitVec.extractLsb'_append_eq_right | exact BitVec.extractLsb'_eq_self

theorem opcodeOf_packSI (op : BitVec 7) (f : FmtSI) : opcodeOf (packSI op f) = op := BitVec.extractLsb'_append_eq_left

theorem unpackSI_packSI (op : BitVec 7) (f : FmtSI) : unpackSI (packSI op f) = f := by
  cases f
  simp only [unpackSI, packSI, FmtSI.mk.injEq]
  refine ⟨?_, ?_, ?_⟩ <;>
    rw [BitVec.extractLsb'_append_eq_of_add_le (by decide)] <;>
    (repeat rw [BitVec.extractLsb'_append_eq_of_le (by decide)]) <;>
    first | exact BitVec.extractLsb'_append_eq_right | exact BitVec.extractLsb'_eq_self

theorem opcodeOf_packSL (op : BitVec 7) (f : FmtSL) : opcodeOf (packSL op f) = op := BitVec.extractLsb'_append_eq_left

theorem unpackSL_packSL (op : BitVec 7) (f : FmtSL) : unpackSL (packSL op f) = f := by
  cases f
  simp only [unpackSL, packSL, FmtSL.mk.injEq]
  refine ⟨?_, ?_⟩ <;>
    rw [BitVec.extractLsb'_append_eq_of_add_le (by decide)] <;>
    (repeat rw [BitVec.extractLsb'_append_eq_of_le (by decide)]) <;>
    first | exact BitVec.extractLsb'_append_eq_right | exact BitVec.extractLsb'_eq_self

theorem opcodeOf_packMV (op : BitVec 7) (f : FmtMV) : opcodeOf (packMV op f) = op := BitVec.extractLsb'_append_eq_left

theorem unpackMV_packMV (op : BitVec 7) (f : FmtMV) : unpackMV (packMV op f) = f := by
  cases f
  simp only [unpackMV, packMV, FmtMV.mk.injEq]
  refine ⟨?_, ?_, ?_, ?_, ?_, ?_, ?_, ?_⟩ <;>
    rw [BitVec.extractLsb'_append_eq_of_add_le (by decide)] <;>
    (repeat rw [BitVec.extractLsb'_append_eq_of_le (by decide)]) <;>
    first | exact BitVec.extractLsb'_append_eq_right | exact BitVec.extractLsb'_eq_self

theorem opcodeOf_packMA (op : BitVec 7) (f : FmtMA) : opcodeOf (packMA op f) = op := BitVec.extractLsb'_append_eq_left

theorem unpackMA_packMA (op : BitVec 7) (f : FmtMA) : unpackMA (packMA op f) = f := by
  cases f
  simp only [unpackMA, packMA, FmtMA.mk.injEq]
  refine ⟨?_, ?_, ?_, ?_, ?_⟩ <;>
    rw [BitVec.extractLsb'_append_eq_of_add_le (by decide)] <;>
    (repeat rw [BitVec.extractLsb'_append_eq_of_le (by decide)]) <;>
    first | exact BitVec.extractLsb'_append_eq_right | exact BitVec.extractLsb'_eq_self

theorem opcodeOf_packMS (op : BitVec 7) (f : FmtMS) : opcodeOf (packMS op f) = op := BitVec.extractLsb'_append_eq_left

theorem unpackMS_packMS (op : BitVec 7) (f : FmtMS) : unpackMS (packMS op f) = f := by
  cases f
  simp only [unpackMS, packMS, FmtMS.mk.injEq]
  refine ⟨?_, ?_, ?_, ?_, ?_, ?_⟩ <;>
    rw [BitVec.extractLsb'_append_eq_of_add_le (by decide)] <;>
    (repeat rw [BitVec.extractLsb'_append_eq_of_le (by decide)]) <;>
    first | exact BitVec.extractLsb'_append_eq_right | exact BitVec.extractLsb'_eq_self

theorem opcodeOf_packSA (op : BitVec 7) (f : FmtSA) : opcodeOf (packSA op f) = op := BitVec.extractLsb'_append_eq_left

theorem unpackSA_packSA (op : BitVec 7) (f : FmtSA) : unpackSA (packSA op f) = f := by
  cases f
  simp only [unpackSA, packSA, FmtSA.mk.injEq]
  refine ⟨?_, ?_, ?_, ?_, ?_⟩ <;>
    rw [BitVec.extractLsb'_append_eq_of_add_le (by decide)] <;>
    (repeat rw [BitVec.extractLsb'_append_eq_of_le (by decide)]) <;>
    first | exact BitVec.extractLsb'_append_eq_right | exact BitVec.extractLsb'_eq_self

theorem opcodeOf_packMB (op : BitVec 7) (f : FmtMB) : opcodeOf (packMB op f) = op := BitVec.extractLsb'_append_eq_left

theorem unpackMB_packMB (op : BitVec 7) (f : FmtMB) : unpackMB (packMB op f) = f := by
  cases f
  simp only [unpackMB, packMB, FmtMB.mk.injEq]
  refine ⟨?_, ?_, ?_⟩ <;>
    rw [BitVec.extractLsb'_append_eq_of_add_le (by decide)] <;>
    (repeat rw [BitVec.extractLsb'_append_eq_of_le (by decide)]) <;>
    first | exact BitVec.extractLsb'_append_eq_right | exact BitVec.extractLsb'_eq_self

theorem opcodeOf_packMF (op : BitVec 7) (f : FmtMF) : opcodeOf (packMF op f) = op := BitVec.extractLsb'_append_eq_left

theorem unpackMF_packMF (op : BitVec 7) (f : FmtMF) : unpackMF (packMF op f) = f := by
  cases f
  simp only [unpackMF, packMF, FmtMF.mk.injEq]
  refine ⟨?_, ?_, ?_⟩ <;>
    rw [BitVec.extractLsb'_append_eq_of_add_le (by decide)] <;>
    (repeat rw [BitVec.extractLsb'_append_eq_of_le (by decide)]) <;>
    first | exact BitVec.extractLsb'_append_eq_right | exact BitVec.extractLsb'_eq_self

theorem opcodeOf_packCB (op : BitVec 7) (f : FmtCB) : opcodeOf (packCB op f) = op := BitVec.extractLsb'_append_eq_left

theorem unpackCB_packCB (op : BitVec 7) (f : FmtCB) : unpackCB (packCB op f) = f := by
  cases f
  simp only [unpackCB, packCB, FmtCB.mk.injEq]
  refine ⟨?_, ?_, ?_⟩ <;>
    rw [BitVec.extractLsb'_append_eq_of_add_le (by decide)] <;>
    (repeat rw [BitVec.extractLsb'_append_eq_of_le (by decide)]) <;>
    first | exact BitVec.extractLsb'_append_eq_right | exact BitVec.extractLsb'_eq_self

theorem opcodeOf_packCC (op : BitVec 7) (f : FmtCC) : opcodeOf (packCC op f) = op := BitVec.extractLsb'_append_eq_left

theorem unpackCC_packCC (op : BitVec 7) (f : FmtCC) : unpackCC (packCC op f) = f := by
  cases f
  simp only [unpackCC, packCC, FmtCC.mk.injEq]
  refine ⟨?_, ?_, ?_, ?_⟩ <;>
    rw [BitVec.extractLsb'_append_eq_of_add_le (by decide)] <;>
    (repeat rw [BitVec.extractLsb'_append_eq_of_le (by decide)]) <;>
    first | exact BitVec.extractLsb'_append_eq_right | exact BitVec.extractLsb'_eq_self

theorem opcodeOf_packCR (op : BitVec 7) (f : FmtCR) : opcodeOf (packCR op f) = op := BitVec.extractLsb'_append_eq_left

theorem unpackCR_packCR (op : BitVec 7) (f : FmtCR) : unpackCR (packCR op f) = f := by
  cases f
  simp only [unpackCR, packCR, FmtCR.mk.injEq]
  refine ⟨?_, ?_⟩ <;>
    rw [BitVec.extractLsb'_append_eq_of_add_le (by decide)] <;>
    (repeat rw [BitVec.extractLsb'_append_eq_of_le (by decide)]) <;>
    first | exact BitVec.extractLsb'_append_eq_right | exact BitVec.extractLsb'_eq_self

theorem opcodeOf_packCQ (op : BitVec 7) (f : FmtCQ) : opcodeOf (packCQ op f) = op := BitVec.extractLsb'_append_eq_left

theorem unpackCQ_packCQ (op : BitVec 7) (f : FmtCQ) : unpackCQ (packCQ op f) = f := by
  cases f
  simp only [unpackCQ, packCQ, FmtCQ.mk.injEq]
  refine ⟨?_, ?_⟩ <;>
    rw [BitVec.extractLsb'_append_eq_of_add_le (by decide)] <;>
    (repeat rw [BitVec.extractLsb'_append_eq_of_le (by decide)]) <;>
    first | exact BitVec.extractLsb'_append_eq_right | exact BitVec.extractLsb'_eq_self

theorem opcodeOf_packEB (op : BitVec 7) (f : FmtEB) : opcodeOf (packEB op f) = op := BitVec.extractLsb'_append_eq_left

theorem unpackEB_packEB (op : BitVec 7) (f : FmtEB) : unpackEB (packEB op f) = f := by
  cases f
  simp only [unpackEB, packEB, FmtEB.mk.injEq]
  refine ⟨?_, ?_, ?_, ?_⟩ <;>
    rw [BitVec.extractLsb'_append_eq_of_add_le (by decide)] <;>
    (repeat rw [BitVec.extractLsb'_append_eq_of_le (by decide)]) <;>
    first | exact BitVec.extractLsb'_append_eq_right | exact BitVec.extractLsb'_eq_self

/-! ### One lemma for each constructor -/

/-- The word of `i` reads back as `i` from the opcode table of its class; steps without an encoding have no class. -/
def ReadsBack.Statement (i : Instr) : Prop := ∀ c, i.cls? = some c → decodeRaw c (encode i) = some i

theorem ReadsBack.vmov (f : FmtVR) : ReadsBack.Statement (.vmov f) := by
  intro c h; cases h; show decodeVec (packVR 0x00 f) = _; unfold decodeVec; rw [opcodeOf_packVR, unpackVR_packVR]; rfl
theorem ReadsBack.vmovi (f : FmtVI) : ReadsBack.Statement (.vmovi f) := by
  intro c h; cases h; show decodeVec (packVI 0x01 f) = _; unfold decodeVec; rw [opcodeOf_packVI, unpackVI_packVI]; rfl
theorem ReadsBack.vadd (f : FmtVR) : ReadsBack.Statement (.vadd f) := by
  intro c h; cases h; show decodeVec (packVR 0x02 f) = _; unfold decodeVec; rw [opcodeOf_packVR, unpackVR_packVR]; rfl
theorem ReadsBack.vsub (f : FmtVR) : ReadsBack.Statement (.vsub f) := by
  intro c h; cases h; show decodeVec (packVR 0x03 f) = _; unfold decodeVec; rw [opcodeOf_packVR, unpackVR_packVR]; rfl
theorem ReadsBack.vadds (f : FmtVR) : ReadsBack.Statement (.vadds f) := by
  intro c h; cases h; show decodeVec (packVR 0x04 f) = _; unfold decodeVec; rw [opcodeOf_packVR, unpackVR_packVR]; rfl
theorem ReadsBack.vsubs (f : FmtVR) : ReadsBack.Statement (.vsubs f) := by
  intro c h; cases h; show decodeVec (packVR 0x05 f) = _; unfold decodeVec; rw [opcodeOf_packVR, unpackVR_packVR]; rfl
theorem ReadsBack.vmul (f : FmtVR) : ReadsBack.Statement (.vmul f) := by
  intro c h; cases h; show decodeVec (packVR 0x06 f) = _; unfold decodeVec; rw [opcodeOf_packVR, unpackVR_packVR]; rfl
theorem ReadsBack.vmulhi (f : FmtVR) : ReadsBack.Statement (.vmulhi f) := by
  intro c h; cases h; show decodeVec (packVR 0x07 f) = _; unfold decodeVec; rw [opcodeOf_packVR, unpackVR_packVR]; rfl
theorem ReadsBack.vmad (f : FmtVR) : ReadsBack.Statement (.vmad f) := by
  intro c h; cases h; show decodeVec (packVR 0x08 f) = _; unfold decodeVec; rw [opcodeOf_packVR, unpackVR_packVR]; rfl
theorem ReadsBack.vmin (f : FmtVR) : ReadsBack.Statement (.vmin f) := by
  intro c h; cases h; show decodeVec (packVR 0x09 f) = _; unfold decodeVec; rw [opcodeOf_packVR, unpackVR_packVR]; rfl
theorem ReadsBack.vmax (f : FmtVR) : ReadsBack.Statement (.vmax f) := by
  intro c h; cases h; show decodeVec (packVR 0x0a f) = _; unfold decodeVec; rw [opcodeOf_packVR, unpackVR_packVR]; rfl
theorem ReadsBack.vabsd (f : FmtVR) : ReadsBack.Statement (.vabsd f) := by
  intro c h; cases h; show decodeVec (packVR 0x0b f) = _; unfold decodeVec; rw [opcodeOf_packVR, unpackVR_packVR]; rfl
theorem ReadsBack.vand (f : FmtVR) : ReadsBack.Statement (.vand f) := by
  intro c h; cases h; show decodeVec (packVR 0x0c f) = _; unfold decodeVec; rw [opcodeOf_packVR, unpackVR_packVR]; rfl
theorem ReadsBack.vor (f : FmtVR) : ReadsBack.Statement (.vor f) := by
  intro c h; cases h; show decodeVec (packVR 0x0d f) = _; unfold decodeVec; rw [opcodeOf_packVR, unpackVR_packVR]; rfl
theorem ReadsBack.vxor (f : FmtVR) : ReadsBack.Statement (.vxor f) := by
  intro c h; cases h; show decodeVec (packVR 0x0e f) = _; unfold decodeVec; rw [opcodeOf_packVR, unpackVR_packVR]; rfl
theorem ReadsBack.vandn (f : FmtVR) : ReadsBack.Statement (.vandn f) := by
  intro c h; cases h; show decodeVec (packVR 0x0f f) = _; unfold decodeVec; rw [opcodeOf_packVR, unpackVR_packVR]; rfl
theorem ReadsBack.vshl (f : FmtVR) : ReadsBack.Statement (.vshl f) := by
  intro c h; cases h; show decodeVec (packVR 0x10 f) = _; unfold decodeVec; rw [opcodeOf_packVR, unpackVR_packVR]; rfl
theorem ReadsBack.vshr (f : FmtVR) : ReadsBack.Statement (.vshr f) := by
  intro c h; cases h; show decodeVec (packVR 0x11 f) = _; unfold decodeVec; rw [opcodeOf_packVR, unpackVR_packVR]; rfl
theorem ReadsBack.vrot (f : FmtVR) : ReadsBack.Statement (.vrot f) := by
  intro c h; cases h; show decodeVec (packVR 0x12 f) = _; unfold decodeVec; rw [opcodeOf_packVR, unpackVR_packVR]; rfl
theorem ReadsBack.vbfe (f : FmtVR) : ReadsBack.Statement (.vbfe f) := by
  intro c h; cases h; show decodeVec (packVR 0x13 f) = _; unfold decodeVec; rw [opcodeOf_packVR, unpackVR_packVR]; rfl
theorem ReadsBack.vbfi (f : FmtVR) : ReadsBack.Statement (.vbfi f) := by
  intro c h; cases h; show decodeVec (packVR 0x14 f) = _; unfold decodeVec; rw [opcodeOf_packVR, unpackVR_packVR]; rfl
theorem ReadsBack.vpopc (f : FmtVR) : ReadsBack.Statement (.vpopc f) := by
  intro c h; cases h; show decodeVec (packVR 0x15 f) = _; unfold decodeVec; rw [opcodeOf_packVR, unpackVR_packVR]; rfl
theorem ReadsBack.vclz (f : FmtVR) : ReadsBack.Statement (.vclz f) := by
  intro c h; cases h; show decodeVec (packVR 0x16 f) = _; unfold decodeVec; rw [opcodeOf_packVR, unpackVR_packVR]; rfl
theorem ReadsBack.vbrev (f : FmtVR) : ReadsBack.Statement (.vbrev f) := by
  intro c h; cases h; show decodeVec (packVR 0x17 f) = _; unfold decodeVec; rw [opcodeOf_packVR, unpackVR_packVR]; rfl
theorem ReadsBack.vsel (f : FmtVR) : ReadsBack.Statement (.vsel f) := by
  intro c h; cases h; show decodeVec (packVR 0x18 f) = _; unfold decodeVec; rw [opcodeOf_packVR, unpackVR_packVR]; rfl
theorem ReadsBack.vaddi (f : FmtVI) : ReadsBack.Statement (.vaddi f) := by
  intro c h; cases h; show decodeVec (packVI 0x19 f) = _; unfold decodeVec; rw [opcodeOf_packVI, unpackVI_packVI]; rfl
theorem ReadsBack.vandi (f : FmtVI) : ReadsBack.Statement (.vandi f) := by
  intro c h; cases h; show decodeVec (packVI 0x1a f) = _; unfold decodeVec; rw [opcodeOf_packVI, unpackVI_packVI]; rfl
theorem ReadsBack.vshli (f : FmtVI) : ReadsBack.Statement (.vshli f) := by
  intro c h; cases h; show decodeVec (packVI 0x1b f) = _; unfold decodeVec; rw [opcodeOf_packVI, unpackVI_packVI]; rfl
theorem ReadsBack.vshri (f : FmtVI) : ReadsBack.Statement (.vshri f) := by
  intro c h; cases h; show decodeVec (packVI 0x1c f) = _; unfold decodeVec; rw [opcodeOf_packVI, unpackVI_packVI]; rfl
theorem ReadsBack.vacs (f : FmtVX) : ReadsBack.Statement (.vacs f) := by
  intro c h; cases h; show decodeVec (packVX 0x1d f) = _; unfold decodeVec; rw [opcodeOf_packVX, unpackVX_packVX]; rfl
theorem ReadsBack.vhsel (f : FmtVX) : ReadsBack.Statement (.vhsel f) := by
  intro c h; cases h; show decodeVec (packVX 0x1e f) = _; unfold decodeVec; rw [opcodeOf_packVX, unpackVX_packVX]; rfl
theorem ReadsBack.vperm (f : FmtVR) : ReadsBack.Statement (.vperm f) := by
  intro c h; cases h; show decodeVec (packVR 0x1f f) = _; unfold decodeVec; rw [opcodeOf_packVR, unpackVR_packVR]; rfl
theorem ReadsBack.vshfl (f : FmtVI) : ReadsBack.Statement (.vshfl f) := by
  intro c h; cases h; show decodeVec (packVI 0x20 f) = _; unfold decodeVec; rw [opcodeOf_packVI, unpackVI_packVI]; rfl
theorem ReadsBack.vred (f : FmtVS) : ReadsBack.Statement (.vred f) := by
  intro c h; cases h; show decodeVec (packVS 0x21 f) = _; unfold decodeVec; rw [opcodeOf_packVS, unpackVS_packVS]; rfl
theorem ReadsBack.vscan (f : FmtVR) : ReadsBack.Statement (.vscan f) := by
  intro c h; cases h; show decodeVec (packVR 0x22 f) = _; unfold decodeVec; rw [opcodeOf_packVR, unpackVR_packVR]; rfl
theorem ReadsBack.vmovs (f : FmtVS) : ReadsBack.Statement (.vmovs f) := by
  intro c h; cases h; show decodeVec (packVS 0x23 f) = _; unfold decodeVec; rw [opcodeOf_packVS, unpackVS_packVS]; rfl
theorem ReadsBack.vrdl (f : FmtVS) : ReadsBack.Statement (.vrdl f) := by
  intro c h; cases h; show decodeVec (packVS 0x24 f) = _; unfold decodeVec; rw [opcodeOf_packVS, unpackVS_packVS]; rfl
theorem ReadsBack.vwrl (f : FmtVS) : ReadsBack.Statement (.vwrl f) := by
  intro c h; cases h; show decodeVec (packVS 0x25 f) = _; unfold decodeVec; rw [opcodeOf_packVS, unpackVS_packVS]; rfl
theorem ReadsBack.vsr (f : FmtVS) : ReadsBack.Statement (.vsr f) := by
  intro c h; cases h; show decodeVec (packVS 0x26 f) = _; unfold decodeVec; rw [opcodeOf_packVS, unpackVS_packVS]; rfl
theorem ReadsBack.vdot4 (f : FmtVR) : ReadsBack.Statement (.vdot4 f) := by
  intro c h; cases h; show decodeVec (packVR 0x27 f) = _; unfold decodeVec; rw [opcodeOf_packVR, unpackVR_packVR]; rfl
theorem ReadsBack.vdot2 (f : FmtVR) : ReadsBack.Statement (.vdot2 f) := by
  intro c h; cases h; show decodeVec (packVR 0x28 f) = _; unfold decodeVec; rw [opcodeOf_packVR, unpackVR_packVR]; rfl
theorem ReadsBack.vfadd (f : FmtVR) : ReadsBack.Statement (.vfadd f) := by
  intro c h; cases h; show decodeVec (packVR 0x30 f) = _; unfold decodeVec; rw [opcodeOf_packVR, unpackVR_packVR]; rfl
theorem ReadsBack.vfsub (f : FmtVR) : ReadsBack.Statement (.vfsub f) := by
  intro c h; cases h; show decodeVec (packVR 0x31 f) = _; unfold decodeVec; rw [opcodeOf_packVR, unpackVR_packVR]; rfl
theorem ReadsBack.vfmul (f : FmtVR) : ReadsBack.Statement (.vfmul f) := by
  intro c h; cases h; show decodeVec (packVR 0x32 f) = _; unfold decodeVec; rw [opcodeOf_packVR, unpackVR_packVR]; rfl
theorem ReadsBack.vfma (f : FmtVR) : ReadsBack.Statement (.vfma f) := by
  intro c h; cases h; show decodeVec (packVR 0x33 f) = _; unfold decodeVec; rw [opcodeOf_packVR, unpackVR_packVR]; rfl
theorem ReadsBack.vfmin (f : FmtVR) : ReadsBack.Statement (.vfmin f) := by
  intro c h; cases h; show decodeVec (packVR 0x34 f) = _; unfold decodeVec; rw [opcodeOf_packVR, unpackVR_packVR]; rfl
theorem ReadsBack.vfmax (f : FmtVR) : ReadsBack.Statement (.vfmax f) := by
  intro c h; cases h; show decodeVec (packVR 0x35 f) = _; unfold decodeVec; rw [opcodeOf_packVR, unpackVR_packVR]; rfl
theorem ReadsBack.vcmp (f : FmtVP) : ReadsBack.Statement (.vcmp f) := by
  intro c h; cases h; show decodeVec (packVP 0x36 f) = _; unfold decodeVec; rw [opcodeOf_packVP, unpackVP_packVP]; rfl
theorem ReadsBack.vfcmp (f : FmtVP) : ReadsBack.Statement (.vfcmp f) := by
  intro c h; cases h; show decodeVec (packVP 0x37 f) = _; unfold decodeVec; rw [opcodeOf_packVP, unpackVP_packVP]; rfl
theorem ReadsBack.vrcp (f : FmtVR) : ReadsBack.Statement (.vrcp f) := by
  intro c h; cases h; show decodeVec (packVR 0x38 f) = _; unfold decodeVec; rw [opcodeOf_packVR, unpackVR_packVR]; rfl
theorem ReadsBack.vrsqrt (f : FmtVR) : ReadsBack.Statement (.vrsqrt f) := by
  intro c h; cases h; show decodeVec (packVR 0x39 f) = _; unfold decodeVec; rw [opcodeOf_packVR, unpackVR_packVR]; rfl
theorem ReadsBack.vsqrt (f : FmtVR) : ReadsBack.Statement (.vsqrt f) := by
  intro c h; cases h; show decodeVec (packVR 0x3a f) = _; unfold decodeVec; rw [opcodeOf_packVR, unpackVR_packVR]; rfl
theorem ReadsBack.vexp2 (f : FmtVR) : ReadsBack.Statement (.vexp2 f) := by
  intro c h; cases h; show decodeVec (packVR 0x3b f) = _; unfold decodeVec; rw [opcodeOf_packVR, unpackVR_packVR]; rfl
theorem ReadsBack.vlog2 (f : FmtVR) : ReadsBack.Statement (.vlog2 f) := by
  intro c h; cases h; show decodeVec (packVR 0x3c f) = _; unfold decodeVec; rw [opcodeOf_packVR, unpackVR_packVR]; rfl
theorem ReadsBack.vcvt (f : FmtVR) : ReadsBack.Statement (.vcvt f) := by
  intro c h; cases h; show decodeVec (packVR 0x3d f) = _; unfold decodeVec; rw [opcodeOf_packVR, unpackVR_packVR]; rfl
theorem ReadsBack.vfclass (f : FmtVR) : ReadsBack.Statement (.vfclass f) := by
  intro c h; cases h; show decodeVec (packVR 0x3e f) = _; unfold decodeVec; rw [opcodeOf_packVR, unpackVR_packVR]; rfl
theorem ReadsBack.vround (f : FmtVX) : ReadsBack.Statement (.vround f) := by
  intro c h; cases h; show decodeVec (packVX 0x3f f) = _; unfold decodeVec; rw [opcodeOf_packVX, unpackVX_packVX]; rfl
theorem ReadsBack.smov (f : FmtSR) : ReadsBack.Statement (.smov f) := by
  intro c h; cases h; show decodeSca (packSR 0x00 f) = _; unfold decodeSca; rw [opcodeOf_packSR, unpackSR_packSR]; rfl
theorem ReadsBack.smovi (f : FmtSL) : ReadsBack.Statement (.smovi f) := by
  intro c h; cases h; show decodeSca (packSL 0x01 f) = _; unfold decodeSca; rw [opcodeOf_packSL, unpackSL_packSL]; rfl
theorem ReadsBack.smovh (f : FmtSL) : ReadsBack.Statement (.smovh f) := by
  intro c h; cases h; show decodeSca (packSL 0x02 f) = _; unfold decodeSca; rw [opcodeOf_packSL, unpackSL_packSL]; rfl
theorem ReadsBack.sadd (f : FmtSR) : ReadsBack.Statement (.sadd f) := by
  intro c h; cases h; show decodeSca (packSR 0x03 f) = _; unfold decodeSca; rw [opcodeOf_packSR, unpackSR_packSR]; rfl
theorem ReadsBack.ssub (f : FmtSR) : ReadsBack.Statement (.ssub f) := by
  intro c h; cases h; show decodeSca (packSR 0x04 f) = _; unfold decodeSca; rw [opcodeOf_packSR, unpackSR_packSR]; rfl
theorem ReadsBack.smul (f : FmtSR) : ReadsBack.Statement (.smul f) := by
  intro c h; cases h; show decodeSca (packSR 0x05 f) = _; unfold decodeSca; rw [opcodeOf_packSR, unpackSR_packSR]; rfl
theorem ReadsBack.smulh (f : FmtSR) : ReadsBack.Statement (.smulh f) := by
  intro c h; cases h; show decodeSca (packSR 0x06 f) = _; unfold decodeSca; rw [opcodeOf_packSR, unpackSR_packSR]; rfl
theorem ReadsBack.sdiv (f : FmtSR) : ReadsBack.Statement (.sdiv f) := by
  intro c h; cases h; show decodeSca (packSR 0x07 f) = _; unfold decodeSca; rw [opcodeOf_packSR, unpackSR_packSR]; rfl
theorem ReadsBack.srem (f : FmtSR) : ReadsBack.Statement (.srem f) := by
  intro c h; cases h; show decodeSca (packSR 0x08 f) = _; unfold decodeSca; rw [opcodeOf_packSR, unpackSR_packSR]; rfl
theorem ReadsBack.sand (f : FmtSR) : ReadsBack.Statement (.sand f) := by
  intro c h; cases h; show decodeSca (packSR 0x09 f) = _; unfold decodeSca; rw [opcodeOf_packSR, unpackSR_packSR]; rfl
theorem ReadsBack.sor (f : FmtSR) : ReadsBack.Statement (.sor f) := by
  intro c h; cases h; show decodeSca (packSR 0x0a f) = _; unfold decodeSca; rw [opcodeOf_packSR, unpackSR_packSR]; rfl
theorem ReadsBack.sxor (f : FmtSR) : ReadsBack.Statement (.sxor f) := by
  intro c h; cases h; show decodeSca (packSR 0x0b f) = _; unfold decodeSca; rw [opcodeOf_packSR, unpackSR_packSR]; rfl
theorem ReadsBack.sshl (f : FmtSR) : ReadsBack.Statement (.sshl f) := by
  intro c h; cases h; show decodeSca (packSR 0x0c f) = _; unfold decodeSca; rw [opcodeOf_packSR, unpackSR_packSR]; rfl
theorem ReadsBack.sshr (f : FmtSR) : ReadsBack.Statement (.sshr f) := by
  intro c h; cases h; show decodeSca (packSR 0x0d f) = _; unfold decodeSca; rw [opcodeOf_packSR, unpackSR_packSR]; rfl
theorem ReadsBack.smin (f : FmtSR) : ReadsBack.Statement (.smin f) := by
  intro c h; cases h; show decodeSca (packSR 0x0e f) = _; unfold decodeSca; rw [opcodeOf_packSR, unpackSR_packSR]; rfl
theorem ReadsBack.smax (f : FmtSR) : ReadsBack.Statement (.smax f) := by
  intro c h; cases h; show decodeSca (packSR 0x0f f) = _; unfold decodeSca; rw [opcodeOf_packSR, unpackSR_packSR]; rfl
theorem ReadsBack.saddi (f : FmtSI) : ReadsBack.Statement (.saddi f) := by
  intro c h; cases h; show decodeSca (packSI 0x10 f) = _; unfold decodeSca; rw [opcodeOf_packSI, unpackSI_packSI]; rfl
theorem ReadsBack.sandi (f : FmtSI) : ReadsBack.Statement (.sandi f) := by
  intro c h; cases h; show decodeSca (packSI 0x11 f) = _; unfold decodeSca; rw [opcodeOf_packSI, unpackSI_packSI]; rfl
theorem ReadsBack.sshli (f : FmtSI) : ReadsBack.Statement (.sshli f) := by
  intro c h; cases h; show decodeSca (packSI 0x12 f) = _; unfold decodeSca; rw [opcodeOf_packSI, unpackSI_packSI]; rfl
theorem ReadsBack.sshri (f : FmtSI) : ReadsBack.Statement (.sshri f) := by
  intro c h; cases h; show decodeSca (packSI 0x13 f) = _; unfold decodeSca; rw [opcodeOf_packSI, unpackSI_packSI]; rfl
theorem ReadsBack.scmp (f : FmtSR) : ReadsBack.Statement (.scmp f) := by
  intro c h; cases h; show decodeSca (packSR 0x14 f) = _; unfold decodeSca; rw [opcodeOf_packSR, unpackSR_packSR]; rfl
theorem ReadsBack.sbfe (f : FmtSR) : ReadsBack.Statement (.sbfe f) := by
  intro c h; cases h; show decodeSca (packSR 0x15 f) = _; unfold decodeSca; rw [opcodeOf_packSR, unpackSR_packSR]; rfl
theorem ReadsBack.spopc (f : FmtSR) : ReadsBack.Statement (.spopc f) := by
  intro c h; cases h; show decodeSca (packSR 0x16 f) = _; unfold decodeSca; rw [opcodeOf_packSR, unpackSR_packSR]; rfl
theorem ReadsBack.sclz (f : FmtSR) : ReadsBack.Statement (.sclz f) := by
  intro c h; cases h; show decodeSca (packSR 0x17 f) = _; unfold decodeSca; rw [opcodeOf_packSR, unpackSR_packSR]; rfl
theorem ReadsBack.sfadd (f : FmtSR) : ReadsBack.Statement (.sfadd f) := by
  intro c h; cases h; show decodeSca (packSR 0x18 f) = _; unfold decodeSca; rw [opcodeOf_packSR, unpackSR_packSR]; rfl
theorem ReadsBack.sfmul (f : FmtSR) : ReadsBack.Statement (.sfmul f) := by
  intro c h; cases h; show decodeSca (packSR 0x19 f) = _; unfold decodeSca; rw [opcodeOf_packSR, unpackSR_packSR]; rfl
theorem ReadsBack.sfma (f : FmtSR) : ReadsBack.Statement (.sfma f) := by
  intro c h; cases h; show decodeSca (packSR 0x1a f) = _; unfold decodeSca; rw [opcodeOf_packSR, unpackSR_packSR]; rfl
theorem ReadsBack.scvt (f : FmtSR) : ReadsBack.Statement (.scvt f) := by
  intro c h; cases h; show decodeSca (packSR 0x1b f) = _; unfold decodeSca; rw [opcodeOf_packSR, unpackSR_packSR]; rfl
theorem ReadsBack.srd (f : FmtSL) : ReadsBack.Statement (.srd f) := by
  intro c h; cases h; show decodeSca (packSL 0x1c f) = _; unfold decodeSca; rw [opcodeOf_packSL, unpackSL_packSL]; rfl
theorem ReadsBack.swr (f : FmtSL) : ReadsBack.Statement (.swr f) := by
  intro c h; cases h; show decodeSca (packSL 0x1d f) = _; unfold decodeSca; rw [opcodeOf_packSL, unpackSL_packSL]; rfl
theorem ReadsBack.sfmt (f : FmtSR) : ReadsBack.Statement (.sfmt f) := by
  intro c h; cases h; show decodeSca (packSR 0x1e f) = _; unfold decodeSca; rw [opcodeOf_packSR, unpackSR_packSR]; rfl
theorem ReadsBack.pand (f : FmtSR) : ReadsBack.Statement (.pand f) := by
  intro c h; cases h; show decodeSca (packSR 0x1f f) = _; unfold decodeSca; rw [opcodeOf_packSR, unpackSR_packSR]; rfl
theorem ReadsBack.por (f : FmtSR) : ReadsBack.Statement (.por f) := by
  intro c h; cases h; show decodeSca (packSR 0x20 f) = _; unfold decodeSca; rw [opcodeOf_packSR, unpackSR_packSR]; rfl
theorem ReadsBack.pxor (f : FmtSR) : ReadsBack.Statement (.pxor f) := by
  intro c h; cases h; show decodeSca (packSR 0x21 f) = _; unfold decodeSca; rw [opcodeOf_packSR, unpackSR_packSR]; rfl
theorem ReadsBack.pandn (f : FmtSR) : ReadsBack.Statement (.pandn f) := by
  intro c h; cases h; show decodeSca (packSR 0x22 f) = _; unfold decodeSca; rw [opcodeOf_packSR, unpackSR_packSR]; rfl
theorem ReadsBack.pmovsp (f : FmtSR) : ReadsBack.Statement (.pmovsp f) := by
  intro c h; cases h; show decodeSca (packSR 0x23 f) = _; unfold decodeSca; rw [opcodeOf_packSR, unpackSR_packSR]; rfl
theorem ReadsBack.pmovps (f : FmtSR) : ReadsBack.Statement (.pmovps f) := by
  intro c h; cases h; show decodeSca (packSR 0x24 f) = _; unfold decodeSca; rw [opcodeOf_packSR, unpackSR_packSR]; rfl
theorem ReadsBack.pcnt (f : FmtSR) : ReadsBack.Statement (.pcnt f) := by
  intro c h; cases h; show decodeSca (packSR 0x25 f) = _; unfold decodeSca; rw [opcodeOf_packSR, unpackSR_packSR]; rfl
theorem ReadsBack.pfirst (f : FmtSR) : ReadsBack.Statement (.pfirst f) := by
  intro c h; cases h; show decodeSca (packSR 0x26 f) = _; unfold decodeSca; rw [opcodeOf_packSR, unpackSR_packSR]; rfl
theorem ReadsBack.vld (f : FmtMV) : ReadsBack.Statement (.vld f) := by
  intro c h; cases h; show decodeMem (packMV 0x00 f) = _; unfold decodeMem; rw [opcodeOf_packMV, unpackMV_packMV]; rfl
theorem ReadsBack.vlds (f : FmtMV) : ReadsBack.Statement (.vlds f) := by
  intro c h; cases h; show decodeMem (packMV 0x01 f) = _; unfold decodeMem; rw [opcodeOf_packMV, unpackMV_packMV]; rfl
theorem ReadsBack.vst (f : FmtMV) : ReadsBack.Statement (.vst f) := by
  intro c h; cases h; show decodeMem (packMV 0x02 f) = _; unfold decodeMem; rw [opcodeOf_packMV, unpackMV_packMV]; rfl
theorem ReadsBack.sld (f : FmtMS) : ReadsBack.Statement (.sld f) := by
  intro c h; cases h; show decodeMem (packMS 0x03 f) = _; unfold decodeMem; rw [opcodeOf_packMS, unpackMS_packMS]; rfl
theorem ReadsBack.slds (f : FmtMS) : ReadsBack.Statement (.slds f) := by
  intro c h; cases h; show decodeMem (packMS 0x04 f) = _; unfold decodeMem; rw [opcodeOf_packMS, unpackMS_packMS]; rfl
theorem ReadsBack.sst (f : FmtMS) : ReadsBack.Statement (.sst f) := by
  intro c h; cases h; show decodeMem (packMS 0x05 f) = _; unfold decodeMem; rw [opcodeOf_packMS, unpackMS_packMS]; rfl
theorem ReadsBack.vatomI32 (f : FmtMA) : ReadsBack.Statement (.vatomI32 f) := by
  intro c h; cases h; show decodeMem (packMA 0x06 f) = _; unfold decodeMem; rw [opcodeOf_packMA, unpackMA_packMA]; rfl
theorem ReadsBack.vatomU32 (f : FmtMA) : ReadsBack.Statement (.vatomU32 f) := by
  intro c h; cases h; show decodeMem (packMA 0x07 f) = _; unfold decodeMem; rw [opcodeOf_packMA, unpackMA_packMA]; rfl
theorem ReadsBack.vatomF32 (f : FmtMA) : ReadsBack.Statement (.vatomF32 f) := by
  intro c h; cases h; show decodeMem (packMA 0x08 f) = _; unfold decodeMem; rw [opcodeOf_packMA, unpackMA_packMA]; rfl
theorem ReadsBack.vatomF16x2 (f : FmtMA) : ReadsBack.Statement (.vatomF16x2 f) := by
  intro c h; cases h; show decodeMem (packMA 0x09 f) = _; unfold decodeMem; rw [opcodeOf_packMA, unpackMA_packMA]; rfl
theorem ReadsBack.vatomB16x2 (f : FmtMA) : ReadsBack.Statement (.vatomB16x2 f) := by
  intro c h; cases h; show decodeMem (packMA 0x0a f) = _; unfold decodeMem; rw [opcodeOf_packMA, unpackMA_packMA]; rfl
theorem ReadsBack.vatomnI32 (f : FmtMA) : ReadsBack.Statement (.vatomnI32 f) := by
  intro c h; cases h; show decodeMem (packMA 0x0b f) = _; unfold decodeMem; rw [opcodeOf_packMA, unpackMA_packMA]; rfl
theorem ReadsBack.vatomnU32 (f : FmtMA) : ReadsBack.Statement (.vatomnU32 f) := by
  intro c h; cases h; show decodeMem (packMA 0x0c f) = _; unfold decodeMem; rw [opcodeOf_packMA, unpackMA_packMA]; rfl
theorem ReadsBack.vatomnF32 (f : FmtMA) : ReadsBack.Statement (.vatomnF32 f) := by
  intro c h; cases h; show decodeMem (packMA 0x0d f) = _; unfold decodeMem; rw [opcodeOf_packMA, unpackMA_packMA]; rfl
theorem ReadsBack.vatomnF16x2 (f : FmtMA) : ReadsBack.Statement (.vatomnF16x2 f) := by
  intro c h; cases h; show decodeMem (packMA 0x0e f) = _; unfold decodeMem; rw [opcodeOf_packMA, unpackMA_packMA]; rfl
theorem ReadsBack.vatomnB16x2 (f : FmtMA) : ReadsBack.Statement (.vatomnB16x2 f) := by
  intro c h; cases h; show decodeMem (packMA 0x0f f) = _; unfold decodeMem; rw [opcodeOf_packMA, unpackMA_packMA]; rfl
theorem ReadsBack.satom (f : FmtSA) : ReadsBack.Statement (.satom f) := by
  intro c h; cases h; show decodeMem (packSA 0x10 f) = _; unfold decodeMem; rw [opcodeOf_packSA, unpackSA_packSA]; rfl
theorem ReadsBack.hsel (f : FmtMS) : ReadsBack.Statement (.hsel f) := by
  intro c h; cases h; show decodeMem (packMS 0x11 f) = _; unfold decodeMem; rw [opcodeOf_packMS, unpackMS_packMS]; rfl
theorem ReadsBack.hinfo (f : FmtMS) : ReadsBack.Statement (.hinfo f) := by
  intro c h; cases h; show decodeMem (packMS 0x12 f) = _; unfold decodeMem; rw [opcodeOf_packMS, unpackMS_packMS]; rfl
theorem ReadsBack.fence (f : FmtMF) : ReadsBack.Statement (.fence f) := by
  intro c h; cases h; show decodeMem (packMF 0x13 f) = _; unfold decodeMem; rw [opcodeOf_packMF, unpackMF_packMF]; rfl
theorem ReadsBack.flsig (f : FmtMS) : ReadsBack.Statement (.flsig f) := by
  intro c h; cases h; show decodeMem (packMS 0x14 f) = _; unfold decodeMem; rw [opcodeOf_packMS, unpackMS_packMS]; rfl
theorem ReadsBack.flwait (f : FmtMS) : ReadsBack.Statement (.flwait f) := by
  intro c h; cases h; show decodeMem (packMS 0x15 f) = _; unfold decodeMem; rw [opcodeOf_packMS, unpackMS_packMS]; rfl
theorem ReadsBack.barinit (f : FmtMB) : ReadsBack.Statement (.barinit f) := by
  intro c h; cases h; show decodeMem (packMB 0x16 f) = _; unfold decodeMem; rw [opcodeOf_packMB, unpackMB_packMB]; rfl
theorem ReadsBack.barexp (f : FmtMB) : ReadsBack.Statement (.barexp f) := by
  intro c h; cases h; show decodeMem (packMB 0x17 f) = _; unfold decodeMem; rw [opcodeOf_packMB, unpackMB_packMB]; rfl
theorem ReadsBack.barrive (f : FmtMB) : ReadsBack.Statement (.barrive f) := by
  intro c h; cases h; show decodeMem (packMB 0x18 f) = _; unfold decodeMem; rw [opcodeOf_packMB, unpackMB_packMB]; rfl
theorem ReadsBack.bwait (f : FmtMB) : ReadsBack.Statement (.bwait f) := by
  intro c h; cases h; show decodeMem (packMB 0x19 f) = _; unfold decodeMem; rw [opcodeOf_packMB, unpackMB_packMB]; rfl
theorem ReadsBack.bartest (f : FmtMB) : ReadsBack.Statement (.bartest f) := by
  intro c h; cases h; show decodeMem (packMB 0x1a f) = _; unfold decodeMem; rw [opcodeOf_packMB, unpackMB_packMB]; rfl
theorem ReadsBack.bsync (f : FmtMB) : ReadsBack.Statement (.bsync f) := by
  intro c h; cases h; show decodeMem (packMB 0x1b f) = _; unfold decodeMem; rw [opcodeOf_packMB, unpackMB_packMB]; rfl
theorem ReadsBack.bra (f : FmtCB) : ReadsBack.Statement (.bra f) := by
  intro c h; cases h; show decodeCtl (packCB 0x00 f) = _; unfold decodeCtl; rw [opcodeOf_packCB, unpackCB_packCB]; rfl
theorem ReadsBack.brp (f : FmtCB) : ReadsBack.Statement (.brp f) := by
  intro c h; cases h; show decodeCtl (packCB 0x01 f) = _; unfold decodeCtl; rw [opcodeOf_packCB, unpackCB_packCB]; rfl
theorem ReadsBack.rcvpt (f : FmtCB) : ReadsBack.Statement (.rcvpt f) := by
  intro c h; cases h; show decodeCtl (packCB 0x02 f) = _; unfold decodeCtl; rw [opcodeOf_packCB, unpackCB_packCB]; rfl
theorem ReadsBack.join (f : FmtCR) : ReadsBack.Statement (.join f) := by
  intro c h; cases h; show decodeCtl (packCR 0x03 f) = _; unfold decodeCtl; rw [opcodeOf_packCR, unpackCR_packCR]; rfl
theorem ReadsBack.bcnd (f : FmtCC) : ReadsBack.Statement (.bcnd f) := by
  intro c h; cases h; show decodeCtl (packCC 0x04 f) = _; unfold decodeCtl; rw [opcodeOf_packCC, unpackCC_packCC]; rfl
theorem ReadsBack.sloop (f : FmtCC) : ReadsBack.Statement (.sloop f) := by
  intro c h; cases h; show decodeCtl (packCC 0x05 f) = _; unfold decodeCtl; rw [opcodeOf_packCC, unpackCC_packCC]; rfl
theorem ReadsBack.call (f : FmtCB) : ReadsBack.Statement (.call f) := by
  intro c h; cases h; show decodeCtl (packCB 0x06 f) = _; unfold decodeCtl; rw [opcodeOf_packCB, unpackCB_packCB]; rfl
theorem ReadsBack.callr (f : FmtCR) : ReadsBack.Statement (.callr f) := by
  intro c h; cases h; show decodeCtl (packCR 0x07 f) = _; unfold decodeCtl; rw [opcodeOf_packCR, unpackCR_packCR]; rfl
theorem ReadsBack.ret (f : FmtCR) : ReadsBack.Statement (.ret f) := by
  intro c h; cases h; show decodeCtl (packCR 0x08 f) = _; unfold decodeCtl; rw [opcodeOf_packCR, unpackCR_packCR]; rfl
theorem ReadsBack.jmp (f : FmtCR) : ReadsBack.Statement (.jmp f) := by
  intro c h; cases h; show decodeCtl (packCR 0x09 f) = _; unfold decodeCtl; rw [opcodeOf_packCR, unpackCR_packCR]; rfl
theorem ReadsBack.exit (f : FmtCR) : ReadsBack.Statement (.exit f) := by
  intro c h; cases h; show decodeCtl (packCR 0x0a f) = _; unfold decodeCtl; rw [opcodeOf_packCR, unpackCR_packCR]; rfl
theorem ReadsBack.yield (f : FmtCR) : ReadsBack.Statement (.yield f) := by
  intro c h; cases h; show decodeCtl (packCR 0x0b f) = _; unfold decodeCtl; rw [opcodeOf_packCR, unpackCR_packCR]; rfl
theorem ReadsBack.twait (f : FmtCQ) : ReadsBack.Statement (.twait f) := by
  intro c h; cases h; show decodeCtl (packCQ 0x0c f) = _; unfold decodeCtl; rw [opcodeOf_packCQ, unpackCQ_packCQ]; rfl
theorem ReadsBack.dqpop (f : FmtCQ) : ReadsBack.Statement (.dqpop f) := by
  intro c h; cases h; show decodeCtl (packCQ 0x0d f) = _; unfold decodeCtl; rw [opcodeOf_packCQ, unpackCQ_packCQ]; rfl
theorem ReadsBack.dqpush (f : FmtCR) : ReadsBack.Statement (.dqpush f) := by
  intro c h; cases h; show decodeCtl (packCR 0x0e f) = _; unfold decodeCtl; rw [opcodeOf_packCR, unpackCR_packCR]; rfl
theorem ReadsBack.bany (f : FmtCB) : ReadsBack.Statement (.bany f) := by
  intro c h; cases h; show decodeCtl (packCB 0x0f f) = _; unfold decodeCtl; rw [opcodeOf_packCB, unpackCB_packCB]; rfl
theorem ReadsBack.ball (f : FmtCB) : ReadsBack.Statement (.ball f) := by
  intro c h; cases h; show decodeCtl (packCB 0x10 f) = _; unfold decodeCtl; rw [opcodeOf_packCB, unpackCB_packCB]; rfl
theorem ReadsBack.nop (f : FmtCR) : ReadsBack.Statement (.nop f) := by
  intro c h; cases h; show decodeCtl (packCR 0x11 f) = _; unfold decodeCtl; rw [opcodeOf_packCR, unpackCR_packCR]; rfl
theorem ReadsBack.mshape (f : FmtEB) : ReadsBack.Statement (.mshape f) := by
  intro c h; cases h; show decodeMtx (packEB 0x00 f) = _; unfold decodeMtx; rw [opcodeOf_packEB, unpackEB_packEB]; rfl
theorem ReadsBack.mzero (f : FmtEB) : ReadsBack.Statement (.mzero f) := by
  intro c h; cases h; show decodeMtx (packEB 0x01 f) = _; unfold decodeMtx; rw [opcodeOf_packEB, unpackEB_packEB]; rfl
theorem ReadsBack.mma (f : FmtVR) : ReadsBack.Statement (.mma f) := by
  intro c h; cases h; show decodeMtx (packVR 0x02 f) = _; unfold decodeMtx; rw [opcodeOf_packVR, unpackVR_packVR]; rfl
theorem ReadsBack.mloop (f : FmtEB) : ReadsBack.Statement (.mloop f) := by
  intro c h; cases h; show decodeMtx (packEB 0x03 f) = _; unfold decodeMtx; rw [opcodeOf_packEB, unpackEB_packEB]; rfl
theorem ReadsBack.mloopg (f : FmtEB) : ReadsBack.Statement (.mloopg f) := by
  intro c h; cases h; show decodeMtx (packEB 0x04 f) = _; unfold decodeMtx; rw [opcodeOf_packEB, unpackEB_packEB]; rfl
theorem ReadsBack.mloopn (f : FmtEB) : ReadsBack.Statement (.mloopn f) := by
  intro c h; cases h; show decodeMtx (packEB 0x05 f) = _; unfold decodeMtx; rw [opcodeOf_packEB, unpackEB_packEB]; rfl
theorem ReadsBack.msmx (f : FmtEB) : ReadsBack.Statement (.msmx f) := by
  intro c h; cases h; show decodeMtx (packEB 0x06 f) = _; unfold decodeMtx; rw [opcodeOf_packEB, unpackEB_packEB]; rfl
theorem ReadsBack.mdrain (f : FmtEB) : ReadsBack.Statement (.mdrain f) := by
  intro c h; cases h; show decodeMtx (packEB 0x07 f) = _; unfold decodeMtx; rw [opcodeOf_packEB, unpackEB_packEB]; rfl
theorem ReadsBack.mside (f : FmtEB) : ReadsBack.Statement (.mside f) := by
  intro c h; cases h; show decodeMtx (packEB 0x08 f) = _; unfold decodeMtx; rw [opcodeOf_packEB, unpackEB_packEB]; rfl
theorem ReadsBack.mprog (f : FmtEB) : ReadsBack.Statement (.mprog f) := by
  intro c h; cases h; show decodeMtx (packEB 0x09 f) = _; unfold decodeMtx; rw [opcodeOf_packEB, unpackEB_packEB]; rfl
theorem ReadsBack.mstat (f : FmtEB) : ReadsBack.Statement (.mstat f) := by
  intro c h; cases h; show decodeMtx (packEB 0x0a f) = _; unfold decodeMtx; rw [opcodeOf_packEB, unpackEB_packEB]; rfl
theorem ReadsBack.cpy (f : FmtEB) : ReadsBack.Statement (.cpy f) := by
  intro c h; cases h; show decodeCpy (packEB 0x00 f) = _; unfold decodeCpy; rw [opcodeOf_packEB, unpackEB_packEB]; rfl
theorem ReadsBack.cpy2d (f : FmtEB) : ReadsBack.Statement (.cpy2d f) := by
  intro c h; cases h; show decodeCpy (packEB 0x01 f) = _; unfold decodeCpy; rw [opcodeOf_packEB, unpackEB_packEB]; rfl
theorem ReadsBack.cpymc (f : FmtEB) : ReadsBack.Statement (.cpymc f) := by
  intro c h; cases h; show decodeCpy (packEB 0x02 f) = _; unfold decodeCpy; rw [opcodeOf_packEB, unpackEB_packEB]; rfl
theorem ReadsBack.cpyfill (f : FmtEB) : ReadsBack.Statement (.cpyfill f) := by
  intro c h; cases h; show decodeCpy (packEB 0x03 f) = _; unfold decodeCpy; rw [opcodeOf_packEB, unpackEB_packEB]; rfl
theorem ReadsBack.cpyrec (f : FmtEB) : ReadsBack.Statement (.cpyrec f) := by
  intro c h; cases h; show decodeCpy (packEB 0x04 f) = _; unfold decodeCpy; rw [opcodeOf_packEB, unpackEB_packEB]; rfl
theorem ReadsBack.tlrd (f : FmtEB) : ReadsBack.Statement (.tlrd f) := by
  intro c h; cases h; show decodeCpy (packEB 0x05 f) = _; unfold decodeCpy; rw [opcodeOf_packEB, unpackEB_packEB]; rfl
theorem ReadsBack.tlwait (f : FmtEB) : ReadsBack.Statement (.tlwait f) := by
  intro c h; cases h; show decodeCpy (packEB 0x06 f) = _; unfold decodeCpy; rw [opcodeOf_packEB, unpackEB_packEB]; rfl
theorem ReadsBack.cprog (f : FmtEB) : ReadsBack.Statement (.cprog f) := by
  intro c h; cases h; show decodeCpy (packEB 0x07 f) = _; unfold decodeCpy; rw [opcodeOf_packEB, unpackEB_packEB]; rfl
theorem ReadsBack.qpost (f : FmtEB) : ReadsBack.Statement (.qpost f) := by
  intro c h; cases h; show decodeCpy (packEB 0x08 f) = _; unfold decodeCpy; rw [opcodeOf_packEB, unpackEB_packEB]; rfl
theorem ReadsBack.arnew (f : FmtEB) : ReadsBack.Statement (.arnew f) := by
  intro c h; cases h; show decodeArn (packEB 0x00 f) = _; unfold decodeArn; rw [opcodeOf_packEB, unpackEB_packEB]; rfl
theorem ReadsBack.halloc (f : FmtEB) : ReadsBack.Statement (.halloc f) := by
  intro c h; cases h; show decodeArn (packEB 0x01 f) = _; unfold decodeArn; rw [opcodeOf_packEB, unpackEB_packEB]; rfl
theorem ReadsBack.arseal (f : FmtEB) : ReadsBack.Statement (.arseal f) := by
  intro c h; cases h; show decodeArn (packEB 0x02 f) = _; unfold decodeArn; rw [opcodeOf_packEB, unpackEB_packEB]; rfl
theorem ReadsBack.ardrop (f : FmtEB) : ReadsBack.Statement (.ardrop f) := by
  intro c h; cases h; show decodeArn (packEB 0x03 f) = _; unfold decodeArn; rw [opcodeOf_packEB, unpackEB_packEB]; rfl
theorem ReadsBack.arquota (f : FmtEB) : ReadsBack.Statement (.arquota f) := by
  intro c h; cases h; show decodeArn (packEB 0x04 f) = _; unfold decodeArn; rw [opcodeOf_packEB, unpackEB_packEB]; rfl
theorem ReadsBack.arinfo (f : FmtEB) : ReadsBack.Statement (.arinfo f) := by
  intro c h; cases h; show decodeArn (packEB 0x05 f) = _; unfold decodeArn; rw [opcodeOf_packEB, unpackEB_packEB]; rfl
theorem ReadsBack.send (f : FmtEB) : ReadsBack.Statement (.send f) := by
  intro c h; cases h; show decodeMsg (packEB 0x00 f) = _; unfold decodeMsg; rw [opcodeOf_packEB, unpackEB_packEB]; rfl
theorem ReadsBack.asend (f : FmtEB) : ReadsBack.Statement (.asend f) := by
  intro c h; cases h; show decodeMsg (packEB 0x01 f) = _; unfold decodeMsg; rw [opcodeOf_packEB, unpackEB_packEB]; rfl
theorem ReadsBack.rdy (f : FmtEB) : ReadsBack.Statement (.rdy f) := by
  intro c h; cases h; show decodeMsg (packEB 0x02 f) = _; unfold decodeMsg; rw [opcodeOf_packEB, unpackEB_packEB]; rfl
theorem ReadsBack.unrdy (f : FmtEB) : ReadsBack.Statement (.unrdy f) := by
  intro c h; cases h; show decodeMsg (packEB 0x03 f) = _; unfold decodeMsg; rw [opcodeOf_packEB, unpackEB_packEB]; rfl
theorem ReadsBack.recv (f : FmtEB) : ReadsBack.Statement (.recv f) := by
  intro c h; cases h; show decodeMsg (packEB 0x04 f) = _; unfold decodeMsg; rw [opcodeOf_packEB, unpackEB_packEB]; rfl
theorem ReadsBack.grpnew (f : FmtEB) : ReadsBack.Statement (.grpnew f) := by
  intro c h; cases h; show decodeMsg (packEB 0x05 f) = _; unfold decodeMsg; rw [opcodeOf_packEB, unpackEB_packEB]; rfl
theorem ReadsBack.grpdel (f : FmtEB) : ReadsBack.Statement (.grpdel f) := by
  intro c h; cases h; show decodeMsg (packEB 0x06 f) = _; unfold decodeMsg; rw [opcodeOf_packEB, unpackEB_packEB]; rfl
theorem ReadsBack.colnew (f : FmtEB) : ReadsBack.Statement (.colnew f) := by
  intro c h; cases h; show decodeMsg (packEB 0x07 f) = _; unfold decodeMsg; rw [opcodeOf_packEB, unpackEB_packEB]; rfl
theorem ReadsBack.redpost (f : FmtEB) : ReadsBack.Statement (.redpost f) := by
  intro c h; cases h; show decodeMsg (packEB 0x08 f) = _; unfold decodeMsg; rw [opcodeOf_packEB, unpackEB_packEB]; rfl
theorem ReadsBack.redwait (f : FmtEB) : ReadsBack.Statement (.redwait f) := by
  intro c h; cases h; show decodeMsg (packEB 0x09 f) = _; unfold decodeMsg; rw [opcodeOf_packEB, unpackEB_packEB]; rfl
theorem ReadsBack.colabort (f : FmtEB) : ReadsBack.Statement (.colabort f) := by
  intro c h; cases h; show decodeMsg (packEB 0x0a f) = _; unfold decodeMsg; rw [opcodeOf_packEB, unpackEB_packEB]; rfl
theorem ReadsBack.msgstat (f : FmtEB) : ReadsBack.Statement (.msgstat f) := by
  intro c h; cases h; show decodeMsg (packEB 0x0b f) = _; unfold decodeMsg; rw [opcodeOf_packEB, unpackEB_packEB]; rfl
theorem ReadsBack.trap (f : FmtSL) : ReadsBack.Statement (.trap f) := by
  intro c h; cases h; show decodeSys (packSL 0x00 f) = _; unfold decodeSys; rw [opcodeOf_packSL, unpackSL_packSL]; rfl
theorem ReadsBack.brk (f : FmtSL) : ReadsBack.Statement (.brk f) := by
  intro c h; cases h; show decodeSys (packSL 0x01 f) = _; unfold decodeSys; rw [opcodeOf_packSL, unpackSL_packSL]; rfl
theorem ReadsBack.eret (f : FmtCR) : ReadsBack.Statement (.eret f) := by
  intro c h; cases h; show decodeSys (packCR 0x02 f) = _; unfold decodeSys; rw [opcodeOf_packCR, unpackCR_packCR]; rfl
theorem ReadsBack.prd (f : FmtSL) : ReadsBack.Statement (.prd f) := by
  intro c h; cases h; show decodeSys (packSL 0x03 f) = _; unfold decodeSys; rw [opcodeOf_packSL, unpackSL_packSL]; rfl
theorem ReadsBack.pwr (f : FmtSL) : ReadsBack.Statement (.pwr f) := by
  intro c h; cases h; show decodeSys (packSL 0x04 f) = _; unfold decodeSys; rw [opcodeOf_packSL, unpackSL_packSL]; rfl
theorem ReadsBack.capmask (f : FmtCQ) : ReadsBack.Statement (.capmask f) := by
  intro c h; cases h; show decodeSys (packCQ 0x05 f) = _; unfold decodeSys; rw [opcodeOf_packCQ, unpackCQ_packCQ]; rfl
theorem ReadsBack.tmark (f : FmtSL) : ReadsBack.Statement (.tmark f) := by
  intro c h; cases h; show decodeSys (packSL 0x06 f) = _; unfold decodeSys; rw [opcodeOf_packSL, unpackSL_packSL]; rfl
theorem ReadsBack.dump (f : FmtEB) : ReadsBack.Statement (.dump f) := by
  intro c h; cases h; show decodeSys (packEB 0x07 f) = _; unfold decodeSys; rw [opcodeOf_packEB, unpackEB_packEB]; rfl
theorem ReadsBack.respost (f : FmtCR) : ReadsBack.Statement (.respost f) := by
  intro c h; cases h; show decodeSys (packCR 0x08 f) = _; unfold decodeSys; rw [opcodeOf_packCR, unpackCR_packCR]; rfl
theorem ReadsBack.sstep (f : FmtSL) : ReadsBack.Statement (.sstep f) := by
  intro c h; cases h; show decodeSys (packSL 0x09 f) = _; unfold decodeSys; rw [opcodeOf_packSL, unpackSL_packSL]; rfl
theorem ReadsBack.kiln (f : FmtEB) : ReadsBack.Statement (.kiln f) := by
  intro c h; cases h; show decodeSys (packEB 0x0a f) = _; unfold decodeSys; rw [opcodeOf_packEB, unpackEB_packEB]; rfl
theorem ReadsBack.blockedWordResume : ∀ a, ReadsBack.Statement (.blockedWordResume a) := by
  intros; intro c h; cases h
theorem ReadsBack.windowRetire : ∀ a, ReadsBack.Statement (.windowRetire a) := by
  intros; intro c h; cases h
theorem ReadsBack.ageSwap : ∀ a, ReadsBack.Statement (.ageSwap a) := by
  intros; intro c h; cases h
theorem ReadsBack.starvationSwap : ∀ a, ReadsBack.Statement (.starvationSwap a) := by
  intros; intro c h; cases h
theorem ReadsBack.trapDelivery : ∀ a, ReadsBack.Statement (.trapDelivery a) := by
  intros; intro c h; cases h
theorem ReadsBack.pageFaultResolve : ∀ a b c d, ReadsBack.Statement (.pageFaultResolve a b c d) := by
  intros; intro c h; cases h
theorem ReadsBack.mappingChange : ∀ a b c, ReadsBack.Statement (.mappingChange a b c) := by
  intros; intro c h; cases h
theorem ReadsBack.accessAtHome : ∀ a, ReadsBack.Statement (.accessAtHome a) := by
  intros; intro c h; cases h
theorem ReadsBack.fillReturn : ∀ a b, ReadsBack.Statement (.fillReturn a b) := by
  intros; intro c h; cases h
theorem ReadsBack.fenceComplete : ∀ a, ReadsBack.Statement (.fenceComplete a) := by
  intros; intro c h; cases h
theorem ReadsBack.flushComplete : ∀ a b, ReadsBack.Statement (.flushComplete a b) := by
  intros; intro c h; cases h
theorem ReadsBack.asyncComplete : ∀ a, ReadsBack.Statement (.asyncComplete a) := by
  intros; intro c h; cases h
theorem ReadsBack.multicastReceive : ∀ a b c, ReadsBack.Statement (.multicastReceive a b c) := by
  intros; intro c h; cases h
theorem ReadsBack.matrixBoundary : ∀ a b, ReadsBack.Statement (.matrixBoundary a b) := by
  intros; intro c h; cases h
theorem ReadsBack.cpyFreeze : ∀ a b, ReadsBack.Statement (.cpyFreeze a b) := by
  intros; intro c h; cases h
theorem ReadsBack.mtxFreeze : ∀ a b, ReadsBack.Statement (.mtxFreeze a b) := by
  intros; intro c h; cases h
theorem ReadsBack.sealBroadcast : ∀ a, ReadsBack.Statement (.sealBroadcast a) := by
  intros; intro c h; cases h
theorem ReadsBack.sealComplete : ∀ a, ReadsBack.Statement (.sealComplete a) := by
  intros; intro c h; cases h
theorem ReadsBack.dropBroadcast : ∀ a, ReadsBack.Statement (.dropBroadcast a) := by
  intros; intro c h; cases h
theorem ReadsBack.dropComplete : ∀ a, ReadsBack.Statement (.dropComplete a) := by
  intros; intro c h; cases h
theorem ReadsBack.readinessReport : ∀ a b c, ReadsBack.Statement (.readinessReport a b c) := by
  intros; intro c h; cases h
theorem ReadsBack.messageSteer : ∀ a, ReadsBack.Statement (.messageSteer a) := by
  intros; intro c h; cases h
theorem ReadsBack.messageBounce : ∀ a, ReadsBack.Statement (.messageBounce a) := by
  intros; intro c h; cases h
theorem ReadsBack.ordAck : ∀ a, ReadsBack.Statement (.ordAck a) := by
  intros; intro c h; cases h
theorem ReadsBack.ringDelivery : ∀ a, ReadsBack.Statement (.ringDelivery a) := by
  intros; intro c h; cases h
theorem ReadsBack.handlerSpawn : ∀ a, ReadsBack.Statement (.handlerSpawn a) := by
  intros; intro c h; cases h
theorem ReadsBack.grpdelHandover : ∀ a, ReadsBack.Statement (.grpdelHandover a) := by
  intros; intro c h; cases h
theorem ReadsBack.reductionPartial : ∀ a, ReadsBack.Statement (.reductionPartial a) := by
  intros; intro c h; cases h
theorem ReadsBack.reductionResult : ∀ a, ReadsBack.Statement (.reductionResult a) := by
  intros; intro c h; cases h
theorem ReadsBack.roundTimeout : ∀ a, ReadsBack.Statement (.roundTimeout a) := by
  intros; intro c h; cases h
theorem ReadsBack.haltedNotice : ∀ a b, ReadsBack.Statement (.haltedNotice a b) := by
  intros; intro c h; cases h
theorem ReadsBack.cellarLimit : ∀ a, ReadsBack.Statement (.cellarLimit a) := by
  intros; intro c h; cases h
theorem ReadsBack.recvLimit : ∀ a, ReadsBack.Statement (.recvLimit a) := by
  intros; intro c h; cases h
theorem ReadsBack.tlwaitLimit : ∀ a, ReadsBack.Statement (.tlwaitLimit a) := by
  intros; intro c h; cases h
theorem ReadsBack.qpostRoomLimit : ∀ a b, ReadsBack.Statement (.qpostRoomLimit a b) := by
  intros; intro c h; cases h
theorem ReadsBack.launch : ∀ a, ReadsBack.Statement (.launch a) := by
  intros; intro c h; cases h
theorem ReadsBack.branch : ∀ a, ReadsBack.Statement (.branch a) := by
  intros; intro c h; cases h
theorem ReadsBack.waittl : ∀ a, ReadsBack.Statement (.waittl a) := by
  intros; intro c h; cases h
theorem ReadsBack.waittlNotify : ∀ a, ReadsBack.Statement (.waittlNotify a) := by
  intros; intro c h; cases h
theorem ReadsBack.depend : ∀ a, ReadsBack.Statement (.depend a) := by
  intros; intro c h; cases h
theorem ReadsBack.packetLimit : ∀ a, ReadsBack.Statement (.packetLimit a) := by
  intros; intro c h; cases h
theorem ReadsBack.signal : ∀ a, ReadsBack.Statement (.signal a) := by
  intros; intro c h; cases h
theorem ReadsBack.copy : ∀ a, ReadsBack.Statement (.copy a) := by
  intros; intro c h; cases h
theorem ReadsBack.drop : ∀ a, ReadsBack.Statement (.drop a) := by
  intros; intro c h; cases h
theorem ReadsBack.marker : ∀ a, ReadsBack.Statement (.marker a) := by
  intros; intro c h; cases h
theorem ReadsBack.placement : ∀ a b, ReadsBack.Statement (.placement a b) := by
  intros; intro c h; cases h
theorem ReadsBack.saveComplete : ∀ a, ReadsBack.Statement (.saveComplete a) := by
  intros; intro c h; cases h
theorem ReadsBack.crewResume : ∀ a b, ReadsBack.Statement (.crewResume a b) := by
  intros; intro c h; cases h
theorem ReadsBack.queueAged : ∀ a b, ReadsBack.Statement (.queueAged a b) := by
  intros; intro c h; cases h
theorem ReadsBack.crewRetire : ∀ a, ReadsBack.Statement (.crewRetire a) := by
  intros; intro c h; cases h
theorem ReadsBack.taskRetire : ∀ a b, ReadsBack.Statement (.taskRetire a b) := by
  intros; intro c h; cases h
theorem ReadsBack.taskTimeout : ∀ a b, ReadsBack.Statement (.taskTimeout a b) := by
  intros; intro c h; cases h
theorem ReadsBack.watchdogExpiry : ∀ a, ReadsBack.Statement (.watchdogExpiry a) := by
  intros; intro c h; cases h
theorem ReadsBack.kill : ∀ a, ReadsBack.Statement (.kill a) := by
  intros; intro c h; cases h
theorem ReadsBack.killComplete : ∀ a, ReadsBack.Statement (.killComplete a) := by
  intros; intro c h; cases h
theorem ReadsBack.dumpWritten : ∀ a b, ReadsBack.Statement (.dumpWritten a b) := by
  intros; intro c h; cases h
theorem ReadsBack.partitionDeadline : ∀ a, ReadsBack.Statement (.partitionDeadline a) := by
  intros; intro c h; cases h
theorem ReadsBack.partitionApply : ∀ a, ReadsBack.Statement (.partitionApply a) := by
  intros; intro c h; cases h
theorem ReadsBack.electionWindowEnd : ReadsBack.Statement .electionWindowEnd := by
  intro c h; cases h
theorem ReadsBack.claim : ∀ a, ReadsBack.Statement (.claim a) := by
  intros; intro c h; cases h
theorem ReadsBack.handover : ∀ a, ReadsBack.Statement (.handover a) := by
  intros; intro c h; cases h
theorem ReadsBack.override : ∀ a, ReadsBack.Statement (.override a) := by
  intros; intro c h; cases h
theorem ReadsBack.cmdQreg : ∀ a, ReadsBack.Statement (.cmdQreg a) := by
  intros; intro c h; cases h
theorem ReadsBack.qreset : ∀ a, ReadsBack.Statement (.qreset a) := by
  intros; intro c h; cases h
theorem ReadsBack.qremove : ∀ a, ReadsBack.Statement (.qremove a) := by
  intros; intro c h; cases h
theorem ReadsBack.qappend : ∀ a, ReadsBack.Statement (.qappend a) := by
  intros; intro c h; cases h
theorem ReadsBack.qappendBusy : ∀ a b, ReadsBack.Statement (.qappendBusy a b) := by
  intros; intro c h; cases h
theorem ReadsBack.partchg : ∀ a, ReadsBack.Statement (.partchg a) := by
  intros; intro c h; cases h
theorem ReadsBack.killtask : ∀ a, ReadsBack.Statement (.killtask a) := by
  intros; intro c h; cases h
theorem ReadsBack.killpart : ∀ a, ReadsBack.Statement (.killpart a) := by
  intros; intro c h; cases h
theorem ReadsBack.cmdPower : ∀ a, ReadsBack.Statement (.cmdPower a) := by
  intros; intro c h; cases h
theorem ReadsBack.watchdog : ∀ a, ReadsBack.Statement (.watchdog a) := by
  intros; intro c h; cases h
theorem ReadsBack.dumph : ∀ a, ReadsBack.Statement (.dumph a) := by
  intros; intro c h; cases h
theorem ReadsBack.cmdArnew : ∀ a, ReadsBack.Statement (.cmdArnew a) := by
  intros; intro c h; cases h
theorem ReadsBack.cmdHalloc : ∀ a, ReadsBack.Statement (.cmdHalloc a) := by
  intros; intro c h; cases h
theorem ReadsBack.cmdArseal : ∀ a, ReadsBack.Statement (.cmdArseal a) := by
  intros; intro c h; cases h
theorem ReadsBack.cmdArdrop : ∀ a, ReadsBack.Statement (.cmdArdrop a) := by
  intros; intro c h; cases h
theorem ReadsBack.cmdArquota : ∀ a, ReadsBack.Statement (.cmdArquota a) := by
  intros; intro c h; cases h
theorem ReadsBack.cmdArinfo : ∀ a, ReadsBack.Statement (.cmdArinfo a) := by
  intros; intro c h; cases h
theorem ReadsBack.map : ∀ a, ReadsBack.Statement (.map a) := by
  intros; intro c h; cases h
theorem ReadsBack.unmap : ∀ a, ReadsBack.Statement (.unmap a) := by
  intros; intro c h; cases h
theorem ReadsBack.importHandle : ∀ a, ReadsBack.Statement (.importHandle a) := by
  intros; intro c h; cases h
theorem ReadsBack.mread : ∀ a, ReadsBack.Statement (.mread a) := by
  intros; intro c h; cases h
theorem ReadsBack.mwrite : ∀ a, ReadsBack.Statement (.mwrite a) := by
  intros; intro c h; cases h
theorem ReadsBack.debugtoken : ∀ a, ReadsBack.Statement (.debugtoken a) := by
  intros; intro c h; cases h
theorem ReadsBack.attest : ∀ a, ReadsBack.Statement (.attest a) := by
  intros; intro c h; cases h
theorem ReadsBack.bindvec : ∀ a, ReadsBack.Statement (.bindvec a) := by
  intros; intro c h; cases h
theorem ReadsBack.jread : ∀ a, ReadsBack.Statement (.jread a) := by
  intros; intro c h; cases h
theorem ReadsBack.halt : ∀ a, ReadsBack.Statement (.halt a) := by
  intros; intro c h; cases h
theorem ReadsBack.resume : ∀ a, ReadsBack.Statement (.resume a) := by
  intros; intro c h; cases h
theorem ReadsBack.step : ∀ a, ReadsBack.Statement (.step a) := by
  intros; intro c h; cases h
theorem ReadsBack.bpset : ∀ a, ReadsBack.Statement (.bpset a) := by
  intros; intro c h; cases h
theorem ReadsBack.wpset : ∀ a, ReadsBack.Statement (.wpset a) := by
  intros; intro c h; cases h
theorem ReadsBack.intercept : ∀ a, ReadsBack.Statement (.intercept a) := by
  intros; intro c h; cases h
theorem ReadsBack.regrd : ∀ a, ReadsBack.Statement (.regrd a) := by
  intros; intro c h; cases h
theorem ReadsBack.regwr : ∀ a, ReadsBack.Statement (.regwr a) := by
  intros; intro c h; cases h
theorem ReadsBack.sample : ∀ a, ReadsBack.Statement (.sample a) := by
  intros; intro c h; cases h
theorem ReadsBack.series : ∀ a, ReadsBack.Statement (.series a) := by
  intros; intro c h; cases h
theorem ReadsBack.trace : ∀ a, ReadsBack.Statement (.trace a) := by
  intros; intro c h; cases h
theorem ReadsBack.dbgpol : ∀ a, ReadsBack.Statement (.dbgpol a) := by
  intros; intro c h; cases h
theorem ReadsBack.stoprec : ∀ a, ReadsBack.Statement (.stoprec a) := by
  intros; intro c h; cases h
theorem ReadsBack.memrd : ∀ a, ReadsBack.Statement (.memrd a) := by
  intros; intro c h; cases h
theorem ReadsBack.memwr : ∀ a, ReadsBack.Statement (.memwr a) := by
  intros; intro c h; cases h
theorem ReadsBack.registerWrite : ∀ a b, ReadsBack.Statement (.registerWrite a b) := by
  intros; intro c h; cases h
theorem ReadsBack.breakpointHit : ∀ a, ReadsBack.Statement (.breakpointHit a) := by
  intros; intro c h; cases h
theorem ReadsBack.watchpointHit : ∀ a b c, ReadsBack.Statement (.watchpointHit a b c) := by
  intros; intro c h; cases h
theorem ReadsBack.sampleTick : ∀ a, ReadsBack.Statement (.sampleTick a) := by
  intros; intro c h; cases h
theorem ReadsBack.seriesTick : ∀ a, ReadsBack.Statement (.seriesTick a) := by
  intros; intro c h; cases h
theorem ReadsBack.traceFrameClose : ∀ a, ReadsBack.Statement (.traceFrameClose a) := by
  intros; intro c h; cases h
theorem ReadsBack.traceLoss : ∀ a, ReadsBack.Statement (.traceLoss a) := by
  intros; intro c h; cases h
theorem ReadsBack.tokenExpiry : ∀ a, ReadsBack.Statement (.tokenExpiry a) := by
  intros; intro c h; cases h
theorem ReadsBack.strike : ∀ a, ReadsBack.Statement (.strike a) := by
  intros; intro c h; cases h
theorem ReadsBack.residueMismatch : ∀ a, ReadsBack.Statement (.residueMismatch a) := by
  intros; intro c h; cases h
theorem ReadsBack.poisonConsume : ∀ a, ReadsBack.Statement (.poisonConsume a) := by
  intros; intro c h; cases h
theorem ReadsBack.kilnwaitExpiry : ∀ a, ReadsBack.Statement (.kilnwaitExpiry a) := by
  intros; intro c h; cases h
theorem ReadsBack.kilnTest : ∀ a, ReadsBack.Statement (.kilnTest a) := by
  intros; intro c h; cases h
theorem ReadsBack.kilnTestResult : ∀ a b, ReadsBack.Statement (.kilnTestResult a b) := by
  intros; intro c h; cases h
theorem ReadsBack.kilnFenceApply : ∀ a, ReadsBack.Statement (.kilnFenceApply a) := by
  intros; intro c h; cases h
theorem ReadsBack.linkFailure : ∀ a, ReadsBack.Statement (.linkFailure a) := by
  intros; intro c h; cases h
theorem ReadsBack.ptpMessage : ∀ a, ReadsBack.Statement (.ptpMessage a) := by
  intros; intro c h; cases h
theorem ReadsBack.railAdjust : ∀ a b, ReadsBack.Statement (.railAdjust a b) := by
  intros; intro c h; cases h
theorem ReadsBack.powerThrottle : ∀ a b, ReadsBack.Statement (.powerThrottle a b) := by
  intros; intro c h; cases h
theorem ReadsBack.idleTimeout : ∀ a, ReadsBack.Statement (.idleTimeout a) := by
  intros; intro c h; cases h
theorem ReadsBack.packageReset : ∀ a, ReadsBack.Statement (.packageReset a) := by
  intros; intro c h; cases h
theorem ReadsBack.reservedOpcodeWord : ∀ a b, ReadsBack.Statement (.reservedOpcodeWord a b) := by
  intros; intro c h; cases h
theorem ReadsBack.unknownCommand : ∀ a, ReadsBack.Statement (.unknownCommand a) := by
  intros; intro c h; cases h
theorem ReadsBack.badpacket : ∀ a, ReadsBack.Statement (.badpacket a) := by
  intros; intro c h; cases h
theorem ReadsBack.uncorrectableError : ∀ a, ReadsBack.Statement (.uncorrectableError a) := by
  intros; intro c h; cases h
theorem ReadsBack.requestedDumpComplete : ∀ a b, ReadsBack.Statement (.requestedDumpComplete a b) := by
  intros; intro c h; cases h
theorem ReadsBack.translationWalk : ∀ a b c, ReadsBack.Statement (.translationWalk a b c) := by
  intros; intro c h; cases h
theorem ReadsBack.occReport : ∀ a b, ReadsBack.Statement (.occReport a b) := by
  intros; intro c h; cases h
theorem ReadsBack.clockSlewEnd : ReadsBack.Statement .clockSlewEnd := by
  intro c h; cases h
theorem ReadsBack.haltEnd : ∀ a b, ReadsBack.Statement (.haltEnd a b) := by
  intros; intro c h; cases h

end Sys2Proof.Laws
end

