-- ==== Sys2Proof/Laws/Word.lean ====
section
/-! SUPPORT. What every instruction word does around its meaning: entering the replay window, and falling through. -/

namespace Sys2Proof.Machine

theorem State.KeptThread.refl (s : State) : s.KeptThread s := ⟨⟨rfl, fun _ _ => rfl⟩, rfl, fun _ _ => rfl, rfl⟩

theorem State.KeptPackage.cur {s t : State} (h : s.KeptPackage t) : t.cur = s.cur := by rw [h.package]

theorem State.KeptThread.trans {s t u : State} (h : s.KeptThread t) (k : t.KeptThread u) : s.KeptThread u := by
  have hc : t.cur = s.cur := h.toKeptPackage.cur
  have hu : u.cur = s.cur := k.toKeptPackage.cur.trans hc
  obtain ⟨⟨p1, c1⟩, w1, t1, a1⟩ := h
  obtain ⟨⟨p2, c2⟩, w2, t2, a2⟩ := k
  simp only [State.ccrew, State.cthr, hc, hu] at w1 w2 a1 a2
  rw [hc] at c2
  rw [hc] at t2
  refine ⟨⟨?_, fun v hv => (c2 v hv).trans (c1 v hv)⟩, ?_, fun v hv => (t2 v hv).trans (t1 v hv), ?_⟩
  · rw [p2, p1]
  · simp only [State.ccrew, hu]
    rw [w2, w1]
  · simp only [State.cthr, hu]
    rw [a2, a1]

/-- A change of the issuing thread's registers and slots keeps everything else. -/
theorem State.modCArch_kept (s : State) (f : Arch → Arch) : s.KeptThread (s.modCArch f) := by
  refine ⟨⟨rfl, fun u hu => ?_⟩, ?_, fun k hk => ?_, ?_⟩
  · exact State.setCrew_crew_ne _ _ _ hu
  · simp [State.modCArch, State.ccrew, State.modArch_eq, Crew.setThread]
  · simp [State.modCArch, State.modArch_eq, State.thread_eq, Crew.setThread_thread_ne, hk]
  · simp [State.modCArch, State.cthr, State.modArch_eq, State.thread_eq, Thread.modArch]

theorem State.modCSlot_eq (s : State) (f : Slot → Slot) : s.modCSlot f = s.modCArch (Arch.modSlot · s.cur.slotB f) := rfl

theorem State.pass_kept (s : State) (n : Nat) : s.KeptThread (s.pass n) :=
  ⟨⟨rfl, fun _ _ => rfl⟩, rfl, fun _ _ => rfl, rfl⟩

theorem State.modThread_kept (s : State) (f : Thread → Thread)
    (h : f s.cthr = { s.cthr with arch := (f s.cthr).arch, window := (f s.cthr).window, issued := (f s.cthr).issued
                                  residue := (f s.cthr).residue, past := (f s.cthr).past }) :
    s.KeptThread (s.modThread s.cur.uid s.cur.tid f) := by
  refine ⟨⟨rfl, fun u hu => ?_⟩, ?_, fun k hk => ?_, ?_⟩
  · exact State.setCrew_crew_ne _ _ _ hu
  · simp [State.ccrew, State.modThread_eq, Crew.setThread]
  · simp [State.modThread_eq, State.thread_eq, Crew.setThread_thread_ne, hk]
  · simpa [State.cthr, State.modThread_eq, State.thread_eq] using h

@[simp] theorem State.modThread_cthr (s : State) (f : Thread → Thread) :
    (s.modThread s.cur.uid s.cur.tid f).cthr = f s.cthr := by
  simp [State.cthr, State.modThread_eq, State.thread_eq]

@[simp] theorem State.modThread_ccrew (s : State) (f : Thread → Thread) :
    (s.modThread s.cur.uid s.cur.tid f).ccrew = s.ccrew.setThread s.cur.tid (f s.cthr) := by
  simp [State.ccrew, State.cthr, State.modThread_eq, State.thread_eq]

/-- Keeping the registers of an instruction boundary changes nothing else. -/
theorem State.keepPast_kept (s : State) :
    s.KeptThread (s.modThread s.cur.uid s.cur.tid Thread.keepPast) ∧
      (s.modThread s.cur.uid s.cur.tid Thread.keepPast).carch = s.carch ∧
      (s.modThread s.cur.uid s.cur.tid Thread.keepPast).ccrew.regPoison = s.ccrew.regPoison := by
  refine ⟨State.modThread_kept _ _ rfl, ?_, ?_⟩
  · exact (congrArg Thread.arch (State.modThread_cthr s Thread.keepPast)).trans rfl
  · rw [State.modThread_ccrew]; rfl

/-- A word that enters the window changes nothing but its thread's window and the clock. -/
theorem State.enterWindow_kept (s : State) (eng : Nat) (caps : List Nat) :
    s.KeptThread (s.enterWindow s.cur.uid s.cur.tid eng caps) ∧
      (s.enterWindow s.cur.uid s.cur.tid eng caps).carch = s.carch ∧
      (s.enterWindow s.cur.uid s.cur.tid eng caps).ccrew.regPoison = s.ccrew.regPoison := by
  unfold State.enterWindow
  extract_lets t s1 drop
  have h1 : s.KeptThread s1 ∧ s1.carch = s.carch ∧ s1.cur = s.cur ∧ s1.crews = s.crews := by
    simp only [s1]
    split
    · exact ⟨State.KeptThread.refl s, rfl, rfl, rfl⟩
    · split <;> first | exact ⟨State.pass_kept _ _, rfl, rfl, rfl⟩ | exact ⟨State.KeptThread.refl s, rfl, rfl, rfl⟩
  obtain ⟨hk, ha, hc, hw⟩ := h1
  rw [← hc]
  refine ⟨hk.trans (State.modThread_kept _ _ rfl), ?_, ?_⟩
  · simpa [State.carch] using ha
  · rw [State.modThread_ccrew]; simp [State.ccrew, State.crew, hw, hc]

/-- Draining the window lets time pass and empties it. -/
theorem State.drainWindow_kept (s : State) :
    s.KeptThread (s.drainWindow s.cur.uid s.cur.tid) ∧ (s.drainWindow s.cur.uid s.cur.tid).carch = s.carch ∧
      (s.drainWindow s.cur.uid s.cur.tid).ccrew.regPoison = s.ccrew.regPoison := by
  unfold State.drainWindow
  split
  · exact ⟨State.KeptThread.refl s, rfl, rfl⟩
  · next e _ =>
    refine ⟨(State.pass_kept _ _).trans (State.modThread_kept (s.passTo e.cyc Config.dCycles) _ rfl), ?_, ?_⟩
    · exact (congrArg Thread.arch (State.modThread_cthr (s.passTo e.cyc Config.dCycles)
        fun t => { t with window := [], residue := 0 })).trans rfl
    · exact (congrArg Crew.regPoison (State.modThread_ccrew (s.passTo e.cyc Config.dCycles)
        fun t => { t with window := [], residue := 0 })).trans rfl

@[simp] theorem State.modCArch_regPoison (s : State) (f : Arch → Arch) :
    (s.modCArch f).ccrew.regPoison = s.ccrew.regPoison := by
  rw [(State.modCArch_kept s f).crew]
  simp [State.modCArch, State.ccrew, State.modArch_eq, Crew.setThread]

theorem State.fmt_eq (s : State) : s.fmt = s.cslot.fmt := rfl

theorem State.modCSlot_kept (s : State) (f : Slot → Slot) : s.KeptThread (s.modCSlot f) := State.modCArch_kept s _

theorem State.modCSlot_carch (s : State) (f : Slot → Slot) :
    (s.modCSlot f).carch = s.carch.setSlot s.cur.slotB (f s.cslot) := State.modCArch_carch s _

theorem State.modCSlot_regPoison (s : State) (f : Slot → Slot) : (s.modCSlot f).ccrew.regPoison = s.ccrew.regPoison :=
  State.modCArch_regPoison s _

theorem State.countStep_id {s : State} {p : PairRef}
    (h : Store.get 0 (s.arch p.uid p.tid).stepLeft (boolNat p.slotB) = 0 ∨ (s.slot p).priv.isSome = true) :
    s.countStep p = s := by
  unfold State.countStep
  rcases h with h | h <;> simp [h]

/-- The end of a clause after a change of the slot. -/
theorem State.clauseEnd_slot (t : State) (p : PairRef) (f : Slot → Slot) :
    (t.modSlot p f).clauseEnd p = (t.modSlot p fun x => (f x).endClause).countStep p :=
  congrArg (fun v => State.countStep v p) (State.modSlot_modSlot t p _ _)

/-- The tail of a word that falls through. -/
theorem State.advance_fell {s t : State} (hk : s.KeptThread t) (hs : t.carch.stepLeft = s.carch.stepLeft)
    (hpr : t.cslot.priv = s.cslot.priv) (ho : t.carch.slot (!s.cur.slotB) = s.carch.slot (!s.cur.slotB))
    (hu : s.unstepped = true) :
    s.Fell t.advance t.cslot ∧ t.advance.carch = t.carch.setSlot s.cur.slotB t.advance.cslot ∧
      t.advance.ccrew.regPoison = t.ccrew.regPoison := by
  have hc : t.cur = s.cur := hk.toKeptPackage.cur
  have key : ∃ (u : State) (g : Slot → Slot), t.advance = u.modCSlot g ∧ t.KeptThread u ∧ u.carch = t.carch ∧
      u.ccrew.regPoison = t.ccrew.regPoison ∧
      (if s.cur.word < s.cur.count then
        (g t.cslot).pc = t.cslot.pc ∧ (g t.cslot).word = s.cur.word + 1 ∧ (g t.cslot).started = true
      else (g t.cslot).pc = s.nextClause ∧ (g t.cslot).word = 0 ∧ (g t.cslot).started = false) ∧
      (g t.cslot).st = .ready ∧ (g t.cslot).wait = none ∧
      g t.cslot = { t.cslot with pc := (g t.cslot).pc, word := (g t.cslot).word, started := (g t.cslot).started
                                 st := (g t.cslot).st, wait := (g t.cslot).wait, waitSince := (g t.cslot).waitSince
                                 holds := (g t.cslot).holds
                                 skipBp := (g t.cslot).skipBp, skipWp := (g t.cslot).skipWp
                                 dbgStep := (g t.cslot).dbgStep } := by
    unfold State.advance
    rw [hc]
    by_cases hlt : s.cur.word < s.cur.count
    · simp only [hlt, if_true]
      exact ⟨t, _, rfl, State.KeptThread.refl t, rfl, rfl, by simp, rfl, rfl, rfl⟩
    · simp only [hlt, if_false]
      have hp : t.pair = s.pair := by simp [State.pair, hc]
      let g : Slot → Slot := fun x => (x.at s.nextClause).endClause
      have hid : ∀ v : State, v.cslot = g t.cslot → v.carch.stepLeft = t.carch.stepLeft → v.pair = s.pair →
          v.countStep s.pair = v := by
        intro v hv ha hpv
        refine State.countStep_id ?_
        rw [← hpv, State.pair_slot, hv]
        have h2 : Store.get 0 t.carch.stepLeft (boolNat s.cur.slotB) = 0 ∨ t.cslot.priv.isSome = true := by
          rw [hs, hpr]
          simpa [State.unstepped, hlt] using hu
        refine h2.imp (fun h => ?_) id
        show Store.get 0 v.carch.stepLeft (boolNat v.pair.slotB) = 0
        rw [ha, hpv]
        exact h
      have hn : t.nextClause = s.nextClause := by simp [State.nextClause, hc]
      refine ⟨t, g, ?_, State.KeptThread.refl t, rfl, rfl, ?_, rfl, rfl, rfl⟩
      · rw [hp, hn]
        rw [show t.modCSlot (fun x => x.at s.nextClause) = t.modSlot s.pair (fun x => x.at s.nextClause) by rw [← hp]; rfl,
          State.clauseEnd_slot]
        have e : t.modSlot s.pair g = t.modCSlot g := by rw [← hp]; rfl
        refine (congrArg (fun v => State.countStep v s.pair) e).trans (hid (t.modCSlot g) (State.modCSlot_cslot t g) ?_ hp)
        rw [State.modCSlot_carch]; cases t.cur.slotB <;> rfl
      · exact ⟨rfl, rfl, rfl⟩
  obtain ⟨u, g, he, hku, hau, hvu, hplace, hst, hw, hg⟩ := key
  have hcu : u.cur = s.cur := hku.toKeptPackage.cur.trans hc
  have hsu : u.cslot = t.cslot := by simp only [State.cslot, hau, hcu, hc]
  have hsl : t.advance.cslot = g t.cslot := by rw [he, State.modCSlot_cslot, hsu]
  have har : t.advance.carch = t.carch.setSlot s.cur.slotB t.advance.cslot := by
    rw [he, State.modCSlot_carch, hau, hcu, ← he, hsl, hsu]
  have hkt : s.KeptThread t.advance := by rw [he]; exact hk.trans (hku.trans (State.modCSlot_kept u g))
  refine ⟨⟨hkt, ?_, ?_, ?_, ?_⟩, har, ?_⟩
  · rw [hsl]; exact hplace
  · rw [hsl]; exact ⟨hst, hw⟩
  · rw [hsl, hg]
  · rw [har, Arch.setSlot_slot_other, ho]
  · rw [he, State.modCSlot_regPoison, hvu]

/-- A word that executes runs its meaning in the state after it has entered the window, or emptied it. -/
theorem runWord_executes {s : State} {i : Instr} {w : WordInfo} (hw : wordInfo s i = some w) (h : s.executes i = true)
    (body : State → Res) :
    ∃ t, s.KeptThread t ∧ t.carch = s.carch ∧ t.ccrew.regPoison = s.ccrew.regPoison ∧
      runWord w body s = .next (s.settle w.old (body t)) := by
  simp only [State.executes, hw, Bool.and_eq_true, Bool.not_eq_true', Option.isNone_iff_eq_none] at h
  obtain ⟨⟨⟨h1, h2⟩, h3⟩, h4⟩ := h
  have h5 : (!s.midAtomic && s.fencePending.any fun k => fenceHolds k w.cls) = false := by
    revert h4; cases s.midAtomic <;> cases s.fencePending.any fun k => fenceHolds k w.cls <;> simp
  unfold runWord
  simp only [h1, h2, h3, h5, Bool.not_true, Bool.false_eq_true, if_false]
  cases hold : w.old
  all_goals
    obtain ⟨pk, pa, pp⟩ := State.keepPast_kept s
  · obtain ⟨k, a, p⟩ := State.enterWindow_kept (s.modThread s.cur.uid s.cur.tid Thread.keepPast) (runWord.engOf w.cls) w.caps
    exact ⟨_, pk.trans k, a.trans pa, p.trans pp, rfl⟩
  · obtain ⟨k, a, p⟩ := State.drainWindow_kept (s.modThread s.cur.uid s.cur.tid Thread.keepPast)
    exact ⟨_, pk.trans k, a.trans pa, p.trans pp, rfl⟩

/-! ### Words that write registers -/

/-- A state that differs from `s` in its issuing thread's window and the clock alone reads its registers alike. -/
structure State.Entered (s t : State) : Prop extends State.KeptThread s t where
  arch : t.carch = s.carch
  poison : t.ccrew.regPoison = s.ccrew.regPoison

namespace State.Entered

variable {s t : State} (h : s.Entered t)
include h

theorem cur : t.cur = s.cur := h.toKeptPackage.cur
theorem cslot : t.cslot = s.cslot := by simp only [State.cslot, h.arch, h.cur]
theorem rdS (n : BitVec 6) : t.rdS n = s.rdS n := by simp only [State.rdS, h.cslot, h.arch]
theorem rdV (n : BitVec 6) (l : Nat) : t.rdV n l = s.rdV n l := by simp only [State.rdV, h.arch]
theorem rdP (n : Nat) : t.rdP n = s.rdP n := by simp only [State.rdP, h.arch]
theorem rdH (n : Nat) : t.rdH n = s.rdH n := by simp only [State.rdH, h.arch]
theorem mask : t.mask = s.mask := by simp only [State.mask, h.cslot]
theorem fmt : t.fmt = s.fmt := by simp only [State.fmt, h.cslot]
theorem fenv : t.fenv = s.fenv := by simp only [State.fenv, h.fmt]
theorem guard (gp : BitVec 3) (gn : BitVec 1) : t.guard gp gn = s.guard gp gn := by simp only [State.guard, h.rdP]
theorem lanes (gp : BitVec 3) (gn : BitVec 1) : t.lanes gp gn = s.lanes gp gn := by
  simp only [State.lanes, h.mask, h.guard]

end State.Entered

/-- A register's poison is gone; nothing else has changed. -/
theorem State.cleanReg_kept (s : State) (k : Nat) : s.KeptThread (s.cleanReg k) ∧ (s.cleanReg k).carch = s.carch ∧
    (s.cleanReg k).ccrew.regPoison = Store.set false s.ccrew.regPoison (regKey s.cur.tid k) false := by
  refine ⟨⟨⟨rfl, fun u hu => State.setCrew_crew_ne _ _ _ hu⟩, ?_, fun j _ => ?_, ?_⟩, ?_, ?_⟩
  all_goals simp [State.cleanReg, State.modCrew_eq, State.ccrew, State.cthr, State.carch, State.thread_eq, Crew.thread]

/-- A word that executes with a meaning that only changes its thread's registers, poison marks and slot falls through with them
changed. -/
theorem State.yields_of_arch {s : State} {i : Instr} {w : WordInfo} {body : State → Res} {f : Arch → Arch} {m : Store Bool}
    (hw : wordInfo s i = some w) (he : exec i s = runWord w body s)
    (hb : ∀ t, s.Entered t → ∃ t', body t = .done (t'.modCArch f) ∧ t.KeptThread t' ∧ t'.carch = t.carch ∧ t'.ccrew.regPoison = m)
    (hl : (f s.carch).stepLeft = s.carch.stepLeft)
    (hv : ((f s.carch).slot s.cur.slotB).priv = s.cslot.priv)
    (ho : (f s.carch).slot (!s.cur.slotB) = s.carch.slot (!s.cur.slotB)) {P : State → Prop}
    (hp : ∀ t, s.Fell t ((f s.carch).slot s.cur.slotB) → t.carch = (f s.carch).setSlot s.cur.slotB t.cslot →
      t.ccrew.regPoison = m → P t) : s.yields i P := by
  intro hx hu
  obtain ⟨t0, hk0, ha0, hz0, hr⟩ := runWord_executes hw hx body
  obtain ⟨t, hbt, hk1, ha1, hz⟩ := hb t0 ⟨hk0, ha0, hz0⟩
  rw [hbt] at hr
  have hk : s.KeptThread t := hk0.trans hk1
  have ha : t.carch = s.carch := ha1.trans ha0
  have hcur : t.cur = s.cur := hk.toKeptPackage.cur
  have hc : (t.modCArch f).cslot = (f s.carch).slot s.cur.slotB := by
    simp only [State.cslot, State.modCArch_carch, ha]
    show (f s.carch).slot t.cur.slotB = _
    rw [hcur]
  obtain ⟨h1, h2, h3⟩ := State.advance_fell (hk.trans (State.modCArch_kept t f)) (by rw [State.modCArch_carch, ha, hl])
    (by rw [hc, hv]) (by rw [State.modCArch_carch, ha, ho]) hu
  refine ⟨(t.modCArch f).advance, he.trans hr, hp _ (hc ▸ h1) ?_ ?_⟩
  · rw [h2, State.modCArch_carch, ha]
  · rw [h3, State.modCArch_regPoison, hz]

/-- A word whose meaning writes one scalar register. -/
theorem State.yields_wroteS {s : State} {i : Instr} {w : WordInfo} {body : State → Res} {n : BitVec 6} {v : DWord}
    (hw : wordInfo s i = some w) (he : exec i s = runWord w body s)
    (hb : ∀ t, s.Entered t → body t = .done (t.wrS n v)) : s.yields i fun t => s.WroteS t n v := by
  have hc : ∀ a : Arch, ∀ b, ({ a with s := Store.set 0 a.s n.toNat v } : Arch).slot b = a.slot b ∧
      ({ a with bank := Store.set 0 a.bank n.toNat v } : Arch).slot b = a.slot b := by
    intro a b; cases b <;> exact ⟨rfl, rfl⟩
  cases hp : s.cslot.priv.isSome
  · refine State.yields_of_arch (f := fun a => { a with s := Store.set 0 a.s n.toNat v })
      (m := Store.set false s.ccrew.regPoison (regKey s.cur.tid n.toNat) false) hw he ?_
      rfl (by rw [(hc _ _).1]; rfl) (hc _ _).1 ?_
    · intro t ht
      obtain ⟨k, a, q⟩ := State.cleanReg_kept t (sKey n)
      refine ⟨t.cleanReg (sKey n), ?_, k, a, ?_⟩
      · rw [hb t ht, State.wrS, ht.cslot, hp]; rfl
      · rw [q, ht.poison, ht.cur]; rfl
    · intro t hF ha hv
      rw [(hc _ _).1] at hF
      have hcu : t.cslot.priv = s.cslot.priv := by rw [hF.slot]; rfl
      refine ⟨hF, ?_, ?_, ?_, ?_⟩
      · intro k; rw [hv, hp, Store.get_set]; by_cases hk : k = regKey s.cur.tid n.toNat <;> simp [hk]
      · rw [ha]; cases s.cur.slotB <;> rfl
      · intro m
        simp only [State.rdS, hcu, hp, ha]
        cases s.cur.slotB <;> simp [Arch.setSlot, Store.get_set, BitVec.toNat_inj]
      · simp only [hp]; rw [ha]; cases s.cur.slotB <;> rfl
  · refine State.yields_of_arch (f := fun a => { a with bank := Store.set 0 a.bank n.toNat v }) (m := s.ccrew.regPoison) hw he ?_
      rfl (by rw [(hc _ _).2]; rfl) (hc _ _).2 ?_
    · intro t ht
      refine ⟨t, ?_, State.KeptThread.refl t, rfl, ht.poison⟩
      rw [hb t ht, State.wrS, ht.cslot, hp]; rfl
    · intro t hF ha hv
      rw [(hc _ _).2] at hF
      have hcu : t.cslot.priv = s.cslot.priv := by rw [hF.slot]; rfl
      refine ⟨hF, ?_, ?_, ?_, ?_⟩
      · intro k; rw [hv, hp]; simp
      · rw [ha]; cases s.cur.slotB <;> rfl
      · intro m
        simp only [State.rdS, hcu, hp, ha, if_true]
        cases s.cur.slotB <;> simp [Arch.setSlot, Store.get_set, BitVec.toNat_inj]
      · simp only [hp]; rw [ha]; cases s.cur.slotB <;> rfl

end Sys2Proof.Machine
end

