-- ==== Sys2Proof/Tests/Slice0.lean ====
section
/-! SUPPORT. Tests: ill-formed instructions that `Instr.wf` refuses, words written out from the manual's encodings, single
steps with values from the manual, and for each statement with hypotheses states and operands that meet them (`witness_…`). -/

namespace Sys2Proof.Machine.Tests

set_option Elab.async false

/-! ### States to test on -/

/-- The machine at word `i`, placed where the next step fetches it; `p` changes the machine before the word is fetched. -/
def atWord (i : Instr) (p : State → State := id) : State :=
  match i.cls? with
  | none => State.reset
  | some c =>
    let w := encode i
    match (p (State.reset.withProgram c w)).issueNext ⟨1, soleTid c w, false⟩ with
    | .run _ t => t
    | .does _ => State.reset
    | .stop _ => State.reset

def reg (n : BitVec 6) (v : DWord) (s : State) : State := s.wrS n v
def pred (n : Nat) (v : Word) (s : State) : State := s.wrP n v
def thr (f : Thread → Thread) (s : State) : State := s.modThread s.cur.uid s.cur.tid f
def crw (f : Crew → Crew) (s : State) : State := s.modCrew s.cur.uid f
def arc (f : Arch → Arch) (s : State) : State := s.modCArch f
def slt (f : Slot → Slot) (s : State) : State := s.modCSlot f
def toks (n : Nat) : Thread → Thread := fun t => { t with toks := [(0, ⟨true, n⟩)] }

/-- In the state `f` makes of the machine at word `i`, the word executes outside single-stepping and `h` holds. -/
def wit (i : Instr) (f : State → State) (h : State → Bool) : Bool :=
  let s := f (atWord i)
  s.executes i && s.unstepped && h s

/-- The state after word `i`, run where `f` changes the machine before it. -/
def after (i : Instr) (f : State → State) : State := match exec i (f (atWord i)) with
  | .next t => t
  | _ => State.reset


/-! ### Ill-formed terms: for every check of `Instr.wf` a term that fails it alone -/

theorem test_wf_refuses_from_vmov : ([
    .vmov ⟨0, 0, 0, 0, 1, 0⟩, .vmov ⟨0, 0, 0, 1, 0, 0⟩, .vmov ⟨0, 0, 1, 0, 0, 0⟩,
    .vmovi ⟨0, 1, 0, 0⟩, .vmovi ⟨0, 0, 4, 0⟩,
    .vadd ⟨0, 0, 0, 0, 1, 0⟩, .vadd ⟨0, 0, 0, 6, 0, 0⟩,
    .vsub ⟨0, 0, 0, 0, 1, 0⟩, .vsub ⟨0, 0, 0, 6, 0, 0⟩,
    .vadds ⟨0, 0, 0, 0, 1, 0⟩, .vadds ⟨0, 0, 0, 6, 0, 0⟩,
    .vsubs ⟨0, 0, 0, 0, 1, 0⟩, .vsubs ⟨0, 0, 0, 6, 0, 0⟩,
    .vmul ⟨0, 0, 0, 0, 1, 0⟩, .vmul ⟨0, 0, 0, 6, 0, 0⟩,
    .vmulhi ⟨0, 0, 0, 0, 1, 0⟩, .vmulhi ⟨0, 0, 0, 6, 0, 0⟩,
    .vmad ⟨0, 0, 0, 0, 1, 0⟩, .vmad ⟨0, 0, 0, 6, 0, 0⟩,
    .vmin ⟨0, 0, 0, 0, 1, 0⟩, .vmin ⟨0, 0, 0, 6, 0, 0⟩,
    .vmax ⟨0, 0, 0, 0, 1, 0⟩, .vmax ⟨0, 0, 0, 6, 0, 0⟩,
    .vabsd ⟨0, 0, 0, 0, 1, 0⟩, .vabsd ⟨0, 0, 0, 6, 0, 0⟩] : List Instr).all (fun i => !i.wf) = true := by decide

theorem test_wf_refuses_from_vand : ([
    .vand ⟨0, 0, 0, 0, 1, 0⟩, .vand ⟨0, 0, 0, 1, 0, 0⟩,
    .vor ⟨0, 0, 0, 0, 1, 0⟩, .vor ⟨0, 0, 0, 1, 0, 0⟩,
    .vxor ⟨0, 0, 0, 0, 1, 0⟩, .vxor ⟨0, 0, 0, 1, 0, 0⟩,
    .vandn ⟨0, 0, 0, 0, 1, 0⟩, .vandn ⟨0, 0, 0, 1, 0, 0⟩,
    .vshl ⟨0, 0, 0, 0, 1, 0⟩, .vshl ⟨0, 0, 0, 6, 0, 0⟩,
    .vshr ⟨0, 0, 0, 0, 1, 0⟩, .vshr ⟨0, 0, 0, 6, 0, 0⟩,
    .vrot ⟨0, 0, 0, 0, 1, 0⟩, .vrot ⟨0, 0, 0, 0, 0, 0⟩,
    .vbfe ⟨0, 0, 0, 0, 1, 0⟩, .vbfe ⟨0, 0, 0, 2, 0, 0⟩,
    .vbfi ⟨0, 0, 0, 0, 1, 0⟩, .vbfi ⟨0, 0, 0, 1, 0, 0⟩,
    .vpopc ⟨0, 0, 0, 0, 1, 0⟩, .vpopc ⟨0, 0, 0, 0, 0, 0⟩, .vpopc ⟨0, 0, 1, 0, 0, 0⟩,
    .vclz ⟨0, 0, 0, 0, 1, 0⟩, .vclz ⟨0, 0, 0, 0, 0, 0⟩, .vclz ⟨0, 0, 1, 0, 0, 0⟩,
    .vbrev ⟨0, 0, 0, 0, 1, 0⟩, .vbrev ⟨0, 0, 0, 1, 0, 0⟩, .vbrev ⟨0, 0, 1, 0, 0, 0⟩,
    .vsel ⟨0, 0, 0, 0, 1, 0⟩, .vsel ⟨0, 0, 0, 1, 0, 0⟩] : List Instr).all (fun i => !i.wf) = true := by decide

theorem test_wf_refuses_from_vaddi : ([
    .vaddi ⟨0, 0, 4, 0⟩,
    .vandi ⟨0, 0, 2, 0⟩,
    .vshli ⟨0, 0, 4, 0⟩, .vshli ⟨0, 0, 0, 32⟩, .vshli ⟨0, 0, 2, 16⟩,
    .vshri ⟨0, 0, 4, 0⟩, .vshri ⟨0, 0, 0, 32⟩, .vshri ⟨0, 0, 2, 16⟩,
    .vacs ⟨0, 0, 0, 3, 0⟩, .vacs ⟨0, 0, 0, 2, 8⟩, .vacs ⟨0, 0, 0, 2, 1⟩,
    .vhsel ⟨0, 0, 0, 1, 0⟩,
    .vperm ⟨0, 0, 0, 0, 1, 0⟩, .vperm ⟨0, 0, 0, 1, 0, 0⟩,
    .vshfl ⟨0, 0, 1, 0⟩, .vshfl ⟨0, 0, 0, 32⟩,
    .vred ⟨0, 0, 0, 16⟩, .vred ⟨0, 0, 0, 6⟩, .vred ⟨0, 0, 1, 8⟩, .vred ⟨0, 0, 0, 11⟩,
    .vscan ⟨0, 0, 0, 0, 1, 0⟩, .vscan ⟨0, 0, 16, 0, 0, 0⟩, .vscan ⟨0, 0, 6, 0, 0, 0⟩, .vscan ⟨0, 0, 8, 1, 0, 0⟩, .vscan ⟨0, 0, 11, 0, 0, 0⟩] : List Instr).all (fun i => !i.wf) = true := by decide

theorem test_wf_refuses_from_vmovs : ([
    .vmovs ⟨0, 0, 1, 0⟩, .vmovs ⟨0, 0, 0, 1⟩,
    .vrdl ⟨0, 0, 2, 0⟩, .vrdl ⟨0, 0, 0, 32⟩,
    .vwrl ⟨0, 0, 1, 0⟩, .vwrl ⟨0, 0, 0, 32⟩,
    .vsr ⟨0, 1, 1, 0⟩, .vsr ⟨0, 0, 2, 0⟩, .vsr ⟨0, 0, 1, 9⟩,
    .vdot4 ⟨0, 0, 0, 4, 1, 0⟩, .vdot4 ⟨0, 0, 0, 3, 0, 0⟩,
    .vdot2 ⟨0, 0, 0, 1, 1, 0⟩, .vdot2 ⟨0, 0, 0, 0, 0, 0⟩] : List Instr).all (fun i => !i.wf) = true := by decide

theorem test_wf_refuses_from_vfadd : ([
    .vfadd ⟨0, 0, 0, 0, 1, 0⟩, .vfadd ⟨0, 0, 0, 3, 0, 0⟩,
    .vfsub ⟨0, 0, 0, 0, 1, 0⟩, .vfsub ⟨0, 0, 0, 3, 0, 0⟩,
    .vfmul ⟨0, 0, 0, 0, 1, 0⟩, .vfmul ⟨0, 0, 0, 3, 0, 0⟩,
    .vfma ⟨0, 0, 0, 0, 1, 0⟩, .vfma ⟨0, 0, 0, 3, 0, 0⟩,
    .vfmin ⟨0, 0, 0, 0, 1, 0⟩, .vfmin ⟨0, 0, 0, 3, 0, 0⟩,
    .vfmax ⟨0, 0, 0, 0, 1, 0⟩, .vfmax ⟨0, 0, 0, 3, 0, 0⟩] : List Instr).all (fun i => !i.wf) = true := by decide

theorem test_wf_refuses_from_vcmp : ([
    .vcmp ⟨0, 0, 0, 0, 2, 0⟩, .vcmp ⟨0, 6, 0, 0, 0, 0⟩,
    .vfcmp ⟨0, 0, 0, 0, 1, 0⟩, .vfcmp ⟨0, 8, 0, 0, 0, 0⟩,
    .vrcp ⟨0, 0, 0, 0, 1, 0⟩, .vrcp ⟨0, 0, 0, 3, 0, 0⟩, .vrcp ⟨0, 0, 1, 0, 0, 0⟩,
    .vrsqrt ⟨0, 0, 0, 0, 1, 0⟩, .vrsqrt ⟨0, 0, 0, 3, 0, 0⟩, .vrsqrt ⟨0, 0, 1, 0, 0, 0⟩,
    .vsqrt ⟨0, 0, 0, 0, 1, 0⟩, .vsqrt ⟨0, 0, 0, 3, 0, 0⟩, .vsqrt ⟨0, 0, 1, 0, 0, 0⟩,
    .vexp2 ⟨0, 0, 0, 0, 1, 0⟩, .vexp2 ⟨0, 0, 0, 3, 0, 0⟩, .vexp2 ⟨0, 0, 1, 0, 0, 0⟩,
    .vlog2 ⟨0, 0, 0, 0, 1, 0⟩, .vlog2 ⟨0, 0, 0, 3, 0, 0⟩, .vlog2 ⟨0, 0, 1, 0, 0, 0⟩,
    .vcvt ⟨0, 0, 0, 0, 1, 0⟩, .vcvt ⟨0, 0, 0, 1, 0, 0⟩, .vcvt ⟨0, 0, 32, 0, 0, 0⟩, .vcvt ⟨0, 0, 14, 0, 0, 0⟩, .vcvt ⟨0, 0, 15, 0, 0, 0⟩,
    .vfclass ⟨0, 0, 0, 0, 1, 0⟩, .vfclass ⟨0, 0, 0, 3, 0, 0⟩, .vfclass ⟨0, 0, 1, 0, 0, 0⟩,
    .vround ⟨0, 0, 0, 3, 0⟩, .vround ⟨0, 0, 1, 0, 0⟩, .vround ⟨0, 0, 0, 0, 5⟩] : List Instr).all (fun i => !i.wf) = true := by decide

theorem test_wf_refuses_from_smov : ([
    .smov ⟨0, 0, 1, 0⟩, .smov ⟨0, 0, 0, 1⟩,
    .sadd ⟨0, 0, 0, 1⟩,
    .ssub ⟨0, 0, 0, 1⟩,
    .smul ⟨0, 0, 0, 1⟩,
    .smulh ⟨0, 0, 0, 2⟩,
    .sdiv ⟨0, 0, 0, 2⟩,
    .srem ⟨0, 0, 0, 2⟩,
    .sand ⟨0, 0, 0, 1⟩,
    .sor ⟨0, 0, 0, 1⟩,
    .sxor ⟨0, 0, 0, 1⟩,
    .sshl ⟨0, 0, 0, 1⟩,
    .sshr ⟨0, 0, 0, 2⟩,
    .smin ⟨0, 0, 0, 2⟩,
    .smax ⟨0, 0, 0, 2⟩] : List Instr).all (fun i => !i.wf) = true := by decide

theorem test_wf_refuses_from_sshli : ([
    .sshli ⟨0, 0, 64⟩,
    .sshri ⟨0, 0, 64⟩,
    .scmp ⟨0, 0, 0, 6⟩,
    .sbfe ⟨0, 0, 0, 2⟩,
    .spopc ⟨0, 0, 1, 0⟩, .spopc ⟨0, 0, 0, 1⟩,
    .sclz ⟨0, 0, 1, 0⟩, .sclz ⟨0, 0, 0, 1⟩,
    .sfadd ⟨0, 0, 0, 1⟩,
    .sfmul ⟨0, 0, 0, 1⟩,
    .sfma ⟨0, 0, 0, 1⟩,
    .scvt ⟨0, 0, 1, 0⟩, .scvt ⟨0, 0, 0, 5⟩, .scvt ⟨0, 0, 0, 21⟩,
    .srd ⟨0, 26⟩,
    .swr ⟨0, 4⟩,
    .sfmt ⟨1, 0, 0, 0⟩, .sfmt ⟨0, 0, 0, 1⟩] : List Instr).all (fun i => !i.wf) = true := by decide

theorem test_wf_refuses_from_pand : ([
    .pand ⟨8, 0, 0, 0⟩, .pand ⟨0, 8, 0, 0⟩, .pand ⟨0, 0, 8, 0⟩, .pand ⟨0, 0, 0, 1⟩,
    .por ⟨8, 0, 0, 0⟩, .por ⟨0, 8, 0, 0⟩, .por ⟨0, 0, 8, 0⟩, .por ⟨0, 0, 0, 1⟩,
    .pxor ⟨8, 0, 0, 0⟩, .pxor ⟨0, 8, 0, 0⟩, .pxor ⟨0, 0, 8, 0⟩, .pxor ⟨0, 0, 0, 1⟩,
    .pandn ⟨8, 0, 0, 0⟩, .pandn ⟨0, 8, 0, 0⟩, .pandn ⟨0, 0, 8, 0⟩, .pandn ⟨0, 0, 0, 1⟩,
    .pmovsp ⟨8, 0, 0, 0⟩, .pmovsp ⟨0, 0, 1, 0⟩, .pmovsp ⟨0, 0, 0, 2⟩, .pmovsp ⟨3, 0, 0, 1⟩,
    .pmovps ⟨0, 8, 0, 0⟩, .pmovps ⟨0, 0, 1, 0⟩, .pmovps ⟨0, 0, 0, 2⟩, .pmovps ⟨0, 3, 0, 1⟩,
    .pcnt ⟨0, 8, 0, 0⟩, .pcnt ⟨0, 0, 1, 0⟩, .pcnt ⟨0, 0, 0, 1⟩,
    .pfirst ⟨0, 8, 0, 0⟩, .pfirst ⟨0, 0, 1, 0⟩, .pfirst ⟨0, 0, 0, 1⟩] : List Instr).all (fun i => !i.wf) = true := by decide

theorem test_wf_refuses_from_vld : ([
    .vld ⟨0, 0, 0, 3, 0, 0, 0, 0⟩, .vld ⟨0, 0, 0, 0, 2, 0, 0, 0⟩, .vld ⟨0, 0, 0, 0, 0, 0, 1, 0⟩, .vld ⟨0, 0, 0, 0, 0, 0, 0, 1⟩,
    .vlds ⟨0, 0, 0, 2, 0, 0, 0, 0⟩, .vlds ⟨0, 0, 0, 0, 2, 0, 0, 0⟩, .vlds ⟨0, 0, 0, 0, 0, 0, 1, 0⟩, .vlds ⟨0, 0, 0, 0, 0, 0, 0, 1⟩,
    .vst ⟨0, 0, 0, 3, 0, 0, 0, 0⟩, .vst ⟨0, 0, 0, 0, 1, 0, 0, 0⟩, .vst ⟨0, 0, 0, 0, 0, 0, 1, 0⟩, .vst ⟨0, 0, 0, 0, 0, 0, 0, 1⟩,
    .sld ⟨0, 0, 0, 0, 1, 0⟩,
    .slds ⟨0, 0, 0, 3, 0, 0⟩, .slds ⟨0, 0, 0, 0, 1, 0⟩,
    .sst ⟨0, 0, 0, 0, 1, 0⟩] : List Instr).all (fun i => !i.wf) = true := by decide

theorem test_wf_refuses_from_vatomI32 : ([
    .vatomI32 ⟨0, 0, 0, 0, 8⟩,
    .vatomU32 ⟨0, 0, 0, 0, 8⟩,
    .vatomF32 ⟨0, 0, 0, 0, 3⟩, .vatomF32 ⟨0, 0, 0, 0, 8⟩,
    .vatomF16x2 ⟨0, 0, 0, 0, 3⟩, .vatomF16x2 ⟨0, 0, 0, 0, 8⟩,
    .vatomB16x2 ⟨0, 0, 0, 0, 3⟩, .vatomB16x2 ⟨0, 0, 0, 0, 8⟩,
    .vatomnI32 ⟨0, 0, 0, 0, 8⟩, .vatomnI32 ⟨1, 0, 0, 0, 0⟩,
    .vatomnU32 ⟨0, 0, 0, 0, 8⟩, .vatomnU32 ⟨1, 0, 0, 0, 0⟩,
    .vatomnF32 ⟨0, 0, 0, 0, 3⟩, .vatomnF32 ⟨0, 0, 0, 0, 8⟩, .vatomnF32 ⟨1, 0, 0, 0, 0⟩,
    .vatomnF16x2 ⟨0, 0, 0, 0, 3⟩, .vatomnF16x2 ⟨0, 0, 0, 0, 8⟩, .vatomnF16x2 ⟨1, 0, 0, 0, 0⟩,
    .vatomnB16x2 ⟨0, 0, 0, 0, 3⟩, .vatomnB16x2 ⟨0, 0, 0, 0, 8⟩, .vatomnB16x2 ⟨1, 0, 0, 0, 0⟩,
    .satom ⟨0, 0, 0, 0, 8⟩] : List Instr).all (fun i => !i.wf) = true := by decide

theorem test_wf_refuses_from_hsel : ([
    .hsel ⟨1, 0, 2, 0, 0, 0⟩, .hsel ⟨0, 0, 2, 1, 0, 0⟩, .hsel ⟨0, 0, 2, 0, 1, 0⟩, .hsel ⟨0, 0, 1, 0, 0, 0⟩,
    .hinfo ⟨0, 1, 0, 0, 0, 0⟩, .hinfo ⟨0, 0, 0, 1, 0, 0⟩, .hinfo ⟨0, 0, 0, 0, 1, 0⟩, .hinfo ⟨0, 0, 0, 0, 0, 4⟩,
    .fence ⟨4, 0, 0⟩, .fence ⟨0, 5, 0⟩, .fence ⟨0, 0, 1⟩,
    .flsig ⟨0, 0, 0, 1, 0, 0⟩, .flsig ⟨0, 0, 0, 0, 1, 0⟩,
    .flwait ⟨0, 0, 0, 1, 0, 0⟩, .flwait ⟨0, 0, 0, 0, 1, 0⟩] : List Instr).all (fun i => !i.wf) = true := by decide

theorem test_wf_refuses_from_bra : ([
    .bra ⟨1, 0, 0⟩, .bra ⟨0, 1, 0⟩,
    .brp ⟨1, 0, 0⟩,
    .rcvpt ⟨1, 0, 0⟩, .rcvpt ⟨0, 1, 0⟩,
    .join ⟨1, 0⟩, .join ⟨0, 1⟩,
    .bcnd ⟨6, 0, 0, 0⟩,
    .sloop ⟨6, 0, 0, 0⟩,
    .call ⟨1, 0, 0⟩, .call ⟨0, 1, 0⟩,
    .callr ⟨0, 1⟩,
    .ret ⟨1, 0⟩, .ret ⟨0, 1⟩,
    .jmp ⟨0, 1⟩,
    .exit ⟨1, 0⟩, .exit ⟨0, 1⟩,
    .yield ⟨1, 0⟩, .yield ⟨0, 1⟩,
    .twait ⟨1, 0⟩, .twait ⟨0, 256⟩,
    .dqpop ⟨0, 1⟩,
    .dqpush ⟨0, 1⟩,
    .bany ⟨1, 0, 0⟩,
    .ball ⟨1, 0, 0⟩,
    .nop ⟨1, 0⟩, .nop ⟨0, 1⟩] : List Instr).all (fun i => !i.wf) = true := by decide

theorem test_wf_refuses_from_mshape : ([
    .mshape ⟨0, 61, 0, 0⟩, .mshape ⟨1, 0, 0, 0⟩, .mshape ⟨0, 0, 1, 0⟩, .mshape ⟨0, 0, 0, 128⟩, .mshape ⟨0, 0, 0, 2⟩,
    .mzero ⟨1, 0, 0, 0⟩, .mzero ⟨0, 1, 0, 0⟩, .mzero ⟨0, 0, 1, 0⟩, .mzero ⟨0, 0, 0, 8⟩, .mzero ⟨0, 0, 0, 1⟩,
    .mma ⟨0, 0, 0, 1, 0, 0⟩, .mma ⟨0, 0, 0, 0, 1, 0⟩, .mma ⟨0, 0, 0, 0, 0, 1⟩, .mma ⟨57, 0, 0, 0, 0, 0⟩, .mma ⟨0, 61, 0, 0, 0, 0⟩, .mma ⟨0, 0, 61, 0, 0, 0⟩,
    .mloop ⟨0, 61, 0, 0⟩, .mloop ⟨16, 0, 0, 0⟩, .mloop ⟨0, 0, 0, 2⟩,
    .mloopg ⟨0, 61, 0, 0⟩, .mloopg ⟨16, 0, 0, 0⟩, .mloopg ⟨0, 0, 0, 2⟩,
    .mloopn ⟨0, 61, 0, 0⟩, .mloopn ⟨16, 0, 0, 0⟩, .mloopn ⟨0, 0, 0, 2⟩,
    .msmx ⟨0, 61, 0, 0⟩, .msmx ⟨8, 0, 0, 0⟩, .msmx ⟨0, 0, 0, 8⟩, .msmx ⟨0, 0, 0, 2⟩,
    .mdrain ⟨0, 61, 0, 0⟩, .mdrain ⟨16, 0, 0, 0⟩, .mdrain ⟨1, 0, 0, 0⟩,
    .mside ⟨0, 61, 0, 0⟩, .mside ⟨0, 0, 1, 0⟩, .mside ⟨0, 0, 0, 8⟩, .mside ⟨0, 0, 0, 4⟩,
    .mprog ⟨0, 61, 0, 0⟩, .mprog ⟨0, 0, 1, 0⟩, .mprog ⟨0, 0, 0, 1⟩,
    .mstat ⟨0, 1, 0, 0⟩, .mstat ⟨0, 0, 1, 0⟩, .mstat ⟨0, 0, 0, 2⟩] : List Instr).all (fun i => !i.wf) = true := by decide

theorem test_wf_refuses_from_cpy : ([
    .cpy ⟨0, 61, 0, 0⟩, .cpy ⟨0, 0, 0, 1⟩,
    .cpy2d ⟨0, 61, 0, 0⟩, .cpy2d ⟨0, 0, 0, 128⟩,
    .cpymc ⟨0, 61, 0, 0⟩, .cpymc ⟨0, 0, 0, 1⟩, .cpymc ⟨0, 0, 0, 512⟩,
    .cpyfill ⟨0, 61, 0, 0⟩, .cpyfill ⟨0, 0, 0, 1⟩,
    .cpyrec ⟨0, 61, 0, 0⟩, .cpyrec ⟨0, 0, 1, 0⟩, .cpyrec ⟨0, 0, 0, 1⟩,
    .tlrd ⟨0, 61, 0, 0⟩, .tlrd ⟨0, 0, 1, 0⟩, .tlrd ⟨0, 0, 0, 1⟩,
    .tlwait ⟨0, 61, 0, 0⟩, .tlwait ⟨0, 0, 1, 0⟩, .tlwait ⟨0, 0, 0, 1⟩,
    .cprog ⟨0, 61, 0, 0⟩, .cprog ⟨0, 0, 1, 0⟩, .cprog ⟨0, 0, 0, 1⟩,
    .qpost ⟨0, 61, 0, 0⟩, .qpost ⟨0, 0, 0, 1⟩] : List Instr).all (fun i => !i.wf) = true := by decide

theorem test_wf_refuses_from_arnew : ([
    .arnew ⟨0, 61, 0, 0⟩, .arnew ⟨0, 0, 1, 0⟩, .arnew ⟨0, 0, 0, 1⟩,
    .halloc ⟨0, 61, 0, 0⟩, .halloc ⟨0, 0, 1, 0⟩, .halloc ⟨0, 0, 0, 1⟩,
    .arseal ⟨0, 61, 0, 0⟩, .arseal ⟨0, 0, 0, 1⟩,
    .ardrop ⟨0, 61, 0, 0⟩, .ardrop ⟨0, 0, 0, 1⟩,
    .arquota ⟨0, 61, 0, 0⟩, .arquota ⟨0, 0, 1, 0⟩, .arquota ⟨0, 0, 0, 1⟩,
    .arinfo ⟨0, 61, 0, 0⟩, .arinfo ⟨0, 0, 1, 0⟩, .arinfo ⟨0, 0, 0, 1⟩] : List Instr).all (fun i => !i.wf) = true := by decide

theorem test_wf_refuses_from_send : ([
    .send ⟨0, 61, 0, 0⟩, .send ⟨0, 0, 0, 1⟩,
    .asend ⟨0, 61, 0, 0⟩, .asend ⟨0, 0, 0, 1⟩,
    .rdy ⟨0, 61, 0, 0⟩, .rdy ⟨0, 0, 0, 1⟩,
    .unrdy ⟨0, 61, 0, 0⟩, .unrdy ⟨0, 0, 1, 0⟩, .unrdy ⟨0, 0, 0, 1⟩,
    .recv ⟨0, 61, 0, 0⟩, .recv ⟨0, 0, 0, 1⟩,
    .grpnew ⟨0, 61, 0, 0⟩, .grpnew ⟨0, 0, 1, 0⟩, .grpnew ⟨0, 0, 0, 1⟩,
    .grpdel ⟨0, 61, 0, 0⟩, .grpdel ⟨0, 0, 0, 1⟩,
    .colnew ⟨0, 61, 0, 0⟩, .colnew ⟨0, 0, 1, 0⟩, .colnew ⟨0, 0, 0, 1⟩,
    .redpost ⟨0, 61, 0, 0⟩, .redpost ⟨0, 0, 0, 1⟩,
    .redwait ⟨0, 61, 0, 0⟩, .redwait ⟨0, 0, 1, 0⟩, .redwait ⟨0, 0, 0, 1⟩, .redwait ⟨63, 0, 0, 0⟩,
    .colabort ⟨0, 61, 0, 0⟩, .colabort ⟨0, 0, 1, 0⟩, .colabort ⟨0, 0, 0, 1⟩,
    .msgstat ⟨0, 61, 0, 0⟩, .msgstat ⟨0, 0, 1, 0⟩, .msgstat ⟨0, 0, 0, 1⟩] : List Instr).all (fun i => !i.wf) = true := by decide

theorem test_wf_refuses_from_trap : ([
    .trap ⟨1, 0⟩,
    .brk ⟨1, 0⟩,
    .eret ⟨0, 1⟩,
    .capmask ⟨0, 1⟩,
    .dump ⟨0, 61, 0, 0⟩, .dump ⟨0, 0, 1, 0⟩, .dump ⟨0, 0, 0, 1⟩,
    .respost ⟨0, 1⟩,
    .sstep ⟨1, 0⟩,
    .kiln ⟨0, 61, 0, 0⟩, .kiln ⟨0, 0, 1, 0⟩, .kiln ⟨0, 0, 0, 1⟩] : List Instr).all (fun i => !i.wf) = true := by decide

/-! ### Words written out from the encoding table (the opcode, and fields by R67), with the instructions they stand for -/

theorem test_words_vec0 :
    decode .vec 0x007C800C = some (.vmov ⟨15, 36, 0, 0, 1, 4⟩) ∧
    decode .vec 0x02800B27 = some (.vmovi ⟨16, 0, 2, 807⟩) ∧
    decode .vec 0x04D3A4CA = some (.vadd ⟨26, 29, 9, 4, 1, 2⟩) ∧
    decode .vec 0x06BA575C = some (.vsub ⟨23, 18, 46, 5, 1, 4⟩) ∧
    decode .vec 0x09A0D5DA = some (.vadds ⟨52, 6, 43, 5, 1, 2⟩) ∧
    decode .vec 0x0B1473AE = some (.vsubs ⟨34, 35, 39, 2, 1, 6⟩) ∧
    decode .vec 0x0C5AE6AF = some (.vmul ⟨11, 23, 13, 2, 1, 7⟩) ∧
    decode .vec 0x0E9363DC = some (.vmulhi ⟨18, 27, 7, 5, 1, 4⟩) ∧
    decode .vec 0x11C7B52C = some (.vmad ⟨56, 61, 42, 2, 1, 4⟩) ∧
    decode .vec 0x12B3083A = some (.vmin ⟨22, 24, 16, 3, 1, 2⟩) ∧
    decode .vec 0x1517425E = some (.vmax ⟨34, 58, 4, 5, 1, 6⟩) ∧
    decode .vec 0x172109AC = some (.vabsd ⟨36, 8, 19, 2, 1, 4⟩) ∧
    decode .vec 0x187B1D8A = some (.vand ⟨15, 24, 59, 0, 1, 2⟩) ∧
    decode .vec 0x1AA7A88F = some (.vor ⟨20, 61, 17, 0, 1, 7⟩) ∧
    decode .vec 0x1D1B378C = some (.vxor ⟨35, 25, 47, 0, 1, 4⟩) ∧
    decode .vec 0x1EAD480F = some (.vandn ⟨21, 42, 16, 0, 1, 7⟩) ∧
    decode .vec 0x206E5BAF = some (.vshl ⟨13, 50, 55, 2, 1, 7⟩) ∧
    decode .vec 0x23028B2D = some (.vshr ⟨32, 20, 22, 2, 1, 5⟩) ∧
    decode .vec 0x25A1D9BF = some (.vrot ⟨52, 14, 51, 3, 1, 7⟩) ∧
    decode .vec 0x27849514 = some (.vbfe ⟨48, 36, 42, 1, 0, 4⟩) ∧
    decode .vec 0x2862D28E = some (.vbfi ⟨12, 22, 37, 0, 1, 6⟩) ∧
    decode .vec 0x2AB5C03A = some (.vpopc ⟨22, 46, 0, 3, 1, 2⟩) ∧
    decode .vec 0x2C81C03D = some (.vclz ⟨16, 14, 0, 3, 1, 5⟩) ∧
    decode .vec 0x2F4E800F = some (.vbrev ⟨41, 52, 0, 0, 1, 7⟩) :=
  ⟨rfl, rfl, rfl, rfl, rfl, rfl, rfl, rfl, rfl, rfl, rfl, rfl, rfl, rfl, rfl, rfl, rfl, rfl, rfl, rfl, rfl, rfl, rfl, rfl⟩

theorem test_words_vec1 :
    decode .vec 0x314EAE0C = some (.vsel ⟨41, 53, 28, 0, 1, 4⟩) ∧
    decode .vec 0x32958B0A = some (.vaddi ⟨18, 44, 2, 778⟩) ∧
    decode .vec 0x35E14673 = some (.vandi ⟨60, 10, 1, 627⟩) ∧
    decode .vec 0x37992C02 = some (.vshli ⟨51, 9, 3, 2⟩) ∧
    decode .vec 0x39DB4402 = some (.vshri ⟨59, 26, 1, 2⟩) ∧
    decode .vec 0x3B9CECA6 = some (.vacs ⟨51, 39, 25, 2, 6⟩) ∧
    decode .vec 0x3D77DE07 = some (.vhsel ⟨46, 62, 60, 0, 7⟩) ∧
    decode .vec 0x3F544B0B = some (.vperm ⟨42, 34, 22, 0, 1, 3⟩) ∧
    decode .vec 0x414BA306 = some (.vshfl ⟨41, 29, 0, 774⟩) ∧
    decode .vec 0x43204404 = some (.vred ⟨36, 2, 1, 4⟩) ∧
    decode .vec 0x4520A20E = some (.vscan ⟨36, 5, 4, 0, 1, 6⟩) ∧
    decode .vec 0x468F0000 = some (.vmovs ⟨17, 56, 0, 0⟩) ∧
    decode .vec 0x482C041B = some (.vrdl ⟨5, 32, 1, 27⟩) ∧
    decode .vec 0x4BBF401C = some (.vwrl ⟨55, 58, 0, 28⟩) ∧
    decode .vec 0x4DE80408 = some (.vsr ⟨61, 0, 1, 8⟩) ∧
    decode .vec 0x4E6F4BCB = some (.vdot4 ⟨13, 58, 23, 4, 1, 3⟩) ∧
    decode .vec 0x51F37FAF = some (.vdot2 ⟨62, 27, 63, 2, 1, 7⟩) ∧
    decode .vec 0x60A3F22B = some (.vfadd ⟨20, 31, 36, 2, 1, 3⟩) ∧
    decode .vec 0x63A30B2E = some (.vfsub ⟨52, 24, 22, 2, 1, 6⟩) ∧
    decode .vec 0x64CC01AF = some (.vfmul ⟨25, 32, 3, 2, 1, 7⟩) ∧
    decode .vec 0x66DA072D = some (.vfma ⟨27, 16, 14, 2, 1, 5⟩) ∧
    decode .vec 0x69343A2B = some (.vfmin ⟨38, 33, 52, 2, 1, 3⟩) ∧
    decode .vec 0x6B7F6E2D = some (.vfmax ⟨47, 59, 28, 2, 1, 5⟩) ∧
    decode .vec 0x6D02424D = some (.vcmp ⟨4, 0, 36, 9, 1, 5⟩) :=
  ⟨rfl, rfl, rfl, rfl, rfl, rfl, rfl, rfl, rfl, rfl, rfl, rfl, rfl, rfl, rfl, rfl, rfl, rfl, rfl, rfl, rfl, rfl, rfl, rfl⟩

theorem test_words_vec2 :
    decode .vec 0x6F5E6083 = some (.vfcmp ⟨5, 7, 38, 2, 0, 3⟩) ∧
    decode .vec 0x7160A02B = some (.vrcp ⟨44, 5, 0, 2, 1, 3⟩) ∧
    decode .vec 0x72D1602E = some (.vrsqrt ⟨26, 11, 0, 2, 1, 6⟩) ∧
    decode .vec 0x7502002C = some (.vsqrt ⟨32, 16, 0, 2, 1, 4⟩) ∧
    decode .vec 0x77F9002B = some (.vexp2 ⟨63, 8, 0, 2, 1, 3⟩) ∧
    decode .vec 0x7949202F = some (.vlog2 ⟨41, 9, 0, 2, 1, 7⟩) ∧
    decode .vec 0x7AAE4B0A = some (.vcvt ⟨21, 50, 22, 0, 1, 2⟩) ∧
    decode .vec 0x7C42C02C = some (.vfclass ⟨8, 22, 0, 2, 1, 4⟩) ∧
    decode .vec 0x7F8EE012 = some (.vround ⟨49, 55, 0, 1, 2⟩) :=
  ⟨rfl, rfl, rfl, rfl, rfl, rfl, rfl, rfl, rfl⟩

theorem test_words_sca0 :
    decode .sca 0x013A8000 = some (.smov ⟨39, 20, 0, 0⟩) ∧
    decode .sca 0x06A46F80 = some (.sadd ⟨20, 35, 31, 0⟩) ∧
    decode .sca 0x081FFD00 = some (.ssub ⟨3, 63, 58, 0⟩) ∧
    decode .sca 0x0B908700 = some (.smul ⟨50, 4, 14, 0⟩) ∧
    decode .sca 0x0DAA6601 = some (.smulh ⟨53, 19, 12, 1⟩) ∧
    decode .sca 0x0F0E2981 = some (.sdiv ⟨33, 49, 19, 1⟩) ∧
    decode .sca 0x112AC301 = some (.srem ⟨37, 22, 6, 1⟩) ∧
    decode .sca 0x125DD800 = some (.sand ⟨11, 46, 48, 0⟩) ∧
    decode .sca 0x14955080 = some (.sor ⟨18, 42, 33, 0⟩) ∧
    decode .sca 0x16897580 = some (.sxor ⟨17, 11, 43, 0⟩) ∧
    decode .sca 0x19BB6500 = some (.sshl ⟨55, 27, 10, 0⟩) ∧
    decode .sca 0x1AA63D81 = some (.sshr ⟨20, 49, 59, 1⟩) ∧
    decode .sca 0x1D5BA281 = some (.smin ⟨43, 29, 5, 1⟩) ∧
    decode .sca 0x1F47AB81 = some (.smax ⟨40, 61, 23, 1⟩) ∧
    decode .sca 0x25BCC039 = some (.sshli ⟨55, 38, 57⟩) ∧
    decode .sca 0x26DD8009 = some (.sshri ⟨27, 44, 9⟩) ∧
    decode .sca 0x29186785 = some (.scmp ⟨35, 3, 15, 5⟩) ∧
    decode .sca 0x2A30BE81 = some (.sbfe ⟨6, 5, 61, 1⟩) ∧
    decode .sca 0x2CAF8000 = some (.spopc ⟨21, 60, 0, 0⟩) ∧
    decode .sca 0x2E416000 = some (.sclz ⟨8, 11, 0, 0⟩) ∧
    decode .sca 0x30F8DA80 = some (.sfadd ⟨31, 6, 53, 0⟩) ∧
    decode .sca 0x33F82D80 = some (.sfmul ⟨63, 1, 27, 0⟩) ∧
    decode .sca 0x35D2EF00 = some (.sfma ⟨58, 23, 30, 0⟩) ∧
    decode .sca 0x3720A010 = some (.scvt ⟨36, 5, 0, 16⟩) :=
  ⟨rfl, rfl, rfl, rfl, rfl, rfl, rfl, rfl, rfl, rfl, rfl, rfl, rfl, rfl, rfl, rfl, rfl, rfl, rfl, rfl, rfl, rfl, rfl, rfl⟩

theorem test_words_sca1 :
    decode .sca 0x38E00004 = some (.srd ⟨28, 4⟩) ∧
    decode .sca 0x3B800003 = some (.swr ⟨48, 3⟩) ∧
    decode .sca 0x3C021280 = some (.sfmt ⟨0, 16, 37, 0⟩) ∧
    decode .sca 0x3E302100 = some (.pand ⟨6, 1, 2, 0⟩) ∧
    decode .sca 0x4018A380 = some (.por ⟨3, 5, 7, 0⟩) ∧
    decode .sca 0x42188300 = some (.pxor ⟨3, 4, 6, 0⟩) ∧
    decode .sca 0x44284380 = some (.pandn ⟨5, 2, 7, 0⟩) ∧
    decode .sca 0x4611A001 = some (.pmovsp ⟨2, 13, 0, 1⟩) ∧
    decode .sca 0x48A8C001 = some (.pmovps ⟨21, 6, 0, 1⟩) ∧
    decode .sca 0x4BA08000 = some (.pcnt ⟨52, 4, 0, 0⟩) ∧
    decode .sca 0x4C202000 = some (.pfirst ⟨4, 1, 0, 0⟩) :=
  ⟨rfl, rfl, rfl, rfl, rfl, rfl, rfl, rfl, rfl, rfl, rfl⟩

theorem test_words_mem :
    decode .mem 0x01D97176 = some (.vld ⟨59, 11, 4, 1, 1, 6, 3, 0⟩) ∧
    decode .mem 0x0379BD6C = some (.vlds ⟨47, 13, 7, 1, 1, 5, 2, 0⟩) ∧
    decode .mem 0x0551359A = some (.vst ⟨42, 9, 5, 1, 2, 3, 1, 0⟩) ∧
    decode .mem 0x06A19117 = some (.sld ⟨20, 12, 4, 1, 0, 23⟩) ∧
    decode .mem 0x0876BA76 = some (.slds ⟨14, 53, 6, 2, 0, 118⟩) ∧
    decode .mem 0x0BF91D26 = some (.sst ⟨63, 8, 7, 1, 0, 38⟩) ∧
    decode .mem 0x0D692DE4 = some (.vatomI32 ⟨45, 9, 27, 6, 4⟩) ∧
    decode .mem 0x0FB6E163 = some (.vatomU32 ⟨54, 55, 2, 6, 3⟩) ∧
    decode .mem 0x10F736B6 = some (.vatomF32 ⟨30, 57, 45, 3, 6⟩) ∧
    decode .mem 0x1368A762 = some (.vatomF16x2 ⟨45, 5, 14, 6, 2⟩) ∧
    decode .mem 0x140FA826 = some (.vatomB16x2 ⟨1, 61, 16, 2, 6⟩) ∧
    decode .mem 0x162CE767 = some (.vatomnI32 ⟨5, 39, 14, 6, 7⟩) ∧
    decode .mem 0x19BF4317 = some (.vatomnU32 ⟨55, 58, 6, 1, 7⟩) ∧
    decode .mem 0x1A03DFF6 = some (.vatomnF32 ⟨0, 30, 63, 7, 6⟩) ∧
    decode .mem 0x1D86DF37 = some (.vatomnF16x2 ⟨48, 54, 62, 3, 7⟩) ∧
    decode .mem 0x1EFF29E7 = some (.vatomnB16x2 ⟨31, 57, 19, 6, 7⟩) ∧
    decode .mem 0x217A49E3 = some (.satom ⟨47, 18, 19, 6, 3⟩) ∧
    decode .mem 0x2206102D = some (.hsel ⟨0, 48, 4, 0, 0, 45⟩) ∧
    decode .mem 0x24F01402 = some (.hinfo ⟨30, 0, 5, 0, 0, 2⟩) ∧
    decode .mem 0x26980000 = some (.fence ⟨2, 3, 0⟩) ∧
    decode .mem 0x2872B02A = some (.flsig ⟨14, 21, 4, 0, 0, 42⟩) ∧
    decode .mem 0x2B4FAC11 = some (.flwait ⟨41, 61, 3, 0, 0, 17⟩) :=
  ⟨rfl, rfl, rfl, rfl, rfl, rfl, rfl, rfl, rfl, rfl, rfl, rfl, rfl, rfl, rfl, rfl, rfl, rfl, rfl, rfl, rfl, rfl⟩

theorem test_words_ctl :
    decode .ctl 0x00174D72 = some (.bra ⟨0, 0, 1527154⟩) ∧
    decode .ctl 0x03F86BDE = some (.brp ⟨1, 7, 1600478⟩) ∧
    decode .ctl 0x041EB4ED = some (.rcvpt ⟨0, 0, 2012397⟩) ∧
    decode .ctl 0x06000000 = some (.join ⟨0, 0⟩) ∧
    decode .ctl 0x09150788 = some (.bcnd ⟨4, 21, 1, 904⟩) ∧
    decode .ctl 0x0A635DAC = some (.sloop ⟨1, 35, 23, 428⟩) ∧
    decode .ctl 0x0C060C1C = some (.call ⟨0, 0, 396316⟩) ∧
    decode .ctl 0x0E080000 = some (.callr ⟨1, 0⟩) ∧
    decode .ctl 0x10000000 = some (.ret ⟨0, 0⟩) ∧
    decode .ctl 0x12E80000 = some (.jmp ⟨29, 0⟩) ∧
    decode .ctl 0x14000000 = some (.exit ⟨0, 0⟩) ∧
    decode .ctl 0x16000000 = some (.yield ⟨0, 0⟩) ∧
    decode .ctl 0x1800001B = some (.twait ⟨0, 27⟩) ∧
    decode .ctl 0x1A180000 = some (.dqpop ⟨3, 0⟩) ∧
    decode .ctl 0x1C480000 = some (.dqpush ⟨9, 0⟩) ∧
    decode .ctl 0x1F5AC034 = some (.bany ⟨1, 2, 1753140⟩) ∧
    decode .ctl 0x21D99619 = some (.ball ⟨1, 6, 1676825⟩) ∧
    decode .ctl 0x22000000 = some (.nop ⟨0, 0⟩) :=
  ⟨rfl, rfl, rfl, rfl, rfl, rfl, rfl, rfl, rfl, rfl, rfl, rfl, rfl, rfl, rfl, rfl, rfl, rfl⟩

theorem test_words_mtx :
    decode .mtx 0x0003C079 = some (.mshape ⟨0, 30, 0, 121⟩) ∧
    decode .mtx 0x02000300 = some (.mzero ⟨0, 0, 0, 768⟩) ∧
    decode .mtx 0x0465B480 = some (.mma ⟨12, 45, 41, 0, 0, 0⟩) ∧
    decode .mtx 0x06585481 = some (.mloop ⟨11, 2, 5, 129⟩) ∧
    decode .mtx 0x081977E9 = some (.mloopg ⟨3, 11, 5, 1001⟩) ∧
    decode .mtx 0x0A63AA30 = some (.mloopn ⟨12, 29, 2, 560⟩) ∧
    decode .mtx 0x0C18E900 = some (.msmx ⟨3, 7, 2, 256⟩) ∧
    decode .mtx 0x0E7DA91D = some (.mdrain ⟨15, 45, 2, 285⟩) ∧
    decode .mtx 0x11296002 = some (.mside ⟨37, 11, 0, 2⟩) ∧
    decode .mtx 0x131F0000 = some (.mprog ⟨35, 56, 0, 0⟩) ∧
    decode .mtx 0x15F00001 = some (.mstat ⟨62, 0, 0, 1⟩) :=
  ⟨rfl, rfl, rfl, rfl, rfl, rfl, rfl, rfl, rfl, rfl, rfl⟩

theorem test_words_cpy :
    decode .cpy 0x00B85F00 = some (.cpy ⟨23, 2, 7, 768⟩) ∧
    decode .cpy 0x03FECC63 = some (.cpy2d ⟨63, 54, 3, 99⟩) ∧
    decode .cpy 0x05307900 = some (.cpymc ⟨38, 3, 6, 256⟩) ∧
    decode .cpy 0x06502E00 = some (.cpyfill ⟨10, 1, 3, 512⟩) ∧
    decode .cpy 0x093BC000 = some (.cpyrec ⟨39, 30, 0, 0⟩) ∧
    decode .cpy 0x0AAA0000 = some (.tlrd ⟨21, 16, 0, 0⟩) ∧
    decode .cpy 0x0D80E000 = some (.tlwait ⟨48, 7, 0, 0⟩) ∧
    decode .cpy 0x0F598000 = some (.cprog ⟨43, 12, 0, 0⟩) ∧
    decode .cpy 0x1195E700 = some (.qpost ⟨50, 47, 1, 768⟩) :=
  ⟨rfl, rfl, rfl, rfl, rfl, rfl, rfl, rfl, rfl⟩

theorem test_words_arn :
    decode .arn 0x01D58000 = some (.arnew ⟨58, 44, 0, 0⟩) ∧
    decode .arn 0x03A62000 = some (.halloc ⟨52, 49, 0, 0⟩) ∧
    decode .arn 0x051B5C00 = some (.arseal ⟨35, 26, 7, 0⟩) ∧
    decode .arn 0x07F26C00 = some (.ardrop ⟨62, 19, 3, 0⟩) ∧
    decode .arn 0x09A26000 = some (.arquota ⟨52, 19, 0, 0⟩) ∧
    decode .arn 0x0BF0C000 = some (.arinfo ⟨62, 6, 0, 0⟩) :=
  ⟨rfl, rfl, rfl, rfl, rfl, rfl⟩

theorem test_words_msg :
    decode .msg 0x00174400 = some (.send ⟨2, 58, 1, 0⟩) ∧
    decode .msg 0x028F9000 = some (.asend ⟨17, 60, 4, 0⟩) ∧
    decode .msg 0x056AF400 = some (.rdy ⟨45, 23, 5, 0⟩) ∧
    decode .msg 0x061F4000 = some (.unrdy ⟨3, 58, 0, 0⟩) ∧
    decode .msg 0x09437000 = some (.recv ⟨40, 27, 4, 0⟩) ∧
    decode .msg 0x0AA06000 = some (.grpnew ⟨20, 3, 0, 0⟩) ∧
    decode .msg 0x0D067800 = some (.grpdel ⟨32, 51, 6, 0⟩) ∧
    decode .msg 0x0E50A000 = some (.colnew ⟨10, 5, 0, 0⟩) ∧
    decode .msg 0x105F7000 = some (.redpost ⟨11, 59, 4, 0⟩) ∧
    decode .msg 0x138BC000 = some (.redwait ⟨49, 30, 0, 0⟩) ∧
    decode .msg 0x147CA000 = some (.colabort ⟨15, 37, 0, 0⟩) ∧
    decode .msg 0x17866000 = some (.msgstat ⟨48, 51, 0, 0⟩) :=
  ⟨rfl, rfl, rfl, rfl, rfl, rfl, rfl, rfl, rfl, rfl, rfl, rfl⟩

theorem test_words_sys :
    decode .sys 0x0002C434 = some (.trap ⟨0, 181300⟩) ∧
    decode .sys 0x02003133 = some (.brk ⟨0, 12595⟩) ∧
    decode .sys 0x05D80000 = some (.eret ⟨59, 0⟩) ∧
    decode .sys 0x0A680000 = some (.capmask ⟨13, 0⟩) ∧
    decode .sys 0x0EE6C000 = some (.dump ⟨28, 54, 0, 0⟩) ∧
    decode .sys 0x10B80000 = some (.respost ⟨23, 0⟩) ∧
    decode .sys 0x1204EFE4 = some (.sstep ⟨0, 323556⟩) ∧
    decode .sys 0x15C32000 = some (.kiln ⟨56, 25, 0, 0⟩) :=
  ⟨rfl, rfl, rfl, rfl, rfl, rfl, rfl, rfl⟩

/-! ### Single steps, with results that the manual works out -/

/-- Put `v` in every lane of a v register; a fresh crew's registers hold 0. -/
def vreg (n : BitVec 6) (v : Word) (s : State) : State := s.wrV n 0xFFFFFFFF fun _ => v
def firstLane (n : BitVec 6) (v : Word) (s : State) : State := s.wrV n 1 fun _ => v
/-- The word that the manual writes out, run where `f` changes the machine before it. -/
def run (c : Cls) (w : Word) (f : State → State) : State := match decode c w with
  | some i => after i f
  | none => State.reset

/-- R186: the worked `vadds.i16x2`, and the same under `vadd`. -/
theorem test_vadd_vadds : ((after (.vadds ⟨3, 1, 2, 2, 0, 0⟩) (vreg 1 0x75308000 ∘ vreg 2 0x2710FFFF)).rdV 3 31 = 0x7FFF8000 ∧
    (after (.vadd ⟨3, 1, 2, 2, 0, 0⟩) (vreg 1 0x75308000 ∘ vreg 2 0x2710FFFF)).rdV 3 0 = 0x9C407FFF) := by decide +kernel
/-- R190: the worked `vacs`. -/
theorem test_vacs : (let s := run .vec 0x3A2041A2 (vreg 2 0x0005FFF0 ∘ vreg 3 0x00030002 ∘ pred 3 0xFFFFFFFF)
    s.rdV 4 7 = 0x00050002 ∧ (s.rdP 2).getLsbD 7 = true ∧ (s.rdP 3).getLsbD 7 = false) := by decide +kernel
/-- R196: the worked `vred` and `vscan`. -/
theorem test_vred : ((run .vec 0x42088008 (firstLane 1 0x4B800000 ∘ vreg 1 0x3F800000)).rdS 4 = 0x4B80000F) := by decide +kernel
theorem test_vscan : ((run .vec 0x44102400 (firstLane 1 0x4B800000 ∘ vreg 1 0x3F800000)).rdV 2 31 = 0x4B800000) := by decide +kernel
/-- R198: the worked `vdot4`: −245 is added. -/
theorem test_vdot4 : ((after (.vdot4 ⟨3, 1, 2, 4, 0, 0⟩) (vreg 1 0x80FF0102 ∘ vreg 2 0x02030405 ∘ vreg 3 245)).rdV 3 9 = 0) := by decide +kernel
/-- R187: the worked `vshli`, its sign bit shifted out. -/
theorem test_vshli : ((run .vec 0x36280402 (vreg 5 9 ∘ vreg 0 0x40000001)).rdV 5 3 = 4) := by decide +kernel
/-- R153: `smovi s3, 0` then `smovh s3, 0x4_0000`. -/
theorem test_smovh : ((after (.smovh ⟨3, 0x40000⟩) (reg 3 0)).rdS 3 = 0x8000000000000000) := by decide
/-- R157: the worked `sfmt`: DFMT becomes 1, AFMT and BFMT 0, the rest stays. -/
theorem test_sfmt : ((after (.sfmt ⟨0, 4, 5, 0⟩) (reg 4 0x10000 ∘ reg 5 0xF0FF0 ∘ slt fun x => { x with fmt := 0x00700FFF })).fmt = 0x0071000F) := by decide
/-- R150: division by zero, and of the most negative number by −1. -/
theorem test_sdiv : ((after (.sdiv ⟨3, 1, 2, 0⟩) (reg 1 7 ∘ reg 2 0)).rdS 3 = 0xFFFFFFFFFFFFFFFF ∧
    (after (.sdiv ⟨3, 1, 2, 0⟩) (reg 1 0x8000000000000000 ∘ reg 2 0xFFFFFFFFFFFFFFFF)).rdS 3 = 0x8000000000000000) := by decide
/-- R154: 1 + 1 in F32, and 2^24 + 1, a tie that rounds to even. -/
theorem test_sfadd : ((after (.sfadd ⟨3, 1, 2, 0⟩) (reg 1 0x3F800000 ∘ reg 2 0x3F800000)).rdS 3 = 0x40000000 ∧
    (after (.sfadd ⟨3, 1, 2, 0⟩) (reg 1 0x4B800000 ∘ reg 2 0x3F800000)).rdS 3 = 0x4B800000) := by decide
/-- R151: a field that reaches beyond bit 63 is cut, then sign-extended. -/
theorem test_sbfe : ((after (.sbfe ⟨3, 1, 2, 1⟩) (reg 1 0x8000000000000000 ∘ reg 2 0x083C)).rdS 3 = 0xFFFFFFFFFFFFFFF8) := by decide
/-- R192: only bits [4:0] of an index count. -/
theorem test_vperm : ((after (.vperm ⟨3, 1, 2, 0, 0, 0⟩) (firstLane 1 7 ∘ vreg 2 0xFFFFFFE0)).rdV 3 31 = 7) := by decide
/-- R213: the worked `sld.w s5, h0[s0+64]`, and its sign-extending form. -/
def scr64 (s : State) : State := s.poke (.scr 1 64) [0x78, 0x56, 0x34, 0x92]
theorem test_sld : ((run .mem 0x06280210 scr64).rdS 5 = 0x92345678 ∧ (after (.slds ⟨5, 0, 0, 2, 0, 16⟩) scr64).rdS 5 = 0xFFFFFFFF92345678) := by decide
/-! ### Witnesses: words -/

/-- Every word executes somewhere: the hypotheses of each statement about a word of these classes, fields all zero. -/
def canRun (c : Cls) (f : State → State) (w : Word) : Bool := match decode c w with
  | some i => let s := f (atWord i)
    s.executes i && s.unstepped
  | none => false

theorem witness_vec : ([
    0x00000000, 0x02000000, 0x04000000, 0x06000000, 0x08000000, 0x0A000000, 0x0C000000, 0x0E000000, 0x10000000, 0x12000000,
    0x14000000, 0x16000000, 0x18000000, 0x1A000000, 0x1C000000, 0x1E000000, 0x20000000, 0x22000000, 0x24000010, 0x26000000] : List Word).all (canRun .vec id) = true := by decide
theorem witness_vec2 : ([
    0x28000000, 0x2A000010, 0x2C000010, 0x2E000000, 0x30000000, 0x32000000, 0x34000000, 0x36000000, 0x38000000, 0x3A000020,
    0x3C000000, 0x3E000000, 0x40000000, 0x42000000, 0x44000000, 0x46000000, 0x48000000, 0x4A000000, 0x4C000400, 0x4E000040] : List Word).all (canRun .vec id) = true := by decide
theorem witness_vec3 : ([
    0x50000010, 0x60000000, 0x62000000, 0x64000000, 0x66000000, 0x68000000, 0x6A000000, 0x6C000000, 0x6E000000, 0x70000000,
    0x72000000, 0x74000000, 0x76000000, 0x78000000, 0x7A000000, 0x7C000000, 0x7E000000] : List Word).all (canRun .vec id) = true := by decide
theorem witness_sca : ([
    0x00000000, 0x02000000, 0x04000000, 0x06000000, 0x08000000, 0x0A000000, 0x0C000000, 0x0E000000, 0x10000000, 0x12000000,
    0x14000000, 0x16000000, 0x18000000, 0x1A000000, 0x1C000000, 0x1E000000, 0x20000000, 0x22000000, 0x24000000, 0x26000000,
    0x28000000, 0x2A000000, 0x2C000000, 0x2E000000, 0x30000000, 0x32000000, 0x34000000, 0x36000000, 0x38000000, 0x3A000003,
    0x3C000000, 0x3E000000, 0x40000000, 0x42000000, 0x44000000, 0x46000000, 0x48000000, 0x4A000000, 0x4C000000] : List Word).all (canRun .sca id) = true := by decide
/-- The highest register numbers too, and a MASK with no lane. -/
theorem witness_vec_ends : ([0x05FFFFD7, 0x61FFFFA7, 0x6DD7FFCF] : List Word).all (canRun .vec (slt fun x => { x with mask := 0 })) = true := by
  decide
/-- `vred` over no lane and over some, and each of its operations (R196). -/
theorem witness_vred : (List.range 6).all (fun op => wit (.vred ⟨0, 0, 0, BitVec.ofNat 10 op⟩) id (fun s => laneList s.mask != []) &&
    wit (.vred ⟨0, 0, 0, BitVec.ofNat 10 op⟩) (slt fun x => { x with mask := 0 }) (fun s => laneList s.mask == [])) = true := by decide
theorem witness_minmax : ((0x7FC00000 < 2 ^ fmtF32.width && (fmtF32.decode (fmtF32.flush true 0x7FC00000)).isNan &&
    !(fmtF32.decode (fmtF32.flush true 1)).isNan && fmtF32.flushes && fmtF32.isSub 1 && (fmtF32.decode 0x80000000).negZero &&
    (fmtF32.decode 0).eq (fmtF32.decode 0x80000000) && !(fmtF32.decode 0).negZero && (fmtF32.decode 0).lt (fmtF32.decode 0x3F800000)) : Bool) = true := by
  decide
theorem witness_nearest : (0 < 3 ∧ fmtF16.decode (fmtF16.round 0 false false 3 (-1) false) = .fin false 1536 (-10) ∧ 0x3C00 < 2 ^ fmtF16.width ∧
    fmtF16.decode 0x3C00 = .fin false 1024 (-10)) := by decide

/-! ### Witnesses: control flow -/

theorem witness_jmp : wit (.jmp ⟨5, 0⟩) (reg 5 0xFFC) (fun s => (s.rdS 5).toNat % 4 == 0 && (s.rdS 5).toNat < s.codeEntry.size) = true := by
  decide

def sets (s : State) (f : FmtCB) : Bool := s.mask &&& s.guard f.gp f.gn != 0
def leaves (s : State) (f : FmtCB) : Bool := s.mask &&& ~~~s.guard f.gp f.gn != 0
def splits (s : State) (f : FmtCB) : Option Arch :=
  s.carch.split s.cur.slotB (s.stackCap s.ccrew s.cur.tid) (s.mask &&& s.guard f.gp f.gn) (s.mask &&& ~~~s.guard f.gp f.gn)
    (s.label f.off.toInt) s.nextClause
def div1 (pending : Nat) (arrived : Word) : CEntry := .div ⟨0, 1, 0, Config.noneAddr, 0xFFFFFFFF, arrived, 0, pending, none⟩

/-- A split with entries, with RPCN set and without, and one whose next DIVID is in use. -/
theorem witness_split : wit (.brp ⟨0, 1, 8⟩) (pred 1 0xFFFF) (fun s => s.noneHeld && sets s ⟨0, 1, 8⟩ && leaves s ⟨0, 1, 8⟩ &&
    (splits s ⟨0, 1, 8⟩).isSome) = true := by decide
theorem witness_split_opens : wit (.brp ⟨0, 1, 8⟩) (pred 1 0x80000000 ∘ slt fun x => { x with rpcn := 64 }) (fun s => s.noneHeld &&
    sets s ⟨0, 1, 8⟩ && leaves s ⟨0, 1, 8⟩ && s.cslot.rpcn != Config.noneAddr && (splits s ⟨0, 1, 8⟩).isSome) = true := by decide
theorem witness_split_spills : wit (.brp ⟨0, 1, 8⟩) (pred 1 1 ∘ arc fun a => { a with b := { st := .ready, mask := 1 } }) (fun s => s.noneHeld &&
    sets s ⟨0, 1, 8⟩ && leaves s ⟨0, 1, 8⟩ && s.carch.b.st != .empty && (splits s ⟨0, 1, 8⟩).isSome) = true := by decide
theorem witness_split_faults : wit (.brp ⟨0, 1, 8⟩) (pred 1 1 ∘ (slt fun x => { x with rpcn := 64 }) ∘ arc fun a => { a with cstk := [(0, div1 2 0)] })
    (fun s => s.noneHeld && sets s ⟨0, 1, 8⟩ && leaves s ⟨0, 1, 8⟩ && (splits s ⟨0, 1, 8⟩).isNone) = true := by decide
theorem witness_no_split : (wit (.brp ⟨0, 1, 8⟩) id (fun s => s.noneHeld && !sets s ⟨0, 1, 8⟩) &&
    wit (.brp ⟨0, 0, 8⟩) id (fun s => s.noneHeld && sets s ⟨0, 0, 8⟩ && !leaves s ⟨0, 0, 8⟩)) = true := by decide

def joins (pending : Nat) (arrived : Word) (s : State) : State :=
  arc (fun a => { a with cstk := [(3, div1 pending arrived)] }) (slt (fun x => { x with divid := 1, rcv := s.cur.hdr }) s)
theorem witness_join : (wit (.join ⟨0, 0⟩) id (fun s => s.noneHeld && s.cslot.divid == 0) &&
    wit (.join ⟨0, 0⟩) (joins 2 0) (fun s => s.noneHeld && s.cslot.rcv == s.cur.hdr && s.carch.findDiv 1 == some (3, ⟨0, 1, 0, Config.noneAddr,
      0xFFFFFFFF, 0, 0, 2, none⟩) && s.cslot.depth == 0) &&
    wit (.join ⟨0, 0⟩) (joins 1 1) (fun s => s.noneHeld && (s.carch.findDiv 1).any fun e => e.2.pending ≤ 1 && e.2.arrived ||| s.mask != 0)) = true := by
  decide
/-- OUTER with a divergence that contains the mask, and with none. -/
theorem witness_outer : (({ cstk := [(3, div1 2 0)] } : Arch).outer 3 0 0 = 1 ∧
    ({ cstk := [(3, div1 2 0)] } : Arch).outer 3 0 1 = 0) := by decide

def sibling : State → State := arc fun a => { a with b := { st := .ready, mask := 1 } }
theorem witness_exit : (wit (.exit ⟨0, 0⟩) (joins 2 0 ∘ sibling) (fun s => s.carch.frags.isEmpty && s.cslot.divid != 0 && (s.carch.findDiv 1).any (1 < ·.2.pending) &&
      s.carch.b.st != .empty) &&
    wit (.exit ⟨0, 0⟩) sibling (fun s => s.carch.frags.isEmpty && s.cslot.divid == 0 && s.carch.b.st != .empty) &&
    wit (.exit ⟨0, 0⟩) id (fun s => s.carch.frags.isEmpty && s.cslot.divid == 0 && s.carch.b.st == .empty && s.ccrew.st == .running &&
      (s.ccrew.threads.all fun e => e.1 == s.cur.tid || e.2.st != .running) && !s.spawnAssigned s.cur.uid)) = true := by decide

def room (s : State) : Bool := s.cslot.depth != 255 && (s.carch.freeEntry (s.stackCap s.ccrew s.cur.tid)).isSome
def framed : State → State := (slt fun x => { x with depth := 1, link := some 0 }) ∘ arc fun a => { a with cstk := [(0, .call ⟨0, 4, 0, 0, none⟩)] }
theorem witness_call : (wit (.call ⟨0, 0, 8⟩) id room && wit (.call ⟨0, 0, 8⟩) (slt fun x => { x with depth := 255 }) (!room ·) &&
    wit (.callr ⟨5, 0⟩) (reg 5 0xFFC) (fun s => room s && (s.rdS 5).toNat % 4 == 0 && (s.rdS 5).toNat < s.codeEntry.size) &&
    wit (.callr ⟨5, 0⟩) (slt fun x => { x with depth := 255 }) (!room ·) &&
    wit (.callr ⟨5, 0⟩) (reg 5 0xFFD) (fun s => room s && (s.rdS 5).toNat % 4 != 0) &&
    wit (.callr ⟨5, 0⟩) (reg 5 0x1000) (fun s => room s && (s.rdS 5).toNat % 4 == 0 && s.codeEntry.size ≤ (s.rdS 5).toNat)) = true := by decide
theorem witness_jmp_faults : (wit (.jmp ⟨5, 0⟩) (reg 5 2) (fun s => (s.rdS 5).toNat % 4 != 0) &&
    wit (.jmp ⟨5, 0⟩) (reg 5 0x1000) (fun s => (s.rdS 5).toNat % 4 == 0 && s.codeEntry.size ≤ (s.rdS 5).toNat)) = true := by decide
theorem witness_ret : (wit (.ret ⟨0, 0⟩) id (fun s => s.noneHeld && s.cslot.depth == 0 && s.cslot.link == none) &&
    wit (.ret ⟨0, 0⟩) framed (fun s => s.noneHeld && s.cslot.depth != 0 && s.cslot.link == some 0 &&
      s.carch.calls.find? (fun e => e.1 == 0) == some (0, ⟨0, 4, 0, 0, none⟩))) = true := by decide

/-! ### Witnesses: waits and the decision queue -/

theorem witness_twait : (wit (.twait ⟨0, 0xFF⟩) id (fun s => s.cthr.tokensClear 0xFF) &&
    wit (.twait ⟨0, 0xFF⟩) (thr (toks 1)) (fun s => !s.cthr.tokensClear 0xFF)) = true := by decide
theorem witness_dqpop : (wit (.dqpop ⟨1, 0⟩) (crw fun c => { c with dq := [7] }) (fun s => s.ccrew.dq[s.cthr.dqPos - s.ccrew.dqBase]? == some 7) &&
    wit (.dqpop ⟨1, 0⟩) (crw fun c => { c with threads := Store.set {} c.threads leadTid { st := .running } })
      (fun s => s.ccrew.dq[s.cthr.dqPos - s.ccrew.dqBase]? == none && s.ccrew.leadRunning) &&
    wit (.dqpop ⟨1, 0⟩) id (fun s => s.ccrew.dq[s.cthr.dqPos - s.ccrew.dqBase]? == none && !s.ccrew.leadRunning)) = true := by decide
def grouped : State → State := crw fun c => { c with threads := Store.set {} c.threads 0 { st := .running } }
theorem witness_dqpush : (wit (.dqpush ⟨1, 0⟩) grouped (fun s => s.ccrew.liveGroups != [] && s.ccrew.dq.length < 64 && s.cthr.sq == []) &&
    wit (.dqpush ⟨1, 0⟩) (grouped ∘ crw fun c => { c with dq := List.replicate 64 0 }) (fun s => s.ccrew.liveGroups != [] && 64 ≤ s.ccrew.dq.length) &&
    wit (.dqpush ⟨1, 0⟩) id (fun s => s.ccrew.liveGroups == [] && s.cthr.sq == [])) = true := by decide

/-! ### Witnesses: memory words -/

/-- An entry for `n` bytes at `base` in arena 0 of the partition. -/
def obj (n space : Nat) : HEntry := HEntry.make 0x10000 n 1 0 space 0 true true false 0 0 0
def handleIn (k : Nat) (e : HEntry) : State → State := arc fun a => { a with h := Store.set {} a.h k ⟨2, e, false⟩ }
def store1 : PendWrite := { at_ := 0, lanes := [⟨none, .scr 1 64, 64, [0], 0⟩] }

def failsStep (s : State) (h : HReg) (off : DWord) : Option (Option Exc) :=
  match s.checkLanes ⟨0, 0⟩ 2 h { n := 4, align := 4, rd := true, wr := true } none 0 2 1 fun _ => off with
  | .bad f => some (some f.exc)
  | _ => none
/-- An access that fails at each step of R86 and at none before it, and one that fails none. -/
theorem witness_checks : ([failsStep State.reset {} 0, failsStep State.reset ⟨2, obj 64 2, false⟩ 61, failsStep State.reset ⟨2, obj 64 2, false⟩ 60] =
      [some (some .handleInvalid), some (some .handleBounds), some (some .arenaStale)] ∧
    failsStep State.reset ⟨2, HEntry.make 0x10000 64 1 0 2 0 true false false 0 0 0, false⟩ 0 = some (some .handlePermission) ∧
    failsStep State.reset ⟨2, obj 64 2, false⟩ 2 = some (some .misaligned) ∧
    failsStep (State.reset.withProgram .mem 0) ⟨2, obj 64 2, false⟩ 60 = none) := by decide
theorem witness_private : (HReg.ent ⟨1, obj 4096 1, false⟩).space = 1 := by decide

def isBad : Chk → Bool
  | .bad _ => true
  | _ => false
def isPage : Chk → Bool
  | .page _ _ _ => true
  | _ => false
def mvT : FmtMV := ⟨1, 2, 2, 2, 0, 0, 0, 0⟩
def mvS : FmtMV := ⟨1, 2, 2, 1, 0, 0, 0, 0⟩
def msT : FmtMS := ⟨1, 2, 2, 2, 0, 0⟩
def msB : FmtMS := ⟨1, 2, 2, 0, 0, 0⟩
def maT : FmtMA := ⟨0, 2, 3, 2, 0⟩
def saT : FmtSA := ⟨1, 2, 3, 2, 0⟩
def absent0 (s : State) : State := { s with absentPages := (List.range 8).map fun k => (k, true) }
/-- Each kind of access turned away, and each on a page that is not mapped. -/
theorem witness_turned_away :
    (wit (.vld mvT) id (fun s => s.lanes 0 0 != 0 && isBad (s.checkAccess (s.mvAccess mvT .load (s.lanes 0 0)))) &&
    wit (.vlds mvS) id (fun s => isBad (s.checkAccess (s.mvAccess mvS .load (s.lanes 0 0)))) &&
    wit (.vst mvT) id (fun s => isBad (s.checkAccess (s.mvAccess mvT .store (s.lanes 0 0)))) &&
    wit (.sld msT) id (fun s => isBad (s.checkAccess (s.msAccess msT .load))) &&
    wit (.sst msT) id (fun s => isBad (s.checkAccess (s.msAccess msT .store))) &&
    wit (.vatomI32 maT) id (fun s => isBad (s.checkAccess (s.maAccess maT))) &&
    wit (.satom saT) id (fun s => isBad (s.checkAccess ⟨2, .atomic, 8, 8, none, fun _ => s.rdS 2⟩))) = true := by decide
theorem witness_unmapped :
    (wit (.vld mvT) (absent0 ∘ handleIn 2 (obj 64 2)) (fun s => isPage (s.checkAccess (s.mvAccess mvT .load (s.lanes 0 0)))) &&
    wit (.vst mvT) (absent0 ∘ handleIn 2 (obj 64 2)) (fun s => isPage (s.checkAccess (s.mvAccess mvT .store (s.lanes 0 0)))) &&
    wit (.sld msT) (absent0 ∘ handleIn 2 (obj 64 2)) (fun s => isPage (s.checkAccess (s.msAccess msT .load))) &&
    wit (.sst msT) (absent0 ∘ handleIn 2 (obj 64 2)) (fun s => isPage (s.checkAccess (s.msAccess msT .store))) &&
    wit (.vatomF32 maT) (absent0 ∘ handleIn 2 (obj 64 2)) (fun s => isPage (s.checkAccess (s.maAccess maT))) &&
    wit (.satom saT) (absent0 ∘ handleIn 2 (obj 64 2)) (fun s => isPage (s.checkAccess ⟨2, .atomic, 8, 8, none, fun _ => s.rdS 2⟩))) = true := by
  decide

/-- Loads and stores through a handle, on the last bytes of the object, and with no lane. -/
theorem witness_loads :
    (wit (.vld mvT) (handleIn 2 (obj 4 2)) (fun s => s.lanes 0 0 != 0 && s.grants (s.mvAccess mvT .load (s.lanes 0 0))) &&
    wit (.vlds mvS) (handleIn 2 (obj 2 2)) (fun s => s.lanes 0 0 != 0 && s.grants (s.mvAccess mvS .load (s.lanes 0 0))) &&
    wit (.vld { mvT with gp := 3 }) id (fun s => s.lanes 3 0 == 0) && wit (.vlds { mvS with gp := 3 }) id (fun s => s.lanes 3 0 == 0) &&
    wit (.sld msT) (handleIn 2 (obj 64 2) ∘ reg 2 60) (fun s => s.grants (s.msAccess msT .load)) &&
    wit (.slds msT) (handleIn 2 (obj 64 2) ∘ reg 2 60) (fun s => s.grants (s.msAccess msT .load))) = true := by decide
theorem witness_stores :
    (wit (.vst mvT) (handleIn 2 (obj 4 2)) (fun s => s.lanes 0 0 != 0 && s.grants (s.mvAccess mvT .store (s.lanes 0 0))) &&
    wit (.vst { mvT with gp := 3 }) id (fun s => s.lanes 3 0 == 0) &&
    wit (.sst msT) (handleIn 2 (obj 64 2) ∘ reg 2 60) (fun s => s.grants (s.msAccess msT .store))) = true := by decide
theorem witness_atomics : ([Instr.vatomnI32 maT, .vatomnU32 maT, .vatomnF32 maT, .vatomnF16x2 maT, .vatomnB16x2 maT, .vatomI32 maT, .vatomU32 maT,
    .vatomF32 maT, .vatomF16x2 maT, .vatomB16x2 maT].all fun i =>
      wit i (handleIn 2 (obj 4 2)) fun s => s.cthr.sq == [] && s.grants (s.maAccess maT) && s.noRegs (s.maAccess maT)) = true := by decide
theorem witness_satom : wit (.satom saT) (handleIn 2 (obj 8 2)) (fun s => s.cthr.sq == [] &&
    s.grants ⟨2, .atomic, 8, 8, none, fun _ => s.rdS 2⟩ && s.noRegs ⟨2, .atomic, 8, 8, none, fun _ => s.rdS 2⟩) = true := by decide

def loadable (s : State) (i : Nat) : Bool :=
  let e := s.handle s.ccrew.pref i
  let r := s.arena (e.arenaRef s.ccrew.pref)
  i < 2 ^ 20 && e.valid && e.space != 7 && e.policy != 3 && r.st != .free && r.st != .dropping && r.gen == e.gen
theorem witness_hsel : (wit (.hsel ⟨0, 4, 3, 0, 0, 2⟩) (fun s => s.setHandle ⟨0, 0⟩ 2 (obj 64 2)) (fun s => loadable s 2) &&
    wit (.hsel ⟨0, 4, 3, 0, 0, 2⟩) id (fun s => !loadable s 2)) = true := by decide
theorem witness_hinfo : (wit (.hinfo ⟨1, 0, 2, 0, 0, 0⟩) id (fun _ => true) && wit (.hinfo ⟨1, 0, 2, 0, 0, 3⟩) id (fun _ => true)) = true := by decide

theorem witness_fence : (wit (.fence ⟨1, 1, 0⟩) id (fun s => s.fencePending == none) && wit (.fence ⟨1, 2, 0⟩) id (fun s => s.fencePending == none) &&
    wit (.fence ⟨1, 2, 0⟩) (thr fun t => { t with sq := [store1], issued := 1 })
      (fun s => s.fencePending == none && s.cthr.sq.any fun w => w.posted == none && w.at_ < s.cthr.issued) &&
    wit (.fence ⟨1, 2, 0⟩) (thr fun t => { t with fence := some (10, 0), sq := [store1], issued := 1 }) (fun s => s.fencePending != none)) = true := by
  decide
def other : HEntry := HEntry.make 0x10000 4 1 0 4 0 true true false 0 1 2
theorem witness_flush :
    (wit (.flsig msB) (handleIn 2 (obj 1 2)) (fun s => (s.rdH 2).ent.valid && s.ccrew.die == 0) &&
    wit (.flwait msB) (handleIn 2 (obj 1 2)) (fun s => (s.rdH 2).ent.space != 4) &&
    wit (.flsig msB) (handleIn 2 other) (fun s => (s.rdH 2).ent.pdev != s.ccrew.die) &&
    wit (.flwait msB) (handleIn 2 other) (fun s => min (s.rdS 1).toNat (Store.get 0 s.cthr.flIssued 1) ≤ Store.get 0 s.cthr.flDone 1) &&
    wit (.flwait msB) (handleIn 2 other ∘ reg 1 1 ∘ thr fun t => { t with flIssued := [(1, 1)] })
      (fun s => Store.get 0 s.cthr.flDone 1 < min (s.rdS 1).toNat (Store.get 0 s.cthr.flIssued 1)) &&
    wit (.flsig msB) id (fun s => !(s.rdH 2).ent.valid) && wit (.flwait msB) (handleIn 2 (obj 1 2) ∘ reg 2 1) (fun s => (s.rdH 2).ent.size < (s.rdS 2).toNat + 1)) =
      true := by decide

/-! ### Witnesses: barriers -/

def barT : FmtMB := ⟨1, 2, 32⟩
/-- An object at 32 with EXPECT 2 and the given PENDING. -/
def armed (pending : Nat) (s : State) : State := s.wrBar s.cur.uid 32 { expect := 2, pending := pending, last := false, armed := true, overrun := false, phase := false, arrivals := 0 }
theorem witness_barrier : ([Instr.barinit barT, .barexp barT, .barrive barT, .bartest barT, .bwait barT, .bsync barT].all fun i =>
    wit i (armed 2) (fun s => s.barOk barT && (s.rdBar s.cur.uid 32).armed && s.cslot.wait == none) &&
    wit i id (fun s => s.barOk barT && !(s.rdBar s.cur.uid 32).armed)) = true := by decide
theorem witness_barinit_arms : wit (.barinit barT) (reg 1 0xFFFFFFFF) (fun s => s.barOk barT && (s.rdS 1).toNat % 2 ^ 32 != 0) = true := by decide
theorem witness_barexp_over : wit (.barexp barT) (reg 1 0xFFFFFFFE ∘ armed 2) (fun s => 2 ^ 32 ≤ (s.rdBar s.cur.uid 32).pending + (s.rdS 1).toNat % 2 ^ 32) = true := by
  decide
theorem witness_bar_waits :
    (wit (.bwait barT) (armed 2) (fun s => s.barOk barT && s.barEnds (s.rdBar s.cur.uid 32) false == none) &&
    wit (.bwait barT) (reg 1 1 ∘ armed 2) (fun s => s.barEnds (s.rdBar s.cur.uid 32) true == some 0) &&
    wit (.bsync barT) (armed 1) (fun s => let b := s.rdBar s.cur.uid 32
      s.barEnds (b.arrive 1).1 b.phase == some 0) &&
    wit (.bsync barT) (armed 2) (fun s => let b := s.rdBar s.cur.uid 32
      s.barEnds (b.arrive 1).1 b.phase == none) &&
    wit (.bwait barT) (slt (fun x => { x with wait := some (.released 2 0) })) (fun s => s.barOk barT)) = true := by decide
theorem witness_bar_faults : (wit (.barrive barT) (reg 2 8) (fun s => s.cslot.wait == none && s.barAt barT % 16 != 0) &&
    wit (.bsync barT) (reg 2 0x10000) (fun s => s.cslot.wait == none && s.barAt barT % 16 == 0 && (s.rdH 0).ent.size < s.barAt barT + 16)) = true := by
  decide

/-! ### Witnesses: matrix and copy words -/

/-- A 16 × 16 record at scratch 0 with lines of 64 bytes, and with planes for `mloopn`, and gathered for `mloopg`. -/
def rec16 : DWord × DWord := (0x1010000000000000, 64)
def shapes (a b : DWord × DWord) : State → State := crw fun c => { c with shapes := [(2, a.1), (3, a.2), (4, b.1), (5, b.2), (6, rec16.1), (7, rec16.2)] }
def ebT : FmtEB := ⟨2, 8, 1, 8⟩
def ebX : FmtEB := ⟨2, 8, 1, 0⟩
def ebD : FmtEB := ⟨0, 8, 1, 8⟩
def frozen (x : Ctx) : State → State := crw fun c => c.modCtx x fun e => { e with freeze := true }
def tokFull : State → State := thr fun t => { t with toks := [(1, ⟨true, 15⟩)] }
def roomIn (x : Ctx) (s : State) : Bool := (s.cthr.token 1).cnt < 15 && !(s.ccrew.ctx x).freeze && (s.ccrew.ctx x).ops.length < 16
def fmtIs (v : Word) : State → State := slt fun x => { x with fmt := v }

theorem witness_mtx_sync : ([Instr.mzero ⟨0, 0, 0, 0⟩, .mside ⟨1, 8, 0, 3⟩, .mstat ⟨1, 0, 0, 1⟩].all fun i =>
    wit i id (fun s => s.cslot.wait == none && s.ccrew.mtx.last ≤ s.ccrew.mtx.timeline) &&
    wit i (crw fun c => { c with mtx := { last := 1 } }) (fun s => s.cslot.wait == none && s.ccrew.mtx.timeline < s.ccrew.mtx.last)) = true := by decide
def shapeAcc (s : State) : Access := { hn := 0, kind := .load, n := 16, align := 16, lanes := none, off := fun _ => BitVec.ofNat 64 ((s.rdS 8).toNat % 2 ^ 32) }
theorem witness_mshape : (wit (.mshape ⟨0, 8, 0, 9⟩) id (fun _ => true) &&
    wit (.mshape ⟨0, 8, 0, 8⟩) (reg 8 0xFFF0) (fun s => (s.rdH 0).ent.size == 0x10000 && s.grants (shapeAcc s)) &&
    wit (.mshape ⟨0, 8, 0, 8⟩) (reg 8 8) (fun s => (s.rdS 8).toNat % 16 != 0) &&
    wit (.mshape ⟨0, 8, 0, 8⟩) (reg 8 0x10000) (fun s => (s.rdH 0).ent.size < (s.rdS 8).toNat + 16)) = true := by decide
theorem witness_mma : (wit (.mma ⟨8, 16, 24, 0, 0, 0⟩) id (fun s => fmtA s.fmt ≤ 1 && fmtB s.fmt ≤ 1) &&
    wit (.mma ⟨56, 16, 24, 0, 0, 0⟩) (fmtIs 0x20) (fun s => !(fmtA s.fmt ≤ 1))) = true := by decide
def gathered : DWord × DWord := (rec16.1, 0x1300000000000040)
def planes : DWord × DWord := (0x1010010000000000, 64)
theorem witness_loops :
    (wit (.mloop ebT) (shapes rec16 rec16 ∘ reg 8 1) (fun s => s.calm && s.loopBad (s.mtxOp 3 ebT 0) 0 == none && roomIn .matrix s) &&
    wit (.mloopg ebT) (shapes gathered rec16 ∘ reg 8 1) (fun s => s.calm && s.loopBad (s.mtxOp 4 ebT 0) 0 == none && roomIn .matrix s) &&
    wit (.mloopn ebT) (shapes rec16 planes ∘ reg 8 1 ∘ fmtIs 0x1840) (fun s => s.calm && s.loopBad (s.mtxOp 5 ebT 0) 0 == none && roomIn .matrix s) &&
    wit (.msmx ebX) (reg 9 0x101010) (fun s => s.calm && s.smxBad (s.mtxOp 6 ebX 0) == none && roomIn .matrix s) &&
    wit (.mdrain ebD) (shapes rec16 rec16) (fun s => s.calm && s.drainBad (s.mtxOp 7 ebD 0) == none && roomIn .matrix s)) = true := by decide
theorem witness_loops_turned_away :
    (wit (.mloop ebT) id (fun s => (s.loopBad (s.mtxOp 3 ebT 0) 0).isSome) && wit (.mloopg ebT) id (fun s => (s.loopBad (s.mtxOp 4 ebT 0) 0).isSome) &&
    wit (.mloopn ebT) id (fun s => (s.loopBad (s.mtxOp 5 ebT 0) 0).isSome) && wit (.msmx ebX) id (fun s => (s.smxBad (s.mtxOp 6 ebX 0)).isSome) &&
    wit (.mdrain ebD) id (fun s => (s.drainBad (s.mtxOp 7 ebD 0)).isSome) &&
    wit (.msmx ebX) (reg 9 0x808080 ∘ tokFull) (fun s => s.smxBad (s.mtxOp 6 ebX 0) == none && 15 ≤ (s.cthr.token 1).cnt) &&
    wit (.msmx ebX) (reg 9 0x808080 ∘ frozen .matrix) (fun s => s.smxBad (s.mtxOp 6 ebX 0) == none && (s.cthr.token 1).cnt < 15 && s.ccrew.mtx.freeze)) = true := by
  decide
/-- What R263 finds step by step: formats, then a record, then the sizes. -/
theorem witness_loop_checks : (State.reset.loopBad { num := 1, opcode := 3, fmt := 0x20 } 0 = some { exc := .formatCombination, eng := 4 } ∧
    State.reset.loopBad { num := 1, opcode := 3, recA := (0x1110000000000000, 64), recB := rec16 } 0 = some { exc := .shapeRange, eng := 4 } ∧
    State.reset.loopBad { num := 1, opcode := 3, recA := rec16, recB := (0x1010000100000000, 64) } 0 = some { exc := .shapeRange, eng := 4 } ∧
    State.reset.loopBad { num := 1, opcode := 5, fmt := 0x1840, recA := (0x1010080000000000, 64), recB := planes } 0 =
      some { exc := .shapeRange, eng := 4 }) := by decide
/-- A step of a loop, and a crew with a frozen matrix context. -/
theorem witness_loop_step : (let s := (shapes rec16 rec16 (crw (fun c => { c with mtx := { last := 1, ops := [{ num := 1, opcode := 3, recA := rec16, recB := rec16
                                                                                                                blk := [2, 32, 32, 0] }] } })
      (atWord (.nop ⟨0, 0⟩))))
    let c := s.crew 1
    (s.op? ⟨1, .matrix, 1⟩).isSome && c.mayRun && !c.mtx.freeze && c.mtx.timeline == 0 && c.scrPoison == []) = true := by decide
theorem witness_mprog : wit (.mprog ⟨1, 8, 0, 0⟩) ((slt fun x => { x with priv := some 2 }) ∘ frozen .matrix) (fun s => s.ccrew.mtx.freeze) = true := by decide

theorem witness_cpy : ([(0, Instr.cpy ebX), (2, .cpymc ebX), (3, .cpyfill ebX)].all fun (o, i) =>
    wit i (reg 10 64 ∘ reg 11 0xFFFFFFFF) (fun s => s.calm && s.cpyBad (s.cpyOp o ebX 0) == none && roomIn .copy s) &&
    wit i (reg 10 64 ∘ reg 11 0xFFFFFFFF ∘ tokFull) (fun s => s.cpyBad (s.cpyOp o ebX 0) == none && 15 ≤ (s.cthr.token 1).cnt) &&
    wit i (reg 10 64 ∘ reg 11 0xFFFFFFFF ∘ frozen .copy) (fun s => s.cpyBad (s.cpyOp o ebX 0) == none && s.ccrew.cpy.freeze) &&
    wit i (reg 8 0x40000000000) (fun s => s.calm && (s.cpyBad (s.cpyOp o ebX 0)).isSome)) = true := by decide
theorem witness_cpy_yield : wit (.cpy ⟨2, 8, 1, 0x200⟩) (reg 10 64 ∘ reg 11 0xFFFFFFFF)
    (fun s => s.calm && s.cpyBad (s.cpyOp 0 ⟨2, 8, 1, 0x200⟩ 0) == none && roomIn .copy s) = true := by decide
theorem witness_cpy2d : (wit (.cpy2d ⟨2, 8, 1, 1⟩) (shapes rec16 rec16 ∘ reg 11 0xFFFFFFFF)
      (fun s => s.calm && s.cpyBad (s.cpyOp 1 ⟨2, 8, 1, 1⟩ 0) == none && roomIn .copy s) &&
    wit (.cpy2d ⟨2, 8, 1, 1⟩) id (fun s => (s.cpyBad (s.cpyOp 1 ⟨2, 8, 1, 1⟩ 0)).isSome)) = true := by decide
theorem witness_qpost : (wit (.qpost ⟨2, 8, 1, 0⟩) (reg 11 0xFFFFFFFF)
      (fun s => s.calm && s.cpyBad (s.cpyOp 8 ⟨2, 8, 1, 0⟩ 0) == none && roomIn .copy s) &&
    wit (.qpost ⟨2, 8, 1, 0⟩) (reg 9 4) (fun s => (s.cpyBad (s.cpyOp 8 ⟨2, 8, 1, 0⟩ 0)).isSome)) = true := by decide
theorem witness_records :
    (wit (.cpyrec ⟨1, 8, 0, 0⟩) (reg 8 5 ∘ crw fun c => { c with cpy := { recs := [⟨5, 0, 0, 64, 0, 0⟩] } })
      (fun s => (s.ccrew.cpy.recs.find? fun q => q.num == (s.rdS 8).toNat).isSome) &&
    wit (.cpyrec ⟨1, 8, 0, 0⟩) (reg 8 5 ∘ crw fun c => { c with cpy := { ops := [{ num := 5, opcode := 0 }] } })
      (fun s => (s.ccrew.cpy.ops.find? fun q => q.num == (s.rdS 8).toNat).isSome && s.ccrew.cpy.recs.isEmpty) &&
    wit (.cpyrec ⟨1, 8, 0, 0⟩) id (fun s => s.ccrew.cpy.recs.isEmpty && s.ccrew.cpy.ops.isEmpty) && wit (.tlrd ⟨1, 8, 0, 0⟩) id (fun _ => true) &&
    wit (.tlwait ⟨1, 8, 0, 0⟩) id (fun s => (s.rdS 9).toNat ≤ s.ccrew.cpy.timeline) &&
    wit (.tlwait ⟨1, 8, 0, 0⟩) (reg 9 1) (fun s => s.ccrew.cpy.timeline < (s.rdS 9).toNat && s.cslot.wait == none) &&
    wit (.cprog ⟨1, 8, 0, 0⟩) (slt fun x => { x with priv := some 2 }) (fun _ => true)) = true := by decide

/-! ### Witnesses: arena words -/

def ebR : FmtEB := ⟨1, 8, 0, 0⟩
/-- A child of the root with the given state, and its name. -/
def child (st : ArenaSt) (s : State) : State :=
  s.modArena ⟨0, 0, 1⟩ fun _ => { gen := 1, parent := 0, depth := 1, st := st, quota := 1024 }
def childName : DWord := 0x1001
def current (s : State) : Bool :=
  let a := s.arena (arenaAt s.ccrew.pref ((s.rdS 8).toNat % 4096))
  a.st != .free && a.st != .dropping && a.gen == (s.rdS 8).toNat / 4096 % 2 ^ 20
def arenaOf (s : State) : Arena := s.arena (arenaAt s.ccrew.pref ((s.rdS 8).toNat % 4096))
def overs (s : State) : List Nat := (s.pathOf s.ccrew.pref ((s.rdS 8).toNat % 4096)).filter fun j =>
  (s.arena (arenaAt s.ccrew.pref j)).quota < (s.arena (arenaAt s.ccrew.pref j)).used + ((s.rdS 9).toNat + 127) / 128 * 128
theorem witness_arnew : (wit (.arnew ebR) (reg 8 0x1000) (fun s => current s && (arenaOf s).st == .live && (arenaOf s).depth != 8 &&
      s.freeArena s.ccrew.pref == some 1) &&
    wit (.arnew ebR) id (fun s => !current s) && wit (.arnew ebR) (reg 8 childName ∘ child .sealed_) (fun s => current s && (arenaOf s).st == .sealed_) &&
    wit (.arnew ebR) (reg 8 0x1001 ∘ fun s => s.modArena ⟨0, 0, 1⟩ fun _ => { gen := 1, depth := 8, st := .live })
      (fun s => current s && (arenaOf s).depth == 8)) = true := by decide +kernel
/-- The lowest free index passes over a live and a retired one; where all 4,095 are taken there is none. -/
theorem witness_freeArena : ((child .live State.reset).modArena ⟨0, 0, 2⟩ fun a => { a with retired := true }).freeArena ⟨0, 0⟩ = some 3 := by decide +kernel
theorem witness_halloc :
    (wit (.halloc ebR) (reg 8 0x1000) (fun s => current s && s.rdS 9 == 0) &&
    wit (.halloc ebR) (reg 8 0x1000 ∘ reg 9 1 ∘ reg 10 6) (fun s => current s && (s.rdS 10).toNat / 2 % 4 == 3) &&
    wit (.halloc ebR) (reg 8 childName ∘ child .live ∘ reg 9 1025) (fun s => current s && overs s == [1]) &&
    wit (.halloc ebR) (reg 8 childName ∘ child .live ∘ reg 9 1024 ∘ reg 10 24) (fun s => current s && overs s == [] &&
      s.hasBacking s.ccrew.pref false 1024) &&
    wit (.halloc ebR) (reg 8 0x1000 ∘ reg 9 64 ∘ fun s => s.modPart ⟨0, 0⟩ fun q => { q with pcs := 0 }) (fun s => current s && overs s == [] &&
      !s.hasBacking s.ccrew.pref false 128)) = true := by decide
theorem witness_freeHandle : ∃ h, (State.reset.freeHandle ⟨0, 0⟩).1 = some h := ⟨_, rfl⟩
theorem witness_arquota : (wit (.arquota ebR) (reg 8 childName ∘ child .live) (fun s => current s && (arenaOf s).depth != 0 && !(arenaOf s).held) &&
    wit (.arquota ebR) (reg 8 0x1000) (fun s => current s && (arenaOf s).depth == 0) && wit (.arquota ebR) id (fun s => !current s) &&
    wit (.arinfo ebR) id (fun _ => true)) = true := by decide
theorem witness_seal_drop : ([Instr.arseal ebX, .ardrop ebX].all fun i =>
    wit i (reg 8 childName ∘ child .live ∘ reg 11 0xFFFFFFFF) (fun s => s.calm && current s && (arenaOf s).depth == 1 && roomIn .arena s) &&
    wit i (reg 8 childName ∘ child .sealed_ ∘ reg 11 0xFFF0) (fun s => s.calm && current s && roomIn .arena s && 0xFFF0 + 16 ≤ (s.rdH 0).ent.size) &&
    wit i id (fun s => s.calm && (arenaOf s).gen != 0) && wit i (reg 8 0x1000) (fun s => s.calm && current s && (arenaOf s).depth == 0)) = true := by
  decide

/-! ### Witnesses: message words -/

/-- A tree of core 0 alone, a live consumer group 0, and a collective 0 of the task on it. -/
def treed (s : State) : State := s.modPart ⟨0, 0⟩ fun q => { q with trees := [(0, some ⟨0, [(0, {})], none⟩)] }
def grouped0 (s : State) : State := (treed s).modGroup ⟨0, 0⟩ 0 fun g => { g with st := .live, gen := 1 }
def name0 : DWord := 0x100
def handlers (s : State) : State := s.modTask 0 1 fun t => { t with hdr := { t.hdr with handTbl := [64], hslots := 4 } }
def parked : Parked := { sender := none, core := 0, task := 1, crew := 0, dest := 1, handler := 0, len := 0, payload := [], s7 := 0, arrived := true }
def fullCellar (s : State) : State := s.modCore 0 fun k => { k with cellar := List.replicate 64 parked }
def released : State → State := slt fun x => { x with wait := some (.released 0 0) }
def lengthIs (n : Nat) : State → State := reg 10 (BitVec.ofNat 64 (256 * n))
def okIs {α : Type} (p : α → Bool) : Except Nat α → Bool
  | .ok a => p a
  | .error _ => false
def target (s : State) : Except Nat Nat := s.sendCheck s.ccrew.pref ((s.rdS 8).toNat % 256) ((s.rdS 8).toNat / 2 ^ 32) 0 ((s.rdS 10).toNat % 16)
def toSelf : State → State := reg 8 0x100000000 ∘ handlers

theorem witness_send :
    (wit (.send ebX) (lengthIs 129) (·.calm) && wit (.send ebX) (lengthIs 128 ∘ reg 11 2) (·.calm) &&
    wit (.send ebX) (lengthIs 128 ∘ reg 11 0xFFFC) (fun s => s.calm && (s.rdH 0).ent.size < 0xFFFC + 128) &&
    wit (.send ebX) (lengthIs 0) (fun s => match target s with
      | .error 2 => s.calm
      | _ => false) &&
    wit (.send ebX) (toSelf ∘ reg 10 1) (fun s => match target s with
      | .error 3 => s.calm
      | _ => false) &&
    wit (.send ebX) (toSelf ∘ lengthIs 128 ∘ reg 11 0xFF80) (fun s => s.calm && okIs (· == 1) (target s) && (s.core 0).cellar.length < Config.cellarLen &&
      roomIn .message s && s.cslot.wait == none) &&
    wit (.send ebX) (toSelf ∘ lengthIs 4 ∘ fullCellar) (fun s => s.calm && okIs (· == 1) (target s) && !((s.core 0).cellar.length < Config.cellarLen) &&
      s.cslot.wait == none) &&
    wit (.send ebX) (toSelf ∘ lengthIs 4 ∘ fullCellar ∘ released) (fun s => s.calm && okIs (· == 1) (target s))) = true := by decide
/-- `asend` names its group in sd, here s2. -/
theorem witness_asend :
    (wit (.asend ebX) id (fun s => s.groupOf ⟨0, 0⟩ (s.rdS 2) == none) &&
    wit (.asend ebX) (reg 2 name0 ∘ grouped0 ∘ reg 10 129) (fun s => s.calm && s.groupOf ⟨0, 0⟩ (s.rdS 2) == some 0) &&
    wit (.asend ebX) (reg 2 name0 ∘ grouped0 ∘ reg 10 128) (fun s => s.calm && s.groupOf ⟨0, 0⟩ (s.rdS 2) == some 0 && roomIn .message s &&
      (s.core (s.rootOf ⟨0, 0⟩ 0)).cellar.length < Config.cellarLen && s.cslot.wait == none) &&
    wit (.asend ebX) (reg 2 name0 ∘ grouped0 ∘ fullCellar) (fun s => s.calm && s.groupOf ⟨0, 0⟩ (s.rdS 2) == some 0 && s.cslot.wait == none &&
      !((s.core (s.rootOf ⟨0, 0⟩ 0)).cellar.length < Config.cellarLen)) &&
    wit (.asend ebX) (reg 2 name0 ∘ grouped0 ∘ released) (fun s => s.calm && s.groupOf ⟨0, 0⟩ (s.rdS 2) == some 0)) = true := by decide

def inGroup : State → State := reg 8 name0 ∘ reg 2 name0 ∘ grouped0
def named (f : FmtEB) (s : State) : Bool := s.groupOf s.ccrew.pref (s.rdS f.sd) == some 0
theorem witness_rdy :
    (wit (.rdy ebX) id (fun s => s.calm && !named ebX s) &&
    wit (.rdy ebX) (reg 2 name0 ∘ fun s => s.modGroup ⟨0, 0⟩ 0 fun g => { g with st := .live, gen := 1 })
      (fun s => s.calm && named ebX s && !s.onTree ⟨0, 0⟩ 0 0) &&
    wit (.rdy ebX) inGroup (fun s => s.calm && named ebX s && s.onTree ⟨0, 0⟩ 0 0 && s.rdyCheck 0 0 0 0 false == some (.inr 4)) &&
    wit (.rdy ebX) (inGroup ∘ reg 9 1 ∘ reg 11 8) (fun s => s.calm && (s.rdyCheck 0 1 0 8 false).any fun e => match e with
      | .inl _ => true
      | .inr _ => false) &&
    wit (.rdy ebX) (inGroup ∘ reg 9 16) (fun s => s.calm && named ebX s && s.rdyCheck 0 16 0 0 false == none && roomIn .message s)) = true := by decide
theorem witness_unrdy : (wit (.unrdy ⟨2, 8, 0, 0⟩) inGroup (fun s => s.calm && named ebX s) &&
    wit (.unrdy ⟨2, 8, 0, 0⟩) id (fun s => s.calm && !named ebX s)) = true := by decide
def readied (w : Nat) (s : State) : State := s.modReady 1 0 fun r => { r with amount := 1, wpos := w }
theorem witness_recv :
    (wit (.recv ebX) (inGroup ∘ reg 10 0xFFFFFFFF) (fun s => s.calm && named ebX s && (s.ready 1 0).wpos ≤ (s.ready 1 0).cpos && s.cslot.wait == none) &&
    wit (.recv ebX) (inGroup ∘ reg 10 0xFFFFFFFF ∘ released) (fun s => s.calm && named ebX s && (s.ready 1 0).wpos ≤ (s.ready 1 0).cpos) &&
    wit (.recv ebX) (inGroup ∘ reg 10 0xFFF0 ∘ readied 1) (fun s => s.calm && named ebX s && (s.ready 1 0).cpos < (s.ready 1 0).wpos && roomIn .message s &&
      0xFFF0 + 16 ≤ (s.rdH 0).ent.size) && wit (.recv ebX) id (fun s => s.calm && !named ebX s)) = true := by decide
theorem witness_groups :
    (wit (.grpnew ebR) id (fun s => s.calm && (s.part ⟨0, 0⟩).tree 0 == none) &&
    wit (.grpnew ebR) grouped0 (fun s => s.calm && (s.part ⟨0, 0⟩).tree 0 != none && (s.group ⟨0, 0⟩ 0).st != .free && (s.group ⟨0, 0⟩ 1).st == .free) &&
    wit (.grpnew ebR) (treed ∘ fun s => (List.range 64).foldl (fun s g => s.modGroup ⟨0, 0⟩ g fun x => { x with st := .live }) s)
      (fun s => s.calm && (List.range 64).all fun g => (s.group ⟨0, 0⟩ g).st == .live) &&
    wit (.grpdel ebX) id (fun s => s.calm && s.groupOf ⟨0, 0⟩ (s.rdS 8) == none) &&
    wit (.grpdel ebX) (reg 8 name0 ∘ grouped0) (fun s => s.calm && s.groupOf ⟨0, 0⟩ (s.rdS 8) == some 0 && roomIn .message s) &&
    wit (.msgstat ebR) (reg 8 3) (fun s => s.calm && s.msgRecord 3 (s.rdS 9) == none) &&
    wit (.msgstat ebR) (reg 9 name0 ∘ grouped0) (fun s => s.calm && (s.msgRecord 0 (s.rdS 9)).isSome)) = true := by decide +kernel

/-! ### Witnesses: collectives -/

def coll0 : Coll := { live := true, gen := 1, task := 1, members := 1, op := 0, e := 1, timeoutUs := 5, rbar := 0xFFFFFFFF }
def collected (c : Coll) : State → State := reg 8 name0 ∘ (fun s => s.modColl ⟨0, 0⟩ 0 fun _ => c) ∘ treed
def round (k : Nat) : Round := { k := k, startNs := 0, posts := [{ core := 0, uid := 1, num := 1, words := [0] }] }
def isColl (s : State) : Bool := s.calm && s.collOf ⟨0, 0⟩ (s.rdS 8) == some 0
theorem witness_colnew :
    (wit (.colnew ebR) id (fun s => s.calm && s.colBad s.ccrew 0 0 0 0 0 0 0) &&
    wit (.colnew ebR) treed (fun s => s.calm && !s.colBad s.ccrew 0 1 5 32 1 0 0xFFFFFFFF && !(s.coll ⟨0, 0⟩ 0).live) &&
    wit (.colnew ebR) (treed ∘ reg 9 1 ∘ reg 10 0x100002005 ∘ reg 11 0xFFFFFFFF00000000) (fun s => s.calm &&
      !s.colBad s.ccrew ((s.rdS 8).toNat % 8) (s.rdS 9) ((s.rdS 10).toNat % 8) ((s.rdS 10).toNat / 256 % 64) ((s.rdS 10).toNat / 2 ^ 32)
        ((s.rdS 11).toNat % 2 ^ 32) ((s.rdS 11).toNat / 2 ^ 32)) &&
    wit (.colnew ebR) (treed ∘ fun s => (List.range 16).foldl (fun s i => s.modColl ⟨0, 0⟩ i fun _ => coll0) s)
      (fun s => s.calm && (List.range 16).all fun i => (s.coll ⟨0, 0⟩ i).live)) = true := by decide
theorem witness_redpost :
    (wit (.redpost ebX) id (fun s => s.calm && s.collOf ⟨0, 0⟩ (s.rdS 8) == none) && wit (.redpost ebX) (collected { coll0 with members := 2 }) isColl &&
    wit (.redpost ebX) (collected { coll0 with rounds := [round 1, round 2, round 3, round 4] }) (fun s => isColl s && (s.rdS 9).toNat == 0) &&
    wit (.redpost ebX) (collected { coll0 with rounds := [round 1, round 2, round 3] } ∘ reg 9 4 ∘ reg 10 0xFFFC)
      (fun s => isColl s && roomIn .message s && !s.collHalted ⟨0, 0⟩ (s.coll ⟨0, 0⟩ 0) && 0xFFFC + 4 ≤ (s.rdH 0).ent.size)) = true := by decide
theorem witness_redwait :
    (wit (.redwait ebR) id (fun s => s.calm && s.collOf ⟨0, 0⟩ (s.rdS 8) == none && s.cslot.wait == none) &&
    wit (.redwait ebR) (collected coll0) (fun s => isColl s && s.cslot.wait == none && ((s.coll ⟨0, 0⟩ 0).roundOf 0 1).isNone) &&
    wit (.redwait ebR) (collected { coll0 with rounds := [round 0] }) (fun s => isColl s && ((s.coll ⟨0, 0⟩ 0).roundOf 0 1).any (·.ended.isNone)) &&
    wit (.redwait ebR) (collected { coll0 with rounds := [{ round 0 with ended := some .ok }] })
      (fun s => isColl s && ((s.coll ⟨0, 0⟩ 0).roundOf 0 1).any (·.ended.isSome))) = true := by decide
theorem witness_colabort : (wit (.colabort ebR) (collected { coll0 with rounds := [round 0] }) isColl &&
    wit (.colabort ebR) (collected { coll0 with rounds := [round 0] } ∘ reg 9 0x20000) isColl && wit (.colabort ebR) id (·.calm)) = true := by decide

/-! ### Witnesses: faults, checks and system words -/

/-- Crew 1 at a word, its pair being group 0, slot A. -/
def here : PairRef := ⟨1, 0, false⟩
def demo (f : State → State := id) : State := f (atWord (.nop ⟨0, 0⟩))
def trapTo (pc : Word) (s : State) : State := s.modTask 0 1 fun t => { t with hdr := { t.hdr with trapPc := pc } }
def opensTrap (s : State) (e : Exc) : Bool :=
  (s.slot here).priv == none && !(s.crew 1).icept.getLsbD e.code && e != .singleStep && (s.hdrOf (s.crew 1)).trapPc != 0xFFFFFFFF &&
    !(s.slot here).inTrap && !(s.slot ⟨1, 0, true⟩).inTrap
/-- A fault that firmware intercepts, one without a trap entry, one while the other slot is IN TRAP, one that is taken. -/
theorem witness_fault_entry : ((demo (crw fun c => { c with icept := 2 })).ccrew.icept.getLsbD Exc.illegalInstruction.code &&
    ((demo (trapTo 0xFFFFFFFF)).hdrOf (demo (trapTo 0xFFFFFFFF)).ccrew).trapPc == 0xFFFFFFFF && (demo (trapTo 0xFFFFFFFF)).ccrew.fatalRec == none &&
    ((demo (arc fun a => { a with b := { inTrap := true } })).slot ⟨1, 0, true⟩).inTrap && opensTrap demo .misaligned) = true := by decide

def readyFor (s : State) (i : Instr) (h : WordInfo → Bool) : Bool := s.issuerReady && (wordInfo s i).any h
def vmov1 : Instr := .vmov ⟨1, 2, 0, 0, 0, 0⟩
def usesIs (u : DWord) (s : State) : State := s.modTask 0 1 fun t => { t with hdr := { t.hdr with uses := u } }
theorem witness_word_checks :
    (readyFor demo (.vmov ⟨1, 2, 1, 0, 0, 0⟩) (fun w => !w.wf) && readyFor demo (.dqpush ⟨0, 0⟩) (fun w => !w.group) &&
    readyFor (demo fun s => s.modTask 0 1 fun t => { t with hdr := { t.hdr with vregs := 2 } }) vmov1 (fun w => w.vregs.any (2 ≤ ·)) &&
    readyFor demo (.eret ⟨0, 0⟩) (fun w => w.priv && w.wf && w.group) && demo.cslot.priv == none &&
    readyFor (demo (usesIs 0)) vmov1 (fun w => w.caps.any fun b => !(demo (usesIs 0)).chdr.uses.getLsbD b) &&
    readyFor (demo fun s => s.modCore 0 fun k => { k with mask := 0 }) vmov1 (fun w => w.caps.any fun b => !(0 : DWord).getLsbD b) &&
    readyFor demo vmov1 (fun w => w.wf && !demo.readsPoison w && demo.cthr.fence == none && w.caps.all demo.chdr.uses.getLsbD)) = true := by decide

def privileged : State → State := slt fun x => { x with priv := some 2 }
theorem witness_privileged : ([Instr.eret ⟨1, 0⟩, .sstep ⟨0, 0⟩, .sstep ⟨0, 0x7FFFF⟩, .prd ⟨1, 0⟩, .pwr ⟨1, 0⟩, .pwr ⟨1, 0x67⟩, .pwr ⟨1, 0x68⟩, .pwr ⟨1, 0x6F⟩,
    .pwr ⟨1, 0x77⟩, .pwr ⟨1, 0xA6⟩, .pwr ⟨1, 0xC1⟩].all fun i => wit i privileged fun _ => true) = true := by decide
theorem witness_pwr_stop : wit (.pwr ⟨1, 0xB0⟩) (reg 1 1 ∘ privileged) (fun s => s.rdS 1 != 0) = true := by decide

theorem witness_system : (wit (.capmask ⟨1, 0⟩) id (fun _ => true) && wit (.tmark ⟨0, 7⟩) id (fun s => !s.ccrew.trace.on) &&
    wit (.respost ⟨1, 0⟩) id (fun s => s.cthr.sq == []) && wit (.kiln ebR) privileged (fun s => (s.rdS 9).toNat % 64 == 0) &&
    wit (.kiln ebR) (reg 8 63 ∘ reg 9 32 ∘ privileged) (fun s => (s.kilnOf 63 32).st != .fenced) &&
    wit (.kiln ebR) (reg 8 63 ∘ reg 9 32 ∘ privileged ∘ fun s => { s with kiln := [(kilnKey 63 32, { st := .fenced })] })
      (fun s => (s.kilnOf 63 32).st == .fenced)) = true := by decide
def dumpR (n : Nat) : Range := { hn := 0, off := 0, n := n, wr := true }
theorem witness_dump : (wit (.dump ebR) (reg 9 0x10001) (fun s => s.cslot.wait == none && (s.rangeBad 8 (dumpR 0x10001)).isSome) &&
    wit (.dump ebR) (reg 9 0x10000) (fun s => s.cslot.wait == none && (s.rangeBad 8 (dumpR 0x10000)).isNone && s.ccrew.stop == none) &&
    wit (.dump ebR) (crw fun c => { c with stop := some .halt }) (fun s => s.cslot.wait == none && (s.rangeBad 8 (dumpR 0)).isNone && s.ccrew.stop != none) &&
    wit (.dump ebR) released (fun _ => true)) = true := by decide
theorem witness_trap : (wit (.trap ⟨0, 1⟩) id (fun s => s.cthr.sq == [] && s.cur.word < 16 && opensTrap s .softwareTrap) &&
    wit (.brk ⟨0, 1⟩) id (fun s => s.cthr.sq == [] && s.cur.word < 16 && opensTrap s .breakpoint)) = true := by decide

/-! ### Witnesses: steps of groups -/

/-- The pair stands suspended with `w` in a crew that runs. -/
def suspend (w : Wait) : State → State := slt fun x => { x with st := .blocked, wait := some w, started := true }
def stands (w : Wait) (f : State → State) (h : State → Bool) : Bool :=
  let s := demo (suspend w ∘ f)
  (s.crew 1).goes && s.runs 1 0 && (s.slot here).st == .blocked && (s.slot here).wait == some w && h s
theorem witness_resumes :
    (stands (.twaitWord 0xFF) id (fun s => s.cthr.tokensClear 0xFF) && stands (.twaitHdr 0x80) id (fun s => s.cthr.tokensClear 0x80) &&
    stands .dqpop (crw fun c => { c with dq := [1] }) (fun s => s.cthr.dqPos < s.ccrew.dqBase + s.ccrew.dq.length) &&
    stands .dqpop id (fun s => !s.ccrew.leadRunning) && stands .dqpush id (fun s => s.ccrew.dq.length < 64) &&
    stands (.barrier 32 true) id (fun s => !(s.rdBar 1 32).armed) && stands (.barrier 32 true) (armed 1) (fun s => (s.rdBar 1 32).phase != true) &&
    stands (.flwait 1 1) (thr fun t => { t with flDone := [(1, 1)] }) (fun s => 1 ≤ Store.get 0 s.cthr.flDone 1) &&
    stands (.timeline .copy 1 0) (crw fun c => { c with cpy := { timeline := 1 } }) (fun s => 1 ≤ s.ccrew.cpy.timeline) &&
    stands (.token 1) (thr fun t => { t with toks := [(1, ⟨true, 14⟩)] }) (fun s => (s.cthr.token 1).cnt < 15) &&
    stands (.copyYield 1) (crw fun c => { c with cpy := { timeline := 1 } }) (fun s => 1 ≤ s.ccrew.cpy.timeline) &&
    stands .fence id (fun s => s.cthr.fence == none)) = true := by decide
theorem witness_limits : ([Wait.cellar 0 1, .recv 0 1, .timeline .copy 9 1].all fun w =>
    stands w (fun s => { s with now := 1000 }) (fun s => (s.slot here).waitSince + 1000 ≤ s.now) && stands w id (fun s => s.now < (s.slot here).waitSince + 1000)) =
      true := by decide
def entry0 (cyc : Nat) : WinEntry := { no := 0, before := {}, cyc := cyc, slotB := false, hdr := 0, word := 1, eng := 0, caps := [3] }
def windowed (cyc : Nat) : State → State := thr fun t => { t with window := [entry0 cyc], issued := 1 }
theorem witness_window : ((demo (windowed 0 ∘ fun s => { s with cycles := 72 })).cthr.window.all (·.cyc + 72 ≤ 72) &&
    (demo (windowed 1 ∘ fun s => { s with cycles := 72 })).cthr.window.all (72 < ·.cyc + 72)) = true := by decide
def spilled (age : Nat) (x : Slot) : State → State := arc fun a => { a with a := x, cstk := [(2, .frag { st := .ready, mask := 1, age := age } false)], starveCyc := some 0 }
theorem witness_swaps :
    ((demo (spilled 256 { st := .ready, mask := 2, issuedHere := true })).carch.swapDue.isSome && !(demo (spilled 256 { st := .ready })).cthr.swapped &&
    ((demo (spilled 0 { st := .blocked, mask := 2 })).carch.starveDue 64).isSome) = true := by decide

/-! ### Witnesses: faults, stops and upsets -/

def late1 : FaultInfo := { exc := .arenaStale, eng := 2, late := true }
theorem witness_pending : (let s := demo ((thr fun t => { t with pendA := [late1] }) ∘ slt fun x => { x with started := false })
    s.ccrew.goes && s.cthr.st == .running && !s.cslot.started && s.cslot.st == .ready && s.cslot.priv == none && s.cslot.wait == none &&
      s.cthr.pendA == [late1]) = true := by decide
theorem witness_watchdog : (stands .fence (fun s => { s.modPart ⟨0, 0⟩ (fun q => { q with watchdogMs := 1 }) with now := 1000001 })
      (fun s => (s.part s.ccrew.pref).watchdogMs == 1 && 1000000 < s.now - s.cslot.wdSince && (s.part s.ccrew.pref).wdPausedAt == none) &&
    stands .fence (fun s => { s.modPart ⟨0, 0⟩ (fun q => { q with watchdogMs := 1 }) with now := 1000000 })
      (fun s => (s.part s.ccrew.pref).watchdogMs == 1 && s.now - s.cslot.wdSince ≤ 1000000)) = true := by decide
/-- A pair whose clause has a breakpoint, one without, and one that may not issue. -/
theorem witness_breakpoint : (let s0 := State.reset.withProgram .vec (encode vmov1)
    let s := s0.modCrew 1 fun c => { c with bp := [(7, 0x80000000)] }
    let e := (s.refreshBlk 1 0).modArch 1 0 fun a => { a with starveCyc := none }
    let v := if e.wakes here then e.resume here else e
    let y := v.slot here
    let g := v.thread 1 0
    s.eligible here && !y.started && y.word == 0 && y.priv == none && g.pendOf false == [] && g.arch.swapDue.isNone && Store.get 0 g.arch.stepLeft 0 != 1 &&
    (match v.fetchWord (v.crew 1) y 0 y.pc.toNat with
    | .word w => (decodeHeader w).any fun k => g.tokensClear k.twait
    | _ => false) && !y.skipBp && ((v.crew 1).bpHits here y.pc).getLsbD 7 && (v.crew 1).stop == none &&
    (s0.crew 1).bpHits here y.pc == 0 && !s.eligible ⟨1, 0, true⟩) = true := by decide +kernel
/-- A pair that is selected with a load of scratch that a watchpoint matches, and one of another place. -/
theorem witness_watchpoint : (let s := (State.reset.withProgram .mem (encode (.sld ⟨5, 0, 0, 2, 0, 16⟩))).modCrew 1 fun c =>
      { c with wp := [(1, 64), (2, 0x81100000), (4, 8), (5, 0x81100000)] }
    s.eligible here && match s.issueNext here with
    | .run i u => match u.accessOf i with
      | some (w, a) => u.reaches w a && (u.wpHits a).getLsbD 0 && u.wpLanes 0 a == 1 && !(u.wpHits a).getLsbD 1 && u.ccrew.stop == none
      | none => false
    | _ => false) = true := by decide +kernel
theorem witness_reserved : (demo.issuerReady && (decode .vec 0xFE000000).isNone) = true := by decide
theorem witness_strike : ([0, 255] : List Nat).Nodup := by decide
theorem witness_residue : ((demo (windowed 0)).cthr.window.all (fun e => e.caps.all (· < 64)) && (demo (windowed 0)).cthr.residue < 2 &&
    2 ≤ (demo (thr (fun t => { t with residue := 2 }) ∘ windowed 0)).cthr.residue && (demo (windowed 0)).ccrew.st != .retired) = true := by decide
theorem witness_poison : stands .poison id (fun s => s.cthr.st == .running) = true := by decide

/-! ### Witnesses: the memory system -/

def lane0 (l : Loc) : LaneWrite := ⟨none, l, 64, [1, 2, 3, 4], 0⟩
def write0 (k : WriteKind) (l : Loc) (a : Option ArenaRef) (gen : Nat) : PendWrite := { at_ := 0, kind := k, lanes := [lane0 l], arena := a, gen := gen }
def queued0 (w : PendWrite) : State → State := thr fun t => { t with sq := [w], issued := 1 }
def atHome (w : PendWrite) (s : State) : Bool := s.cthr.head none == some w && s.cthr.retired w && !w.rel && w.failExc == none
theorem witness_home :
    (let st := write0 .store (.mem 0x20000) (some ⟨0, 0, 0⟩) 1
     let at0 := write0 (.atomic atI32 0) (.scr 1 64) none 0
     let old := write0 .store (.mem 0x20000) (some ⟨0, 0, 0⟩) 0
     let s := demo (queued0 st)
     let t := demo (queued0 at0)
     let u := demo (queued0 old)
     atHome st s && !(s.arena ⟨0, 0, 0⟩).staleBit && (s.arena ⟨0, 0, 0⟩).gen == 1 && !s.cutOff 0 (.mem 0x20000) &&
     atHome at0 t && !t.poisoned (.scr 1 64) 4 && (atomOp atI32 0 (valueAt t.peek (.scr 1 64) 4) 0x04030201 0).isSome &&
     atHome old u && (u.arena ⟨0, 0, 0⟩).gen != old.gen && u.cthr.st == .running && u.cslot.st != .empty) = true := by decide
theorem witness_fence_steps :
    (let s := demo (thr fun t => { t with fence := some (10, 1) })
     let t := demo ((thr fun t => { t with fence := some (10, 1) }) ∘ queued0 (write0 .store (.scr 1 0) none 0))
     let u := demo (thr fun t => { t with flushes := [(1, 1, 0)] })
     s.cthr.fence == some (10, 1) && !s.cthr.localBefore 1 false && t.cthr.localBefore 1 false && !t.cthr.localBefore 1 true &&
     u.cthr.flushes.find? (fun f => f.1 == 1) == some (1, 1, 0) && u.cthr.sq == []) = true := by decide
def page0 : Wait := .page 0 1 { exc := .pageFatal, eng := 2 }
def copyOp (f : Op → Op) : State → State := crw fun c => { c with cpy := { last := 1, ops := [f { num := 1, opcode := 0 }] } }
def op1 : OpRef := ⟨1, .copy, 1⟩
theorem witness_pages : (stands page0 id (fun s => (s.crew 1).goes) &&
    ((demo (copyOp fun o => { o with waitPage := some (0, 1, { exc := .pageFatal, eng := 5 }) })).op? op1).any (·.waitPage.isSome) &&
    demo.pagePresent 3 0xFFFFFFFF && (demo.core 255).tlb == []) = true := by decide

theorem witness_links : (isLink (.ring 0 1) && (demo.links.all fun m => linkEnds m != linkEnds (.ring 0 1)) && (demo.arena ⟨0, 0, 0⟩).st != .free) = true := by
  decide
def finished (ok : Bool) (s : State) : Bool := ok && (s.crew 1).mayFinish && (s.crew 1).stop == none
theorem witness_completes : (let s := demo (copyOp fun o => { o with st := .done, bar := some 32, bytes := 64 })
    let t := demo (copyOp fun o => { o with st := .done, err := some late1 })
    finished ((s.op? op1).any fun o => o.st == .done && o.bar == some 32 && o.err == none) s &&
    finished ((t.op? op1).any fun o => o.err.any (·.exc != .dataUncorrectable)) t && t.cthr.st == .running && t.cslot.st != .empty) = true := by decide
theorem witness_qpost_limit : (let s := demo (copyOp (fun o => { o with opcode := 8, st := .running, blk := [0, 0, 1, 0], ha := ⟨3, obj 0x1000 2, false⟩ }) ∘
      fun s => { s.poke (.mem (0x10000 + 0)) (leBytes 8 16) with now := 1000 })
    (s.op? op1).any fun o => s.roomLate o && (s.postQueue op1 o).1 ≤ (s.postQueue op1 o).2.2.1 - (s.postQueue op1 o).2.2.2 && (s.crew 1).mayFinish) = true := by
  decide
def multi (d1 d3 : DWord) : State → State := copyOp fun o => { o with opcode := 2, blk := [0, d1, 0, d3], ha := ⟨0, demo.rdH 0 |>.ent, false⟩ }
theorem witness_multicast : (let s := demo (multi 3 0x2000000040 ∘ armed 2)
    (s.op? op1).any fun o => s.cpyReady op1 o && !o.accMask.getLsbD 0 && !o.refMask.getLsbD 0 && (o.blk.getD 1 0).getLsbD 1 &&
      (s.crewOf 0 1 0 == some 1) && (s.crewOf 0 1 1 == none) && (s.crew 1).mayRun && 0x40 + o.total ≤ (s.hdrOf (s.crew 1)).scratch &&
      (s.rdBar 1 0x20).pending == (s.rdBar 1 0x20).expect && (s.rdBar 1 0x20).armed &&
      s.opStop op1 0 o.ha o.src o.total true false == none) = true := by decide
theorem witness_seal_steps : (let s := (child .sealing demo).modPart ⟨0, 0⟩ fun q => { q with sealOps := [(1, [1])], dropMask := [2] }
    (s.part ⟨0, 0⟩).sealOps.find? (fun e => e.1 == 1) == some (1, [1]) && !(s.arena ⟨0, 0, 1⟩).sealBit && !(s.arena ⟨0, 0, 2⟩).staleBit &&
    ((s.modArena ⟨0, 0, 1⟩ fun a => { a with sealBit := true }).arena ⟨0, 0, 1⟩).sealBit) = true := by decide

/-! ### Witnesses: messages and rounds -/

/-- A group on a tree of the cores 0 and 1, the root 0, with a message that stands somewhere. -/
def nodes2 (l0 l1 c0 : Nat) : Store Node := [(0, { l := l0, c := [(1, c0)], sent := [3] }), (1, { l := l1, sent := [3] })]
def tree2 (fabric : Option (Nat × Bool)) : Config.Tree := ⟨0, [(0, ⟨none, [(1, 1)]⟩), (1, ⟨some (0, 1), []⟩)], fabric⟩
def gm (at_ : MsgAt) : GMsg := { id := 1, sender := ⟨1, .message, 1⟩, core := 0, task := 1, crew := 0, ord := false, len := 0, payload := [], at_ := at_ }
def grp (m : GMsg) (n : Store Node) (st : GroupSt) (s : State) : State :=
  (s.modPart ⟨0, 0⟩ fun q => { q with trees := [(0, some (tree2 none))] }).modGroup ⟨0, 0⟩ 0 fun g => { g with st := st, gen := 1, msgs := [m], nodes := n }
def mref : MsgRef := ⟨0, 0, 0, 1⟩
def loaded (s : State) (p : GMsg → Bool) : Bool := (s.gmsg? mref).any fun x => p x && (s.op? x.sender).isNone
def nodeOf (s : State) (k : Nat) : Node := Store.get {} (s.group ⟨0, 0⟩ 0).nodes k
theorem witness_report : (let s := grp (gm .parked) (nodes2 0 0 0) .live demo
    (treeNode (tree2 none) 1).any (·.parent == some (0, 1)) && (s.part ⟨0, 0⟩).tree 0 == some (tree2 none) && (nodeOf s 1).sent == [3]) = true := by decide
theorem witness_steer : (let up := grp (gm (.up 1)) (nodes2 0 0 0) .live demo
    let ord := grp { gm (.up 1) with ord := true } (nodes2 0 0 0) .live demo
    let down := grp (gm (.down 1)) (nodes2 0 0 0) .live demo
    let kid := grp (gm (.down 0)) (nodes2 0 0 2) .live demo
    loaded up (·.at_ == .up 1) && loaded ord (·.ord) && loaded down (·.at_ == .down 1) && loaded kid (·.at_ == .down 0) && (nodeOf kid 0).l == 0 &&
    Store.get 0 (nodeOf kid 0).c 1 == 2 && (nodeOf up 1).l == 0) = true := by decide
/-- A ready crew on core 1, not the root. -/
theorem witness_steer_gives : (let s := (crw (fun c => { c with core := 1 }) (grp (gm (.up 1)) (nodes2 0 1 0) .live demo)).modReady 1 0 fun r => { r with amount := 1 }
    loaded s (·.at_ == .up 1) && s.pickCrew ⟨0, 0⟩ 0 1 0 == some 1 && (s.crew 1).core == 1 && 0 < (nodeOf s 1).l && Store.wf {} s.crews) = true := by decide
theorem witness_bounce : (loaded (grp { gm (.bounced 0 1) with bounces := 8 } (nodes2 0 0 1) .live demo) (fun x => x.at_ == .bounced 0 1 && 8 ≤ x.bounces) &&
    loaded (grp (gm .unacked) (nodes2 0 0 0) .live demo) (·.at_ == .unacked)) = true := by decide
theorem witness_delivery : (let s := grp (gm (.ring 1 0 0x40)) (nodes2 0 0 0) .live demo
    loaded s (·.at_ == .ring 1 0 0x40) && s.firstAssigned 1 0) = true := by decide
theorem witness_spawn : (let s := (handlers demo).modCore 0 fun k => { k with cellar := [parked] }
    let t := handlers (grp (gm (.spawn 1 0 0)) (nodes2 0 0 0) .live demo)
    (s.crew 1).goes && (s.crew 1).spawning && s.spawnable 1 == [] && s.oldestFor 1 == some parked && parked.arrived && s.openSlots 1 == [0, 1, 2, 3] &&
    t.spawnable 1 == [mref] && t.oldestFor 1 == none && loaded t (·.at_ == .spawn 1 0 0)) = true := by decide
theorem witness_discard : (let s := grp (gm .parked) (nodes2 0 0 0) .deleting demo
    loaded s (·.at_ == .parked) && (s.group ⟨0, 0⟩ 0).st == .deleting && !(s.group ⟨0, 0⟩ 0).orphanC.getLsbD 63) = true := by decide

def collAt (c : Coll) (fabric : Option (Nat × Bool)) (s : State) : State :=
  (s.modPart ⟨0, 0⟩ fun q => { q with trees := [(0, some (tree2 fabric))] }).modColl ⟨0, 0⟩ 0 fun _ => c
theorem witness_partial : (coll0.inputs (tree2 none) (round 0) 1 == some [] && coll0.inputs (tree2 none) (round 0) 0 == some [[0]] &&
    (treeNode (tree2 none) 1).any (·.kids.isEmpty) && ((tree2 none).root == 0)) = true := by decide
theorem witness_result : (let x : Round := { round 0 with result := some [5], left := [0] }
    let s := collAt { coll0 with rounds := [x] } none demo
    (s.coll ⟨0, 0⟩ 0).rounds.find? (fun y => y.k == 0 && y.ended.isNone && y.left.contains 0) == some x && x.posts.find? (fun e => e.core == 0) == some { core := 0, uid := 1, num := 1, words := [0] } &&
    (s.crew 1).mayFinish && !(s.crew 1).trace.on) = true := by decide
theorem witness_timeout : (({ collAt { coll0 with rounds := [round 0] } none demo with now := 5000 } : State).roundLate ⟨0, 0⟩ 0 (round 0)) = true := by decide
theorem witness_halted : (let s := collAt coll0 (some (0, false)) demo
    let t := (collAt { coll0 with frozenAt := some 0 } (some (0, false)) demo).modPart ⟨0, 0⟩ fun q => { q with haltedTrees := [0] }
    (s.coll ⟨0, 0⟩ 0).live && (s.part ⟨0, 0⟩).tree 0 == some (tree2 (some (0, false))) && (s.part ⟨0, 0⟩).haltedTrees == [] && !(s.part ⟨0, 0⟩).dbgpol.getLsbD 0 &&
    (t.part ⟨0, 0⟩).haltedTrees == [0] && (t.coll ⟨0, 0⟩ 0).frozenAt == some 0 && 0 ≤ t.now && t.crews.all fun e => e.2.stop == none) = true := by decide

/-! ### Witnesses: packets and launches -/

def q0 : Queue := { reg := true, part := 0, hdrH := 3, hdrOff := 0, ringH := 3, ringOff := 0x100, capLog := 4 }
/-- Queue 0 with one packet in its ring that may start, and queue 1 empty; object 3 holds both headers and the ring. -/
def pkt (ds : List DWord) (q : Queue := q0) (s : State := demo) : State :=
  let s := s.setHandle ⟨0, 0⟩ 3 (HEntry.make 0x30000 0x1000 1 0 2 0 true true false 0 0 0)
  let s := (s.modQueue 0 0 fun _ => q).modQueue 0 1 fun _ => { q0 with hdrOff := 0x80, ringOff := 0x600 }
  (s.poke (.mem (memKey 0 0x30000)) (leBytes 8 1)).poke (.mem (memKey 0 0x30100)) (ds.flatMap fun d => leBytes 8 d.toNat)
def k0 : PktRef := ⟨0, 0, 0⟩
def noComp : DWord := 0xFFFFFFFF00000000
/-- A word of object 3 at offset `o`. -/
def at3 (o : Nat) : DWord := BitVec.ofNat 64 (3 * 2 ^ 32 + o)
theorem witness_skipped : (List.range 8).all (fun n => let s := pkt [BitVec.ofNat 64 (n + 1), noComp] { q0 with skip := 1 }
    s.pktType k0 == n + 1 && s.pktStarts k0 && (s.startedPkt k0 (n + 1)).isNone) = true := by decide
theorem witness_badpacket : ((List.range 8).all (fun n => let s := pkt [BitVec.ofNat 64 (n + 1 + 512), noComp]
    s.pktType k0 == n + 1 && s.pktStarts k0 && (s.pktD k0 0).toNat / 2 ^ 9 != 0) && (pkt [9, noComp]).pktStarts k0 && (pkt [255, noComp]).pktType k0 == 255 &&
    !(pkt [2, noComp] { q0 with next := 1 }).pktStarts k0) = true := by decide
def fine (s : State) (ty : Nat) (used : List DWord) : Bool :=
  s.pktType k0 == ty && s.pktStarts k0 && (s.queue 0 0).skip == 0 && !s.pktBad k0 used
def ones : DWord := 0xFFFFFFFFFFFFFFFF
theorem witness_branch : (let s := pkt [2, noComp, at3 0x800, ones, 0, 0x0000000700000005]
    fine s 2 [ones, ones, ones, 0x0000FFFF00000007] && (s.brewDword ⟨0, 0⟩ (s.pktD k0 2) 8 8 true false).isSome && (s.pktD k0 5).toNat % 8 < 6) = true := by decide +kernel
theorem witness_waittl : (let s := pkt [3, noComp, at3 0x800, 1, 7]
    let t := pkt [3, noComp, at3 0x800, 0, 7]
    fine s 3 [ones, ones, lowBits 32] && (s.brewDword ⟨0, 0⟩ (s.pktD k0 2) 8 8 true false).any (fun a => (s.rd64 a).toNat < (s.pktD k0 3).toNat) &&
    fine t 3 [ones, ones, lowBits 32] && (t.brewDword ⟨0, 0⟩ (t.pktD k0 2) 8 8 true false).any (fun a => (t.pktD k0 3).toNat ≤ (t.rd64 a).toNat)) = true := by decide
def begun (ty : Nat) (b : List DWord) : Queue := { q0 with next := 1, pkts := [{ index := 0, st := .started, ty := ty, body := b }] }
theorem witness_waiting : (let s := pkt [3] (begun 3 [at3 0x800, 1, 1])
    let t := pkt [3] (begun 4 [1, 0, 1])
    (s.startedPkt k0 3).any (fun x => (s.brewDword ⟨0, 0⟩ (x.d 2) 8 8 true false).any fun a => (s.rd64 a).toNat < (x.d 3).toNat) &&
    (t.startedPkt k0 3).isNone && (t.startedPkt k0 4).any fun x => (x.d 4).toNat % 2 ^ 32 == 1) = true := by decide
theorem witness_depend : (let s := pkt [4, noComp, 1, 0, 7]
    fine s 4 [lowBits 12, ones, lowBits 32] && (s.startedPkt k0 4).isNone && (s.queue 0 1).reg && !(s.queue 0 1).isRetired 0 &&
    ({ q0 with next := 1 } : Queue).isRetired 0) = true := by decide
theorem witness_signal : ([0, 1, 2].all fun m => let s := pkt [5, noComp, at3 0x800, 9, m]
    fine s 5 [ones, ones, 0xFFFF0007] && (s.brewDword ⟨0, 0⟩ (s.pktD k0 2) 8 8 true true).isSome) = true := by decide
theorem witness_copy : (let s := pkt [6, noComp, at3 0x800, at3 0x900, 64]
    let z := pkt [6, noComp, at3 0x800, at3 0x900, 0]
    let t := pkt [6] (begun 6 [at3 0x800, at3 0x910, 64])
    fine s 6 [ones, ones, lowBits 41] && (s.brewAddr ⟨0, 0⟩ 3 0x800 64 1 true false).isSome && (s.brewAddr ⟨0, 0⟩ 3 0x900 64 1 false true).isSome &&
    fine z 6 [ones, ones, lowBits 41] && (t.startedPkt k0 6).any (fun x => x.prog + 16 < (x.d 4).toNat) &&
    (t.brewAddr ⟨0, 0⟩ 3 0x800 16 1 true false).any (fun a => t.pagePresent (keyLdev a) (pageOf a) && !t.poisoned (.mem a) 16)) = true := by decide
theorem witness_drop_marker : (let s := child .live (pkt [7, noComp, childName])
    let t := pkt [8, noComp, 1, 2, 3, 4, 5]
    fine s 7 [lowBits 32] && s.arenaBad ⟨0, 0⟩ (s.pktD k0 2) true badRoot == none && fine t 8 [ones, ones, ones, ones, ones]) = true := by decide

/-- The launch header at offset 0x800 of object 3: LEVEL 1 of a domain of `n` positions, `scr` bytes of scratch, the classes `uses`. -/
def hdrAt (n scr uses table : Nat) : State :=
  let s := pkt [1, noComp, at3 0x800]
  s.poke (.mem (memKey 0 0x30800)) ([0x100000001, 0, 0xFFFFFFFF + table * 2 ^ 32, 5 + 2 ^ 36, n, 64 + 256 + (if table = 0 then 0 else 2 ^ 20) + scr * 2 ^ 32, 4096 * 2 ^ 32,
    uses, 0, 0xFFFFFFFFFFFFFFFF, 0, 0, 0, 0, 0, 0].flatMap (leBytes 8))
def rawOf (s : State) : Hdr := readHdr fun i => (s.rd64 (memKey 0 0x30800 + 8 * i)).toNat
def goodHdr (s : State) : Bool := fine s 1 [ones] && s.brewDword ⟨0, 0⟩ (s.pktD k0 2) 128 128 true false == some (memKey 0 0x30800) &&
  !s.badHeader ⟨0, 0⟩ (fun i => (s.rd64 (memKey 0 0x30800 + 8 * i)).toNat) (rawOf s)
theorem witness_launch : (goodHdr (hdrAt 32 1024 0 0) && (hdrAt 32 1024 0 0).launchFails ⟨0, 0⟩ (rawOf (hdrAt 32 1024 0 0)) == none &&
    goodHdr (hdrAt 0 1024 0 0)) = true := by decide +kernel
theorem witness_launch_arena : ((hdrAt 32 1024 0 0).newPrivate ⟨0, 0⟩ (rawOf (hdrAt 32 1024 0 0)) 1).isSome = true := by decide +kernel
theorem witness_launch_fails : (goodHdr (hdrAt 32 0x400000 0 0) && 3145728 < (rawOf (hdrAt 32 0x400000 0 0)).storeBytes + 262144 &&
    fine (pkt [1, noComp, at3 0x800]) 1 [ones] && (pkt [1, noComp, at3 0x800]).badHeader ⟨0, 0⟩ (fun _ => 0) (readHdr fun _ => 0) &&
    goodHdr (hdrAt 32 1024 0 4)) = true := by decide +kernel
theorem witness_launch_table : ((hdrAt 32 1024 0 4).handTable ⟨0, 0⟩ (fun i => ((hdrAt 32 1024 0 4).rd64 (memKey 0 0x30800 + 8 * i)).toNat) (rawOf (hdrAt 32 1024 0 4))).any
    (fun pc => pc != 0xFFFFFFFF && (pc.toNat % 4 != 0 || ((hdrAt 32 1024 0 4).handle ⟨0, 0⟩ 1).size < pc.toNat + 8)) = true := by decide +kernel

/-! ### Witnesses: placement and ends -/

/-- The pair holds no clause. -/
def idle0 : State → State := slt fun x => { x with holds := false }

/-- Task 2 of queue 0, one crew of it pending, and core 1 alone able to take it. -/
def pending (deficit : Int) : State :=
  let s := pkt [0]
  let s := s.modTask 0 2 fun _ => { st := .running, part := 0, queue := 0, hdr := soleHdr, code := soleCode, crews := 1, blocks := 1 }
  let s := (List.range 64).foldl (fun s k => if k = 1 then s else s.modCore k fun c => { c with mask := 0 }) s
  (s.modQueue 0 0 fun q => { q with deficit := deficit }).modPart ⟨0, 0⟩ fun q => { q with curQueue := [(0, some 0)] }
theorem witness_place_none : (List.range 8).all (fun l => demo.ready? ⟨0, 0⟩ l == []) = true := by decide +kernel
theorem witness_place : (let s := pending 1
    (List.range 7).all (fun l => s.ready? ⟨0, 0⟩ (l + 1) == []) && (s.ready? ⟨0, 0⟩ 0).map Prod.fst == [0] && s.candidate ⟨0, 0⟩ 0 0 (s.queue 0 0) == some 2 &&
    s.nextCrewOf 0 2 == some (0, none) && s.blocksFor 0 2 [(0, none)] && s.bestCores ⟨0, 0⟩ soleHdr (0, none) [] == [1] && !(s.task 0 2).traced) = true := by decide +kernel
theorem witness_turn : ((pending 0).ready? ⟨0, 0⟩ 0 |>.map Prod.fst) = [0] := by decide +kernel
theorem witness_saves : (let s := demo (idle0 ∘ crw fun c => { c with st := .preempting, cpy := { freeze := true }, mtx := { freeze := true } })
    (s.crew 1).cause == none && (s.crew 1).quiet && (s.crew 1).opsSettled && (s.crew 1).threads.all (fun e => e.2.sq == []) && Store.wf {} (s.crew 1).ready) = true := by
  decide
theorem witness_resume_crew : (let s := demo (crw fun c => { c with st := .placing })
    (s.crew 1).st == .placing && (s.crew 1).cause == none && Store.wf {} (s.crew 1).ready) = true := by decide
theorem witness_aged : (let s := pkt [0] { q0 with waitSince := some 0, ageUs := 1 }
    (s.queue 0 0).waitSince == some 0 && !(s.queue 0 0).aged && s.now < 1000 && (1000 ≤ ({ s with now := 1000 } : State).now)) = true := by decide

theorem witness_ends : (let r := demo (idle0 ∘ crw fun c => { c with st := .retiring })
    let k := demo (crw fun c => { c with st := .killing })
    let x := demo (idle0 ∘ crw fun c => { c with cause := some .command })
    (r.crew 1).quiet && (r.crew 1).stop == none && (r.crew 1).trace.buf == [] && (r.crew 1).cpy.ops == [] && (r.crew 1).threads.all (fun e => e.2.sq == []) &&
    (k.crew 1).st == .killing && (x.crew 1).quiet && !x.waitsDump 1 && (x.crew 1).st == .running) = true := by decide
def lone (f : Task → Task) : State := (State.reset.withProgram .vec 0 |>.setCrew 1 {}).modTask 0 1 f
theorem witness_task_ends : ((lone fun t => { t with st := .ending }).crewsEnded 0 1 &&
    (let s := lone fun t => { t with st := .dropping, arena := 1, hdr := { t.hdr with resulth := 0xFFFFFFFF } }
     (s.task 0 1).st == .dropping && (s.arena ⟨0, 0, 1⟩).st == .free && (s.task 0 1).result == none) &&
    (let s := pkt [0] q0 (lone fun t => { t with st := .dropping, arena := 1, result := some 7, hdr := { t.hdr with resulth := 3 } })
     (s.task 0 1).result == some 7 && (s.brewAddr ⟨0, 0⟩ 3 0 8 8 false true).isSome && ((s.queue 0 0).launchOf 1).isNone)) = true := by decide
theorem witness_task_times_out : (let s := { lone (fun t => { t with firstNs := some 0, hdr := { t.hdr with timeoutUs := 1 } }) with now := 1000 }
    (s.task 0 1).firstNs == some 0 && (s.task 0 1).pausedAt == none && 0 + (s.task 0 1).pausedNs + 1000 ≤ s.now) = true := by decide
def dumping (target : Option (DWord × Nat)) : State :=
  (pkt [0] q0 (demo idle0)).modPart ⟨0, 0⟩ fun q => { q with dumping := some 1, dumpTarget := target }
theorem witness_dump_written : (((dumping none).part ⟨0, 0⟩).dumping == some 1 && ((dumping (some (at3 0x800, 64))).crew 1).quiet &&
    ((dumping (some (at3 0x800, 64))).brewDword ⟨0, 0⟩ (at3 0x800) 64 1 false true).isSome &&
    ((dumping (some (at3 0xFFF, 64))).brewDword ⟨0, 0⟩ (at3 0xFFF) 64 1 false true).isNone) = true := by decide
theorem witness_dump_complete : (let s := demo ((crw fun c => { c with stop := some .dump }) ∘ idle0 ∘ slt fun x => { x with st := .blocked, wait := some (.dump (demo.rdH 0) 0 0 64 1) })
    (s.crew 1).stop == some .dump && (s.crew 1).atRest && (s.crew 1).cause == none && s.dumpWritable 1 (demo.rdH 0) 0 64 &&
    (s.crews.all fun e => e.1 == 1 || e.2.stop == none) && (s.part ⟨0, 0⟩).wdPausedAt == none) = true := by decide


/-! ### Witnesses: commands -/

def cmd (op : BitVec 16) (args : List DWord) (m : Master := .os) : Cmd := ⟨m, 7, op, 0, 0, 0, 0, 64, true, args⟩
def owned (s : State) (m : Option Master := some .os) : State := { s with owner := m }
/-- The command meets every clause of `State.Admits` under the rule, and the range of its arguments. -/
def adm (s : State) (c : Cmd) (r : CmdRule) : Bool :=
  !s.unheard c && c.opcode.toNat == r.op && r.sub.all (cArgN c 0 == ·) && c.resvHi == 0 && c.resvMid == 0 && s.outstanding c.source < 256 &&
    s.allowed r.who c.source && (!r.signed || (c.sigLen != 0 && c.sigOk)) && scopeOk c r.scope && r.range && (r.scope != 2 || (s.part (cmdPart c)).live)
theorem adm_admits (s : State) (c : Cmd) (r : CmdRule) (h : adm s c r = true) : s.Admits c r := by
  simp only [adm, Bool.and_eq_true, Bool.not_eq_true', beq_iff_eq, decide_eq_true_eq, Bool.or_eq_true, bne_iff_ne, Option.all_eq_true_iff_get] at h
  obtain ⟨⟨⟨⟨⟨⟨⟨⟨⟨⟨h1, h2⟩, h3⟩, h4⟩, h5⟩, h6⟩, h7⟩, h8⟩, h9⟩, -⟩, h10⟩ := h
  refine ⟨h1, ⟨h2, ?_, h4, h5⟩, h6, h7, ?_, h9, ?_⟩
  · intro k hk; have := h3 (by rw [hk]; rfl); simpa [hk] using this
  · intro hs; rcases h8 with h8 | h8
    · rw [hs] at h8; cases h8
    · exact h8
  · intro hs; rcases h10 with h10 | h10
    · exact absurd hs h10
    · exact h10

/-- A record with each fault in its frame, and one without (REGISTER of R387: opcode 0x13, issued by every master). -/
theorem witness_command_checks : (let s := owned demo
    let c := cmd 0x10 [0]
    let full : State := { s with cmds := List.replicate 256 { cmd := cmd 0x10 [1], sinceNs := 0, ref_ := 0, uids := [] } }
    !s.unheard c && ({ s with cfg := { s.cfg with recovery := true } } : State).unheard c && s.cmds == [] && full.outstanding .os == 256 && s.allowed .owner .os &&
    !s.allowed .owner .mgmt && !s.allowed .mgmt .os && !(s.part ⟨0, 1⟩).live && (s.part ⟨0, 0⟩).live && !scopeOk { c with ldev := 4 } 2 && !scopeOk { c with part := 8 } 2 &&
    scopeOk c 2 && ({ c with resvHi := 1 }).resvHi != 0 && ({ c with sigOk := false } : Cmd).sigLen != 0) = true := by decide +kernel
theorem witness_unknown : ([0, 0x14, 0x26, 0x4B].all fun k => !(knownOpcodes.contains k)) = true := by decide

/-- Every command's frame is met by some record of demo's owner. -/
theorem witness_admits_owner : (let s := owned demo
    adm s (cmd 1 [] .remote) { op := 1, who := .any, signed := true, scope := 0 } && adm s (cmd 2 [2]) { op := 2, signed := true, scope := 0 } &&
    adm s (cmd 3 [1] .mgmt) { op := 3, who := .mgmt, signed := true, scope := 0 } && adm s (cmd 0x21 [1]) { op := 0x21, scope := 1 } && adm s (cmd 0x22 []) { op := 0x22 } &&
    adm s (cmd 0x23 [3]) { op := 0x23, scope := 0 } && adm s (cmd 0x23 [2]) { op := 0x23 } && adm s (cmd 0x24 [3600000]) { op := 0x24, range := 3600000 ≤ 3600000 } &&
    adm s (cmd 0x25 [at3 0x800, 64]) { op := 0x25 } && adm s (cmd 0x49 [65535, 2, 3]) { op := 0x49, who := .os, scope := 0 } &&
    adm s (cmd 0x4A [0, 16] .remote) { op := 0x4A, who := .any, scope := 0 } && adm s (cmd 0x48 [1, 2, 3, 4, 0] .mgmt) { op := 0x48, who := .any, scope := 0 } &&
    adm s (cmd 0x48 [1, 2, 3, 4, at3 0] .mgmt) { op := 0x48, who := .any }) = true := by decide
theorem witness_claim : (let s := owned demo none
    (owned demo).owner == some (cmd 1 []).source && s.cfg.priority.head? == some .os && !({ s with windowOpen := false } : State).windowOpen && s.windowOpen &&
    s.cfg.priority.head? != some .remote && s.cfg.priority.contains .remote) = true := by decide
theorem witness_election : (let s : State := { owned demo none with windowNs := 0, now := 60000000000 }
    let t : State := { s with claims := [.remote] }
    s.windowOpen && s.windowNs + s.cfg.windowSec * 1000000000 ≤ s.now && (s.cfg.priority.all fun m => !s.claims.contains m) &&
    t.cfg.priority == [.os, .mgmt] ++ .remote :: [] && !t.claims.contains .os && !t.claims.contains .mgmt && t.claims.contains .remote) = true := by decide
theorem witness_kill : (let s := owned demo
    let e := s.modTask 0 1 fun k => { k with st := .ending }
    let d := s.modTask 0 1 fun k => { k with st := .ended }
    1 ≤ Store.get 0 s.nextTask 0 && (s.task 0 1).st == .running && (e.task 0 1).st == .ending && (d.task 0 1).st != .running && (d.task 0 1).st != .ending &&
    Store.get 0 s.nextTask 0 < 2 && Store.wf {} s.tasks && (s.task 0 1).part == 0) = true := by decide
theorem witness_power : (let s := owned demo
    let g := s.modPart ⟨0, 0⟩ fun q => { q with power := .gated }
    s.crewsAbout ⟨0, 0⟩ && !(owned State.reset).crewsAbout ⟨0, 0⟩ && (g.liveParts.all fun q => (g.part q).power == .gated) && !(s.liveParts.all fun q => (s.part q).power == .gated)) =
    true := by decide
theorem witness_dumph : ((pkt [0]).brewDword ⟨0, 0⟩ (at3 0x800) 64 1 false true != none && (pkt [0]).brewDword ⟨0, 0⟩ (at3 0x800) 0x1000 1 false true == none) = true := by decide
theorem lms_lt : Config.lmsBytes < 2 ^ 32 := Config.lmsLen.isLt
def sized (n : Nat) : State := { demo with handles := [(3, { HEntry.make 0 0 1 0 2 0 true true false 0 0 0 with d1 := BitVec.ofNat 64 n })] }
/-- An object that holds a report, however long its signature is. -/
theorem witness_attest_room : ((sized (2304 + Config.lmsBytes)).brewDword ⟨0, 0⟩ (at3 0) (2304 + Config.lmsBytes) 1 false true).isSome = true := by
  have h : ∀ n : Nat, n < 2 ^ 48 → ((sized n).brewDword ⟨0, 0⟩ (at3 0) n 1 false true).isSome = true := by
    intro n hn
    have hz : ((sized n).handle ⟨0, 0⟩ 3).size = n := by
      show bits (BitVec.ofNat 64 n).toNat 0 48 = n
      unfold bits
      rw [BitVec.toNat_ofNat]
      omega
    show (State.brewAddr (sized n) ⟨0, 0⟩ 3 0 n 1 false true).isSome = true
    have h2 : (if (0 : DWord).toNat + n ≤ ((sized n).handle ⟨0, 0⟩ 3).size then (none : Option Exc) else some .handleBounds) = none := by rw [hz]; simp
    have h5 : ∀ c, (sized n).step5 ⟨0, 0⟩ ((sized n).handle ⟨0, 0⟩ 3) false true c = none := by
      intro c
      show (sized 0).step5 ⟨0, 0⟩ ((sized 0).handle ⟨0, 0⟩ 3) false true c = none
      have hr : ((sized 0).handle ⟨0, 0⟩ 3).arenaRef ⟨0, 0⟩ = ⟨0, 0, 0⟩ := by decide
      have ha : ((sized 0).arena ⟨0, 0, 0⟩).staleBit = false ∧ ((sized 0).arena ⟨0, 0, 0⟩).sealBit = false ∧ ((sized 0).arena ⟨0, 0, 0⟩).staleAt = [] ∧
          ((sized 0).arena ⟨0, 0, 0⟩).sealAt = [] ∧ ((sized 0).arena ⟨0, 0, 0⟩).gen = ((sized 0).handle ⟨0, 0⟩ 3).gen := by decide
      unfold State.step5
      rw [if_neg (by decide), hr]
      simp [State.arenaStop, Arena.goneAt, Arena.sealedAt, ha]
    have hs : ((sized n).handle ⟨0, 0⟩ 3).space = 2 := by
      show ((sized 0).handle ⟨0, 0⟩ 3).space = 2
      decide
    have hw1 : ∀ c, ((sized n).checkStep ⟨0, 0⟩ ⟨3, (sized n).handle ⟨0, 0⟩ 3, false⟩ ⟨n, 1, false, true⟩ none c 0 1).isNone = true := by
      intro c
      show ((sized 0).checkStep ⟨0, 0⟩ ⟨3, (sized 0).handle ⟨0, 0⟩ 3, false⟩ ⟨0, 1, false, true⟩ none 0 0 1).isNone = true
      decide
    have hw3 : ∀ c, ((sized n).checkStep ⟨0, 0⟩ ⟨3, (sized n).handle ⟨0, 0⟩ 3, false⟩ ⟨n, 1, false, true⟩ none c 0 3).isNone = true := by
      intro c
      show ((sized 0).checkStep ⟨0, 0⟩ ⟨3, (sized 0).handle ⟨0, 0⟩ 3, false⟩ ⟨0, 1, false, true⟩ none 0 0 3).isNone = true
      decide
    have hw4 : ∀ c, ((sized n).checkStep ⟨0, 0⟩ ⟨3, (sized n).handle ⟨0, 0⟩ 3, false⟩ ⟨n, 1, false, true⟩ none c 0 4).isNone = true := by
      intro c
      show ((sized 0).checkStep ⟨0, 0⟩ ⟨3, (sized 0).handle ⟨0, 0⟩ 3, false⟩ ⟨0, 1, false, true⟩ none 0 0 4).isNone = true
      decide
    have hk : ∀ c, ([1, 2, 3, 4, 5].all fun k => ((sized n).checkStep ⟨0, 0⟩ ⟨3, (sized n).handle ⟨0, 0⟩ 3, false⟩ ⟨n, 1, false, true⟩ none c 0 k).isNone) = true := by
      intro c
      simp only [List.all_cons, List.all_nil, Bool.and_true, Bool.and_eq_true]
      exact ⟨hw1 c, (congrArg Option.isNone h2 : _), hw3 c, hw4 c, (congrArg Option.isNone (h5 c) : _)⟩
    have hj : joined (sized n).links 4 (((sized n).handle ⟨0, 0⟩ 3).home 0) = true := by
      show joined (sized 0).links 4 (((sized 0).handle ⟨0, 0⟩ 3).home 0) = true
      decide
    unfold State.brewAddr
    rw [if_neg (by decide)]
    simp only [hs]
    rw [hj, if_neg (by decide)]
    exact (congrArg Option.isSome (if_pos (hk _)) : _)
  exact h _ (by have := lms_lt; omega)

/-! ### Witnesses: partition changes and queues -/

def change0 : PartChange := { st := .pending, source := .os, seq := 7, regions := 0xF0F, ways := 0x808, pcs := 0x1010, deadlineUs := 1, force := false, startNs := 0 }
def changing (x : PartChange) (s : State := demo) : State := { s with change := [(0, some x)] }
theorem witness_partchg : (let s := owned demo
    let c := cmd 0x20 [0x0F, 0x08, 0x10, 1]
    let d := cmd 0x20 [0xFF, 16, 32, 1]
    adm s c { op := 0x20, scope := 1, range := layoutOk (cArg c 0) (cArg c 1) (cArg c 2) } && adm s d { op := 0x20, scope := 1, range := layoutOk (cArg d 0) (cArg d 1) (cArg d 2) } &&
    Store.get none s.change 0 == none && (Store.get none (changing change0).change 0).isSome &&
    ((List.range 8).all fun i => byteOf (cArg d 0) i == (s.part ⟨0, i⟩).regions.toNat && byteOf (cArg d 1) i == (s.part ⟨0, i⟩).ways && byteOf (cArg d 2) i == (s.part ⟨0, i⟩).pcs) &&
    byteOf (cArg c 0) 0 != (s.part ⟨0, 0⟩).regions.toNat) = true := by decide
theorem witness_layout : (layoutOk 0xFF 16 32 && layoutOk 0xF00F 0x0808 0x1010 && !layoutOk 0x0101 0x0808 0x1010 && !layoutOk 0xFF 17 32 && !layoutOk 0xFF 16 33 && !layoutOk 0xFF 0 32) =
    true := by decide
theorem witness_deadline : (let s : State := { changing { change0 with force := true } with now := 1000 }
    let t : State := { changing change0 with now := 1000 }
    s.now == 1000 && change0.startNs + change0.deadlineUs * 1000 ≤ t.now && (changing change0).now < 1000 && Store.wf {} s.tasks &&
    (s.affected 0 change0).contains (s.task 0 1).part && s.taskCrews 0 1 != []) = true := by decide
theorem witness_apply : (let s := changing { change0 with st := .deadline }
    let t := changing change0 (demo (crw fun c => { c with st := .retired }))
    (s.crews.any fun e => e.2.ldev == 0 && (s.affected 0 change0).contains e.2.part && e.2.st != .pending && e.2.st != .retired) &&
    (t.crews.all fun e => e.2.st == .retired) && (t.part ⟨0, 0⟩).regions != 0xF && t.affected 0 change0 == [0, 1]) = true := by decide

/-- The header of queue 0 with the configuration `cfg`. -/
def withCfg (cfg : DWord) (q : Queue := {}) : State :=
  owned (((pkt [1, noComp] q).wr64 (memKey 0 0x30088) (3 * 2 ^ 32 + 0x100)).wr64 (memKey 0 0x30090) cfg.toNat)
def cfg0 : DWord := 0x000003E804014104
theorem witness_qreg : (let s := withCfg cfg0
    let c := cmd 0x10 [0, at3 0, 5]
    adm s c { op := 0x10, range := 0 ≤ 4095 } && s.brewDword ⟨0, 0⟩ (cArg c 1) 256 256 true true == some (memKey 0 0x30000) && (s.handle ⟨0, 0⟩ 3).space == 2 &&
    !(s.queue 0 0).reg && (s.readQueue ⟨0, 0⟩ (memKey 0 0x30000)).isSome && (withCfg cfg0 q0).hasQueue c && s.brewDword ⟨0, 0⟩ (at3 0xF80) 256 256 true true == none) = true := by decide
theorem witness_qreg_bad : ((withCfg 0x0000000004000000).readQueue ⟨0, 0⟩ (memKey 0 0x30000) == none) = true := by decide
theorem witness_queue_commands : (let s := withCfg cfg0 (begun 3 [])
    let f := (withCfg cfg0 q0).wr64 (memKey 0 0x30000) 16
    [0x11, 0x12].all (fun op => adm s (cmd op [0]) { op := op.toNat, range := 0 ≤ 4095 } && s.hasQueue (cmd op [0]) && !s.hasQueue (cmd op [9])) &&
    adm s (cmd 0x13 [0] .remote) { op := 0x13, who := .any, range := 0 ≤ 4095 } && s.cmds == [] && (s.queue 0 0).pkts.all (fun x => x.index < (s.queue 0 0).next) &&
    (s.rd64 (s.queueHdr 0 (s.queue 0 0))).toNat ≤ (s.queue 0 0).next && (withCfg cfg0 q0).pktType k0 == 1 && (s.rd64 (memKey 0 0x30000)).toNat < 16 &&
    16 ≤ (f.rd64 (f.queueHdr 0 (f.queue 0 0))).toNat && (f.queue 0 0).capLog == 4) = true := by decide
theorem witness_append_again : (let c := cmd 0x13 [0]
    let s : State := { withCfg cfg0 q0 with cmds := [{ cmd := c, sinceNs := 0, ref_ := 0, uids := [] }] }
    (s.cmds.any fun x => x.cmd == c) && c.opcode == 0x13 && s.hasQueue c) = true := by decide

/-! ### Witnesses: arenas, handles and memory through commands -/

def heeded (s : State) (op : BitVec 16) (args : List DWord) (who : Needs := .owner) (scope : Nat := 2) : Bool :=
  adm s (cmd op args) { op := op.toNat, who := who, scope := scope }
theorem witness_arena_commands : (let s := owned (child .live demo)
    [0x30, 0x31, 0x32, 0x33, 0x34].all (fun op => heeded s op [childName, 0x100, 0x18]) && heeded s 0x35 [childName, 3] .any &&
    (let a := s.arena (arenaAt ⟨0, 0⟩ (childName.toNat % 4096))
     a.st == .live && a.gen == childName.toNat / 4096 % 2 ^ 20 && a.depth != 0 && a.depth != 8 && !a.held) && (s.freeArena ⟨0, 0⟩).isSome &&
    (s.pathOf ⟨0, 0⟩ (childName.toNat % 4096)).all (fun j => (s.arena (arenaAt ⟨0, 0⟩ j)).used + 0x100 ≤ (s.arena (arenaAt ⟨0, 0⟩ j)).quota) &&
    s.hasBacking ⟨0, 0⟩ false 0x100 && !s.hasBacking ⟨0, 0⟩ false (2 ^ 48)) = true := by decide +kernel
theorem witness_arena_sealed : [ArenaSt.sealing, .sealed_, .dropping].all (fun x => let s := owned (child x demo)
    (s.arena (arenaAt ⟨0, 0⟩ (childName.toNat % 4096))).st == x) = true := by decide
theorem witness_moves : (let s := owned (pkt [0])
    adm s (cmd 0x3C [at3 0x800, 56] .remote) { op := 0x3C, who := .any } && adm s (cmd 0x3D [at3 0x800, 1] .remote) { op := 0x3D, who := .any } &&
    s.brewDword ⟨0, 0⟩ (at3 0x800) 56 1 true false == some (memKey 0 0x30800) && s.brewDword ⟨0, 0⟩ (at3 0x800) 1 1 false true == some (memKey 0 0x30800) &&
    s.brewDword ⟨0, 0⟩ (at3 0xFFF) 56 1 true false == none && s.brewDword ⟨0, 0⟩ (at3 0x1000) 1 1 false true == none) = true := by decide
/-- Handle 5 of device 1, in a live root arena of its own. -/
def otherDev (s : State) : State :=
  ((s.setHandle ⟨1, 0⟩ 5 (HEntry.make 0x5000 0x1000 1 0 2 0 true true false 0 0 0)).modArena ⟨1, 0, 0⟩ fun _ => { gen := 1, st := .live })
theorem witness_import : (let s := owned (otherDev demo)
    let c := cmd 0x3A [0x0100000000000005, 3]
    let x := s.handle ⟨1, 0⟩ 5
    adm s c { op := 0x3A } && cArgN c 0 / 2 ^ 56 == 1 && cArgN c 0 / 2 ^ 48 % 256 == 0 && x.valid && x.space == 2 && (s.arena (x.arenaRef ⟨1, 0⟩)).st == .live &&
    (s.arena (x.arenaRef ⟨1, 0⟩)).gen == x.gen) = true := by decide
def map0 : HostMap := ⟨0x010000000000, 0, 0, 3, HEntry.make 0x30000 0x1000 1 0 2 0 true true false 0 0 0, true, true⟩
theorem witness_map : (let s := owned (pkt [0])
    let t : State := { s with maps := [map0] }
    heeded s 0x38 [3, 3] .os && heeded t 0x39 [0x010000000000] .os 0 && (s.handle ⟨0, 0⟩ 3).valid && (s.mapPlaces 0x1000).length != 0 && (t.mapPlaces 0x1000).length != 0 &&
    t.maps.all (fun m => 0x010000000000 ≤ m.addr) && (t.maps.any fun m => m.addr == 0x010000000000) && s.maps == []) = true := by decide +kernel
theorem witness_register_write : (let s : State := { owned (pkt [0]) with maps := [map0] }
    !s.cfg.recovery && s.maps.find? (fun m => m.meets 0x010000000800 8) == some map0 && (s.maps.all fun m => m.meets 0x020000000000 8 == false) &&
    ([1, 2, 3, 4, 5].all fun k => s.checkStep ⟨0, 0⟩ ⟨3, map0.ent, false⟩ ⟨8, 8, false, true⟩ none (sliceOf 0x30800) 0x800 k == none) &&
    s.checkStep ⟨0, 0⟩ ⟨3, map0.ent, false⟩ ⟨8, 8, false, true⟩ none (sliceOf 0x30801) 0x801 4 != none) = true := by decide

/-! ### Witnesses: debug and trace -/

def dbg (k : DWord) (rest : List DWord) : Cmd := cmd 0x40 (k :: rest)
/-- Crew 1, stopped or not, in a partition with a security and a power state. -/
def held (stop : Option StopKind) (sec : SecSt := .vendor) (pw : PowerSt := .active) : State :=
  (pkt [0] q0 (demo (crw fun c => { c with stop := stop }))).modPart ⟨0, 0⟩ fun q => { q with security := sec, power := pw }
theorem witness_debug_asks : (List.range 15).all (fun k => let c := dbg (BitVec.ofNat 64 (k + 1)) [0, 1, 0, 0, 0, 1]
    adm (held none) c { op := 0x40, sub := some (k + 1), who := .any } && (held none).dbgCrew c == some 1 && (held none).dbgCrew (dbg 1 [0, 9]) == none && regRange c) = true := by decide
theorem witness_debug_states : (let s := held none .locked
    let t := held none (.tenant 9)
    let g := held none .vendor .gated
    (s.part ⟨0, 0⟩).security == .locked && (t.part ⟨0, 0⟩).security == .tenant 9 && (g.part ⟨0, 0⟩).power == .gated && !g.standby && (g.part ⟨0, 0⟩).live &&
    ((held none .vendor .idle).part ⟨0, 0⟩).power == .idle && ((held (some .halt)).crew 1).stop == some .halt && ((held none).crew 1).stop == none &&
    Store.wf {} (held (some .hit)).crews && ((held none).crew 1).st == .running && !demo.cfg.vendor && ((held (some .dump)).crew 1).stop == some .dump &&
    t.now < 9 && !((held (some .dump)).crew 1).dumps && (({ t with now := 9 } : State).part ⟨0, 0⟩).security == .tenant 9) = true := by decide
theorem witness_debug_step : ((held (some .halt)).runs 1 0 && ((held (some .halt)).slot here).st != .empty) = true := by decide
theorem witness_debug_pairless : ((held (some .halt)).runs 1 5 = false) := by decide
theorem witness_debug_regs : (regRange (dbg 7 [0, 1, 0, 0x8000000000000000, 63]) && regRange (dbg 7 [0, 1, 0, 327676, 0]) && !regRange (dbg 7 [0, 1, 0, 327680, 0]) &&
    (cArg (dbg 7 [0, 1, 0, 0x8000000000000000, 63]) 4).getLsbD 63) = true := by decide
theorem witness_debug_memory : (let s := held (some .halt)
    let h := s.hdrOf (s.crew 1)
    8 + 56 ≤ h.scratch + 128 * h.hslots && 8 + 56 ≤ h.tiles * 65536 && s.brewDword ⟨0, 0⟩ (at3 0x800) 56 1 true false != none && s.brewDword ⟨0, 0⟩ (at3 0x800) 56 1 false true != none &&
    s.brewDword ⟨0, 0⟩ (at3 0xFFF) 56 1 true false == none && h.scratch + 128 * h.hslots < 2 ^ 32) = true := by decide

def ring0 : ToolRing := ⟨3, 0x800, 8, 12, 0⟩
/-- Object 4 of 64 KiB holds a ring's header, of 2^`sz` bytes. -/
def ringHdr (sz : Nat) (s : State := held none) : State :=
  (s.setHandle ⟨0, 0⟩ 4 (HEntry.make 0x40000 0x10000 1 0 2 0 true true false 0 0 0)).wr64 (memKey 0 0x40050) sz
def at4 : DWord := 4 * 2 ^ 32
theorem witness_ring : (let s := ringHdr 12
    let a := s.brewDword ⟨0, 0⟩ at4 128 128 true true
    a == some (memKey 0 0x40000) && (s.rd64 (memKey 0 0x40050)).toNat % 64 == 12 && (s.brewAddr ⟨0, 0⟩ 4 0 (128 + 2 ^ 12) 128 true true).isSome &&
    (s.brewAddr ⟨0, 0⟩ 4 0 (128 + 2 ^ 14) 128 true true).isSome && s.brewDword ⟨0, 0⟩ (at4 + 64) 128 128 true true == none && (ringHdr 11).rd64 (memKey 0 0x40050) == 11 &&
    !((s.handle ⟨0, 0⟩ 4).size < 64 + 128) && s.brewDword ⟨0, 0⟩ (at4 + 0xFFC0) 128 128 true true == none && (s.handle ⟨0, 0⟩ 4).size < 0xFFC0 + 128 &&
    (s.handle ⟨0, 0⟩ 4).valid && s.ringRoom ⟨0, 0⟩ ⟨4, 0, 8, 12, 0⟩ 32 && (s.task 0 1).st == .running && !s.standby) = true := by decide
theorem witness_ring_full : (let s := (ringHdr 12).wr64 (memKey 0 0x40000) 0x1000
    !s.ringRoom ⟨0, 0⟩ ⟨4, 0, 8, 12, 0⟩ 32 && s.ringRoom ⟨0, 0⟩ ⟨4, 0, 8, 12, 1⟩ 32) = true := by decide
def ringed (cyc : Nat) : State := { (ringHdr 14).modPart ⟨0, 0⟩ fun q => { q with sampleRing := some ⟨4, 0, 8, 12, 0⟩, seriesRing := some ⟨4, 0, 10, 14, 0⟩ } with cycles := cyc }
theorem witness_ticks : (let s := ringed 1024
    (s.part ⟨0, 0⟩).sampleRing == some ⟨4, 0, 8, 12, 0⟩ && (s.part ⟨0, 0⟩).sampleTick < s.cycles / 2 ^ 8 && (s.part ⟨0, 0⟩).seriesTick < s.cycles / 2 ^ 10 &&
    (ringed 0).cycles / 2 ^ 8 ≤ (s.part ⟨0, 0⟩).sampleTick) = true := by decide
theorem witness_sample_name : (let s := held none
    whereDword (s.crew 1).core 0 false < 2 ^ 40) = true := by decide
def tracing (x : TraceSt) (now : Nat) : State := { held none with now := now } |> crw fun c => { c with trace := x }
theorem witness_traces : (let s := tracing { on := true, buf := [1, 2], lastNs := 0 } 1000
    let t := tracing { on := true, lost := 1 } 0
    (s.crew 1).trace.buf != [] && (s.crew 1).trace.lastNs + 1000 ≤ s.now && (tracing { on := true, buf := [1] } 0).now < 1000 && (t.crew 1).trace.lost != 0) = true := by decide
theorem witness_token : adm demo (cmd 0x41 [9, Config.serial] .mgmt) { op := 0x41, who := .any, signed := true } = true ∧ cArg (cmd 0x41 [9, Config.serial] .mgmt) 1 = Config.serial ∧
    demo.now < cArgN (cmd 0x41 [9, Config.serial] .mgmt) 0 := ⟨by rfl, by rfl, by decide⟩
theorem witness_expiry : (let s : State := { held none (.tenant 9) with now := 9 }
    (s.part ⟨0, 0⟩).security == .tenant 9 && 9 ≤ s.now && Store.wf {} s.crews && Store.wf {} s.tasks && (s.crew 1).st != .retired && (held none (.tenant 9)).now < 9 && !s.cfg.vendor &&
    ({ s with cfg := { s.cfg with vendor := true } } : State).cfg.vendor) = true := by decide

/-! ### Witnesses: the package -/

def baked (x : KilnPair) : State := { demo with kiln := [(kilnKey 0 1, x)] }
theorem witness_kiln : ([KilnSt.suspect, .testing, .retest, .fenced].all fun st => let s := baked { st := st, draining := st == .fenced }
    (s.kilnOf 0 1).st == st) && (let s : State := { baked { st := .suspect, since := 0 } with now := 1000000000 }
    (s.kilnOf 0 1).since + s.cfg.kilnWaitMs * 1000000 ≤ s.now && s.classCrews ⟨0, 1⟩ == [1] && s.classCrews ⟨1, 1⟩ == [] && (s.kilnOf 0 1).draining == false &&
    ((s.crew 1).st == .running)) = true := by decide
theorem witness_stranded : ((demo).stranded 0 == []) = true := by decide
theorem witness_package : (let s : State := { demo with slew := -5, slewNs := 0, now := 50000 }
    s.slew != 0 && s.slewNs + 10000 * s.slew.natAbs ≤ s.now && demo.slew == 0) = true := by decide
theorem witness_idle : (let s : State := { State.reset.modPart ⟨0, 0⟩ fun q => { q with regions := 0xFF, ways := 16, pcs := 32 } with now := 100000 }
    (s.part ⟨0, 0⟩).live && (s.part ⟨0, 0⟩).power == .active && ((s.partCores ⟨0, 0⟩).all fun c => s.residents c == []) && (s.part ⟨0, 0⟩).idleSince + 100000 ≤ s.now) = true := by
  decide +kernel
def cfgImage (ver : Nat) (base : Option Nat) (m : List (Nat × DWord)) : CfgImage := ⟨⟨true, true, ver⟩, base, m, [.os], 60, 1000, 1, false⟩
/-- Two slots; a configuration that Tabven has signed, and one that the module has made of it. -/
def boot0 : BootImage := ⟨⟨true, true, 1⟩, ⟨true, false, 1⟩, [cfgImage 2 none [(0, 1), (1, 2)], cfgImage 3 (some 0) [(0, 0), (1, 2)]]⟩
theorem witness_boot : (let adds (x y : CfgImage) : Bool := (List.range 256).all (fun k => cfgMask x k &&& cfgMask y k == cfgMask x k) && x.priority == y.priority &&
      x.windowSec == y.windowSec && x.kilnWaitMs == y.kilnWaitMs && x.grade == y.grade && x.vendor == y.vendor
    let runs (x : SignedImage) : Bool := x.ecdsa && x.lms && State.reset.cfg.fwMin ≤ x.ver
    boot0.cfgs.all (fun x => x.sig.ecdsa && x.sig.lms && State.reset.cfg.cfgMin ≤ x.sig.ver && State.reset.cfg.cfgVer < x.sig.ver) &&
    adds (cfgImage 3 (some 0) [(0, 0), (1, 2)]) (cfgImage 2 none [(0, 1), (1, 2)]) &&
    runs boot0.slot0 && !runs boot0.slot1 && (cfgMask (cfgImage 2 none [(0, 1), (1, 2)]) 1 == 2) && [((0 : Nat), (1 : DWord)), (1, 2)].map Prod.fst == [0, 1] &&
    (newest (acceptedCfgs boot0 0)).map (fun x => x.sig.ver) == some 3 && acceptedCfgs { boot0 with cfgs := [] } 0 == []) = true := by decide +kernel

/-! ### Witnesses: the machine as a whole -/

/-- The bytes of word `k` of the pair's clause, with the conditions on reading them. -/
def wordHere (u : State) (k : Nat) : Option Word :=
  let c := u.crew here.uid
  let y := u.slot here
  let e := u.codeOf c y
  let a := memKey (u.codeDev c y) (e.base + (y.pc.toNat + 4 * k))
  if y.pc.toNat + 4 * k + 4 ≤ e.size && u.step5 c.pref e false false c.core == none && u.missingPage (u.codeDev c y) e (y.pc.toNat + 4 * k) 4 == none then
    some (wordOfBytes (u.peek (.mem a)) (u.peek (.mem (a + 1))) (u.peek (.mem (a + 2))) (u.peek (.mem (a + 3))))
  else none
def placed : State := State.reset.withProgram .vec (encode vmov1)
def goes_ (s : State) : Bool := match step s with
  | .next _ => true
  | _ => false
/-- The invariants hold at reset and in a state with a word to run, which takes a step. -/
theorem witness_invariants : Memory.wf State.reset.mem = true ∧ State.reset.JournalInOrder ∧ Memory.wf placed.mem = true ∧ placed.JournalInOrder ∧ goes_ placed = true :=
  ⟨by decide, ⟨rfl, by decide, List.Pairwise.nil, by decide⟩, by decide, ⟨by rfl, by decide, List.Pairwise.nil, by decide⟩, by decide +kernel⟩

/-- A pair that begins its clause, one that has begun it, one that may not issue, and a machine without a next move. -/
theorem witness_fetch : (let s1 : State := { placed with agenda := [] }
    let s2 := (s1.refreshBlk 1 0).modArch 1 0 fun a => { a with starveCyc := none }
    let x := s2.slot here
    let hw := encodeHeader .vec 1
    let v := s2.startClause here hw ⟨.vec, 1, 0, false⟩
    let on := s1.modSlot here fun y => { y with started := true, hw := hw, word := 1 }
    (placed.agenda.map Move.act) == [.issue here 0 0] && !s2.wakes here && s1.eligible here && !x.started && x.priv == none && (s2.thread 1 0).pendOf false == [] &&
    Store.get 0 (s2.arch 1 0).stepLeft 0 != 1 && (s2.thread 1 0).arch.swapDue == none && wordHere s2 0 == some hw && decodeHeader hw == some ⟨.vec, 1, 0, false⟩ && (s2.thread 1 0).tokensClear 0 && x.word ≤ 1 &&
    (s2.crew 1).bpHits here x.pc == 0 && wordHere v 1 == some (encode vmov1) && (v.slot here).pc == x.pc && !isTransferWord .vec (encode vmov1) &&
    decode .vec (encode vmov1) == some vmov1 && on.eligible here && (on.slot here).started && wordHere on 1 == some (encode vmov1) &&
    (on.payTrace here (on.slot here).pc 1 == on) && !(s1.modSlot here fun y => { y with st := .blocked, wait := some .halted }).eligible here &&
    State.reset.agenda == [] && State.reset.candidates.isEmpty) = true := by decide +kernel
/-- Legal instructions and headers at the ends of their ranges. -/
theorem witness_encodes : ((Instr.wf (.vmov ⟨63, 63, 0, 0, 0, 0⟩)) && Instr.cls? (.vmov ⟨63, 63, 0, 0, 0, 0⟩) == some .vec && (Instr.wf (.srd ⟨63, 21⟩)) &&
    (decodeHeader (encodeHeader .arn 15)).isSome && (decodeHeader (encodeHeader .vec 1)).isSome) = true := by decide

/-! ### Witnesses: clauses on poison, walks, atomics in parts, fabric trees, accesses of application cores -/

/-- A place that no block's control stacks cover, and one that the stacks of crew 1 cover (its block 0 at address 0). -/
def blocked0 : State := demo ((crw fun c => { c with block := some 0 }) ∘ fun s => s.modTask 0 1 fun t => { t with hdr := { t.hdr with cstk := 64 } })
theorem witness_stack_place : ((demo.stackAt 0x100000).isNone && (blocked0.stackAt 0).isSome && (blocked0.stackAt 0x100000).isNone) = true := by decide
/-- An access that no earlier issue has begun. -/
theorem witness_mid_atomic : (!demo.midAtomic && (demo (slt fun x => { x with wait := some (.atoms [(0, 1)] none) })).midAtomic) = true := by decide
theorem witness_issues :
    (wit (.vst mvT) (handleIn 2 (obj 4 2)) (fun s => s.lanes 0 0 != 0 && s.issues (s.mvAccess mvT .store (s.lanes 0 0))) &&
    wit (.sst msT) (handleIn 2 (obj 64 2) ∘ reg 2 60) (fun s => s.issues (s.msAccess msT .store)) &&
    ([Instr.vatomnI32 maT, .vatomnU32 maT, .vatomnF32 maT, .vatomnF16x2 maT, .vatomnB16x2 maT].all fun i =>
      wit i (handleIn 2 (obj 4 2)) fun s => s.fencePending == none && s.issues (s.maAccess maT)) &&
    ([Instr.vatomI32 maT, .vatomU32 maT, .vatomF32 maT, .vatomF16x2 maT, .vatomB16x2 maT].all fun i =>
      wit i (handleIn 2 (obj 4 2)) (fun s => s.atomGoes (s.maAccess maT) && s.noRegs (s.maAccess maT)) &&
      wit i (handleIn 2 (obj 4 2) ∘ slt fun x => { x with wait := some (.atoms [(0, 7)] none) }) fun s => s.atomGoes (s.maAccess maT) && s.noRegs (s.maAccess maT)) &&
    wit (.satom saT) (handleIn 2 (obj 8 2)) (fun s => s.atomGoes ⟨2, .atomic, 8, 8, none, fun _ => s.rdS 2⟩)) = true := by decide
/-- Fences of loads and of stores, before which an atomic or a store of this handler is queued, or one of an earlier handler. -/
theorem witness_fence_before : ((wit (.fence ⟨1, 1, 0⟩) (thr fun t => { t with sq := [{ store1 with kind := .atomic atI32 0 }], issued := 1 })
      fun s => s.fencePending == none && s.cthr.sq.any fun w => !w.gone && w.posted == none && w.at_ < s.cthr.issued && w.kind != .store) &&
    wit (.fence ⟨1, 3, 0⟩) (thr fun t => { t with sq := [store1], issued := 1 }) (fun s => s.fencePending == none && s.cthr.sq.all fun w => w.kind == .store) &&
    wit (.fence ⟨1, 2, 0⟩) (thr fun t => { t with sq := [{ store1 with gone := true }], issued := 1 }) (fun s => s.fencePending == none && s.cthr.sq.all (·.gone))) = true := by
  decide
def barWaits (w : Wait) : State → State := slt fun x => { x with wait := some w }
theorem witness_bar_again : ([Instr.bwait barT, .bsync barT].all fun i =>
    wit i (barWaits (.barrier 32 true) ∘ armed 2) (fun s => s.barEnds (s.rdBar s.cur.uid 32) true == some 0) &&
    wit i (barWaits (.barrier 32 false) ∘ armed 2) (fun s => s.barEnds (s.rdBar s.cur.uid 32) false == none) &&
    wit i (barWaits (.barrier 32 false) ∘ (crw fun c => { c with abandon := true }) ∘ armed 2) (fun s => s.barEnds (s.rdBar s.cur.uid 32) false == some 2) &&
    wit i (barWaits (.released 2 0)) (fun s => s.cslot.wait == some (.released 2 0))) = true := by decide
def poisonedH (n : Nat) : State → State := crw fun c => { c with regPoison := Store.set false c.regPoison (regKey 0 (128 + n)) true }
theorem witness_mside_poison : wit (.mside ⟨1, 8, 0, 3⟩) (crw fun c => { c with tilePoison := [(sumKey 0 0, true)] })
    (fun s => s.cslot.wait == none && s.ccrew.mtx.last ≤ s.ccrew.mtx.timeline && Store.get false s.ccrew.tilePoison (sumKey 0 0)) = true := by decide
/-- Commands whose handle registers are clean, and poisoned. -/
theorem witness_handles : ((wit (.mloop ebT) (shapes rec16 rec16 ∘ reg 8 1) fun s => s.handlesClean [0]) &&
    wit (.cpy ebX) (reg 10 64 ∘ reg 11 0xFFFFFFFF) (fun s => s.handlesClean [0, 0]) && wit (.cpy ebX) (poisonedH 3 ∘ reg 8 (3 <<< 61) ∘ reg 10 64) (fun s => !s.handlesClean [3, 0]) &&
    wit (.dump ebR) (reg 9 0x10000) (fun s => s.handlesClean [0] && s.cslot.wait == none) &&
    wit (.dump ebR) (poisonedH 3 ∘ reg 8 (3 <<< 61)) (fun s => !s.handlesClean [3] && s.cslot.wait == none)) = true := by decide
theorem witness_awaited : (!demo.ccrew.awaited 1 && (demo (suspend (.matrixIdle 0))).ccrew.awaited 1) = true := by decide
theorem witness_redwait_again : wit (.redwait ebR) (collected coll0 ∘ released) (fun s => s.calm && s.cslot.wait == some (.released 0 0)) = true := by decide
theorem witness_asend_faults : (wit (.asend ebX) (reg 2 name0 ∘ grouped0 ∘ reg 10 128 ∘ reg 11 2) (fun s => s.calm && s.groupOf ⟨0, 0⟩ (s.rdS 2) == some 0 && s.rdS 11 == 2) &&
    wit (.asend ebX) (reg 2 name0 ∘ grouped0 ∘ reg 10 128 ∘ reg 11 0xFFFC) (fun s => s.calm && s.groupOf ⟨0, 0⟩ (s.rdS 2) == some 0 && (s.rdH 0).ent.size < 0xFFFC + 128)) = true := by
  decide
theorem witness_resumes_more :
    (stands (.recv 0 0) (fun s => s.modReady 1 0 fun r => { r with wpos := 1 }) (fun s => (s.ready 1 0).cpos < (s.ready 1 0).wpos) &&
    stands (.cellar 0 0) id (fun s => (s.core 0).cellar.length < Config.cellarLen) && stands (.matrixIdle 0) id (fun s => 0 ≤ s.ccrew.mtx.timeline) &&
    stands (.room .copy) id (fun s => !s.ccrew.cpy.freeze && s.ccrew.cpy.ops.length < 32) && stands (.room .matrix) id (fun s => !s.ccrew.mtx.freeze && s.ccrew.mtx.ops.length < 16) &&
    stands (.room .message) id (fun s => !s.ccrew.msg.freeze && s.ccrew.msg.ops.length < 32) &&
    stands (.walk 0 1) (fun s => s.modCore 0 fun k => { k with tlb := [(0, 1)] }) (fun s => (s.core s.ccrew.core).tlb.contains (0, 1))) = true := by decide
theorem witness_starve : (let a := (demo (spilled 0 { st := .blocked, mask := 2 })).carch
    a.frags.all (fun e => !e.2.2) && (a.starveDue 64).isSome && (a.starveDue 63).isNone) = true := by decide
/-- A fault that waits at a pair suspended before its clause. -/
theorem witness_pending_blocked : (let s := demo ((thr fun t => { t with pendA := [late1] }) ∘ slt fun x => { x with started := false, word := 0, st := .blocked, wait := some (.twaitHdr 1) })
    s.ccrew.goes && s.cthr.st == .running && !s.cslot.started && s.cslot.word == 0 && s.cslot.st == .blocked && s.cthr.pendA == [late1]) = true := by decide
/-- A pair that waits at a `join`, and one that waits for the page of its clause, longer than the limit. -/
theorem witness_watchdog_more : (let limit (s : State) : State := { s.modPart ⟨0, 0⟩ (fun q => { q with watchdogMs := 1 }) with now := 1000001 }
    let s := limit (demo (slt (fun x => { x with st := .joinwait }) ∘ joins 1 1))
    let t := limit (demo (suspend page0 ∘ slt fun x => { x with started := false }))
    s.cslot.st == .joinwait && s.ccrew.goes && (s.carch.findDiv s.cslot.divid).isSome && 1000000 < s.now - s.cslot.wdSince &&
    t.cslot.st == .blocked && t.ccrew.goes && 1000000 < t.now - t.cslot.wdSince) = true := by decide
theorem witness_residue_word : (let s := demo (thr fun t => { t with window := [entry0 0, { entry0 1 with no := 1 }], issued := 2, residue := 2, residueNo := 1 })
    (s.cthr.window[1]?).any (fun e => e.no == s.cthr.residueNo && e.caps.all (· < 64)) && (s.cthr.window[0]?).any fun e => e.no != s.cthr.residueNo) = true := by decide

/-! #### The memory system -/

theorem witness_home_sealed : (let w := write0 .store (.mem 0x20000) (some ⟨0, 0, 0⟩) 1
    let s := (demo (queued0 w)).modArena ⟨0, 0, 0⟩ fun a => { a with sealBit := true }
    atHome w s && !w.gone && !w.absorbed && !(s.arena ⟨0, 0, 0⟩).staleBit && (s.arena ⟨0, 0, 0⟩).staleAt == [] && (s.arena ⟨0, 0, 0⟩).gen == 1 && (s.arena ⟨0, 0, 0⟩).sealBit &&
    (s.filling (.mem 0x20000) 4).isNone && !s.poisoned (.mem 0x20000) 4) = true := by decide
theorem witness_walk : (let s := { demo (suspend (.walk 0 1)) with walks := [(0, 0, 1)] }
    s.walks.contains (0, 0, 1) && !demo.walks.contains (0, 0, 1) && s.ccrew.die == 0 && s.cslot.st == .blocked && (s.core s.ccrew.core).tlb.length ≤ 2048 &&
    16384 % pageUnits 2 == 0 && 32 % pageUnits 1 == 0) = true := by decide
theorem witness_occ : ((demo.arena ⟨0, 0, 0⟩).st != .free && 5 ≤ max (capLines (demo.arena ⟨0, 0, 0⟩).cap) (demo.arena ⟨0, 0, 0⟩).occ.toNat) = true := by decide
def tile0 (heard wrote : DWord) (f : State → State := id) : State := demo (f ∘ multi 1 0x2000000040 ∘ armed 2) |> crw fun c =>
  { c with cpy := { c.cpy with ops := c.cpy.ops.map fun o => { o with heard := heard, wrote := wrote } } }
/-- A receiver that has decided, one that is killed then, one that has the tile. -/
theorem witness_multicast_phases : (let ready (s : State) := (s.op? op1).any fun o => s.cpyReady op1 o && o.openBits.contains 0 && s.crewOf 0 1 0 == some 1
    let a := tile0 1 0
    let b := tile0 1 1
    ready a && (a.op? op1).any (fun o => o.heard.getLsbD 0 && !o.wrote.getLsbD 0 && a.opStop op1 0 o.ha o.src o.total true false == none) && (a.crew 1).mayFinish &&
    ready b && (b.op? op1).any (fun o => o.heard.getLsbD 0 && o.wrote.getLsbD 0) && !(b.crew 1).trace.on) = true := by decide
theorem witness_broadcasts : (let s := (child .sealing demo).modPart ⟨0, 0⟩ fun q => { q with sealOps := [(1, [1])], dropMask := [1] }
    let t := s.modArena ⟨0, 0, 1⟩ fun a => { a with staleBit := true }
    !(s.arena ⟨0, 0, 1⟩).sealBit && !(s.arena ⟨0, 0, 1⟩).staleBit && (s.cores.all fun e => e.2.dirty.isEmpty) && (t.arena ⟨0, 0, 1⟩).staleBit && [1].Nodup) = true := by decide

/-! #### Rounds on fabric trees -/

theorem witness_remote : (let down := collAt { coll0 with rounds := [round 0], nth := 2 } (some (0, false)) demo
    let up := collAt { coll0 with rounds := [{ round 0 with partials := [(0, [5])] }], nth := 2 } (some (0, true)) demo
    let c := down.coll ⟨0, 0⟩ 0
    c.live && c.nth == 2 && c.e == 1 && c.rounds.any (fun x => x.k == 0 && x.ended.isNone && x.far.isNone) && (down.part ⟨0, 0⟩).tree 0 == some (tree2 (some (0, false))) &&
    (up.part ⟨0, 0⟩).tree 0 == some (tree2 (some (0, true))) && (up.coll ⟨0, 0⟩ 0).rounds.any fun x => x.result.isNone && x.partials.any fun e => e.1 == 0) = true := by decide
theorem witness_result_waits : (let x : Round := { round 0 with result := some [5], left := [0] }
    let s := collAt { coll0 with rounds := [x] } none (demo (crw fun c => { c with st := .saved }))
    (s.coll ⟨0, 0⟩ 0).rounds.find? (fun y => y.k == 0 && y.ended.isNone && y.left.contains 0) == some x && !(s.crew 1).mayFinish && (s.crew 1).st != .killing &&
    (s.crew 1).st != .retired) = true := by decide

/-! #### Packets, placement and ends -/

theorem witness_copy_pages : (let s := pkt [6] (begun 6 [at3 0x800, at3 0x910, 64])
    let a := memKey 0 0x30800
    (s.goneUnit a 16).isNone && (absent0 (demo)).goneUnit 0x10000 16 != none && !s.poisoned (keyLoc a) 16 && ({ s with poison := [(a, true)] } : State).poisoned (keyLoc a) 16) = true := by
  decide
/-- Core 1 alone can take a crew; crew 1 of task 1 is SAVED. -/
def savedCrew : State :=
  let s := (pending 1).modCrew 1 fun c => { c with st := .saved, core := 0 }
  (s.modTask 0 1 fun t => { t with queue := 0, blocks := 1, crews := 1, nextCrew := 1 }).modTask 0 2 fun _ => {}
theorem witness_place_saved : (let s := savedCrew
    s.nextCrewOf 0 1 == some (0, some 1) && s.candidate ⟨0, 0⟩ 0 0 (s.queue 0 0) == some 1 && s.blocksFor 0 1 [(0, some 1)] &&
    s.bestCores ⟨0, 0⟩ (s.task 0 1).hdr (0, some 1) [] == [1] && (s.ready? ⟨0, 0⟩ 0).map Prod.fst == [0] && !(s.task 0 1).hdr.cosched) = true := by decide +kernel
/-- Task 2 of level 1 asks for a whole core, which crew 1 of level 0 holds. -/
def crowded : State :=
  let s := pending 1
  let s := (List.range 64).foldl (fun s k => if k = 0 then s.modCore k fun c => { c with mask := 0xFFFFFFFFFFFFFFFF } else s.modCore k fun c => { c with mask := 0 }) s
  let s := s.modTask 0 2 fun t => { t with hdr := { t.hdr with scratch := 2000000, prio := 1 } }
  let s := s.modTask 0 1 fun t => { t with hdr := { t.hdr with scratch := 1000000 } }
  let s := s.modQueue 0 0 fun q => { q with preempt := true, prioMax := 7 }
  let s := s.modCrew 1 fun c => { c with placedNs := 0 }
  let s := s.modPart ⟨0, 0⟩ fun q => { q with curQueue := [(1, some 0)] }
  { s with now := 100000000 }
theorem witness_place_victims : (let s := crowded
    let h := (s.task 0 2).hdr
    s.nextCrewOf 0 2 == some (0, none) && s.blocksFor 0 2 [(0, none)] && s.bestCores ⟨0, 0⟩ h (0, none) [] == [] && s.planSoon ⟨0, 0⟩ h [(0, none)] == [] && (s.queue 0 0).preempt &&
    s.victimCore ⟨0, 0⟩ h ((s.task 0 2).base (s.queue 0 0)) [] == some (0, [1]) && !(s.hdrOf (s.crew 1)).cosched) = true := by decide +kernel
theorem witness_saves_more : (let s := demo (idle0 ∘ crw fun c => { c with st := .preempting, cpy := { freeze := true }, mtx := { freeze := true } })
    !s.hearsTile 1 && (s.crew 1).cpy.frozen && (s.crew 1).mtx.frozen && (s.crew 1).opsSettled) = true := by decide
theorem witness_resume_cosched : (let s := (demo (crw fun c => { c with st := .placing })).modTask 0 1 fun t => { t with hdr := { t.hdr with cosched := true } }
    (s.hdrOf (s.crew 1)).cosched && s.resumesWith 1 == [1] && (s.crew 1).st == .placing && (s.crew 1).cause == none) = true := by decide
theorem witness_retires : (let r := demo (idle0 ∘ crw fun c => { c with st := .retiring })
    let k := r.task 0 1
    !r.hearsTile 1 && (r.crew 1).trace.held == [] && (r.crews.all fun e => e.1 == 1) && k.st == .running && (r.task 0 1).crews == k.nextCrew) = true := by decide
theorem witness_times_out_late : (let f (e n : Nat) : State := { lone (fun t => { t with firstNs := some 0, endNs := some e, hdr := { t.hdr with timeoutUs := 1 } }) with now := n }
    let due (s : State) : Nat := 0 + (s.task 0 1).pausedNs + (s.task 0 1).hdr.timeoutUs * 1000
    due (f 1999 2500) ≤ (f 1999 2500).now && due (f 1999 2500) / 1000 ≤ 1999 / 1000 && 999 / 1000 < due (f 999 2500) / 1000 && (f 999 999).now < due (f 999 999)) = true := by decide
theorem witness_dump_places : (let s := demo ((crw fun c => { c with stop := some .dump }) ∘ idle0 ∘ slt fun x => { x with st := .blocked, wait := some (.dump (demo.rdH 0) 0 0 64 1) })
    let mem (o : Nat) : Bool := match s.locOf 1 (demo.rdH 0) none o with
      | .reg _ _ => false
      | _ => true
    mem 0 && mem 256 && s.dumpWritable 1 (demo.rdH 0) 0 64 && !s.dumpWritable 1 (demo.rdH 0) 0 0x20000) = true := by decide

/-! #### Commands -/

theorem witness_ring_record : (let s := owned demo |> fun s => { s with win := [(0, 0x0000000700000010)] }
    let c : Cmd := ⟨.os, 7, 0x10, 0, 0, 0, 0, 0, true, List.replicate 14 0⟩
    !s.cfg.recovery && (s.winReg 0xC008).toNat == 0 && c.opcode.toNat == (s.winReg 0).toNat % 2 ^ 16 && c.seq.toNat == (s.winReg 0).toNat / 2 ^ 32 && s.cmds == [] &&
    c.args == (List.range 14).map fun i => s.winReg (8 * (i + 2))) = true := by decide
theorem witness_killpart_more : (let s := owned demo
    let e := s.modTask 0 1 fun k => { k with st := .ending }
    adm e (cmd 0x22 []) { op := 0x22 } && (e.task 0 1).st == .ending && (e.task 0 1).part == 0 && Store.wf {} e.tasks) = true := by decide
theorem witness_trees : (let s := grouped0 demo
    (s.part ⟨0, 0⟩).usesTree 0 && !(s.part ⟨0, 0⟩).usesTree 1) = true := by decide
theorem witness_qreg_again : (let s := withCfg cfg0 { begun 3 [] with reg := false }
    !(s.queue 0 0).reg && (s.queue 0 0).pkts.any (fun k => k.st == .started)) = true := by decide
/-- An application core's access to a register, a ring, a mapped object and nothing; one that waits for a page. -/
theorem witness_host : (let s : State := { owned (pkt [0]) with maps := [map0], hostRes := some (0x010000000800, 8, 0, 0) }
    let k := memKey 0 0x30800
    let w : State := { s with absentPages := [(pageKey 0 3, true)] }
    !s.cfg.recovery && 0x010000000800 % 8 == 0 && s.maps.find? (fun m => m.meets 0x010000000800 8) == some map0 && (s.goneUnit k 8).isNone && (s.filling (.mem k) 8).isNone &&
    s.reserved 0x010000000800 8 0 (some (.mem k)) && !({ s with hostRes := none } : State).reserved 0x010000000800 8 0 (some (.mem k)) && (w.goneUnit k 8).isSome &&
    ([1, 2, 3, 4, 5].all fun j => s.checkStep ⟨0, 0⟩ ⟨3, map0.ent, false⟩ ⟨8, 8, true, true⟩ none (sliceOf k) 0x800 j == none)) = true := by decide
theorem witness_debug_rest : (let s := (pkt [0] q0 (demo (idle0 ∘ crw fun c => { c with stop := some .halt })))
    (s.crew 1).stop == some .halt && (s.crew 1).atRest && !((held (some .halt)).crew 1).atRest) = true := by decide
theorem witness_trace_held : (let h : HeldPacket := ⟨0, some (0, 0), 1, 0, []⟩
    let s : State := { tracing { on := true, held := [h] } 0 with cycles := 1 }
    s.ccrew.trace.held.head?.any (fun h => decide (h.cyc < s.cycles) && s.ccrew.isFinal h) && !(tracing { on := true, held := [h] } 0 |> thr fun t => { t with window := [entry0 0] }).ccrew.isFinal h &&
    (s.chimneyRoom s.ccrew) && (tracing { on := true, lost := 1 } 0).ccrew.trace.held == []) = true := by decide
/-- R425, R426 and the worked stream after R429: `80 00 00 00 08 00 00 00 FF FF FF FF 00 00 00 00 01 00 00 00` is the SYNC of group 0,
slot A, at the clause at 8; DELTA is written with the byte that holds the kind. -/
theorem test_sync : (let s : State := { tracing { on := true, sync := [(0, false)] } 0x100000000 |> slt fun x => { x with mask := 0xFFFFFFFF } with cycles := 16384 }
    ((s.payTrace here 8 0).crew 1).trace.held == [⟨16384, none, 8, 0, [0, 0, 8, 0, 0, 0, 0xFF, 0xFF, 0xFF, 0xFF, 0, 0, 0, 0, 1, 0, 0, 0]⟩]) = true := by decide
theorem witness_package_fences : (let s := baked { st := .fenced }
    Store.wf {} s.kiln && Store.wf {} s.cores && (s.kilnOf 0 1).st == .fenced && !(s.kilnOf 0 1).draining) = true := by decide

/-- A handle table whose first `n` entries are objects; with 2^20 of them the partition has no free handle. -/
def tableOf (n : Nat) : State := { State.reset with handles := (List.range n).map fun i => (i, obj 64 2) }
theorem tableOf_mem (n i : Nat) (h : i < n) : (i, obj 64 2) ∈ (tableOf n).handles := List.mem_map.mpr ⟨i, List.mem_range.mpr h, rfl⟩
theorem freeHandle_none (s : State) (key : ∀ i, i < 2 ^ 20 → (i, obj 64 2) ∈ s.handles) : (s.freeHandle ⟨0, 0⟩).1 = none := by
  simp only [State.freeHandle, State.validHandles, List.find?_eq_none, List.mem_map]
  rintro i ⟨k, -, rfl⟩
  have h : (s.free.1 + k) % 2 ^ 20 < 2 ^ 20 := Nat.mod_lt _ (Nat.two_pow_pos 20)
  generalize (s.free.1 + k) % 2 ^ 20 = i at h ⊢
  have e0 : i / 2 ^ 20 = 0 := Nat.div_eq_of_lt h
  have e1 : i % 2 ^ 20 = i := Nat.mod_eq_of_lt h
  have v : (obj 64 2).valid = true := by decide
  have m0 : i ∈ (s.handles.filter fun e => e.1 / 2 ^ 20 == partKey ⟨0, 0⟩).map fun e => e.1 % 2 ^ 20 :=
    List.mem_map.mpr ⟨_, List.mem_filter.mpr ⟨key i h, by simp only [e0, partKey]; rfl⟩, e1⟩
  have m1 : i ∈ ((s.handles.filter fun e => e.1 / 2 ^ 20 == partKey ⟨0, 0⟩ && e.2.valid).map fun e => (e.1 % 2 ^ 20, e.2)).map Prod.fst :=
    List.mem_map.mpr ⟨_, List.mem_map.mpr ⟨_, List.mem_filter.mpr ⟨key i h, by simp only [e0, v, partKey]; rfl⟩, rfl⟩, e1⟩
  have u (p : Prop) [Decidable p] {a b : List Nat} (x : i ∈ a) (y : i ∈ b) : i ∈ if p then a else b := by split <;> assumption
  simp only [Bool.not_eq_true, List.contains_eq_mem, u _ m0 m1, decide_true, Bool.not_true]
theorem witness_no_freeHandle : ((tableOf (2 ^ 20)).freeHandle ⟨0, 0⟩).1 = none := freeHandle_none _ fun i h => tableOf_mem _ i h
end Sys2Proof.Machine.Tests
end

section
/-! SUPPORT. What a word that writes lanes of a vector register leaves, for every such word (R178), and for the float words of
R201 and R202 element by element (R181). -/

namespace Sys2Proof.Machine

/-! ### Sparse maps: the part that is kept, and a run of writes -/

theorem Store.get_keep {α : Type} (d : α) (p : Nat → Bool) (m : Store α) (k : Nat) :
    Store.get d (Store.keep p m) k = if p k then Store.get d m k else d := by
  induction m with
  | nil => simp [Store.keep]
  | cons e t ih =>
    simp only [Store.keep] at ih
    by_cases hk : e.1 = k
    · subst hk
      cases hp : p e.1 <;> simp [Store.keep, Store.get, hp, ih]
    · cases hp : p e.1 <;> simp [Store.keep, Store.get, hp, hk, ih]

/-- Writing the listed lanes of `A` at base `b`: a key reads what its lane was given, any other key what it held. -/
theorem Store.get_setLanes (b : Nat) (A : Word) (f : Nat → Word) (L : List Nat) (m : Store Word) (k : Nat) :
    Store.get 0 (L.foldl (fun m l => if A.getLsbD l then Store.set 0 m (b + l) (f l) else m) m) k =
      if ∃ l ∈ L, A.getLsbD l = true ∧ k = b + l then f (k - b) else Store.get 0 m k := by
  induction L generalizing m with
  | nil => simp
  | cons x xs ih =>
    rw [List.foldl_cons, ih]
    by_cases hxs : ∃ l ∈ xs, A.getLsbD l = true ∧ k = b + l
    · have hcons : ∃ l ∈ x :: xs, A.getLsbD l = true ∧ k = b + l := by
        obtain ⟨l, hl, h⟩ := hxs
        exact ⟨l, List.mem_cons_of_mem x hl, h⟩
      rw [if_pos hxs, if_pos hcons]
    · rw [if_neg hxs]
      by_cases hx : A.getLsbD x = true ∧ k = b + x
      · have hcons : ∃ l ∈ x :: xs, A.getLsbD l = true ∧ k = b + l := ⟨x, List.mem_cons_self, hx⟩
        rw [if_pos hcons, if_pos hx.1, hx.2, Store.get_set_self, Nat.add_sub_cancel_left]
      · have hcons : ¬ ∃ l ∈ x :: xs, A.getLsbD l = true ∧ k = b + l := by
          rintro ⟨l, hl, h⟩
          rcases List.mem_cons.1 hl with rfl | hl
          · exact hx h
          · exact hxs ⟨l, hl, h⟩
        rw [if_neg hcons]
        split
        · next hA => exact Store.get_set_ne _ _ _ fun hk => hx ⟨hA, hk⟩
        · rfl

/-! ### Words that write lanes of a vector register -/

/-- Lane `l` of register `m` after a write of the lanes of `A` of register `n`. -/
theorem Arch.get_putV (a : Arch) (n m : BitVec 6) (A : Word) (f : Nat → Word) {l : Nat} (hl : l < 32) :
    Store.get 0 (a.putV n.toNat A f).v (32 * m.toNat + l) =
      if m = n ∧ A.getLsbD l = true then f l else Store.get 0 a.v (32 * m.toNat + l) := by
  have hiff : (∃ j ∈ List.range 32, A.getLsbD j = true ∧ 32 * m.toNat + l = 32 * n.toNat + j) ↔ m = n ∧ A.getLsbD l = true := by
    simp only [List.mem_range]
    constructor
    · rintro ⟨j, hj, hA, he⟩
      obtain rfl : l = j := by omega
      exact ⟨BitVec.eq_of_toNat_eq (by omega), hA⟩
    · rintro ⟨rfl, hA⟩
      exact ⟨l, hl, hA, rfl⟩
  simp only [Arch.putV, Store.get_setLanes, hiff]
  split
  · next h => rw [h.1, Nat.add_sub_cancel_left]
  · rfl

@[simp] theorem Arch.putV_slot (a : Arch) (n : Nat) (A : Word) (f : Nat → Word) (b : Bool) :
    (a.putV n A f).slot b = a.slot b := by cases b <;> rfl

/-- Keeping some of a crew's poison marks changes nothing else. -/
theorem State.keepPoison_kept (s : State) (p : Nat → Bool) :
    let t := s.modCrew s.cur.uid fun c => { c with regPoison := Store.keep p c.regPoison }
    s.KeptThread t ∧ t.carch = s.carch ∧ t.ccrew.regPoison = Store.keep p s.ccrew.regPoison := by
  refine ⟨⟨⟨rfl, fun u hu => State.setCrew_crew_ne _ _ _ hu⟩, ?_, fun j _ => ?_, ?_⟩, ?_, ?_⟩
  all_goals simp [State.modCrew_eq, State.ccrew, State.cthr, State.carch, State.thread_eq, Crew.thread]

/-- Every predicate reads as it did, p0 as all-ones (R108). -/
theorem State.rdP_getLsbD_self (s : State) (m : Nat) {l : Nat} (hl : l < 32) :
    (s.rdP m).getLsbD l = (m == 0 || s.oldP m l) := by
  rcases Nat.eq_zero_or_pos m with rfl | hm
  · have hones : s.rdP 0 = BitVec.allOnes 32 := rfl
    rw [hones, BitVec.getLsbD_allOnes]
    simpa using hl
  · have hm0 : (m == 0) = false := beq_false_of_ne (Nat.ne_of_gt hm)
    simp [State.oldP, hm0]

/-- The poison marks of the lanes of `A` of a thread's vector register. -/
def laneMark (tid n : Nat) (A : Word) (k : Nat) : Bool := (List.range 32).any fun l => A.getLsbD l && k == regOff tid n l

theorem State.wrV_eq (s : State) (n : BitVec 6) (A : Word) (f : Nat → Word) :
    s.wrV n A f = (s.modCrew s.cur.uid fun c =>
      { c with regPoison := Store.keep (fun k => !laneMark s.cur.tid n.toNat A k) c.regPoison }).modCArch
        fun a => a.putV n.toNat A f := rfl

/-- A word whose meaning writes lanes of one vector register. -/
theorem State.yields_wroteV {s : State} {i : Instr} {w : WordInfo} {body : State → Res} {n : BitVec 6} {A : Word} {v : Nat → Word}
    (hw : wordInfo s i = some w) (he : exec i s = runWord w body s)
    (hb : ∀ t, s.Entered t → body t = .done (t.wrV n A v)) : s.yields i fun t => s.WroteV t n A v := by
  refine State.yields_of_arch (f := fun a => a.putV n.toNat A v)
    (m := Store.keep (fun k => !laneMark s.cur.tid n.toNat A k) s.ccrew.regPoison) hw he ?_ rfl
    (by rw [Arch.putV_slot]; rfl) (Arch.putV_slot _ _ _ _ _) ?_
  · intro t ht
    obtain ⟨hkept, harch, hpoison⟩ := State.keepPoison_kept t fun k => !laneMark s.cur.tid n.toNat A k
    refine ⟨_, ?_, hkept, harch, by rw [hpoison, ht.poison]⟩
    rw [hb t ht, State.wrV_eq, ht.cur]
  · intro t hfell harch hpoison
    rw [Arch.putV_slot] at hfell
    refine ⟨hfell, ?_, fun m l hl => ?_, fun k => ?_, fun m l _ hl => ?_⟩
    · rw [harch]; cases s.cur.slotB <;> rfl
    · have hv : t.carch.v = (s.carch.putV n.toNat A v).v := by rw [harch]; cases s.cur.slotB <;> rfl
      simp only [State.rdV, hv, Arch.get_putV _ _ _ _ _ hl]
    · rw [hpoison, Store.get_keep]
      show _ = (_ && !laneMark s.cur.tid n.toNat A k && !false)
      cases laneMark s.cur.tid n.toNat A k <;> simp
    · have hp : t.rdP m = s.rdP m := by
        simp only [State.rdP, harch]; cases s.cur.slotB <;> rfl
      rw [hp, State.rdP_getLsbD_self s m hl]

/-! ### Float elements of a lane (R181, R201) -/

theorem el_toNat (w : Nat) (x : Word) (i : Nat) : (el w x i).toNat = bits x.toNat (w * i) w := by
  simp [el, bits, Nat.shiftRight_eq_div_pow]

theorem tyFmt_width (ty : BitVec 3) : (tyFmt ty.toNat).width = fltWidth ty := by
  revert ty; decide

theorem tyFmt_cases (ty : Nat) : tyFmt ty = fmtF32 ∨ tyFmt ty = fmtF16 ∨ tyFmt ty = fmtB16 := by
  unfold tyFmt
  split
  · exact .inl rfl
  · split
    · exact .inr (.inl rfl)
    · exact .inr (.inr rfl)

/-- `op` makes codes of the format of codes of the format. -/
def FFmt.Closed (g : FFmt) (op : FFmt → Nat → Nat → Nat → Nat) : Prop :=
  ∀ x y z, x < 2 ^ g.width → y < 2 ^ g.width → z < 2 ^ g.width → op g x y z < 2 ^ g.width

/-- The halves of a lane that two 16-bit codes make. -/
theorem bits_halves {a b : Nat} (ha : a < 2 ^ 16) (hb : b < 2 ^ 16) :
    bits (BitVec.ofNat 32 (a + 65536 * b)).toNat 0 16 = a ∧ bits (BitVec.ofNat 32 (a + 65536 * b)).toNat 16 16 = b := by
  have hlane : (BitVec.ofNat 32 (a + 65536 * b)).toNat = a + 65536 * b := Nat.mod_eq_of_lt (by omega)
  rw [hlane]
  simp only [bits]
  omega

/-- A lane that `fLane` makes holds, in each element, what `op` makes of the sources' elements. -/
theorem el_fLane {ty : BitVec 3} {op : FFmt → Nat → Nat → Nat → Nat} (hop : (tyFmt ty.toNat).Closed op) (x y z : Word)
    {i : Nat} (hi : i < 32 / fltWidth ty) :
    (el (fltWidth ty) (fLane ty.toNat op x y z) i).toNat = op (tyFmt ty.toNat) (el (fltWidth ty) x i).toNat
      (el (fltWidth ty) y i).toNat (el (fltWidth ty) z i).toNat := by
  have hlt (j : Nat) : op (tyFmt ty.toNat) (el (fltWidth ty) x j).toNat (el (fltWidth ty) y j).toNat
      (el (fltWidth ty) z j).toNat < 2 ^ fltWidth ty := by
    rw [FFmt.Closed, tyFmt_width] at hop
    exact hop _ _ _ (BitVec.isLt _) (BitVec.isLt _) (BitVec.isLt _)
  simp only [el_toNat] at hlt ⊢
  by_cases hty : ty = 0
  · subst hty
    have h32 : fltWidth 0 = 32 := rfl
    obtain rfl : i = 0 := by simp only [h32] at hi; omega
    have hwhole (v : Word) : bits v.toNat 0 32 = v.toNat := by simp [bits, Nat.mod_eq_of_lt v.isLt]
    have h0 := hlt 0
    simp only [h32, Nat.mul_zero, hwhole] at h0 ⊢
    exact Nat.mod_eq_of_lt h0
  · have h16 : fltWidth ty = 16 := if_neg hty
    have hne : (ty.toNat == 0) = false := beq_false_of_ne fun h => hty (BitVec.eq_of_toNat_eq h)
    rw [h16] at hi hlt ⊢
    obtain ⟨hlow, hhigh⟩ := bits_halves (hlt 0) (hlt 1)
    simp only [fLane, hne, Bool.false_eq_true, if_false]
    obtain rfl | rfl : i = 0 ∨ i = 1 := by omega
    · exact hlow
    · exact hhigh

/-- A word of two or three vector sources writes the lanes of A with what its operation makes of them (R178). -/
theorem State.yields_vr3 {s : State} {i : Instr} {caps : List Nat} {rdD : Bool} {f : FmtVR} {op : FEnv → Word → Word → Word → Word}
    (hw : wordInfo s i = some (vr3Info i caps rdD f)) (he : exec i s = vr3 i caps rdD f op s) :
    s.yields i fun t => s.WroteV t f.vd (s.lanes f.gp f.gn) fun l =>
      op s.fenv (s.rdV f.va l) (s.rdV f.vb l) (s.rdV f.vd l) := by
  unfold vr3 at he
  exact State.yields_wroteV hw he fun t ht => by simp only [ht.lanes, ht.fenv, ht.rdV]

/-- A float word of two or three vector sources makes every element of every lane of A in its own format (R181). -/
theorem State.yields_vFlt {s : State} {i : Instr} {f : FmtVR} {rdD : Bool} {op : FEnv → FFmt → Nat → Nat → Nat → Nat}
    (hw : wordInfo s i = some (vr3Info i (capFlt f.ty) rdD f)) (he : exec i s = vFlt i f rdD op s)
    (hop : (tyFmt f.ty.toNat).Closed (op s.fenv)) : s.yields i fun t => s.VrFloats t f (op s.fenv) := by
  unfold vFlt at he
  intro hx hu
  obtain ⟨t, hexec, hwrote⟩ := State.yields_vr3 hw he hx hu
  exact ⟨t, hexec, _, hwrote, fun l _ i hi => el_fLane hop _ _ _ hi⟩

/-! ### The order of values and −0 (R202) -/

/-- Only a zero scales to zero. -/
theorem scaled_eq_zero {neg : Bool} {m : Nat} {e q : Int} (h : scaled neg m e q = 0) : m = 0 := by
  have hpow : (2 : Int) ^ (e - q).toNat ≠ 0 := Int.ne_of_gt (Int.pow_pos (by decide))
  have hprod : (m : Int) * 2 ^ (e - q).toNat = 0 := by
    cases neg
    · exact h
    · exact Int.neg_eq_zero.mp h
  exact Int.natCast_eq_zero.mp ((Int.mul_eq_zero.mp hprod).resolve_right hpow)

namespace FVal

theorem eq_symm : ∀ {a b : FVal}, a.eq b = true → b.eq a = true
  | .inf _, .inf _, h => by
    simp only [FVal.eq, beq_iff_eq] at h ⊢
    exact h.symm
  | .fin a m e, .fin b n k, h => by
    simp only [FVal.eq, decide_eq_true_eq, Int.min_comm k e] at h ⊢
    exact h.symm

/-- A value is not both below and above another. -/
theorem lt_asymm : ∀ {a b : FVal}, a.lt b = true → b.lt a = false
  | .inf a, .inf b, h => by
    simp only [FVal.lt, Bool.and_eq_true, Bool.not_eq_true'] at h ⊢
    simp [h.2]
  | .inf a, .fin _ _ _, h => by
    simp only [FVal.lt] at h ⊢
    simp [h]
  | .fin _ _ _, .inf b, h => by simpa [FVal.lt] using h
  | .fin a m e, .fin b n k, h => by
    simp only [FVal.lt, decide_eq_true_eq, decide_eq_false_iff_not, Int.min_comm k e] at h ⊢
    exact Int.not_lt.mpr (Int.le_of_lt h)

/-- A value is not both below another and equal to it. -/
theorem lt_of_eq : ∀ {a b : FVal}, a.eq b = true → a.lt b = false
  | .inf a, .inf b, h => by
    simp only [FVal.eq, beq_iff_eq] at h
    simp [FVal.lt, h]
  | .fin a m e, .fin b n k, h => by
    simp only [FVal.eq, FVal.lt, decide_eq_true_eq, decide_eq_false_iff_not] at h ⊢
    exact Int.not_lt.mpr (Int.le_of_eq h.symm)

theorem negative_of_negZero : ∀ {a : FVal}, a.negZero = true → a.negative = true
  | .fin _ _ _, h => (Bool.and_eq_true_iff.mp h).1

/-- A value that is equal to −0 but is not −0 is +0. -/
theorem negative_of_eq_negZero : ∀ {a b : FVal}, a.negZero = true → a.eq b = true → b.negZero = false → b.negative = false
  | .fin s m e, .fin t n k, ha, he, hb => by
    simp only [FVal.negZero, Bool.and_eq_true, beq_iff_eq] at ha
    simp only [FVal.eq, decide_eq_true_eq] at he
    have hzero : scaled s m e (min e k) = 0 := by
      rw [ha.2, scaled, Int.natCast_zero, Int.zero_mul]
      cases s <;> rfl
    have hn : n = 0 := scaled_eq_zero (he.symm.trans hzero)
    subst hn
    cases t
    · rfl
    · cases hb

/-- The order of `vfmin` and `vfmax`: less, or equal with a sign that the other value lacks, so −0 is below +0. -/
def below (a b : FVal) : Bool := a.lt b || (a.eq b && a.negative && !b.negative)

theorem below_of_lt {a b : FVal} (h : a.lt b = true) : a.below b = true := by simp [below, h]

theorem not_below_of_gt {a b : FVal} (h : b.lt a = true) : a.below b = false := by
  have hne : a.eq b = false := Bool.eq_false_iff.mpr fun he => by
    rw [lt_of_eq (eq_symm he)] at h; cases h
  simp [below, lt_asymm h, hne]

theorem below_of_negZero {a b : FVal} (ha : a.negZero = true) (he : b.eq a = true) (hb : b.negZero = false) :
    a.below b = true := by
  have hab : a.eq b = true := eq_symm he
  simp [below, hab, negative_of_negZero ha, negative_of_eq_negZero ha hab hb]

theorem not_below_of_negZero {a b : FVal} (hb : b.negZero = true) (he : a.eq b = true) (ha : a.negZero = false) :
    a.below b = false := by
  simp [below, lt_of_eq he, negative_of_eq_negZero hb (eq_symm he) ha]

end FVal

/-- A code's value has the sign of the code, unless it is a NaN (R161). -/
theorem FFmt.decode_negative (g : FFmt) {x : Nat} (h : (g.decode x).isNan = false) : (g.decode x).negative = g.sign x := by
  revert h
  unfold FFmt.decode
  dsimp only
  split
  · exact fun h => nomatch h
  · split
    · split
      · exact fun _ => rfl
      · exact fun h => nomatch h
    · split
      · exact fun _ => rfl
      · exact fun _ => rfl

/-! ### `minmax` returns one of its operands (R202) -/

section
variable {g : FFmt} {ftz least : Bool} {x y : Nat}

theorem FFmt.minmax_of_nans (hx : (g.decode (g.flush ftz x)).isNan = true) (hy : (g.decode (g.flush ftz y)).isNan = true) :
    g.minmax ftz least x y = g.canonNan := by
  simp [FFmt.minmax, hx, hy]

theorem FFmt.minmax_of_nan_left (hx : (g.decode (g.flush ftz x)).isNan = true) (hy : (g.decode (g.flush ftz y)).isNan = false) :
    g.minmax ftz least x y = g.flush ftz y := by
  simp [FFmt.minmax, hx, hy]

theorem FFmt.minmax_of_nan_right (hx : (g.decode (g.flush ftz x)).isNan = false) (hy : (g.decode (g.flush ftz y)).isNan = true) :
    g.minmax ftz least x y = g.flush ftz x := by
  simp [FFmt.minmax, hx, hy]

/-- The operand that `minmax` returns of two numbers. -/
theorem FFmt.minmax_of_numbers (hx : (g.decode (g.flush ftz x)).isNan = false) (hy : (g.decode (g.flush ftz y)).isNan = false) :
    g.minmax ftz least x y =
      if (g.decode (g.flush ftz x)).below (g.decode (g.flush ftz y)) == least then g.flush ftz x else g.flush ftz y := by
  simp [FFmt.minmax, FVal.below, hx, hy, FFmt.decode_negative]

theorem FFmt.minmax_mem_numbers (hx : (g.decode (g.flush ftz x)).isNan = false)
    (hy : (g.decode (g.flush ftz y)).isNan = false) :
    g.minmax ftz least x y = g.flush ftz x ∨ g.minmax ftz least x y = g.flush ftz y := by
  rw [FFmt.minmax_of_numbers hx hy]
  split
  · exact .inl rfl
  · exact .inr rfl

theorem FFmt.minmax_cases (g : FFmt) (ftz least : Bool) (x y : Nat) : g.minmax ftz least x y = g.canonNan ∨
    g.minmax ftz least x y = g.flush ftz x ∨ g.minmax ftz least x y = g.flush ftz y := by
  cases hx : (g.decode (g.flush ftz x)).isNan <;> cases hy : (g.decode (g.flush ftz y)).isNan
  · exact .inr (FFmt.minmax_mem_numbers hx hy)
  · exact .inr (.inl (FFmt.minmax_of_nan_right hx hy))
  · exact .inr (.inr (FFmt.minmax_of_nan_left hx hy))
  · exact .inl (FFmt.minmax_of_nans hx hy)

theorem FFmt.flush_lt (g : FFmt) (ftz : Bool) {x : Nat} (h : x < 2 ^ g.width) : g.flush ftz x < 2 ^ g.width := by
  have hzero (neg : Bool) : g.zero neg < 2 ^ g.width := by
    have hpow : 2 ^ g.width = 2 * 2 ^ (g.eb + g.fb) := by rw [FFmt.width, Nat.add_assoc, Nat.pow_add, Nat.pow_one]
    have hpos : 0 < 2 ^ (g.eb + g.fb) := Nat.two_pow_pos _
    unfold FFmt.zero
    split <;> omega
  unfold FFmt.flush
  split
  · exact hzero _
  · exact h

/-- `minmax` of codes of a vector float type is a code of it. -/
theorem FFmt.minmax_closed (ty : Nat) (ftz least : Bool) :
    (tyFmt ty).Closed fun g x y _ => g.minmax ftz least x y := by
  intro x y _ hx hy _
  have hnan : (tyFmt ty).canonNan < 2 ^ (tyFmt ty).width := by
    rcases tyFmt_cases ty with h | h | h <;> rw [h] <;> decide
  show (tyFmt ty).minmax ftz least x y < _
  rcases (tyFmt ty).minmax_cases ftz least x y with h | h | h <;> rw [h]
  · exact hnan
  · exact FFmt.flush_lt _ _ hx
  · exact FFmt.flush_lt _ _ hy

end

theorem exec_vfmin (f : FmtVR) (s : State) :
    exec (.vfmin f) s = vFlt (.vfmin f) f false (fun v g x y _ => g.minmax v.ftz true x y) s := rfl

theorem exec_vfmax (f : FmtVR) (s : State) :
    exec (.vfmax f) s = vFlt (.vfmax f) f false (fun v g x y _ => g.minmax v.ftz false x y) s := rfl

/-- Settles O6: the words write `minmax` of each element, and `minmax` returns the operand that the order `FVal.below` names. -/
theorem minMaxOperand : Obligations.MinMaxOperand := by
  refine ⟨fun s f => ?_, fun s f => ?_, fun g _ ftz least x y _ _ => ?_⟩
  · exact State.yields_vFlt rfl (exec_vfmin f s) (FFmt.minmax_closed _ _ _)
  · exact State.yields_vFlt rfl (exec_vfmax f s) (FFmt.minmax_closed _ _ _)
  · refine ⟨FFmt.minmax_of_nan_right, FFmt.minmax_of_nan_left, FFmt.minmax_of_nans, fun hx hy => ?_, fun hftz hfl hsub => ?_⟩
    · refine ⟨FFmt.minmax_mem_numbers hx hy, ?_⟩
      rw [FFmt.minmax_of_numbers hx hy]
      refine ⟨fun h => ?_, fun h => ?_, fun ha he hb => ?_, fun hb he ha => ?_⟩
      · rw [FVal.below_of_lt h]; cases least <;> rfl
      · rw [FVal.not_below_of_gt h]; cases least <;> rfl
      · rw [FVal.below_of_negZero ha he hb]; cases least <;> rfl
      · rw [FVal.not_below_of_negZero hb he ha]; cases least <;> rfl
    · simp [FFmt.flush, hftz, hfl, hsub]

end Sys2Proof.Machine
end

section
/-! SUPPORT. Decoding and encoding agree (R67, R78, R81): a word is the packed form of the fields that a format reads from it, each
opcode table gives the instruction whose word it read, and header words read back. -/

namespace Sys2Proof

/-! ### The formats: packing the fields that a word has gives the word (R67) -/

theorem packVR_unpackVR {w : Word} {op : BitVec 7} (h : opcodeOf w = op) : packVR op (unpackVR w) = w := by
  subst h
  unfold packVR unpackVR opcodeOf
  repeat rw [BitVec.extractLsb'_append_extractLsb'_eq_extractLsb' (by decide)]
  exact BitVec.extractLsb'_eq_self

theorem packVI_unpackVI {w : Word} {op : BitVec 7} (h : opcodeOf w = op) : packVI op (unpackVI w) = w := by
  subst h
  unfold packVI unpackVI opcodeOf
  repeat rw [BitVec.extractLsb'_append_extractLsb'_eq_extractLsb' (by decide)]
  exact BitVec.extractLsb'_eq_self

theorem packVX_unpackVX {w : Word} {op : BitVec 7} (h : opcodeOf w = op) : packVX op (unpackVX w) = w := by
  subst h
  unfold packVX unpackVX opcodeOf
  repeat rw [BitVec.extractLsb'_append_extractLsb'_eq_extractLsb' (by decide)]
  exact BitVec.extractLsb'_eq_self

theorem packVP_unpackVP {w : Word} {op : BitVec 7} (h : opcodeOf w = op) : packVP op (unpackVP w) = w := by
  subst h
  unfold packVP unpackVP opcodeOf
  repeat rw [BitVec.extractLsb'_append_extractLsb'_eq_extractLsb' (by decide)]
  exact BitVec.extractLsb'_eq_self

theorem packVS_unpackVS {w : Word} {op : BitVec 7} (h : opcodeOf w = op) : packVS op (unpackVS w) = w := by
  subst h
  unfold packVS unpackVS opcodeOf
  repeat rw [BitVec.extractLsb'_append_extractLsb'_eq_extractLsb' (by decide)]
  exact BitVec.extractLsb'_eq_self

theorem packSR_unpackSR {w : Word} {op : BitVec 7} (h : opcodeOf w = op) : packSR op (unpackSR w) = w := by
  subst h
  unfold packSR unpackSR opcodeOf
  repeat rw [BitVec.extractLsb'_append_extractLsb'_eq_extractLsb' (by decide)]
  exact BitVec.extractLsb'_eq_self

theorem packSI_unpackSI {w : Word} {op : BitVec 7} (h : opcodeOf w = op) : packSI op (unpackSI w) = w := by
  subst h
  unfold packSI unpackSI opcodeOf
  repeat rw [BitVec.extractLsb'_append_extractLsb'_eq_extractLsb' (by decide)]
  exact BitVec.extractLsb'_eq_self

theorem packSL_unpackSL {w : Word} {op : BitVec 7} (h : opcodeOf w = op) : packSL op (unpackSL w) = w := by
  subst h
  unfold packSL unpackSL opcodeOf
  repeat rw [BitVec.extractLsb'_append_extractLsb'_eq_extractLsb' (by decide)]
  exact BitVec.extractLsb'_eq_self

theorem packMV_unpackMV {w : Word} {op : BitVec 7} (h : opcodeOf w = op) : packMV op (unpackMV w) = w := by
  subst h
  unfold packMV unpackMV opcodeOf
  repeat rw [BitVec.extractLsb'_append_extractLsb'_eq_extractLsb' (by decide)]
  exact BitVec.extractLsb'_eq_self

theorem packMA_unpackMA {w : Word} {op : BitVec 7} (h : opcodeOf w = op) : packMA op (unpackMA w) = w := by
  subst h
  unfold packMA unpackMA opcodeOf
  repeat rw [BitVec.extractLsb'_append_extractLsb'_eq_extractLsb' (by decide)]
  exact BitVec.extractLsb'_eq_self

theorem packMS_unpackMS {w : Word} {op : BitVec 7} (h : opcodeOf w = op) : packMS op (unpackMS w) = w := by
  subst h
  unfold packMS unpackMS opcodeOf
  repeat rw [BitVec.extractLsb'_append_extractLsb'_eq_extractLsb' (by decide)]
  exact BitVec.extractLsb'_eq_self

theorem packSA_unpackSA {w : Word} {op : BitVec 7} (h : opcodeOf w = op) : packSA op (unpackSA w) = w := by
  subst h
  unfold packSA unpackSA opcodeOf
  repeat rw [BitVec.extractLsb'_append_extractLsb'_eq_extractLsb' (by decide)]
  exact BitVec.extractLsb'_eq_self

theorem packMB_unpackMB {w : Word} {op : BitVec 7} (h : opcodeOf w = op) : packMB op (unpackMB w) = w := by
  subst h
  unfold packMB unpackMB opcodeOf
  repeat rw [BitVec.extractLsb'_append_extractLsb'_eq_extractLsb' (by decide)]
  exact BitVec.extractLsb'_eq_self

theorem packMF_unpackMF {w : Word} {op : BitVec 7} (h : opcodeOf w = op) : packMF op (unpackMF w) = w := by
  subst h
  unfold packMF unpackMF opcodeOf
  repeat rw [BitVec.extractLsb'_append_extractLsb'_eq_extractLsb' (by decide)]
  exact BitVec.extractLsb'_eq_self

theorem packCB_unpackCB {w : Word} {op : BitVec 7} (h : opcodeOf w = op) : packCB op (unpackCB w) = w := by
  subst h
  unfold packCB unpackCB opcodeOf
  repeat rw [BitVec.extractLsb'_append_extractLsb'_eq_extractLsb' (by decide)]
  exact BitVec.extractLsb'_eq_self

theorem packCC_unpackCC {w : Word} {op : BitVec 7} (h : opcodeOf w = op) : packCC op (unpackCC w) = w := by
  subst h
  unfold packCC unpackCC opcodeOf
  repeat rw [BitVec.extractLsb'_append_extractLsb'_eq_extractLsb' (by decide)]
  exact BitVec.extractLsb'_eq_self

theorem packCR_unpackCR {w : Word} {op : BitVec 7} (h : opcodeOf w = op) : packCR op (unpackCR w) = w := by
  subst h
  unfold packCR unpackCR opcodeOf
  repeat rw [BitVec.extractLsb'_append_extractLsb'_eq_extractLsb' (by decide)]
  exact BitVec.extractLsb'_eq_self

theorem packCQ_unpackCQ {w : Word} {op : BitVec 7} (h : opcodeOf w = op) : packCQ op (unpackCQ w) = w := by
  subst h
  unfold packCQ unpackCQ opcodeOf
  repeat rw [BitVec.extractLsb'_append_extractLsb'_eq_extractLsb' (by decide)]
  exact BitVec.extractLsb'_eq_self

theorem packEB_unpackEB {w : Word} {op : BitVec 7} (h : opcodeOf w = op) : packEB op (unpackEB w) = w := by
  subst h
  unfold packEB unpackEB opcodeOf
  repeat rw [BitVec.extractLsb'_append_extractLsb'_eq_extractLsb' (by decide)]
  exact BitVec.extractLsb'_eq_self

/-! ### The opcode tables (R78): an instruction read from a word encodes to the word -/

/-- `i` is an instruction of class `c` whose word is `w`. -/
def Encodes (c : Cls) (w : Word) (i : Instr) : Prop := i.cls? = some c ∧ encode i = w

theorem opcodeOf_eq {w : Word} {n : Nat} (h : (opcodeOf w).toNat = n) : opcodeOf w = BitVec.ofNat 7 n := by
  rw [← h, BitVec.ofNat_toNat, BitVec.setWidth_eq]

theorem encodes_of_decodeVec {w : Word} {i : Instr} (h : decodeVec w = some i) : Encodes .vec w i := by
  unfold decodeVec at h
  split at h
  case h_58 => cases h
  all_goals next hop =>
    cases h
    replace hop := opcodeOf_eq hop
    exact ⟨rfl, by simp only [encode, BitVec.ofNat_eq_ofNat, packVR_unpackVR hop, packVI_unpackVI hop, packVX_unpackVX hop, packVP_unpackVP hop, packVS_unpackVS hop]⟩

theorem encodes_of_decodeSca {w : Word} {i : Instr} (h : decodeSca w = some i) : Encodes .sca w i := by
  unfold decodeSca at h
  split at h
  case h_40 => cases h
  all_goals next hop =>
    cases h
    replace hop := opcodeOf_eq hop
    exact ⟨rfl, by simp only [encode, BitVec.ofNat_eq_ofNat, packSR_unpackSR hop, packSI_unpackSI hop, packSL_unpackSL hop]⟩

theorem encodes_of_decodeMem {w : Word} {i : Instr} (h : decodeMem w = some i) : Encodes .mem w i := by
  unfold decodeMem at h
  split at h
  case h_29 => cases h
  all_goals next hop =>
    cases h
    replace hop := opcodeOf_eq hop
    exact ⟨rfl, by simp only [encode, BitVec.ofNat_eq_ofNat, packMV_unpackMV hop, packMA_unpackMA hop, packMS_unpackMS hop, packSA_unpackSA hop, packMB_unpackMB hop, packMF_unpackMF hop]⟩

theorem encodes_of_decodeCtl {w : Word} {i : Instr} (h : decodeCtl w = some i) : Encodes .ctl w i := by
  unfold decodeCtl at h
  split at h
  case h_19 => cases h
  all_goals next hop =>
    cases h
    replace hop := opcodeOf_eq hop
    exact ⟨rfl, by simp only [encode, BitVec.ofNat_eq_ofNat, packCB_unpackCB hop, packCC_unpackCC hop, packCR_unpackCR hop, packCQ_unpackCQ hop]⟩

theorem encodes_of_decodeMtx {w : Word} {i : Instr} (h : decodeMtx w = some i) : Encodes .mtx w i := by
  unfold decodeMtx at h
  split at h
  case h_12 => cases h
  all_goals next hop =>
    cases h
    replace hop := opcodeOf_eq hop
    exact ⟨rfl, by simp only [encode, BitVec.ofNat_eq_ofNat, packEB_unpackEB hop, packVR_unpackVR hop]⟩

theorem encodes_of_decodeCpy {w : Word} {i : Instr} (h : decodeCpy w = some i) : Encodes .cpy w i := by
  unfold decodeCpy at h
  split at h
  case h_10 => cases h
  all_goals next hop =>
    cases h
    replace hop := opcodeOf_eq hop
    exact ⟨rfl, by simp only [encode, BitVec.ofNat_eq_ofNat, packEB_unpackEB hop]⟩

theorem encodes_of_decodeArn {w : Word} {i : Instr} (h : decodeArn w = some i) : Encodes .arn w i := by
  unfold decodeArn at h
  split at h
  case h_7 => cases h
  all_goals next hop =>
    cases h
    replace hop := opcodeOf_eq hop
    exact ⟨rfl, by simp only [encode, BitVec.ofNat_eq_ofNat, packEB_unpackEB hop]⟩

theorem encodes_of_decodeMsg {w : Word} {i : Instr} (h : decodeMsg w = some i) : Encodes .msg w i := by
  unfold decodeMsg at h
  split at h
  case h_13 => cases h
  all_goals next hop =>
    cases h
    replace hop := opcodeOf_eq hop
    exact ⟨rfl, by simp only [encode, BitVec.ofNat_eq_ofNat, packEB_unpackEB hop]⟩

theorem encodes_of_decodeSys {w : Word} {i : Instr} (h : decodeSys w = some i) : Encodes .sys w i := by
  unfold decodeSys at h
  split at h
  case h_12 => cases h
  all_goals next hop =>
    cases h
    replace hop := opcodeOf_eq hop
    exact ⟨rfl, by simp only [encode, BitVec.ofNat_eq_ofNat, packSL_unpackSL hop, packCR_unpackCR hop, packCQ_unpackCQ hop, packEB_unpackEB hop]⟩

theorem encodes_of_decodeRaw {c : Cls} {w : Word} {i : Instr} (h : decodeRaw c w = some i) : Encodes c w i := by
  cases c with
  | vec => exact encodes_of_decodeVec h
  | sca => exact encodes_of_decodeSca h
  | mem => exact encodes_of_decodeMem h
  | ctl => exact encodes_of_decodeCtl h
  | mtx => exact encodes_of_decodeMtx h
  | cpy => exact encodes_of_decodeCpy h
  | arn => exact encodes_of_decodeArn h
  | msg => exact encodes_of_decodeMsg h
  | sys => exact encodes_of_decodeSys h

open Laws in
/-- The case split over the constructors, in their order. -/
theorem readsBack (i : Instr) : ReadsBack.Statement i :=
  Instr.casesOn i
    ReadsBack.vmov ReadsBack.vmovi ReadsBack.vadd ReadsBack.vsub ReadsBack.vadds ReadsBack.vsubs ReadsBack.vmul ReadsBack.vmulhi
    ReadsBack.vmad ReadsBack.vmin ReadsBack.vmax ReadsBack.vabsd ReadsBack.vand ReadsBack.vor ReadsBack.vxor ReadsBack.vandn ReadsBack.vshl
    ReadsBack.vshr ReadsBack.vrot ReadsBack.vbfe ReadsBack.vbfi ReadsBack.vpopc ReadsBack.vclz ReadsBack.vbrev ReadsBack.vsel
    ReadsBack.vaddi ReadsBack.vandi ReadsBack.vshli ReadsBack.vshri ReadsBack.vacs ReadsBack.vhsel ReadsBack.vperm ReadsBack.vshfl
    ReadsBack.vred ReadsBack.vscan ReadsBack.vmovs ReadsBack.vrdl ReadsBack.vwrl ReadsBack.vsr ReadsBack.vdot4 ReadsBack.vdot2
    ReadsBack.vfadd ReadsBack.vfsub ReadsBack.vfmul ReadsBack.vfma ReadsBack.vfmin ReadsBack.vfmax ReadsBack.vcmp ReadsBack.vfcmp
    ReadsBack.vrcp ReadsBack.vrsqrt ReadsBack.vsqrt ReadsBack.vexp2 ReadsBack.vlog2 ReadsBack.vcvt ReadsBack.vfclass ReadsBack.vround
    ReadsBack.smov ReadsBack.smovi ReadsBack.smovh ReadsBack.sadd ReadsBack.ssub ReadsBack.smul ReadsBack.smulh ReadsBack.sdiv
    ReadsBack.srem ReadsBack.sand ReadsBack.sor ReadsBack.sxor ReadsBack.sshl ReadsBack.sshr ReadsBack.smin ReadsBack.smax ReadsBack.saddi
    ReadsBack.sandi ReadsBack.sshli ReadsBack.sshri ReadsBack.scmp ReadsBack.sbfe ReadsBack.spopc ReadsBack.sclz ReadsBack.sfadd
    ReadsBack.sfmul ReadsBack.sfma ReadsBack.scvt ReadsBack.srd ReadsBack.swr ReadsBack.sfmt ReadsBack.pand ReadsBack.por ReadsBack.pxor
    ReadsBack.pandn ReadsBack.pmovsp ReadsBack.pmovps ReadsBack.pcnt ReadsBack.pfirst ReadsBack.vld ReadsBack.vlds ReadsBack.vst
    ReadsBack.sld ReadsBack.slds ReadsBack.sst ReadsBack.vatomI32 ReadsBack.vatomU32 ReadsBack.vatomF32 ReadsBack.vatomF16x2
    ReadsBack.vatomB16x2 ReadsBack.vatomnI32 ReadsBack.vatomnU32 ReadsBack.vatomnF32 ReadsBack.vatomnF16x2 ReadsBack.vatomnB16x2
    ReadsBack.satom ReadsBack.hsel ReadsBack.hinfo ReadsBack.fence ReadsBack.flsig ReadsBack.flwait ReadsBack.barinit ReadsBack.barexp
    ReadsBack.barrive ReadsBack.bwait ReadsBack.bartest ReadsBack.bsync ReadsBack.bra ReadsBack.brp ReadsBack.rcvpt ReadsBack.join
    ReadsBack.bcnd ReadsBack.sloop ReadsBack.call ReadsBack.callr ReadsBack.ret ReadsBack.jmp ReadsBack.exit ReadsBack.yield
    ReadsBack.twait ReadsBack.dqpop ReadsBack.dqpush ReadsBack.bany ReadsBack.ball ReadsBack.nop ReadsBack.mshape ReadsBack.mzero
    ReadsBack.mma ReadsBack.mloop ReadsBack.mloopg ReadsBack.mloopn ReadsBack.msmx ReadsBack.mdrain ReadsBack.mside ReadsBack.mprog
    ReadsBack.mstat ReadsBack.cpy ReadsBack.cpy2d ReadsBack.cpymc ReadsBack.cpyfill ReadsBack.cpyrec ReadsBack.tlrd ReadsBack.tlwait
    ReadsBack.cprog ReadsBack.qpost ReadsBack.arnew ReadsBack.halloc ReadsBack.arseal ReadsBack.ardrop ReadsBack.arquota ReadsBack.arinfo
    ReadsBack.send ReadsBack.asend ReadsBack.rdy ReadsBack.unrdy ReadsBack.recv ReadsBack.grpnew ReadsBack.grpdel ReadsBack.colnew
    ReadsBack.redpost ReadsBack.redwait ReadsBack.colabort ReadsBack.msgstat ReadsBack.trap ReadsBack.brk ReadsBack.eret ReadsBack.prd
    ReadsBack.pwr ReadsBack.capmask ReadsBack.tmark ReadsBack.dump ReadsBack.respost ReadsBack.sstep ReadsBack.kiln
    ReadsBack.blockedWordResume ReadsBack.windowRetire ReadsBack.ageSwap ReadsBack.starvationSwap ReadsBack.trapDelivery
    ReadsBack.pageFaultResolve ReadsBack.mappingChange ReadsBack.accessAtHome ReadsBack.fillReturn ReadsBack.fenceComplete
    ReadsBack.flushComplete ReadsBack.asyncComplete ReadsBack.multicastReceive ReadsBack.matrixBoundary ReadsBack.cpyFreeze
    ReadsBack.mtxFreeze ReadsBack.sealBroadcast ReadsBack.sealComplete ReadsBack.dropBroadcast ReadsBack.dropComplete
    ReadsBack.readinessReport ReadsBack.messageSteer ReadsBack.messageBounce ReadsBack.ordAck ReadsBack.ringDelivery ReadsBack.handlerSpawn
    ReadsBack.grpdelHandover ReadsBack.reductionPartial ReadsBack.reductionResult ReadsBack.roundTimeout ReadsBack.haltedNotice
    ReadsBack.cellarLimit ReadsBack.recvLimit ReadsBack.tlwaitLimit ReadsBack.qpostRoomLimit ReadsBack.launch ReadsBack.branch
    ReadsBack.waittl ReadsBack.waittlNotify ReadsBack.depend ReadsBack.packetLimit ReadsBack.signal ReadsBack.copy ReadsBack.drop
    ReadsBack.marker ReadsBack.placement ReadsBack.saveComplete ReadsBack.crewResume ReadsBack.queueAged ReadsBack.crewRetire
    ReadsBack.taskRetire ReadsBack.taskTimeout ReadsBack.watchdogExpiry ReadsBack.kill ReadsBack.killComplete ReadsBack.dumpWritten
    ReadsBack.partitionDeadline ReadsBack.partitionApply ReadsBack.electionWindowEnd ReadsBack.claim ReadsBack.handover ReadsBack.override
    ReadsBack.cmdQreg ReadsBack.qreset ReadsBack.qremove ReadsBack.qappend ReadsBack.qappendBusy ReadsBack.partchg ReadsBack.killtask
    ReadsBack.killpart ReadsBack.cmdPower ReadsBack.watchdog ReadsBack.dumph ReadsBack.cmdArnew ReadsBack.cmdHalloc ReadsBack.cmdArseal
    ReadsBack.cmdArdrop ReadsBack.cmdArquota ReadsBack.cmdArinfo ReadsBack.map ReadsBack.unmap ReadsBack.importHandle ReadsBack.mread
    ReadsBack.mwrite ReadsBack.debugtoken ReadsBack.attest ReadsBack.bindvec ReadsBack.jread ReadsBack.halt ReadsBack.resume ReadsBack.step
    ReadsBack.bpset ReadsBack.wpset ReadsBack.intercept ReadsBack.regrd ReadsBack.regwr ReadsBack.sample ReadsBack.series ReadsBack.trace
    ReadsBack.dbgpol ReadsBack.stoprec ReadsBack.memrd ReadsBack.memwr ReadsBack.registerWrite ReadsBack.breakpointHit
    ReadsBack.watchpointHit ReadsBack.sampleTick ReadsBack.seriesTick ReadsBack.traceFrameClose ReadsBack.traceLoss ReadsBack.tokenExpiry
    ReadsBack.strike ReadsBack.residueMismatch ReadsBack.poisonConsume ReadsBack.kilnwaitExpiry ReadsBack.kilnTest ReadsBack.kilnTestResult
    ReadsBack.kilnFenceApply ReadsBack.linkFailure ReadsBack.ptpMessage ReadsBack.railAdjust ReadsBack.powerThrottle ReadsBack.idleTimeout
    ReadsBack.packageReset ReadsBack.reservedOpcodeWord ReadsBack.unknownCommand ReadsBack.badpacket ReadsBack.uncorrectableError
    ReadsBack.requestedDumpComplete ReadsBack.translationWalk ReadsBack.occReport ReadsBack.clockSlewEnd ReadsBack.haltEnd

/-- Decoding is reading the opcode table and checking the fields (R81). -/
theorem decode_eq_some {c : Cls} {w : Word} {i : Instr} : decode c w = some i ↔ decodeRaw c w = some i ∧ i.wf = true := by
  unfold decode
  cases h : decodeRaw c w with
  | none => simp
  | some j =>
    simp only [Option.ite_none_right_eq_some, Option.some.injEq]
    exact ⟨fun ⟨hwf, hji⟩ => ⟨hji, hji ▸ hwf⟩, fun ⟨hji, hwf⟩ => ⟨hji ▸ hwf, hji⟩⟩

/-! ### The clause header (R55 to R57) -/

theorem clsOfEng_eq_some {n : Nat} {c : Cls} (h : clsOfEng n = some c) : engOfCls c = n := by
  unfold clsOfEng at h
  split at h <;> cases h <;> rfl

theorem decodeHeader_encodeHeader (c : Cls) {n : Nat} (h1 : 1 ≤ n) (h15 : n ≤ 15) :
    decodeHeader (encodeHeader c n) = some ⟨c, n, 0, false⟩ := by
  have hall : ∀ k : Fin 15, decodeHeader (encodeHeader c (k.val + 1)) = some ⟨c, k.val + 1, 0, false⟩ := by cases c <;> decide
  obtain ⟨k, rfl⟩ := Nat.exists_eq_add_of_le' h1
  exact hall ⟨k, by omega⟩

theorem fields_of_decodeHeader {w : Word} {h : Header} (e : decodeHeader w = some h) :
    1 ≤ h.count ∧ h.count ≤ 15 ∧ w.extractLsb' 28 4 = 0xB ∧ w.extractLsb' 24 4 = BitVec.ofNat 4 (engOfCls h.cls) ∧
      w.extractLsb' 20 4 = BitVec.ofNat 4 h.count ∧ w.extractLsb' 12 8 = h.twait ∧ w.getLsbD 10 = h.yld ∧ w.extractLsb' 0 10 = 0 := by
  unfold decodeHeader at e
  split at e
  · cases e
  · next hfmt =>
    simp only [Bool.or_eq_true, bne_iff_ne, beq_iff_eq, not_or, Decidable.not_not] at hfmt
    obtain ⟨⟨hmagic, hcount⟩, hzero⟩ := hfmt
    split at e
    · next c hc =>
      cases e
      have hpos : 0 < (w.extractLsb' 20 4).toNat := Nat.pos_of_ne_zero fun h0 => hcount (BitVec.eq_of_toNat_eq h0)
      have hlt : (w.extractLsb' 20 4).toNat < 16 := BitVec.isLt _
      refine ⟨hpos, Nat.le_of_lt_succ hlt, hmagic, ?_, ?_, rfl, rfl, hzero⟩
      · rw [clsOfEng_eq_some hc, BitVec.ofNat_toNat, BitVec.setWidth_eq]
      · rw [BitVec.ofNat_toNat, BitVec.setWidth_eq]
    · cases e

/-- Settles O60: the opcode tables and `encode` are inverse to each other class by class, and so are the header's fields. -/
theorem decodeOfEncode : Obligations.DecodeOfEncode := by
  refine ⟨fun c w i h => ?_, fun c i hc hwf => ?_, fun c n h1 h15 => decodeHeader_encodeHeader c h1 h15, fun w h e => fields_of_decodeHeader e⟩
  · obtain ⟨hraw, hwf⟩ := decode_eq_some.1 h
    exact ⟨hwf, encodes_of_decodeRaw hraw⟩
  · exact decode_eq_some.2 ⟨readsBack i c hc, hwf⟩

end Sys2Proof
end

section
/-! SUPPORT. Rounding to nearest (R165): the rounded numeral is the nearest integer, ties to even; a format's finite codes are
multiples of the unit in which it rounds, or lie below the binade of the exact value. -/

namespace Sys2Proof.Machine

/-! ### The nearest integer -/

/-- The integer that rounding to nearest makes of `N / D`. -/
def nearestDiv (neg : Bool) (N D : Nat) : Nat := if roundsUp 0 neg (N / D) (N % D) D false then N / D + 1 else N / D

theorem roundsUp_nearest (neg : Bool) (M rem full : Nat) :
    roundsUp 0 neg M rem full false = true ↔ full < 2 * rem ∨ 2 * rem = full ∧ M % 2 = 1 := by
  simp [roundsUp]

/-- What an integer `k` misses `N / D` by: at least the remainder from below, at least its complement from above. -/
theorem natAbs_mul_sub_cases {N D : Nat} (hD : 0 < D) (k : Int) :
    (k = (N / D : Nat) ∧ (k * D - N).natAbs = N % D) ∨ (k = (N / D : Nat) + 1 ∧ (k * D - N).natAbs = D - N % D) ∨
      (k ≠ (N / D : Nat) ∧ k ≠ (N / D : Nat) + 1 ∧ D ≤ (k * D - N).natAbs) := by
  have hN : (N : Int) = D * (N / D : Nat) + (N % D : Nat) := by exact_mod_cast (Nat.div_add_mod N D).symm
  have hrem : N % D < D := Nat.mod_lt N hD
  generalize N / D = M at *
  generalize N % D = r at *
  have hsub : k * D - N = (k - M) * D - r := by rw [hN, Int.sub_mul, Int.mul_comm (D : Int)]; omega
  rw [hsub]
  by_cases hlt : k < M
  · have hfar : (k - M) * D ≤ -1 * D := Int.mul_le_mul_of_nonneg_right (by omega) (by omega)
    omega
  by_cases heq : k = M
  · have hzero : (k - M) * D = 0 := by rw [show k - M = 0 by omega, Int.zero_mul]
    omega
  by_cases hone : k = M + 1
  · have hnext : (k - M) * D = D := by rw [show k - M = 1 by omega, Int.one_mul]
    omega
  · have hfar : 2 * (D : Int) ≤ (k - M) * D := Int.mul_le_mul_of_nonneg_right (by omega) (by omega)
    omega

/-- No integer is nearer to `N / D` than the rounded one, and one as near makes the rounded one even. -/
theorem nearestDiv_nearest (neg : Bool) {N D : Nat} (hD : 0 < D) (k : Int) :
    ((nearestDiv neg N D : Int) * D - N).natAbs ≤ (k * D - N).natAbs ∧
      (((nearestDiv neg N D : Int) * D - N).natAbs = (k * D - N).natAbs → k ≠ nearestDiv neg N D → nearestDiv neg N D % 2 = 0) := by
  have hrem : N % D < D := Nat.mod_lt N hD
  have hk := natAbs_mul_sub_cases (N := N) hD k
  have hr := natAbs_mul_sub_cases (N := N) hD (nearestDiv neg N D)
  have hup := roundsUp_nearest neg (N / D) (N % D) D
  generalize (k * (D : Int) - N).natAbs = dk at *
  generalize ((nearestDiv neg N D : Int) * D - N).natAbs = dr at *
  unfold nearestDiv at hr ⊢
  generalize N / D = M at *
  generalize N % D = rem at *
  split at hr
  · next h =>
    have := hup.1 h
    rw [if_pos h]
    push_cast at hr ⊢
    omega
  · next h =>
    have := mt hup.2 h
    rw [if_neg h]
    omega

/-! ### Codes -/

/-- A code is its three fields, side by side. -/
theorem FFmt.pack_eq (g : FFmt) (neg : Bool) (e m : Nat) : g.pack neg e m = (neg.toNat * 2 ^ g.eb + e) * 2 ^ g.fb + m := by
  cases neg <;> simp [FFmt.pack, Nat.pow_add, Nat.add_mul]


section
variable {g : FFmt} {neg : Bool} {e m : Nat}

theorem FFmt.frac_pack (hm : m < 2 ^ g.fb) : g.frac (g.pack neg e m) = m := by
  rw [FFmt.frac, FFmt.pack_eq, Nat.mul_comm, Nat.mul_add_mod, Nat.mod_eq_of_lt hm]

theorem FFmt.pack_div (hm : m < 2 ^ g.fb) : g.pack neg e m / 2 ^ g.fb = neg.toNat * 2 ^ g.eb + e := by
  rw [FFmt.pack_eq, Nat.mul_comm, Nat.mul_add_div (Nat.two_pow_pos _), Nat.div_eq_of_lt hm, Nat.add_zero]

theorem FFmt.expo_pack (he : e < 2 ^ g.eb) (hm : m < 2 ^ g.fb) : g.expo (g.pack neg e m) = e := by
  rw [FFmt.expo, FFmt.pack_div hm, Nat.mul_comm, Nat.mul_add_mod, Nat.mod_eq_of_lt he]

theorem FFmt.sign_pack (he : e < 2 ^ g.eb) (hm : m < 2 ^ g.fb) : g.sign (g.pack neg e m) = neg := by
  rw [FFmt.sign, Nat.add_comm, Nat.pow_add, ← Nat.div_div_eq_div_mul, FFmt.pack_div hm, Nat.mul_comm, Nat.mul_add_div (Nat.two_pow_pos _), Nat.div_eq_of_lt he]
  cases neg <;> rfl

theorem FFmt.pack_mod_two (hfb : 1 ≤ g.fb) : g.pack neg e m % 2 = m % 2 := by
  obtain ⟨k, hk⟩ := Nat.exists_eq_add_of_le hfb
  rw [FFmt.pack_eq, hk, Nat.pow_add, Nat.pow_one, Nat.mul_left_comm, Nat.mul_add_mod]

/-- The value of a packed code that is neither an infinity nor a NaN (R161). -/
theorem FFmt.decode_pack (hf8 : g.f8 = false) (he : e ≤ 2 ^ g.eb - 2) (heb : 1 ≤ g.eb) (hm : m < 2 ^ g.fb) :
    g.decode (g.pack neg e m) =
      if e = 0 then .fin neg m (1 - (g.bias : Int) - g.fb) else .fin neg (2 ^ g.fb + m) ((e : Int) - g.bias - g.fb) := by
  have htwo : 2 ^ 1 ≤ 2 ^ g.eb := Nat.pow_le_pow_right (by decide) heb
  have hne : e ≠ 2 ^ g.eb - 1 := by omega
  simp [FFmt.decode, FFmt.frac_pack hm, FFmt.expo_pack (show e < 2 ^ g.eb by omega) hm, FFmt.sign_pack (show e < 2 ^ g.eb by omega) hm, hf8, hne]

theorem FFmt.decode_infinity (hf8 : g.f8 = false) (neg : Bool) : g.decode (g.infinity neg) = .inf neg := by
  have hlt : 2 ^ g.eb - 1 < 2 ^ g.eb := Nat.sub_lt (Nat.two_pow_pos _) Nat.one_pos
  have hpos : 0 < 2 ^ g.fb := Nat.two_pow_pos _
  simp [FFmt.decode, FFmt.infinity, FFmt.frac_pack hpos, FFmt.expo_pack hlt hpos, FFmt.sign_pack hlt hpos, hf8]

theorem FFmt.zero_eq_pack (hf8 : g.f8 = false) (neg : Bool) : g.zero neg = g.pack neg 0 0 := by
  cases neg <;> simp [FFmt.zero, FFmt.pack, hf8]

/-- A finite code's numeral and exponent are in the format's range. -/
theorem FFmt.bounds_of_decode_fin {c mc : Nat} {sc : Bool} {ec : Int} (hf8 : g.f8 = false) (h : g.decode c = .fin sc mc ec) :
    mc < 2 ^ (g.fb + 1) ∧ 1 - (g.bias : Int) - g.fb ≤ ec := by
  have hfrac : g.frac c < 2 ^ g.fb := Nat.mod_lt _ (Nat.two_pow_pos _)
  simp only [FFmt.decode, hf8, Bool.false_and, Bool.false_eq_true, if_false, Bool.not_false, Bool.true_and, beq_iff_eq] at h
  rw [Nat.pow_succ]
  split at h
  · split at h <;> cases h
  · split at h <;> cases h <;> omega

end

/-! ### Values as integers, in units of a power of two that divides them all -/

/-- A signed number. -/
def signed (neg : Bool) (v : Int) : Int := if neg then -v else v

theorem scaled_eq (neg : Bool) (m : Nat) (e p : Int) : scaled neg m e p = signed neg (m * 2 ^ (e - p).toNat) := rfl

theorem signed_mul (neg : Bool) (v k : Int) : signed neg (v * k) = signed neg v * k := by
  cases neg
  · rfl
  · exact (Int.neg_mul v k).symm

theorem signed_sub (neg : Bool) (v w : Int) : signed neg v - signed neg w = signed neg (v - w) := by
  cases neg <;> simp only [signed, Bool.false_eq_true, if_true, if_false] <;> omega

theorem natAbs_signed (neg : Bool) (v : Int) : (signed neg v).natAbs = v.natAbs := by
  cases neg <;> simp [signed]

/-- Two steps of scaling make one. -/
theorem two_pow_split {e q p : Int} (hp : p ≤ q) (hq : q ≤ e) : 2 ^ (e - p).toNat = 2 ^ (e - q).toNat * 2 ^ (q - p).toNat := by
  rw [← Nat.pow_add]
  congr 1
  omega

theorem scaled_rebase {neg : Bool} {m : Nat} {e q p : Int} (hp : p ≤ q) (hq : q ≤ e) :
    scaled neg m e p = scaled neg m e q * (2 ^ (q - p).toNat : Nat) := by
  have hpow : (2 : Int) ^ (e - p).toNat = 2 ^ (e - q).toNat * (2 ^ (q - p).toNat : Nat) := by exact_mod_cast two_pow_split hp hq
  rw [scaled_eq, scaled_eq, hpow, ← Int.mul_assoc, signed_mul]

/-- Distances in smaller units are multiples of those in larger ones. -/
theorem natAbs_scaled_rebase {a b : Bool} {m n : Nat} {e f q p : Int} (hp : p ≤ q) (he : q ≤ e) (hf : q ≤ f) :
    (scaled a m e p - scaled b n f p).natAbs = (scaled a m e q - scaled b n f q).natAbs * 2 ^ (q - p).toNat := by
  rw [scaled_rebase hp he, scaled_rebase hp hf, ← Int.sub_mul, Int.natAbs_mul, Int.natAbs_natCast]

/-! ### The rounded code -/

/-- The unit in which a format rounds m × 2^e, as a power of two (R165). -/
def FFmt.unitExp (g : FFmt) (m : Nat) (e : Int) : Int := max ((bitLen m : Int) - 1 + e - g.fb) (1 - (g.bias : Int) - g.fb)

/-- The code of `M` units 2^q, which overflows to an infinity (R165). -/
def FFmt.codeOfUnits (g : FFmt) (neg : Bool) (q : Int) (M : Nat) : Nat :=
  if M = 0 then g.zero neg
  else if M < 2 ^ g.fb then g.pack neg 0 M
  else
    let M2 := if M = 2 ^ (g.fb + 1) then 2 ^ g.fb else M
    let q2 : Int := if M = 2 ^ (g.fb + 1) then q + 1 else q
    let ef := (q2 + g.fb + g.bias).toNat
    if ef > 2 ^ g.eb - 2 then g.infinity neg else g.pack neg ef (M2 - 2 ^ g.fb)

theorem FFmt.round_nearest {g : FFmt} (hf8 : g.f8 = false) (neg : Bool) (m : Nat) (e : Int) :
    g.round 0 false neg m e false = g.codeOfUnits neg (g.unitExp m e)
      (nearestDiv neg (m * 2 ^ (e - g.unitExp m e).toNat) (2 ^ (g.unitExp m e - e).toNat)) := by
  simp only [FFmt.round, hf8, FFmt.overflow]
  rfl

/-- What a normal code is worth, and its parity. -/
theorem FFmt.normal_code {g : FFmt} (hf8 : g.f8 = false) (heb : 1 ≤ g.eb) (hfb : 1 ≤ g.fb) {neg : Bool} {q : Int} {M : Nat}
    (hq : 1 - (g.bias : Int) - g.fb ≤ q) (hlo : 2 ^ g.fb ≤ M) (hhi : M < 2 ^ (g.fb + 1)) {s : Bool} {mr : Nat} {er : Int}
    (he : (q + g.fb + g.bias).toNat ≤ 2 ^ g.eb - 2) (h : g.decode (g.pack neg (q + g.fb + g.bias).toNat (M - 2 ^ g.fb)) = .fin s mr er) :
    (s = neg ∧ mr = M ∧ er = q) ∧ g.pack neg (q + g.fb + g.bias).toNat (M - 2 ^ g.fb) % 2 = M % 2 := by
  rw [Nat.pow_succ] at hhi
  have hne : (q + g.fb + g.bias).toNat ≠ 0 := by omega
  rw [FFmt.decode_pack hf8 he heb (by omega), if_neg hne, Nat.add_sub_cancel' hlo, Int.toNat_of_nonneg (by omega)] at h
  cases h
  refine ⟨⟨rfl, rfl, by omega⟩, ?_⟩
  obtain ⟨k, hk⟩ := Nat.exists_eq_add_of_le hfb
  have heven : 2 ^ g.fb % 2 = 0 := by rw [hk, Nat.pow_add, Nat.pow_one, Nat.mul_mod_right]
  rw [FFmt.pack_mod_two hfb]
  omega

theorem FFmt.decode_codeOfUnits {g : FFmt} (hf8 : g.f8 = false) (heb : 1 ≤ g.eb) (hfb : 1 ≤ g.fb) {neg : Bool} {q : Int} {M : Nat}
    (hq : 1 - (g.bias : Int) - g.fb ≤ q) (hM : M ≤ 2 ^ (g.fb + 1)) (hsub : M < 2 ^ g.fb → q = 1 - (g.bias : Int) - g.fb)
    {s : Bool} {mr : Nat} {er : Int} (h : g.decode (g.codeOfUnits neg q M) = .fin s mr er) :
    (∀ p, p ≤ q → scaled s mr er p = scaled neg M q p) ∧ g.codeOfUnits neg q M % 2 = M % 2 := by
  have hpos : 0 < 2 ^ g.fb := Nat.two_pow_pos _
  have hdouble : 2 ^ (g.fb + 1) = 2 * 2 ^ g.fb := by rw [Nat.pow_succ, Nat.mul_comm]
  unfold FFmt.codeOfUnits at h ⊢
  by_cases hzero : M = 0
  · rw [if_pos hzero, FFmt.zero_eq_pack hf8] at h ⊢
    rw [FFmt.decode_pack hf8 (Nat.zero_le _) heb hpos, if_pos rfl] at h
    cases h
    exact ⟨fun p _ => by simp [hzero, scaled], by rw [FFmt.pack_mod_two hfb, hzero]⟩
  rw [if_neg hzero] at h ⊢
  by_cases hsmall : M < 2 ^ g.fb
  · rw [if_pos hsmall] at h ⊢
    rw [FFmt.decode_pack hf8 (Nat.zero_le _) heb hsmall, if_pos rfl, ← hsub hsmall] at h
    cases h
    exact ⟨fun _ _ => rfl, FFmt.pack_mod_two hfb⟩
  rw [if_neg hsmall] at h ⊢
  by_cases hcarry : M = 2 ^ (g.fb + 1)
  · simp only [if_pos hcarry] at h ⊢
    split at h
    · rw [FFmt.decode_infinity hf8] at h; cases h
    · next hov =>
      rw [if_neg hov]
      obtain ⟨⟨rfl, rfl, rfl⟩, hmod⟩ := FFmt.normal_code hf8 heb hfb (by omega) (Nat.le_refl _) (by omega) (by omega) h
      refine ⟨fun p hp => ?_, hmod.trans ?_⟩
      · have hpow : 2 ^ g.fb * 2 ^ (q + 1 - p).toNat = M * 2 ^ (q - p).toNat := by
          rw [hcarry, ← Nat.pow_add, ← Nat.pow_add]
          congr 1
          omega
        rw [scaled_eq, scaled_eq]
        congr 1
        exact_mod_cast hpow
      · obtain ⟨k, hk⟩ := Nat.exists_eq_add_of_le hfb
        rw [hcarry, hdouble, hk, Nat.pow_add, Nat.pow_one, Nat.mul_mod_right, Nat.mul_mod_right]
  · simp only [if_neg hcarry] at h ⊢
    split at h
    · rw [FFmt.decode_infinity hf8] at h; cases h
    · next hov =>
      rw [if_neg hov]
      obtain ⟨⟨rfl, rfl, rfl⟩, hmod⟩ := FFmt.normal_code hf8 heb hfb hq (by omega) (by omega) (by omega) h
      exact ⟨fun _ _ => rfl, hmod⟩

/-! ### The exact value in units -/

theorem bitLen_bounds {m : Nat} (hm : 0 < m) : 2 ^ (bitLen m - 1) ≤ m ∧ m < 2 ^ bitLen m ∧ 0 < bitLen m := by
  have hne : m ≠ 0 := Nat.ne_of_gt hm
  rw [bitLen, if_neg hne, Nat.add_sub_cancel]
  exact ⟨Nat.log2_self_le hne, Nat.lt_log2_self, Nat.succ_pos _⟩

section
variable {g : FFmt} {m : Nat} {e q p : Int}

/-- The dividend and divisor of the rounding are m × 2^e in units 2^q. -/
theorem dividend_mul (m : Nat) (hq : p ≤ q) (he : p ≤ e) :
    m * 2 ^ (e - q).toNat * 2 ^ (q - p).toNat = m * 2 ^ (e - p).toNat * 2 ^ (q - e).toNat := by
  rw [Nat.mul_assoc, Nat.mul_assoc, ← Nat.pow_add, ← Nat.pow_add]
  congr 2
  omega

/-- Where the unit is not the least of the format, the value fills its numeral: it is at least 2^fb units. -/
theorem FFmt.le_of_unitExp_ne (hm : 0 < m) (hq : p ≤ g.unitExp m e) (he : p ≤ e) (h : g.unitExp m e ≠ 1 - (g.bias : Int) - g.fb) :
    2 ^ g.fb * 2 ^ (g.unitExp m e - p).toNat ≤ m * 2 ^ (e - p).toNat := by
  obtain ⟨hlow, -, hlen⟩ := bitLen_bounds hm
  have hunit : g.unitExp m e = (bitLen m : Int) - 1 + e - g.fb := by unfold FFmt.unitExp at h ⊢; omega
  calc 2 ^ g.fb * 2 ^ (g.unitExp m e - p).toNat = 2 ^ (bitLen m - 1) * 2 ^ (e - p).toNat := by
        rw [← Nat.pow_add, ← Nat.pow_add]; congr 1; omega
    _ ≤ _ := Nat.mul_le_mul_right _ hlow

/-- The value has at most fb + 1 bits of units. -/
theorem FFmt.lt_of_unitExp (hm : 0 < m) (he : p ≤ e) : m * 2 ^ (e - p).toNat < 2 ^ (g.fb + 1) * 2 ^ (g.unitExp m e - p).toNat := by
  have hunit : (bitLen m : Int) - 1 + e - g.fb ≤ g.unitExp m e := Int.le_max_left _ _
  calc m * 2 ^ (e - p).toNat < 2 ^ bitLen m * 2 ^ (e - p).toNat := Nat.mul_lt_mul_of_pos_right (bitLen_bounds hm).2.1 (Nat.two_pow_pos _)
    _ ≤ _ := by rw [← Nat.pow_add, ← Nat.pow_add]; exact Nat.pow_le_pow_right (by decide) (by omega)

end

/-! ### Nearness of the rounded code -/

/-- A value whose exponent is no less than `q` is a signed number of units 2^q. -/
theorem scaled_eq_units (neg sc : Bool) {mc : Nat} {ec q p : Int} (hp : p ≤ q) (h : q ≤ ec) :
    ∃ k : Int, scaled sc mc ec p = signed neg (k * (2 ^ (q - p).toNat : Nat)) := by
  refine ⟨signed neg (scaled sc mc ec q), ?_⟩
  rw [scaled_rebase hp h, signed_mul]
  cases neg <;> simp [signed]

/-- The distance of a number of units from the exact value, in units of the divisor. -/
theorem dist_units {neg : Bool} {N D X U : Nat} (hunits : N * U = X * D) (k : Int) :
    (signed neg (k * U) - signed neg X).natAbs * D = (k * D - N).natAbs * U := by
  have hunits' : (N : Int) * U = X * D := by exact_mod_cast hunits
  have hfactor : (k * U - X) * (D : Int) = (k * D - N) * U := by
    rw [Int.sub_mul, Int.sub_mul, hunits', Int.mul_assoc, Int.mul_assoc, Int.mul_comm (U : Int)]
  have habs := congrArg Int.natAbs hfactor
  rwa [Int.natAbs_mul, Int.natAbs_mul, Int.natAbs_natCast, Int.natAbs_natCast, ← natAbs_signed neg (k * U - X), ← signed_sub] at habs

/-- A value below the binade of the exact one is farther from it than the binade's first number. -/
theorem dist_below {neg sc : Bool} {mc fb X : Nat} {ec q p : Int} (hmc : mc < 2 ^ (fb + 1)) (hp : p ≤ ec) (hec : ec < q)
    (hfill : 2 ^ fb * 2 ^ (q - p).toNat ≤ X) :
    (signed neg ((2 ^ fb : Nat) * (2 ^ (q - p).toNat : Nat)) - signed neg X).natAbs < (scaled sc mc ec p - signed neg X).natAbs := by
  have hmag : mc * 2 ^ (ec - p).toNat < 2 ^ fb * 2 ^ (q - p).toNat := by
    calc mc * 2 ^ (ec - p).toNat < 2 ^ (fb + 1) * 2 ^ (ec - p).toNat := Nat.mul_lt_mul_of_pos_right hmc (Nat.two_pow_pos _)
      _ ≤ _ := by rw [← Nat.pow_add, ← Nat.pow_add]; exact Nat.pow_le_pow_right (by decide) (by omega)
  have hvalue : scaled sc mc ec p = signed sc ((mc * 2 ^ (ec - p).toNat : Nat) : Int) := by rw [scaled_eq]; push_cast; rfl
  rw [hvalue, ← Int.natCast_mul]
  generalize mc * 2 ^ (ec - p).toNat = Y at *
  generalize 2 ^ fb * 2 ^ (q - p).toNat = F at *
  cases neg <;> cases sc <;> simp only [signed, Bool.false_eq_true, if_true, if_false] <;> omega

/-- No finite value of the format is nearer to m × 2^e than the rounded one; one as near and different makes its code even (R165):
in units 2^p no larger than any of the values needs. -/
theorem FFmt.round_nearest_of_finite {g : FFmt} (hf8 : g.f8 = false) (heb : 1 ≤ g.eb) (hfb : 1 ≤ g.fb) {neg : Bool} {m : Nat} {e : Int} (hm : 0 < m)
    {sr sc : Bool} {mr mc : Nat} {er ec : Int} {c : Nat} (hr : g.decode (g.round 0 false neg m e false) = .fin sr mr er)
    (hc : g.decode c = .fin sc mc ec) {p : Int} (hpq : p ≤ g.unitExp m e) (hpe : p ≤ e) (hpc : p ≤ ec) :
    (scaled sr mr er p - scaled neg m e p).natAbs ≤ (scaled sc mc ec p - scaled neg m e p).natAbs ∧
      ((scaled sr mr er p - scaled neg m e p).natAbs = (scaled sc mc ec p - scaled neg m e p).natAbs → scaled sc mc ec p ≠ scaled sr mr er p →
        g.round 0 false neg m e false % 2 = 0) := by
  rw [FFmt.round_nearest hf8] at hr ⊢
  obtain ⟨hmc, hec⟩ := FFmt.bounds_of_decode_fin hf8 hc
  have hfill := FFmt.le_of_unitExp_ne (g := g) hm hpq hpe
  have hlen := FFmt.lt_of_unitExp (g := g) hm hpe
  have hleast : 1 - (g.bias : Int) - g.fb ≤ g.unitExp m e := Int.le_max_right _ _
  have hunits := dividend_mul m hpq hpe
  have hexact : scaled neg m e p = signed neg ((m * 2 ^ (e - p).toNat : Nat) : Int) := by rw [scaled_eq]; push_cast; rfl
  rw [hexact]
  generalize g.unitExp m e = q at *
  have hD : 0 < 2 ^ (q - e).toNat := Nat.two_pow_pos _
  have hU : 0 < 2 ^ (q - p).toNat := Nat.two_pow_pos _
  generalize m * 2 ^ (e - q).toNat = N at *
  generalize 2 ^ (q - e).toNat = D at *
  generalize m * 2 ^ (e - p).toNat = X at *
  have hnear := nearestDiv_nearest neg (N := N) hD
  have hfloor : N / D ≤ nearestDiv neg N D ∧ nearestDiv neg N D ≤ N / D + 1 := by unfold nearestDiv; split <;> omega
  generalize nearestDiv neg N D = M at *
  have hM : M ≤ 2 ^ (g.fb + 1) := by
    have hlt : N < 2 ^ (g.fb + 1) * D := Nat.lt_of_mul_lt_mul_right (a := 2 ^ (q - p).toNat) (by
      rw [hunits, Nat.mul_right_comm]
      exact Nat.mul_lt_mul_of_pos_right hlen hD)
    have := (Nat.div_lt_iff_lt_mul hD).2 hlt
    omega
  have hsub : M < 2 ^ g.fb → q = 1 - (g.bias : Int) - g.fb := fun hsmall => Classical.byContradiction fun hq0 => by
    have hle : 2 ^ g.fb * D ≤ N := Nat.le_of_mul_le_mul_right (by
      rw [hunits, Nat.mul_right_comm]
      exact Nat.mul_le_mul_right _ (hfill hq0)) hU
    have := (Nat.le_div_iff_mul_le hD).2 hle
    omega
  obtain ⟨hval, hmod⟩ := FFmt.decode_codeOfUnits hf8 heb hfb hleast hM hsub hr
  have hvalM : scaled sr mr er p = signed neg ((M : Int) * (2 ^ (q - p).toNat : Nat)) := by rw [hval p hpq, scaled_eq]; push_cast; rfl
  rw [hmod, hvalM]
  have hdM := dist_units (neg := neg) hunits M
  by_cases hle : q ≤ ec
  · obtain ⟨k, hk⟩ := scaled_eq_units neg sc (mc := mc) hpq hle
    obtain ⟨hmin, htie⟩ := hnear k
    have hdk := dist_units (neg := neg) hunits k
    rw [hk]
    refine ⟨Nat.le_of_mul_le_mul_right (hdM ▸ hdk ▸ Nat.mul_le_mul_right _ hmin) hD, fun heq hne => htie ?_ fun hkM => hne (by rw [hkM])⟩
    rw [heq, hdk] at hdM
    exact (Nat.eq_of_mul_eq_mul_right hU hdM).symm
  · have hbelow := dist_below (neg := neg) (sc := sc) hmc hpc (by omega) (hfill (by omega))
    have hdfirst := dist_units (neg := neg) hunits ((2 ^ g.fb : Nat) : Int)
    have hfirst : (signed neg ((M : Int) * (2 ^ (q - p).toNat : Nat)) - signed neg X).natAbs ≤
        (signed neg (((2 ^ g.fb : Nat) : Int) * (2 ^ (q - p).toNat : Nat)) - signed neg X).natAbs :=
      Nat.le_of_mul_le_mul_right (hdM ▸ hdfirst ▸ Nat.mul_le_mul_right _ (hnear ((2 ^ g.fb : Nat) : Int)).1) hD
    have hstrict := Nat.lt_of_le_of_lt hfirst hbelow
    exact ⟨Nat.le_of_lt hstrict, fun heq => absurd heq (Nat.ne_of_lt hstrict)⟩

/-- Settles O8: no finite code is nearer than the rounded one, by the division that rounds and the bounds of the format's codes. -/
theorem roundsToNearestEven : Obligations.RoundsToNearestEven := by
  intro g hg neg m e hm r sr mr er hr c _ sc mc ec hc q dr dc
  have hfmt : g.f8 = false ∧ 1 ≤ g.eb ∧ 1 ≤ g.fb := by rcases hg with rfl | rfl | rfl <;> decide
  obtain ⟨hf8, heb, hfb⟩ := hfmt
  have hqe : q ≤ e := Int.min_le_left _ _
  have hqr : q ≤ er := Int.le_trans (Int.min_le_right _ _) (Int.min_le_left _ _)
  have hqc : q ≤ ec := Int.le_trans (Int.min_le_right _ _) (Int.min_le_right _ _)
  have hpq : min q (g.unitExp m e) ≤ q := Int.min_le_left _ _
  obtain ⟨hle, htie⟩ := FFmt.round_nearest_of_finite hf8 heb hfb hm hr hc (p := min q (g.unitExp m e)) (Int.min_le_right _ _)
    (Int.le_trans hpq hqe) (Int.le_trans hpq hqc)
  rw [natAbs_scaled_rebase hpq hqr hqe, natAbs_scaled_rebase hpq hqc hqe] at hle htie
  refine ⟨Nat.le_of_mul_le_mul_right hle (Nat.two_pow_pos _), fun heq hne => htie (congrArg (· * _) heq) fun hval => hne ?_⟩
  rw [scaled_rebase hpq hqc, scaled_rebase hpq hqr] at hval
  exact Int.eq_of_mul_eq_mul_right (Int.natCast_ne_zero.2 (Nat.ne_of_gt (Nat.two_pow_pos _))) hval

end Sys2Proof.Machine
end

section
/-! SUPPORT. Elements of lanes (R164, R186): what each element of a lane that `laneOp` makes holds, and the operations on
integer values as operations on bit vectors of the element's width. -/

namespace Sys2Proof.Machine

/-! ### The fields of a word that executes -/

/-- A word that executes has legal fields of its own (R69 to R77). -/
theorem State.executes_wf {s : State} {i : Instr} {w : WordInfo} (hw : wordInfo s i = some w) (h : s.executes i = true) : w.wf = true := by
  simp only [State.executes, hw, Bool.and_eq_true, Option.isNone_iff_eq_none] at h
  obtain ⟨⟨⟨-, hfault⟩, -⟩, -⟩ := h
  cases hwf : w.wf with
  | true => rfl
  | false => simp [State.wordFault, hwf] at hfault

/-! ### Elements of a packed lane -/

theorem tyWidth_cases (ty : Nat) : tyWidth ty = 32 ∨ tyWidth ty = 16 ∨ tyWidth ty = 8 := by
  unfold tyWidth
  split
  · exact .inl rfl
  · split
    · exact .inr (.inl rfl)
    · exact .inr (.inr rfl)

theorem packElems_lt (w : Nat) (l : List Nat) : packElems w l < 2 ^ (w * l.length) := by
  induction l with
  | nil => simp [packElems]
  | cons x t ih =>
    have hx : x % 2 ^ w < 2 ^ w := Nat.mod_lt _ (Nat.two_pow_pos _)
    rw [packElems, List.length_cons, Nat.mul_succ, Nat.pow_add, Nat.mul_comm (2 ^ (w * t.length))]
    calc x % 2 ^ w + 2 ^ w * packElems w t < 2 ^ w * (packElems w t + 1) := by rw [Nat.mul_succ]; omega
      _ ≤ 2 ^ w * 2 ^ (w * t.length) := Nat.mul_le_mul_left _ ih

theorem packElems_bits (w : Nat) (l : List Nat) (i : Nat) : packElems w l / 2 ^ (w * i) % 2 ^ w = l.getD i 0 % 2 ^ w := by
  induction l generalizing i with
  | nil => simp [packElems]
  | cons x t ih =>
    cases i with
    | zero => simp [packElems]
    | succ i =>
      rw [Nat.mul_succ, Nat.add_comm, Nat.pow_add, ← Nat.div_div_eq_div_mul, packElems, Nat.add_mul_div_left _ _ (Nat.two_pow_pos _),
        Nat.div_eq_of_lt (Nat.mod_lt _ (Nat.two_pow_pos _)), Nat.zero_add, ih]
      rfl

/-- An element of a lane that is packed of all its elements. -/
theorem el_packElems {w : Nat} (l : List Nat) (i : Nat) (hlen : w * l.length = 32) :
    el w (BitVec.ofNat 32 (packElems w l)) i = BitVec.ofNat w (l.getD i 0) := by
  have hlt := packElems_lt w l
  rw [hlen] at hlt
  apply BitVec.eq_of_toNat_eq
  rw [el_toNat, BitVec.toNat_ofNat, BitVec.toNat_ofNat, Nat.mod_eq_of_lt hlt, bits, packElems_bits]

theorem tyWidth_mul (ty : Nat) : tyWidth ty * (32 / tyWidth ty) = 32 := by
  rcases tyWidth_cases ty with h | h | h <;> rw [h]

theorem tyWidth_pos (ty : Nat) : 0 < tyWidth ty := by
  rcases tyWidth_cases ty with h | h | h <;> rw [h] <;> decide

/-- The model's element of a lane is the value of the element's bits. -/
theorem elem_eq_elVal {w : Nat} (hw : 0 < w) (g : Bool) (x : Word) (i : Nat) : elem w g x i = elVal g (el w x i) := by
  have hbits : (el w x i).toNat = x.toNat / 2 ^ (w * i) % 2 ^ w := el_toNat w x i
  obtain ⟨k, rfl⟩ := Nat.exists_eq_add_of_le' hw
  unfold elem elVal elem.bits'
  rw [← hbits]
  cases g with
  | false => rfl
  | true =>
    rw [BitVec.toInt_eq_toNat_cond]
    have hpow : 2 ^ (k + 1) = 2 * 2 ^ k := by rw [Nat.pow_succ, Nat.mul_comm]
    simp only [Nat.add_sub_cancel, Bool.true_and, decide_eq_true_eq, if_true, hpow]
    push_cast
    split <;> split <;> omega

theorem wrapTo_eq_toNat (w : Nat) (v : Int) : wrapTo w v = (BitVec.ofInt w v).toNat := by
  rw [wrapTo, BitVec.toNat_ofInt]
  norm_cast

/-- Each element of a lane that `laneOp` makes is its operation on the elements' values, modulo the element's range. -/
theorem el_laneOp {ty : Nat} (op : Int → Int → Int → Int) (x y z : Word) {i : Nat} (hi : i < 32 / tyWidth ty) :
    el (tyWidth ty) (laneOp ty op x y z) i = BitVec.ofInt (tyWidth ty)
      (op (elVal (tySigned ty) (el (tyWidth ty) x i)) (elVal (tySigned ty) (el (tyWidth ty) y i)) (elVal (tySigned ty) (el (tyWidth ty) z i))) := by
  unfold laneOp
  rw [el_packElems _ _ (by rw [List.length_map, List.length_range, tyWidth_mul])]
  simp only [List.getD_eq_getElem?_getD, List.getElem?_map, List.getElem?_range hi, Option.map_some, Option.getD_some, elem_eq_elVal (tyWidth_pos ty),
    wrapTo_eq_toNat, BitVec.ofNat_toNat, BitVec.setWidth_eq]

/-- An immediate stands in every element. -/
theorem el_immLane {ty : Nat} {imm : BitVec 10} {i : Nat} (hi : i < 32 / tyWidth ty) :
    el (tyWidth ty) (immLane ty true imm) i = if tySigned ty then imm.signExtend (tyWidth ty) else imm.setWidth (tyWidth ty) := by
  unfold immLane
  rw [el_packElems _ _ (by rw [List.length_replicate, tyWidth_mul])]
  simp only [List.getD_eq_getElem?_getD, List.getElem?_replicate, hi, if_true, Option.getD_some, wrapTo_eq_toNat, BitVec.ofNat_toNat,
    BitVec.setWidth_eq, Bool.true_and]
  cases tySigned ty with
  | true => rfl
  | false => exact BitVec.eq_of_toInt_eq (by simp [BitVec.toInt_setWidth])

/-! ### Values of elements -/

section
variable {w : Nat} {g : Bool}

@[simp] theorem ofInt_elVal (x : BitVec w) : BitVec.ofInt w (elVal g x) = x := by
  cases g
  · exact BitVec.ofInt_natCast .. |>.trans (BitVec.ofNat_toNat ..|>.trans (BitVec.setWidth_eq _))
  · exact BitVec.ofInt_toInt

theorem wrapTo_elVal (x : BitVec w) : wrapTo w (elVal g x) = x.toNat := by rw [wrapTo_eq_toNat, ofInt_elVal]

theorem ofInt_add_elVal (x y : BitVec w) : BitVec.ofInt w (elVal g x + elVal g y) = x + y := by
  rw [BitVec.ofInt_add, ofInt_elVal, ofInt_elVal]
theorem ofInt_sub_elVal (x y : BitVec w) : BitVec.ofInt w (elVal g x - elVal g y) = x - y := by
  rw [Int.sub_eq_add_neg, BitVec.ofInt_add, BitVec.ofInt_neg, ofInt_elVal, ofInt_elVal, BitVec.sub_eq_add_neg]
theorem ofInt_mul_elVal (x y : BitVec w) : BitVec.ofInt w (elVal g x * elVal g y) = x * y := by
  rw [BitVec.ofInt_mul, ofInt_elVal, ofInt_elVal]

theorem ofInt_min_elVal (x y : BitVec w) : BitVec.ofInt w (min (elVal g x) (elVal g y)) = if elVal g y < elVal g x then y else x := by
  split
  · next h => rw [Int.min_eq_right (Int.le_of_lt h), ofInt_elVal]
  · next h => rw [Int.min_eq_left (Int.not_lt.1 h), ofInt_elVal]

theorem ofInt_max_elVal (x y : BitVec w) : BitVec.ofInt w (max (elVal g x) (elVal g y)) = if elVal g x < elVal g y then y else x := by
  split
  · next h => rw [Int.max_eq_right (Int.le_of_lt h), ofInt_elVal]
  · next h => rw [Int.max_eq_left (Int.not_lt.1 h), ofInt_elVal]

theorem ofInt_absd_elVal (x y : BitVec w) :
    BitVec.ofInt w ((elVal g x - elVal g y).natAbs : Int) = if elVal g x < elVal g y then y - x else x - y := by
  split
  · next h => rw [Int.ofNat_natAbs_of_nonpos (by omega), Int.neg_sub, ofInt_sub_elVal]
  · next h => rw [Int.natAbs_of_nonneg (by omega), ofInt_sub_elVal]

theorem ofInt_shl_elVal (x : BitVec w) (k : Nat) : BitVec.ofInt w (elVal g x * 2 ^ k) = x <<< k := by
  rw [BitVec.ofInt_mul, ofInt_elVal, BitVec.shiftLeft_eq_mul_twoPow]
  congr 1
  rw [show ((2 : Int) ^ k) = ((2 ^ k : Nat) : Int) by push_cast; rfl, BitVec.ofInt_natCast]
  exact BitVec.eq_of_toNat_eq (by simp [BitVec.toNat_twoPow, ← Nat.pow_mod])

theorem ofInt_asr_elVal (x : BitVec w) (k : Nat) : BitVec.ofInt w (asr (elVal g x) k) = if g then x.sshiftRight k else x >>> k := by
  unfold asr elVal
  cases g with
  | true =>
    rw [if_pos rfl, if_pos rfl, BitVec.sshiftRight, Int.shiftRight_eq_div_pow]
    norm_cast
  | false =>
    apply BitVec.eq_of_toNat_eq
    rw [if_neg Bool.false_ne_true, if_neg Bool.false_ne_true, BitVec.toNat_ofInt, BitVec.toNat_ushiftRight, Nat.shiftRight_eq_div_pow]
    norm_cast
    exact Nat.mod_eq_of_lt (Nat.lt_of_le_of_lt (Nat.div_le_self _ _) x.isLt)

/-- Rotating an unsigned element (R186). -/
theorem ofNat_rotl (x : BitVec w) {k : Nat} (hk : k < w) : BitVec.ofNat w (rotl w x.toNat k) = x.rotateLeft k := by
  have hsplit : 2 ^ w = 2 ^ (w - k) * 2 ^ k := by rw [← Nat.pow_add]; congr 1; omega
  have hhigh : x.toNat * 2 ^ k % 2 ^ w = 2 ^ k * (x.toNat % 2 ^ (w - k)) := by rw [hsplit, Nat.mul_mod_mul_right, Nat.mul_comm]
  have hlow : x.toNat / 2 ^ (w - k) < 2 ^ k := Nat.div_lt_of_lt_mul (by rw [← hsplit]; exact x.isLt)
  apply BitVec.eq_of_toNat_eq
  rw [BitVec.toNat_ofNat, rotl, Nat.mod_mod, BitVec.toNat_rotateLeft, Nat.mod_eq_of_lt hk, Nat.shiftLeft_eq, Nat.shiftRight_eq_div_pow, hhigh,
    ← Nat.two_pow_add_eq_or_of_lt hlow, ← hhigh, Nat.add_mod, Nat.mod_eq_of_lt (Nat.lt_of_le_of_lt (Nat.div_le_self _ _) x.isLt)]
  refine Nat.mod_eq_of_lt ?_
  have hrest : x.toNat % 2 ^ (w - k) < 2 ^ (w - k) := Nat.mod_lt _ (Nat.two_pow_pos _)
  rw [hhigh, hsplit, Nat.mul_comm (2 ^ (w - k))]
  calc 2 ^ k * (x.toNat % 2 ^ (w - k)) + x.toNat / 2 ^ (w - k) < 2 ^ k * (x.toNat % 2 ^ (w - k) + 1) := by rw [Nat.mul_succ]; omega
    _ ≤ 2 ^ k * 2 ^ (w - k) := Nat.mul_le_mul_left _ hrest

theorem popTo_eq (n v : Nat) : popTo n v = ((List.range n).filter v.testBit).length := by
  induction n generalizing v with
  | zero => rfl
  | succ n ih =>
    rw [popTo, ih, List.range_succ_eq_map, List.filter_cons, List.filter_map, Nat.testBit_zero]
    have hsucc : (v.testBit ∘ Nat.succ) = (v / 2).testBit := funext fun i => by simp [Nat.testBit_succ]
    rw [hsucc]
    split
    · next h => simp_all; omega
    · next h => simp_all

/-- Bits beyond an element's width count for nothing. -/
theorem popTo_toNat {x : BitVec w} {n : Nat} (hn : w ≤ n) : popTo n x.toNat = ((List.range w).filter x.getLsbD).length := by
  obtain ⟨k, rfl⟩ := Nat.exists_eq_add_of_le hn
  have hhigh : (List.filter x.toNat.testBit (List.map (fun i => w + i) (List.range k))) = [] := by
    simp only [List.filter_eq_nil_iff, List.mem_map]
    rintro _ ⟨i, -, rfl⟩
    rw [Nat.testBit_lt_two_pow (Nat.lt_of_lt_of_le x.isLt (Nat.pow_le_pow_right (by decide) (Nat.le_add_right w i)))]
    decide
  rw [popTo_eq, List.range_add, List.filter_append, hhigh, List.append_nil]
  rfl

theorem bitLen_eq {n k : Nat} (hlo : 2 ^ k ≤ n) (hhi : n < 2 ^ (k + 1)) : bitLen n = k + 1 := by
  have hn : n ≠ 0 := Nat.ne_of_gt (Nat.lt_of_lt_of_le (Nat.two_pow_pos k) hlo)
  rw [bitLen, if_neg hn, (Nat.log2_eq_iff hn).2 ⟨hlo, hhi⟩]

/-- Leading zeros of an unsigned element (R189). -/
theorem ofNat_clzTo (hw : 0 < w) (x : BitVec w) : BitVec.ofNat w (clzTo w x.toNat) = x.clz := by
  apply BitVec.eq_of_toNat_eq
  rw [clzTo, Nat.mod_eq_of_lt x.isLt, BitVec.toNat_ofNat]
  have hself : w < 2 ^ w := Nat.lt_two_pow_self
  rw [Nat.mod_eq_of_lt (Nat.lt_of_le_of_lt (Nat.sub_le _ _) hself)]
  by_cases hx : x = 0#w
  · have hclz : x.clz.toNat = w := by rw [BitVec.clz_eq_iff_eq_zero.2 hx]; simp [Nat.mod_eq_of_lt hself]
    rw [hclz, hx]
    rfl
  · have hlt : x.clz.toNat < w := by simpa [BitVec.lt_def, Nat.mod_eq_of_lt hself] using BitVec.clz_lt_iff_ne_zero.2 hx
    have hlo := BitVec.two_pow_sub_clz_le_toNat_of_ne_zero hw hx
    have hhi := BitVec.toNat_lt_two_pow_sub_clz (x := x)
    have hlen : bitLen x.toNat = w - 1 - x.clz.toNat + 1 :=
      bitLen_eq hlo (Nat.lt_of_lt_of_eq hhi (by congr 1; omega))
    omega

end

/-! ### Words that write lanes from the lanes of their sources -/

section
variable {s : State} {i : Instr} {caps : List Nat} {rdD : Bool}

/-- A word of one vector source writes the lanes of A with what its operation makes of it (R178). -/
theorem State.yields_vr2 {f : FmtVR} {op : FEnv → Word → Word → Word} (hw : wordInfo s i = some (vr2Info i caps rdD f))
    (he : exec i s = vr2 i caps rdD f op s) :
    s.yields i fun t => s.WroteV t f.vd (s.lanes f.gp f.gn) fun l => op s.fenv (s.rdV f.va l) (s.rdV f.vd l) := by
  unfold vr2 at he
  exact State.yields_wroteV hw he fun t ht => by simp only [ht.lanes, ht.fenv, ht.rdV]

/-- A word with an immediate writes the lanes of MASK (R187). -/
theorem State.yields_vi2 {f : FmtVI} {op : Word → Word} (hw : wordInfo s i = some (vecInfo i caps [f.vd, f.va] [f.va]))
    (he : exec i s = vi2 i caps f op s) :
    s.yields i fun t => s.WroteV t f.vd s.mask fun l => op (s.rdV f.va l) := by
  unfold vi2 at he
  exact State.yields_wroteV hw he fun t ht => by simp only [ht.mask, ht.rdV]

/-- What a word yields may be stated less precisely, of a word whose own fields are legal. -/
theorem State.yields_mono {w : WordInfo} {P Q : State → Prop} (hw : wordInfo s i = some w) (h : s.yields i P)
    (hPQ : w.wf = true → ∀ t, P t → Q t) : s.yields i Q := fun hx hu =>
  let ⟨t, he, hp⟩ := h hx hu
  ⟨t, he, hPQ (State.executes_wf hw hx) t hp⟩

/-- `op` on the values of elements is `opb` on the elements, at the width and signedness of type `ty`. -/
def OpOnElems (ty : Nat) (op : Int → Int → Int → Int) (opb : Bool → (w : Nat) → BitVec w → BitVec w → BitVec w → BitVec w) : Prop :=
  ∀ x y z : BitVec (tyWidth ty), BitVec.ofInt (tyWidth ty) (op (elVal (tySigned ty) x) (elVal (tySigned ty) y) (elVal (tySigned ty) z)) =
    opb (tySigned ty) (tyWidth ty) x y z

/-- The same of an operation on one element. -/
def OpOnElem (ty : Nat) (op : Int → Int) (opb : Bool → (w : Nat) → BitVec w → BitVec w) : Prop :=
  ∀ x : BitVec (tyWidth ty), BitVec.ofInt (tyWidth ty) (op (elVal (tySigned ty) x)) = opb (tySigned ty) (tyWidth ty) x

/-- An integer word on two or three sources makes every element of every lane of A (R186). -/
theorem State.yields_vInt {f : FmtVR} {op : Int → Int → Int → Int} {opb : Bool → (w : Nat) → BitVec w → BitVec w → BitVec w → BitVec w}
    (hw : wordInfo s i = some (vr3Info i (capInt f.ty) rdD f)) (he : exec i s = vInt i f rdD op s)
    (hop : i.wf = true → OpOnElems f.ty.toNat op opb) : s.yields i fun t => s.VrElems t f opb := by
  unfold vInt at he
  exact State.yields_mono hw (State.yields_vr3 hw he) fun hwf t ht => ⟨_, ht, fun l _ j hj => by rw [el_laneOp _ _ _ _ hj, hop hwf]⟩

/-- An integer word on one source. -/
theorem State.yields_vInt1 {f : FmtVR} {op : Int → Int} {opb : Bool → (w : Nat) → BitVec w → BitVec w}
    (hw : wordInfo s i = some (vr2Info i caps rdD f)) (he : exec i s = vr2 i caps rdD f (fun _ x _ => laneOp f.ty.toNat (fun a _ _ => op a) x 0 0) s)
    (hop : i.wf = true → OpOnElem f.ty.toNat op opb) : s.yields i fun t => s.VrElems t f fun g w x _ _ => opb g w x :=
  State.yields_mono hw (State.yields_vr2 hw he) fun hwf _ ht => ⟨_, ht, fun _ _ _ hj => (el_laneOp _ _ _ _ hj).trans (hop hwf _)⟩

/-- An integer word on one source and an immediate (R187). -/
theorem State.yields_vIntImm {f : FmtVI} {op : Int → Int} {opb : Bool → (w : Nat) → BitVec w → BitVec w}
    (hw : wordInfo s i = some (vecInfo i caps [f.vd, f.va] [f.va]))
    (he : exec i s = vi2 i caps f (fun x => laneOp f.ty.toNat (fun a _ _ => op a) x 0 0) s) (hop : OpOnElem f.ty.toNat op opb) :
    s.yields i fun t => s.ViElems t f opb :=
  State.yields_mono hw (State.yields_vi2 hw he) fun _ _ ht => ⟨_, ht, fun _ _ _ hj => (el_laneOp _ _ _ _ hj).trans (hop _)⟩

end

/-- The shift amount of an element is its bits modulo the width (R186). -/
theorem shAmt_elVal {ty : Nat} (y : BitVec (tyWidth ty)) : shAmt ty (elVal (tySigned ty) y) = y.toNat % tyWidth ty := by
  rw [shAmt, wrapTo_elVal]

theorem tyUns_unsigned {ty : BitVec 3} (h : tyUns ty = true) : tySigned ty.toNat = false := by
  revert ty; decide

/-- The value of an element of an unsigned type is its bits. -/
theorem elVal_toNat {w : Nat} {g : Bool} (hg : g = false) (x : BitVec w) : (elVal g x).toNat = x.toNat := by
  subst hg; rfl

theorem tyWidth_le (ty : Nat) : tyWidth ty ≤ 32 := by
  rcases tyWidth_cases ty with h | h | h <;> rw [h] <;> decide

theorem ofInt_add_toInt {n w : Nat} {g : Bool} (x : BitVec w) (v : BitVec n) :
    BitVec.ofInt w (elVal g x + v.toInt) = x + v.signExtend w := by
  rw [BitVec.ofInt_add, ofInt_elVal]; rfl

/-- Settles O1: each word is an operation on the values of elements, and so on the elements. -/
theorem vectorIntegerElements : Obligations.VectorIntegerElements := by
  intro s
  refine ⟨fun f => ?vadd, fun f => ?vsub, fun f => ?vadds, fun f => ?vsubs, fun f => ?vmul, fun f => ?vmulhi, fun f => ?vmad, fun f => ?vmin,
    fun f => ?vmax, fun f => ?vabsd, fun f => ?vshl, fun f => ?vshr, fun f => ?vrot, fun f => ?vpopc, fun f => ?vclz, fun f => ?vaddi,
    fun f => ?vshli, fun f => ?vshri⟩
  case vadd => exact State.yields_vInt rfl rfl fun _ x y _ => ofInt_add_elVal x y
  case vsub => exact State.yields_vInt rfl rfl fun _ x y _ => ofInt_sub_elVal x y
  case vadds => exact State.yields_vInt rfl rfl fun _ x y _ => rfl
  case vsubs => exact State.yields_vInt rfl rfl fun _ x y _ => rfl
  case vmul => exact State.yields_vInt rfl rfl fun _ x y _ => ofInt_mul_elVal x y
  case vmulhi => exact State.yields_vInt rfl rfl fun _ x y _ => rfl
  case vmad => exact State.yields_vInt rfl rfl fun _ x y z => by rw [BitVec.ofInt_add, ofInt_mul_elVal, ofInt_elVal]
  case vmin => exact State.yields_vInt rfl rfl fun _ x y _ => ofInt_min_elVal x y
  case vmax => exact State.yields_vInt rfl rfl fun _ x y _ => ofInt_max_elVal x y
  case vabsd => exact State.yields_vInt rfl rfl fun _ x y _ => ofInt_absd_elVal x y
  case vshl => exact State.yields_vInt rfl rfl fun _ x y _ => by rw [shAmt_elVal, ofInt_shl_elVal]
  case vshr => exact State.yields_vInt rfl rfl fun _ x y _ => by rw [shAmt_elVal, ofInt_asr_elVal]
  case vrot =>
    refine State.yields_vInt rfl rfl fun hwf x y _ => ?_
    have huns : tySigned f.ty.toNat = false := tyUns_unsigned (Bool.and_eq_true_iff.1 hwf).2
    rw [shAmt_elVal, elVal_toNat huns, BitVec.ofInt_natCast, ofNat_rotl x (Nat.mod_lt _ (tyWidth_pos _))]
  case vpopc =>
    refine State.yields_vInt1 rfl rfl fun hwf x => ?_
    have huns : tySigned f.ty.toNat = false := tyUns_unsigned (Bool.and_eq_true_iff.1 (Bool.and_eq_true_iff.1 hwf).1).2
    rw [elVal_toNat huns, BitVec.ofInt_natCast, popTo_toNat (tyWidth_le _)]
  case vclz =>
    refine State.yields_vInt1 rfl rfl fun hwf x => ?_
    have huns : tySigned f.ty.toNat = false := tyUns_unsigned (Bool.and_eq_true_iff.1 (Bool.and_eq_true_iff.1 hwf).1).2
    rw [elVal_toNat huns, BitVec.ofInt_natCast, ofNat_clzTo (tyWidth_pos _)]
  case vaddi => exact State.yields_vIntImm rfl rfl fun x => ofInt_add_toInt x f.imm
  case vshli => exact State.yields_vIntImm rfl rfl fun x => ofInt_shl_elVal x _
  case vshri => exact State.yields_vIntImm rfl rfl fun x => ofInt_asr_elVal x _

end Sys2Proof.Machine
end

section
/-! SUPPORT. The moves, logic, bit fields and lane movement of the VEC class (R182 to R194). -/

namespace Sys2Proof.Machine

/-! ### What the meaning of a word reads -/

namespace State.Entered

variable {s t : State} (h : s.Entered t)
include h

theorem ccrew : t.ccrew = { s.ccrew with threads := t.ccrew.threads } := by
  rw [h.crew, h.poison]

theorem chdr : t.chdr = s.chdr := by
  rw [State.chdr, h.ccrew, h.package]; rfl

theorem widBase : t.widBase = s.widBase := by
  rw [State.widBase, h.chdr, h.cur, h.ccrew]; rfl

end State.Entered

/-! ### Bit fields (R188) and bit reversal (R189) -/

theorem sext64_eq_signExtend (n v : Nat) : sext64 n v = (BitVec.ofNat n v).signExtend 64 := by
  have hval : (if n ≠ 0 && v % 2 ^ n ≥ 2 ^ (n - 1) then ((v % 2 ^ n : Nat) : Int) - 2 ^ n else ((v % 2 ^ n : Nat) : Int)) = (BitVec.ofNat n v).toInt := by
    rw [BitVec.toInt_eq_toNat_cond, BitVec.toNat_ofNat]
    cases n with
    | zero => simp [Nat.mod_one]
    | succ k =>
      have hpow : 2 ^ (k + 1) = 2 * 2 ^ k := by rw [Nat.pow_succ, Nat.mul_comm]
      simp only [Nat.add_sub_cancel, ne_eq, Nat.succ_ne_zero, not_false_eq_true, decide_true, Bool.true_and, decide_eq_true_eq, hpow]
      push_cast
      split <;> split <;> omega
  rw [BitVec.signExtend, ← hval]
  rfl

theorem sext32_eq_signExtend (n v : Nat) : sext32 n v = (BitVec.ofNat n v).signExtend 32 := by
  rw [sext32, sext64_eq_signExtend, BitVec.signExtend, BitVec.signExtend]
  apply BitVec.eq_of_toNat_eq
  simp only [BitVec.toNat_setWidth, BitVec.toNat_ofInt]
  omega

/-- The field of a value that R151 and R188 take out. -/
theorem ofNat_bits {w : Nat} (x : BitVec w) (pos e : Nat) : BitVec.ofNat e (bits x.toNat pos e) = (x >>> pos).setWidth e := by
  apply BitVec.eq_of_toNat_eq
  simp [bits, Nat.shiftRight_eq_div_pow]

theorem ofNat_mask {e pos : Nat} : BitVec.ofNat 32 ((2 ^ e - 1) * 2 ^ pos) = (BitVec.allOnes e).setWidth 32 <<< pos := by
  apply BitVec.eq_of_toNat_eq
  simp [Nat.shiftLeft_eq]

theorem brevTo_lt (n v : Nat) : brevTo n v < 2 ^ n := by
  induction n generalizing v with
  | zero => exact Nat.one_pos
  | succ n ih =>
    have hbit : v % 2 < 2 := Nat.mod_lt _ (by decide)
    have hrest := ih (v / 2)
    rw [brevTo, Nat.pow_succ]
    have hscaled : v % 2 * 2 ^ n ≤ 1 * 2 ^ n := Nat.mul_le_mul_right _ (by omega)
    omega

theorem brevTo_testBit (n v j : Nat) : (brevTo n v).testBit j = (decide (j < n) && v.testBit (n - 1 - j)) := by
  induction n generalizing v with
  | zero => simp [brevTo]
  | succ n ih =>
    rw [brevTo, Nat.mul_comm, Nat.testBit_two_pow_mul_add _ (brevTo_lt _ _), ih]
    rcases Nat.lt_trichotomy j n with h | rfl | h
    · obtain ⟨k, rfl⟩ := Nat.exists_eq_add_of_lt h
      have hsub : j + k + 1 - j = k + 1 := by omega
      simp [hsub, Nat.testBit_succ, show j < j + k + 1 by omega, show j < j + k + 1 + 1 by omega]
    · simp [Nat.testBit_zero]
    · have hbit : (v % 2).testBit (j - n) = false :=
        Nat.testBit_lt_two_pow (Nat.lt_of_lt_of_le (Nat.mod_lt _ (by decide)) (Nat.pow_le_pow_right (n := 2) (by decide) (show 1 ≤ j - n by omega)))
      simp [hbit, show ¬ j < n by omega, show ¬ j < n + 1 by omega]

theorem ofNat_brevTo (x : Word) : BitVec.ofNat 32 (brevTo 32 x.toNat) = x.reverse := by
  apply BitVec.eq_of_getLsbD_eq
  intro i hi
  rw [BitVec.getLsbD_ofNat, brevTo_testBit, BitVec.getLsbD_reverse, BitVec.getMsbD]
  simp [hi, BitVec.getLsbD]

theorem State.WroteV.congr {s t : State} {n : BitVec 6} {A : Word} {v v' : Nat → Word} (h : s.WroteV t n A v) (hv : ∀ l, v l = v' l) :
    s.WroteV t n A v' := (funext hv : v = v') ▸ h

/-- The field of a lane, extended by sign or by zeros (R188). -/
theorem sext32_bits (x y : Word) :
    sext32 (bfLen y) (bits x.toNat (bfPos y) (bfLen y)) = ((x >>> bfPos y).setWidth (bfLen y)).signExtend 32 := by
  rw [sext32_eq_signExtend, ofNat_bits]

theorem ofNat32_bits (x : Word) (pos e : Nat) : BitVec.ofNat 32 (bits x.toNat pos e) = ((x >>> pos).setWidth e).setWidth 32 := by
  rw [← ofNat_bits]
  apply BitVec.eq_of_toNat_eq
  simp [bits]

theorem bfPos_eq (y : Word) : bfPos y = y.toNat % 32 := by simp [bfPos, bits]

theorem bfLen_eq (y : Word) : bfLen y = min (min (y.toNat / 256 % 64) 32) (32 - y.toNat % 32) := by simp [bfLen, bfPos_eq, bits]

theorem bits_lt (v lo len : Nat) : bits v lo len < 2 ^ len := Nat.mod_lt _ (Nat.two_pow_pos _)

/-- The halves that `vhsel` packs (R191). -/
theorem el_bits_halves (x y : Word) (j k : Nat) :
    el 16 (BitVec.ofNat 32 (bits x.toNat (16 * j) 16 + 65536 * bits y.toNat (16 * k) 16)) 0 = el 16 x j ∧
      el 16 (BitVec.ofNat 32 (bits x.toNat (16 * j) 16 + 65536 * bits y.toNat (16 * k) 16)) 1 = el 16 y k := by
  obtain ⟨hlow, hhigh⟩ := bits_halves (bits_lt x.toNat (16 * j) 16) (bits_lt y.toNat (16 * k) 16)
  exact ⟨BitVec.eq_of_toNat_eq (by rw [el_toNat, el_toNat, hlow]), BitVec.eq_of_toNat_eq (by rw [el_toNat, el_toNat, hhigh])⟩

/-- The source lane of `vshfl`, with the mode in bits [9:8] of the immediate (R193). -/
theorem shflSrc_imm (imm : BitVec 10) (l : Nat) :
    shflSrc (bits imm.toNat 8 2) (bits imm.toNat 0 5) l = match imm.toNat / 256 with
      | 0 => Nat.xor l (imm.toNat % 32)
      | 1 => if l ≥ imm.toNat % 32 then l - imm.toNat % 32 else l
      | 2 => if l + imm.toNat % 32 ≤ 31 then l + imm.toNat % 32 else l
      | _ => imm.toNat % 32 := by
  have hmode : bits imm.toNat 8 2 = imm.toNat / 256 := Nat.mod_eq_of_lt (by omega)
  have hn : bits imm.toNat 0 5 = imm.toNat % 32 := by simp [bits]
  rw [hmode, hn]
  rfl

theorem immLane_word {ty : BitVec 3} {imm : BitVec 10} (h : ty.ule 1 = true) :
    immLane ty.toNat true imm = if ty = 0 then imm.signExtend 32 else imm.setWidth 32 := by
  have hwide : tyWidth ty.toNat = 32 := by revert ty; decide
  have hsign : tySigned ty.toNat = decide (ty = 0) := by revert ty; decide
  have hel := el_immLane (ty := ty.toNat) (imm := imm) (i := 0) (by rw [hwide]; decide)
  rw [hwide, hsign] at hel
  simpa [el] using hel

/-- Settles O2: the meaning of each word writes the lanes that its rule names. -/
theorem vectorMovesAndBits : Obligations.VectorMovesAndBits := by
  intro s
  refine ⟨fun f => ?vmov, fun f => ?vsel, fun f => ?vmovi, fun f => ?vmovs, fun f => ?vsr, fun f => ?vand, fun f => ?vor, fun f => ?vxor,
    fun f => ?vandn, fun f => ?vandi, fun f => ?vbfe, fun f => ?vbfi, fun f => ?vbrev, fun f => ?vhsel, fun f => ?vperm, fun f => ?vshfl, fun f => ?vwrl⟩
  case vmov => exact State.yields_vr2 (op := fun _ x _ => x) rfl rfl
  case vsel =>
    have he : exec (.vsel f) s = execVsel f s := rfl
    unfold execVsel at he
    exact State.yields_wroteV rfl he fun t ht => by simp only [ht.mask, ht.guard, ht.rdV]
  case vmovi =>
    have he : exec (.vmovi f) s = execVmovi f s := rfl
    unfold execVmovi at he
    exact State.yields_mono rfl (State.yields_wroteV rfl he fun t ht => by rw [ht.mask])
      fun _ _ ht => ⟨_, ht, fun _ _ _ hj => el_immLane hj⟩
  case vmovs =>
    have he : exec (.vmovs f) s = execVmovs f s := rfl
    unfold execVmovs at he
    exact State.yields_wroteV rfl he fun t ht => by simp only [ht.mask, ht.rdS]
  case vsr =>
    have he : exec (.vsr f) s = execVsr f s := rfl
    unfold execVsr at he
    refine State.yields_mono rfl (State.yields_wroteV rfl he fun t ht => by simp only [ht.mask, ht.widBase, ht.chdr]; rfl)
      fun _ _ ht => ⟨_, ht, fun l hl => ⟨fun h => ?_, fun h => ?_, fun h => ?_, fun k h hk => ?_⟩⟩
    · rw [h]; rfl
    · rw [h]; rfl
    · rw [h]; rfl
    · have hnum : f.x10.toNat = k + 3 := by rw [h, BitVec.toNat_ofNat]; omega
      simp only [hnum, widField, widLow, bits, Nat.add_sub_cancel, List.sum_eq_foldl]
  case vand => exact State.yields_vr3 (op := fun _ x y _ => x &&& y) rfl rfl
  case vor => exact State.yields_vr3 (op := fun _ x y _ => x ||| y) rfl rfl
  case vxor => exact State.yields_vr3 (op := fun _ x y _ => x ^^^ y) rfl rfl
  case vandn => exact State.yields_vr3 (op := fun _ x y _ => x &&& ~~~y) rfl rfl
  case vandi =>
    refine State.yields_mono rfl (State.yields_vi2 (op := fun x => x &&& immLane f.ty.toNat true f.imm) rfl rfl) fun hwf _ ht => ht.congr fun l => ?_
    rw [immLane_word hwf]
  case vbfe =>
    have he : exec (.vbfe f) s = execVbfe f s := rfl
    unfold execVbfe at he
    
    refine State.yields_mono rfl (State.yields_vr3 rfl he) fun _ _ ht => ht.congr fun l => ?_
    simp only [sext32_bits, ofNat32_bits, beq_iff_eq]
    rw [bfLen_eq, bfPos_eq]
  case vbfi =>
    have he : exec (.vbfi f) s = execVbfi f s := rfl
    unfold execVbfi at he
    
    refine State.yields_mono rfl (State.yields_vr3 rfl he) fun _ _ ht => ht.congr fun l => ?_
    rw [ofNat_mask, bfLen_eq, bfPos_eq]
  case vbrev =>
    have he : exec (.vbrev f) s = execVbrev f s := rfl
    unfold execVbrev at he
    
    exact State.yields_mono rfl (State.yields_vr2 rfl he) fun _ _ ht => ht.congr fun l => ofNat_brevTo _
  case vhsel =>
    have he : exec (.vhsel f) s = execVhsel f s := rfl
    unfold execVhsel at he
    refine State.yields_mono rfl (State.yields_wroteV rfl he fun t ht => by simp only [ht.mask, ht.rdV]; rfl) fun _ _ ht => ⟨_, ht, fun l hl => ?_⟩
    have hlow : bits f.x4.toNat 0 2 = f.x4.toNat % 4 := by simp [bits]
    have hhigh : bits f.x4.toNat 2 2 = f.x4.toNat / 4 := Nat.mod_eq_of_lt (by omega)
    rw [hlow, hhigh]
    exact el_bits_halves _ _ _ _
  case vperm =>
    have he : exec (.vperm f) s = execVperm f s := rfl
    unfold execVperm at he
    exact State.yields_wroteV rfl he fun t ht => by simp only [ht.lanes, ht.rdV]
  case vshfl =>
    have he : exec (.vshfl f) s = execVshfl f s := rfl
    unfold execVshfl at he
    exact State.yields_mono rfl (State.yields_wroteV rfl he fun t ht => by simp only [ht.mask, ht.rdV]) fun _ _ ht => ht.congr fun l =>
      congrArg (s.rdV f.va) (shflSrc_imm f.imm l)
  case vwrl =>
    have he : exec (.vwrl f) s = execVwrl f s := rfl
    unfold execVwrl at he
    exact State.yields_wroteV rfl he fun t ht => by simp only [ht.mask, ht.rdS, bits, Nat.pow_zero, Nat.div_one, Nat.reducePow]
end Sys2Proof.Machine
end

section
/-! SUPPORT. The float words of the VEC class (R201, R203 to R206): every result is a code of its format. -/

namespace Sys2Proof.Machine

/-! ### Results are codes of the format -/

/-- What the formats of the float types have in common. -/
structure FFmt.Vector (g : FFmt) : Prop where
  f8 : g.f8 = false
  eb : 2 ≤ g.eb
  fb : 1 ≤ g.fb

theorem tyFmt_vector (ty : Nat) : (tyFmt ty).Vector := by
  rcases tyFmt_cases ty with h | h | h <;> rw [h] <;> exact ⟨rfl, by decide, by decide⟩

section
variable {g : FFmt} (hg : g.Vector)
include hg

omit hg in
theorem FFmt.pack_lt {neg : Bool} {e m : Nat} (he : e < 2 ^ g.eb) (hm : m < 2 ^ g.fb) : g.pack neg e m < 2 ^ g.width := by
  have hneg : neg.toNat ≤ 1 := Bool.toNat_le neg
  have hhigh : neg.toNat * 2 ^ g.eb + e + 1 ≤ 2 * 2 ^ g.eb := by
    have hscaled : neg.toNat * 2 ^ g.eb ≤ 1 * 2 ^ g.eb := Nat.mul_le_mul_right _ hneg
    omega
  rw [FFmt.pack_eq, FFmt.width, Nat.pow_add, Nat.pow_add]
  calc (neg.toNat * 2 ^ g.eb + e) * 2 ^ g.fb + m < (neg.toNat * 2 ^ g.eb + e + 1) * 2 ^ g.fb := by rw [Nat.succ_mul]; omega
    _ ≤ 2 * 2 ^ g.eb * 2 ^ g.fb := Nat.mul_le_mul_right _ hhigh

theorem FFmt.two_pow_eb : 4 ≤ 2 ^ g.eb := Nat.pow_le_pow_right (n := 2) (by decide) hg.eb

theorem FFmt.two_pow_fb : 2 ^ g.fb = 2 * 2 ^ (g.fb - 1) := by
  rw [← Nat.pow_succ', Nat.succ_eq_add_one, Nat.sub_add_cancel hg.fb]

theorem FFmt.zero_lt (neg : Bool) : g.zero neg < 2 ^ g.width := by
  rw [FFmt.zero_eq_pack hg.f8]
  exact FFmt.pack_lt (Nat.two_pow_pos _) (Nat.two_pow_pos _)

omit hg in
theorem FFmt.infinity_lt (neg : Bool) : g.infinity neg < 2 ^ g.width :=
  FFmt.pack_lt (Nat.sub_lt (Nat.two_pow_pos _) Nat.one_pos) (Nat.two_pow_pos _)

theorem FFmt.largest_lt (neg : Bool) : g.largest neg < 2 ^ g.width := by
  rw [FFmt.largest, hg.f8]
  exact FFmt.pack_lt (by have := FFmt.two_pow_eb hg; omega) (Nat.sub_lt (Nat.two_pow_pos _) Nat.one_pos)

theorem FFmt.canonNan_lt : g.canonNan < 2 ^ g.width := by
  have hnan : g.canonNan = g.pack false (2 ^ g.eb - 1) (2 ^ (g.fb - 1)) := by simp [FFmt.canonNan, FFmt.pack, hg.f8]
  have hfb := FFmt.two_pow_fb hg
  have hpos : 0 < 2 ^ (g.fb - 1) := Nat.two_pow_pos _
  rw [hnan]
  exact FFmt.pack_lt (Nat.sub_lt (Nat.two_pow_pos _) Nat.one_pos) (by omega)

theorem FFmt.overflow_lt (rm : Nat) (f8nan neg : Bool) : g.overflow rm f8nan neg < 2 ^ g.width := by
  have hinf := FFmt.infinity_lt (g := g) neg
  have hmax := FFmt.largest_lt hg neg
  simp only [FFmt.overflow, hg.f8, Bool.false_eq_true, if_false]
  split
  · exact hinf
  · exact hmax
  · split
    · exact hmax
    · exact hinf
  · split
    · exact hinf
    · exact hmax

omit hg in
/-- The numeral before the last unit rounds up fills at most its bits. -/
theorem div_unit_lt {m fb : Nat} {e q : Int} (hq : (bitLen m : Int) - 1 + e - fb ≤ q) :
    m * 2 ^ (e - q).toNat / 2 ^ (q - e).toNat < 2 ^ (fb + 1) := by
  have hm : m < 2 ^ bitLen m := by
    rcases Nat.eq_zero_or_pos m with rfl | hm
    · exact Nat.two_pow_pos _
    · exact (bitLen_bounds hm).2.1
  rw [Nat.div_lt_iff_lt_mul (Nat.two_pow_pos _), ← Nat.pow_add]
  calc m * 2 ^ (e - q).toNat < 2 ^ bitLen m * 2 ^ (e - q).toNat := Nat.mul_lt_mul_of_pos_right hm (Nat.two_pow_pos _)
    _ = 2 ^ (bitLen m + (e - q).toNat) := (Nat.pow_add _ _ _).symm
    _ ≤ _ := Nat.pow_le_pow_right (by decide) (by omega)

/-- Every result of rounding is a code of the format (R165). -/
theorem FFmt.round_lt (rm : Nat) (f8nan neg : Bool) (m : Nat) (e : Int) (sticky : Bool) : g.round rm f8nan neg m e sticky < 2 ^ g.width := by
  have hq : (bitLen m : Int) - 1 + e - g.fb ≤ max ((bitLen m : Int) - 1 + e - g.fb) (1 - (g.bias : Int) - g.fb) := Int.le_max_left _ _
  have hdiv := div_unit_lt hq
  have hdouble : 2 ^ (g.fb + 1) = 2 * 2 ^ g.fb := by rw [Nat.pow_succ, Nat.mul_comm]
  have heb := FFmt.two_pow_eb hg
  unfold FFmt.round
  extract_lets rm' q0 q up down M rem M1 M2 q2 ef emax
  have hM1 : M1 ≤ 2 ^ (g.fb + 1) := by
    simp only [M1]
    split
    · exact hdiv
    · exact Nat.le_of_lt hdiv
  have hemax : emax = 2 ^ g.eb - 2 := by simp only [emax, hg.f8]; rfl
  split
  · exact FFmt.zero_lt hg _
  · split
    · next hsub => exact FFmt.pack_lt (Nat.two_pow_pos _) hsub
    · split
      · exact FFmt.overflow_lt hg _ _ _
      · have hM2 : M2 - 2 ^ g.fb < 2 ^ g.fb := by
          have hpos : 0 < 2 ^ g.fb := Nat.two_pow_pos _
          simp only [M2]
          split <;> omega
        exact FFmt.pack_lt (by omega) hM2

theorem FFmt.encode_lt (rm : Nat) (f8nan : Bool) (x : FVal) : g.encode rm f8nan x < 2 ^ g.width := by
  cases x with
  | nan => exact FFmt.canonNan_lt hg
  | inf s => simp only [FFmt.encode, hg.f8]; exact FFmt.infinity_lt s
  | fin s m e =>
    simp only [FFmt.encode]
    split
    · exact FFmt.zero_lt hg s
    · exact FFmt.round_lt hg _ _ _ _ _ _

theorem FFmt.write_lt (v : FEnv) (x : FVal) : g.write v x < 2 ^ g.width := FFmt.flush_lt _ _ (FFmt.encode_lt hg _ _ _)

/-- The five functions of R168 give codes of the format. -/
theorem FFmt.func_lt (which : Nat) (x : FVal) : g.func which x < 2 ^ g.width := by
  have hz := FFmt.zero_lt hg
  have hi := FFmt.infinity_lt (g := g)
  have hn := FFmt.canonNan_lt hg
  have hr := FFmt.round_lt hg
  unfold FFmt.func
  dsimp only
  repeat' split
  all_goals first | exact hn | exact hz _ | exact hi _ | exact hr _ _ _ _ _ _

theorem FFmt.roundIntegral_lt (rm : Nat) {x : Nat} (hx : x < 2 ^ g.width) : g.roundIntegral rm x < 2 ^ g.width := by
  unfold FFmt.roundIntegral
  split
  · exact FFmt.canonNan_lt hg
  · exact hx
  · split
    · exact hx
    · exact FFmt.encode_lt hg _ _ _

end

theorem FFmt.classify_le (g : FFmt) (x : Nat) : g.classify x ≤ 256 := by
  unfold FFmt.classify
  repeat' split
  all_goals decide

/-! ### The float words -/

section
variable {s : State} {i : Instr} {f : FmtVR}

/-- A float word of one source makes every element of every lane of A in its own format (R181). -/
theorem State.yields_vr2Flt {caps : List Nat} {op : FEnv → FFmt → Nat → Nat} (hw : wordInfo s i = some (vr2Info i caps false f))
    (he : exec i s = vr2 i caps false f (fun v x _ => fLane f.ty.toNat (fun g a _ _ => op v g a) x 0 0) s)
    (hop : (tyFmt f.ty.toNat).Closed fun g x _ _ => op s.fenv g x) : s.yields i fun t => s.VrFloats t f fun g x _ _ => op s.fenv g x :=
  State.yields_mono hw (State.yields_vr2 hw he) fun _ _ ht => ⟨_, ht, fun _ _ _ hi => el_fLane hop _ _ _ hi⟩

/-- The functions of R203. -/
theorem State.yields_vFun {which : Nat} (hw : wordInfo s i = some (vr2Info i (capFlt f.ty ++ [9]) false f)) (he : exec i s = vFun i f which s) :
    s.yields i fun t => s.VrFloats t f fun g x _ _ => g.flush s.fenv.ftz (g.func which (g.read s.fenv x)) := by
  unfold vFun at he
  exact State.yields_vr2Flt (op := fun v g a => g.flush v.ftz (g.func which (g.read v a))) hw he
    fun _ _ _ _ _ _ => FFmt.flush_lt _ _ (FFmt.func_lt (tyFmt_vector _) _ _)

end

/-- Settles O5: every word is `fLane` of an operation whose results are codes of the format. -/
theorem vectorFloatElements : Obligations.VectorFloatElements := by
  intro s
  have hwrite (ty : Nat) (x : FVal) : (tyFmt ty).write s.fenv x < 2 ^ (tyFmt ty).width := FFmt.write_lt (tyFmt_vector ty) _ _
  refine ⟨fun f => ?vfadd, fun f => ?vfsub, fun f => ?vfmul, fun f => ?vfma, fun f => ?vrcp, fun f => ?vrsqrt, fun f => ?vsqrt, fun f => ?vexp2,
    fun f => ?vlog2, fun f => ?vfclass, fun f => ?vround, fun f => ?vcvt⟩
  case vfadd => exact State.yields_vFlt (op := fun v g x y _ => g.add v x y) rfl rfl fun _ _ _ _ _ _ => hwrite _ _
  case vfsub => exact State.yields_vFlt (op := fun v g x y _ => g.sub v x y) rfl rfl fun _ _ _ _ _ _ => hwrite _ _
  case vfmul => exact State.yields_vFlt (op := fun v g x y _ => g.mul v x y) rfl rfl fun _ _ _ _ _ _ => hwrite _ _
  case vfma => exact State.yields_vFlt (op := fun v g x y z => g.fma v x y z) rfl rfl fun _ _ _ _ _ _ => hwrite _ _
  case vrcp => exact State.yields_vFun rfl rfl
  case vrsqrt => exact State.yields_vFun rfl rfl
  case vsqrt => exact State.yields_vFun rfl rfl
  case vexp2 => exact State.yields_vFun rfl rfl
  case vlog2 => exact State.yields_vFun rfl rfl
  case vfclass =>
    refine State.yields_vr2Flt (op := fun _ g a => g.classify a) rfl rfl fun x _ _ _ _ _ => Nat.lt_of_le_of_lt (FFmt.classify_le _ x) ?_
    rcases tyFmt_cases f.ty.toNat with h | h | h <;> rw [h] <;> decide
  case vround =>
    have he : exec (.vround f) s = execVround f s := rfl
    unfold execVround at he
    refine State.yields_mono rfl (State.yields_wroteV rfl he fun t ht => by simp only [ht.mask, ht.fenv, ht.rdV]; rfl)
      fun _ _ ht => ⟨_, ht, fun _ _ _ hi => ?_⟩
    have hop : (tyFmt f.ty.toNat).Closed fun g a _ _ =>
        g.roundIntegral (if f.x4 == 4 then s.fenv.rm else f.x4.toNat) (g.flush s.fenv.ftz a) :=
      fun _ _ _ hx _ _ => FFmt.roundIntegral_lt (tyFmt_vector _) _ (FFmt.flush_lt _ _ hx)
    refine (el_fLane hop _ _ _ hi).trans ?_
    simp only [beq_iff_eq]
    rfl
  case vcvt => exact State.yields_vr2 (op := fun v x z => convert f.vb.toNat v x z) rfl rfl

end Sys2Proof.Machine
end

section
/-! SUPPORT. Predicates written in the lanes of MASK (R178, R190, R200), and the dot products (R198, R199). -/

namespace Sys2Proof.Machine

/-! ### Masks -/

theorem foldl_add_two_pow (f : Nat → Bool) (n : Nat) :
    (List.range n).foldl (fun m l => if f l then m + 2 ^ l else m) 0 < 2 ^ n ∧
      ∀ j, ((List.range n).foldl (fun m l => if f l then m + 2 ^ l else m) 0).testBit j = (decide (j < n) && f j) := by
  induction n with
  | zero => simp
  | succ n ih =>
    obtain ⟨hlt, hbit⟩ := ih
    rw [List.range_succ, List.foldl_append]
    generalize (List.range n).foldl (fun m l => if f l then m + 2 ^ l else m) 0 = m at hlt hbit
    have hpow : 2 ^ (n + 1) = 2 ^ n + 2 ^ n := by rw [Nat.pow_succ]; omega
    simp only [List.foldl_cons, List.foldl_nil]
    cases hn : f n with
    | true =>
      simp only [if_true]
      refine ⟨by omega, fun j => ?_⟩
      rw [Nat.add_comm, ← Nat.mul_one (2 ^ n), Nat.testBit_two_pow_mul_add _ hlt, hbit]
      rcases Nat.lt_trichotomy j n with h | rfl | h
      · simp [h, Nat.lt_succ_of_lt h]
      · simp [hn]
      · have hone : Nat.testBit 1 (j - n) = false := Nat.testBit_lt_two_pow (Nat.one_lt_two_pow (by omega))
        simp [show ¬ j < n by omega, show ¬ j < n + 1 by omega, hone]
    | false =>
      simp only [Bool.false_eq_true, if_false]
      refine ⟨by omega, fun j => ?_⟩
      rw [hbit]
      rcases Nat.lt_trichotomy j n with h | rfl | h
      · simp [h, Nat.lt_succ_of_lt h]
      · simp [hn]
      · simp [show ¬ j < n by omega, show ¬ j < n + 1 by omega]

/-- A lane of the mask that a condition makes. -/
theorem laneMask_getLsbD (f : Nat → Bool) {l : Nat} (hl : l < 32) : (laneMask f).getLsbD l = f l := by
  obtain ⟨hlt, hbit⟩ := foldl_add_two_pow f 32
  rw [laneMask, BitVec.getLsbD_ofNat, hbit]
  simp [hl]

/-! ### Words that fall through after a change of their thread -/

/-- A word that executes and whose meaning changes its thread's registers, poison marks and slot falls through with them changed. -/
theorem State.yields_of_done {s : State} {i : Instr} {w : WordInfo} {body : State → Res} {P : State → Prop}
    (hw : wordInfo s i = some w) (he : exec i s = runWord w body s)
    (hb : ∀ t, s.Entered t → ∃ t', body t = .done t' ∧ s.KeptThread t' ∧ t'.carch.stepLeft = s.carch.stepLeft ∧ t'.cslot.priv = s.cslot.priv ∧
      t'.carch.slot (!s.cur.slotB) = s.carch.slot (!s.cur.slotB) ∧
      ∀ u, s.Fell u t'.cslot → u.carch = t'.carch.setSlot s.cur.slotB u.cslot → u.ccrew.regPoison = t'.ccrew.regPoison → P u) :
    s.yields i P := by
  intro hx hu
  obtain ⟨t, hkept, harch, hpoison, hrun⟩ := runWord_executes hw hx body
  obtain ⟨t', hbody, hkept', hleft, hpriv, hother, hP⟩ := hb t ⟨hkept, harch, hpoison⟩
  obtain ⟨hfell, harch', hpoison'⟩ := State.advance_fell hkept' hleft hpriv hother hu
  rw [hbody] at hrun
  exact ⟨t'.advance, he.trans hrun, hP _ hfell harch' hpoison'⟩

/-! ### Vector registers and predicates -/

/-- `t` is `s` but for the thread's vector registers and predicates and the poison of its registers: lane `l` of register `m` reads
`v m l`, of predicate `m` reads `p m l`, and the marks are `bad`. -/
structure State.HoldsVP (s t : State) (v : BitVec 6 → Nat → Word) (bad : Nat → Bool) (p : Nat → Nat → Bool) : Prop extends s.KeptThread t where
  arch : t.carch = { s.carch with v := t.carch.v, p := t.carch.p }
  lanes : ∀ m l, l < 32 → t.rdV m l = v m l
  poison : ∀ k, Store.get false t.ccrew.regPoison k = bad k
  preds : ∀ m l, l < 32 → (t.rdP m).getLsbD l = (m == 0 || p m l)

section
variable {s t : State} {v : BitVec 6 → Nat → Word} {bad : Nat → Bool} {p : Nat → Nat → Bool}

theorem State.Entered.holdsVP (h : s.Entered t) : s.HoldsVP t s.rdV (Store.get false s.ccrew.regPoison) s.oldP := by
  refine ⟨h.toKeptThread, by rw [h.arch], fun m l _ => h.rdV m l, fun k => by rw [h.poison], fun m l hl => ?_⟩
  rw [h.rdP, State.rdP_getLsbD_self s m hl]

theorem State.HoldsVP.cur (h : s.HoldsVP t v bad p) : t.cur = s.cur := h.toKeptPackage.cur

theorem State.HoldsVP.wrV (h : s.HoldsVP t v bad p) (n : BitVec 6) (A : Word) (f : Nat → Word) :
    s.HoldsVP (t.wrV n A f) (fun m l => if m = n ∧ A.getLsbD l = true then f l else v m l)
      (fun k => bad k && !laneMark s.cur.tid n.toNat A k) p := by
  obtain ⟨hkept, harch, hpoison⟩ := State.keepPoison_kept t fun k => !laneMark t.cur.tid n.toNat A k
  rw [State.wrV_eq]
  generalize (t.modCrew t.cur.uid fun c => { c with regPoison := Store.keep (fun k => !laneMark t.cur.tid n.toNat A k) c.regPoison }) = u at *
  have hregs : (u.modCArch fun a => a.putV n.toNat A f).carch = t.carch.putV n.toNat A f := by rw [State.modCArch_carch, harch]
  refine ⟨h.toKeptThread.trans (hkept.trans (State.modCArch_kept u _)), ?_, fun m l hl => ?_, fun k => ?_, fun m l hl => ?_⟩
  · rw [hregs, h.arch]; rfl
  · rw [State.rdV, hregs, Arch.get_putV _ _ _ _ _ hl, ← h.lanes m l hl]; rfl
  · rw [State.modCArch_regPoison, hpoison, Store.get_keep, h.poison, h.cur]
    cases laneMark s.cur.tid n.toNat A k <;> simp
  · rw [State.rdP, hregs, ← h.preds m l hl]; rfl

/-- A whole predicate is written; p0 discards the write (R108). -/
theorem State.HoldsVP.wrP (h : s.HoldsVP t v bad p) (n : Nat) (x : Word) :
    s.HoldsVP (t.wrP n x) v (fun k => bad k && !(n != 0 && k == regKey s.cur.tid (64 + n))) (fun m l => if m = n then x.getLsbD l else p m l) := by
  by_cases hn : n = 0
  · subst hn
    rw [State.wrP, if_pos rfl]
    refine ⟨h.toKeptThread, h.arch, h.lanes, fun k => by simp [h.poison], fun m l hl => ?_⟩
    rw [h.preds m l hl]
    by_cases hm : m = 0 <;> simp [hm]
  · obtain ⟨hkept, harch, hpoison⟩ := State.cleanReg_kept t (64 + n)
    rw [State.wrP, if_neg hn]
    have hregs : ((t.cleanReg (64 + n)).modCArch fun a => { a with p := Store.set 0 a.p n x }).carch =
        { t.carch with p := Store.set 0 t.carch.p n x } := by rw [State.modCArch_carch, harch]
    refine ⟨h.toKeptThread.trans (hkept.trans (State.modCArch_kept _ _)), ?_, fun m l hl => ?_, fun k => ?_, fun m l hl => ?_⟩
    · rw [hregs, h.arch]
    · rw [State.rdV, hregs]; exact h.lanes m l hl
    · rw [State.modCArch_regPoison, hpoison, Store.get_set, h.poison, h.cur]
      by_cases hk : k = regKey s.cur.tid (64 + n) <;> simp [hk, hn]
    · rw [State.rdP, hregs, Arch.pred]
      by_cases hm0 : m = 0
      · have hones : (0xFFFFFFFF : Word) = BitVec.allOnes 32 := rfl
        rw [if_pos hm0, hones, BitVec.getLsbD_allOnes]
        simp [hm0, hl]
      · rw [if_neg hm0, Store.get_set]
        by_cases hmn : m = n
        · simp [hmn, hn]
        · rw [if_neg hmn, if_neg hmn, ← h.preds m l hl, State.rdP, Arch.pred, if_neg hm0]

theorem State.HoldsVP.congr {v' : BitVec 6 → Nat → Word} {bad' : Nat → Bool} {p' : Nat → Nat → Bool} (h : s.HoldsVP t v bad p)
    (hv : ∀ m l, l < 32 → v m l = v' m l) (hbad : ∀ k, bad k = bad' k) (hp : ∀ m l, l < 32 → (m == 0 || p m l) = (m == 0 || p' m l)) :
    s.HoldsVP t v' bad' p' :=
  ⟨h.toKeptThread, h.arch, fun m l hl => (h.lanes m l hl).trans (hv m l hl), fun k => (h.poison k).trans (hbad k),
    fun m l hl => (h.preds m l hl).trans (hp m l hl)⟩

/-- A crew's poison marks replaced change nothing else. -/
theorem State.setPoison_kept (s : State) (z : Store Bool) :
    s.KeptThread (s.modCrew s.cur.uid fun c => { c with regPoison := z }) ∧
      (s.modCrew s.cur.uid fun c => { c with regPoison := z }).carch = s.carch ∧
      (s.modCrew s.cur.uid fun c => { c with regPoison := z }).ccrew.regPoison = z := by
  refine ⟨⟨⟨rfl, fun u hu => State.setCrew_crew_ne _ _ _ hu⟩, ?_, fun j _ => ?_, ?_⟩, ?_, ?_⟩
  all_goals simp [State.modCrew_eq, State.ccrew, State.cthr, State.carch, State.thread_eq, Crew.thread]

theorem State.HoldsVP.setPoison (h : s.HoldsVP t v bad p) {z : Store Bool} {bad' : Nat → Bool} (hz : ∀ k, Store.get false z k = bad' k) :
    s.HoldsVP (t.modCrew t.cur.uid fun c => { c with regPoison := z }) v bad' p := by
  obtain ⟨hkept, harch, hpoison⟩ := State.setPoison_kept t z
  generalize (t.modCrew t.cur.uid fun c => { c with regPoison := z }) = u at *
  refine ⟨h.toKeptThread.trans hkept, by rw [harch, h.arch], fun m l hl => ?_, fun k => by rw [hpoison, hz], fun m l hl => ?_⟩
  · rw [State.rdV, harch]; exact h.lanes m l hl
  · rw [State.rdP, harch]; exact h.preds m l hl

/-- The lanes of `A` of a predicate are written; its poison goes where it is written whole (R403). -/
theorem State.HoldsVP.wrPLanes (h : s.HoldsVP t v bad p) (n : Nat) (A : Word) (g : Nat → Bool) :
    s.HoldsVP (t.wrPLanes n A g) v
      (fun k => bad k && !((if A = 0xFFFFFFFF then [n] else []).any fun m => m != 0 && k == regKey s.cur.tid (64 + m)))
      (fun m l => if m = n ∧ A.getLsbD l = true then g l else p m l) := by
  have hwrote := h.wrP n ((t.rdP n &&& ~~~A) ||| (laneMask g &&& A))
  have hpreds : ∀ m l, l < 32 → (m == 0 || if m = n then ((t.rdP n &&& ~~~A) ||| (laneMask g &&& A)).getLsbD l else p m l) =
      (m == 0 || if m = n ∧ A.getLsbD l = true then g l else p m l) := by
    intro m l hl
    by_cases hm : m = n
    · subst hm
      have hold := h.preds m l hl
      simp only [BitVec.getLsbD_or, BitVec.getLsbD_and, BitVec.getLsbD_not, hl, hold, laneMask_getLsbD g hl, if_true, true_and]
      cases A.getLsbD l <;> cases m == 0 <;> simp
    · simp [hm]
  rw [State.wrPLanes]
  by_cases hall : A = 0xFFFFFFFF
  · simp only [hall, beq_self_eq_true, if_true]
    rw [hall] at hwrote hpreds
    exact hwrote.congr (fun _ _ _ => rfl) (fun k => by simp) hpreds
  · simp only [beq_eq_false_iff_ne.2 hall, Bool.false_eq_true, if_false, hall]
    have hcur : t.cur = (t.wrP n ((t.rdP n &&& ~~~A) ||| (laneMask g &&& A))).cur := h.cur.trans hwrote.cur.symm
    rw [hcur]
    exact ((hwrote.setPoison (bad' := bad) fun k => by rw [h.poison])).congr (fun _ _ _ => rfl) (fun k => by simp) hpreds

/-- What a word that leaves its registers as `HoldsVP` says has written. -/
theorem State.HoldsVP.yields {i : Instr} {w : WordInfo} {body : State → Res} {n : BitVec 6} {A : Word} {f : Nat → Word} {ps : List Nat}
    (hw : wordInfo s i = some w) (he : exec i s = runWord w body s)
    (hb : ∀ t, s.Entered t → ∃ t', body t = .done t' ∧ s.HoldsVP t' (fun m l => if m = n ∧ A.getLsbD l = true then f l else s.rdV m l)
      (fun k => Store.get false s.ccrew.regPoison k && !laneMark s.cur.tid n.toNat A k &&
        !(ps.any fun m => m != 0 && k == regKey s.cur.tid (64 + m))) p) : s.yields i fun t => s.WroteVP t n A f ps p := by
  refine State.yields_of_done hw he fun t ht => ?_
  obtain ⟨t', hbody, hvp⟩ := hb t ht
  have hslot (b : Bool) : t'.carch.slot b = s.carch.slot b := by rw [hvp.arch]; cases b <;> rfl
  have hcslot : t'.cslot = s.cslot := by rw [State.cslot, hvp.cur, hslot]; rfl
  refine ⟨t', hbody, hvp.toKeptThread, by rw [hvp.arch], by rw [hcslot], hslot _, fun u hfell harch hpoison => ?_⟩
  rw [hcslot] at hfell
  have hv : u.carch.v = t'.carch.v := by rw [harch]; cases s.cur.slotB <;> rfl
  have hp : u.carch.p = t'.carch.p := by rw [harch]; cases s.cur.slotB <;> rfl
  refine ⟨hfell, ?_, fun m l hl => ?_, fun k => ?_, fun m l _ hl => ?_⟩
  · rw [harch, hvp.arch]; cases s.cur.slotB <;> rfl
  · rw [State.rdV, hv]; exact hvp.lanes m l hl
  · rw [hpoison]; exact hvp.poison k
  · rw [State.rdP, Arch.pred, hp]; exact hvp.preds m l hl

theorem laneMark_zero (tid n k : Nat) : laneMark tid n 0 k = false := by
  simp [laneMark, List.any_eq_false]

/-- A compare writes pd over MASK: the condition where the guard holds, else 0 (R200). -/
theorem State.yields_cmpWord {i : Instr} {caps : List Nat} {f : FmtVP} {c : FEnv → Word → Word → Bool}
    (hw : wordInfo s i = some (vecInfo i caps [f.va, f.vb] [f.va, f.vb])) (he : exec i s = cmpWord i caps f c s) :
    s.yields i fun t => s.WroteP t (if s.mask = 0xFFFFFFFF then [f.pd.toNat] else []) fun m l =>
      if m = f.pd.toNat ∧ s.mask.getLsbD l = true then (s.rdP f.gp.toNat).getLsbD l && c s.fenv (s.rdV f.va l) (s.rdV f.vb l) else s.oldP m l := by
  unfold cmpWord at he
  refine State.HoldsVP.yields hw he fun t ht => ⟨_, rfl, ?_⟩
  rw [ht.mask]
  refine (ht.holdsVP.wrPLanes _ _ _).congr (fun m l _ => by simp) (fun k => by simp only [laneMark_zero, Bool.not_false, Bool.and_true]) fun m l _ => ?_
  simp only [ht.rdP, ht.fenv, ht.rdV]

end

/-! ### Compares of values -/

theorem condVP_eq (c : Nat) (ty : BitVec 3) (x y : Word) :
    condVP c (ty == 0) x y =
      let lt (a b : Word) : Bool := if ty = 0 then a.slt b else a.ult b
      match c with
      | 0 => x == y
      | 1 => x != y
      | 2 => lt x y
      | 3 => !lt y x
      | 4 => lt y x
      | _ => !lt x y := by
  by_cases h : ty = 0 <;> simp [condVP, h] <;> rfl

theorem FVal.lt_of_isNan {x y : FVal} (h : (x.isNan || y.isNan) = true) : x.lt y = false ∧ y.lt x = false ∧ x.eq y = false := by
  cases x <;> cases y <;> simp_all [FVal.isNan, FVal.lt, FVal.eq]

theorem condVF_eq (c : BitVec 4) (x y : FVal) :
    condVF c.toNat x y =
      if x.isNan || y.isNan then c == 1 || c == 6
      else match c.toNat with
        | 0 => x.eq y
        | 1 => !x.eq y
        | 2 => x.lt y
        | 3 => !y.lt x
        | 4 => y.lt x
        | 5 => !x.lt y
        | 6 => false
        | _ => true := by
  by_cases hun : (x.isNan || y.isNan) = true
  · obtain ⟨hlt, hgt, heq⟩ := FVal.lt_of_isNan hun
    rw [if_pos hun]
    simp only [condVF, hlt, hgt, heq, hun]
    revert c; decide
  · rw [if_neg hun]
    simp only [condVF, Bool.eq_false_iff.2 hun, Bool.not_false, Bool.true_and] <;> rfl

/-! ### `vacs` and the dot products (R190, R198, R199) -/

theorem elem_lt_eq_slt (x y : Word) (i : Nat) : decide (elem 16 true x i < elem 16 true y i) = (el 16 x i).slt (el 16 y i) := by
  rw [elem_eq_elVal (by decide), elem_eq_elVal (by decide)]
  rfl

theorem el_packElems_pair (x y : Word) {i : Nat} (hi : i < 2) :
    el 16 (BitVec.ofNat 32 (packElems 16 [wrapTo 16 (elem 16 true x 0), wrapTo 16 (elem 16 true y 1)])) i = if i = 0 then el 16 x 0 else el 16 y 1 := by
  rw [el_packElems _ _ rfl]
  obtain rfl | rfl : i = 0 ∨ i = 1 := by omega
  · simp [wrapTo_eq_toNat, elem_eq_elVal]
  · simp [wrapTo_eq_toNat, elem_eq_elVal]

theorem dot4_eq (g : Bool) (x y z : Word) :
    BitVec.ofNat 32 (wrapTo 32 ((z.toNat : Int) + ((List.range 4).map fun i => elem 8 g x i * elem 8 g y i).foldl (· + ·) 0)) =
      z + BitVec.ofInt 32 (elVal g (el 8 x 0) * elVal g (el 8 y 0)) + BitVec.ofInt 32 (elVal g (el 8 x 1) * elVal g (el 8 y 1)) +
        BitVec.ofInt 32 (elVal g (el 8 x 2) * elVal g (el 8 y 2)) + BitVec.ofInt 32 (elVal g (el 8 x 3) * elVal g (el 8 y 3)) := by
  have hrange : List.range 4 = [0, 1, 2, 3] := rfl
  simp only [wrapTo_eq_toNat, BitVec.ofNat_toNat, BitVec.setWidth_eq, hrange, List.map, List.foldl, elem_eq_elVal (show 0 < 8 by decide), BitVec.ofInt_add,
    BitVec.ofInt_natCast, Int.zero_add, BitVec.add_assoc]

theorem dot2Lane_eq (g : FFmt) (v : FEnv) (x y z : Word) :
    dot2Lane g v x y z = BitVec.ofNat 32 (fmtF32.flush v.ftz (fmtF32.encode 0 false (exactSum 0 [fmtF32.read v z.toNat,
      (g.read v (el 16 x 0).toNat).mul (g.read v (el 16 y 0).toNat), (g.read v (el 16 x 1).toNat).mul (g.read v (el 16 y 1).toNat)]))) := by
  simp only [el_toNat]
  rfl

/-- The half of `va` that `vacs` replaces: it is below that of `vb` (R190). -/
def State.acsBelow (s : State) (f : FmtVX) (i l : Nat) : Bool := (el 16 (s.rdV f.va l) i).slt (el 16 (s.rdV f.vb l) i)

theorem State.yields_vacs (s : State) (f : FmtVX) : s.yields (.vacs f) fun t =>
    ∃ r, (s.WroteVP t f.vd s.mask r (if s.mask = 0xFFFFFFFF then [f.x4.toNat, f.x4.toNat + 1] else []) fun m l =>
        if s.mask.getLsbD l = true ∧ m = f.x4.toNat then s.acsBelow f 0 l
        else if s.mask.getLsbD l = true ∧ m = f.x4.toNat + 1 then s.acsBelow f 1 l
        else s.oldP m l) ∧
      ∀ l, l < 32 → ∀ i, i < 2 → el 16 (r l) i = if s.acsBelow f i l then el 16 (s.rdV f.vb l) i else el 16 (s.rdV f.va l) i := by
  have he : exec (.vacs f) s = execVacs f s := rfl
  unfold execVacs at he
  refine State.yields_mono rfl (State.HoldsVP.yields rfl he (f := fun l => BitVec.ofNat 32 (packElems 16 [
    wrapTo 16 (elem 16 true (if s.acsBelow f 0 l then s.rdV f.vb l else s.rdV f.va l) 0),
    wrapTo 16 (elem 16 true (if s.acsBelow f 1 l then s.rdV f.vb l else s.rdV f.va l) 1)])) fun t ht => ⟨_, rfl, ?_⟩)
    fun _ _ ht => ⟨_, ht, fun l _ i hi => ?_⟩
  · simp only [ht.mask, ht.rdV, elem_lt_eq_slt]
    refine (((ht.holdsVP.wrV f.vd s.mask _).wrPLanes f.x4.toNat s.mask _).wrPLanes (f.x4.toNat + 1) s.mask _).congr (fun _ _ _ => rfl)
      (fun k => ?_) fun m l _ => ?_
    · by_cases hall : s.mask = 0xFFFFFFFF
      · simp only [hall, if_true, List.any_cons, List.any_nil, Bool.or_false, Bool.not_or, Bool.and_assoc]
      · simp only [hall, if_false, List.any_nil, Bool.not_false, Bool.and_true]
    · by_cases hA : s.mask.getLsbD l = true
      · by_cases hm : m = f.x4.toNat
        · simp [hA, hm, State.acsBelow]
        · by_cases hm' : m = f.x4.toNat + 1 <;> simp [hA, hm, hm', State.acsBelow]
      · simp [hA]
  · rw [el_packElems_pair _ _ hi]
    obtain rfl | rfl : i = 0 ∨ i = 1 := by omega
    · simp only [if_true]; split <;> rfl
    · simp only [Nat.one_ne_zero, if_false]; split <;> rfl

/-- Settles O4: the predicates that the meanings write lane by lane, and the sums of products. -/
theorem vectorComparesAndDots : Obligations.VectorComparesAndDots := by
  intro s whole
  refine ⟨fun f => ?vcmp, fun f => ?vfcmp, fun f => ?vacs, fun f => ?vdot4, fun f => ?vdot2⟩
  case vcmp =>
    have he : exec (.vcmp f) s = execVcmp f s := rfl
    unfold execVcmp at he
    have h := State.yields_cmpWord rfl he
    simp only [condVP_eq] at h
    exact h
  case vfcmp =>
    have he : exec (.vfcmp f) s = execVfcmp f s := rfl
    unfold execVfcmp at he
    have h := State.yields_cmpWord rfl he
    simp only [condVF_eq] at h
    exact h
  case vacs => exact State.yields_vacs s f
  case vdot4 =>
    have he : exec (.vdot4 f) s = execVdot4 f s := rfl
    unfold execVdot4 at he
    exact State.yields_mono rfl (State.yields_vr3 rfl he) fun _ _ ht => ht.congr fun l => dot4_eq _ _ _ _
  case vdot2 =>
    have he : exec (.vdot2 f) s = execVdot2 f s := rfl
    unfold execVdot2 at he
    exact State.yields_mono rfl (State.yields_vr3 rfl he) fun _ _ ht => ht.congr fun l => dot2Lane_eq _ _ _ _ _

end Sys2Proof.Machine
end

section
/-! SUPPORT. Words that combine lanes: the pairwise tree of R196, the running prefix of R197. -/

namespace Sys2Proof.Machine

/-! ### Combining a list in order -/

section
variable {α β : Type} {c : α → α → α} {v : Nat → α} {d : α}

/-- What the members of a list give in order; none for no member. -/
def runOver? (c : α → α → α) (v : Nat → α) : List Nat → Option α
  | [] => none
  | k :: ks => some (ks.foldl (fun a j => c a (v j)) (v k))

theorem runOver?_eq {L : List Nat} (hL : L ≠ []) : runOver? c v L = some (runOver c v d L) := by
  cases L with
  | nil => exact absurd rfl hL
  | cons k ks => rfl

/-- One part of a list where the other may be absent (R196). -/
def passOn (c : α → α → α) : Option α → Option α → Option α
  | some a, some b => some (c a b)
  | none, b => b
  | a, none => a

theorem passOn_none (a : Option α) : passOn c a none = a := by cases a <;> rfl

theorem foldl_assoc (hc : ∀ x y z, c (c x y) z = c x (c y z)) (a b : α) (ks : List Nat) :
    ks.foldl (fun a j => c a (v j)) (c a b) = c a (ks.foldl (fun a j => c a (v j)) b) := by
  induction ks generalizing b with
  | nil => rfl
  | cons k ks ih => rw [List.foldl_cons, List.foldl_cons, hc, ih]

theorem runOver?_append (hc : ∀ x y z, c (c x y) z = c x (c y z)) (K L : List Nat) :
    runOver? c v (K ++ L) = passOn c (runOver? c v K) (runOver? c v L) := by
  cases K with
  | nil => rfl
  | cons k ks =>
    cases L with
    | nil => rw [List.append_nil]; rfl
    | cons l ls => simp only [runOver?, passOn, List.cons_append, List.foldl_append, List.foldl_cons, foldl_assoc hc]

/-- A map that carries one combination to another carries the results. -/
theorem runOver_map {c' : β → β → β} {h : α → β} (hh : ∀ x y, h (c x y) = c' (h x) (h y)) {L : List Nat} (hL : L ≠ []) (d' : β) :
    h (runOver c v d L) = runOver c' (fun l => h (v l)) d' L := by
  cases L with
  | nil => exact absurd rfl hL
  | cons k ks =>
    simp only [runOver]
    clear hL
    generalize v k = a
    induction ks generalizing a with
    | nil => rfl
    | cons j js ih => rw [List.foldl_cons, List.foldl_cons, ih, hh]

/-! ### The tree (R196) -/

theorem pairTree_succ (o : Nat → Option α) (n j : Nat) :
    pairTree c o (n + 1) j = passOn c (pairTree c o n (2 * j)) (pairTree c o n (2 * j + 1)) := by
  rw [pairTree]
  cases pairTree c o n (2 * j) <;> cases pairTree c o n (2 * j + 1) <;> rfl

theorem pairUp_cons_cons (a b : Option α) (l : List (Option α)) : pairUp c (a :: b :: l) = passOn c a b :: pairUp c l := by
  cases a <;> cases b <;> rfl

theorem pairUp_map (g : Nat → Option α) (n k : Nat) :
    pairUp c ((List.range' (2 * k) (2 * n)).map g) = (List.range' k n).map fun j => passOn c (g (2 * j)) (g (2 * j + 1)) := by
  induction n generalizing k with
  | zero => rfl
  | succ n ih =>
    rw [show 2 * (n + 1) = 2 * n + 1 + 1 by omega, List.range'_succ, List.range'_succ, List.map_cons, List.map_cons, pairUp_cons_cons,
      show 2 * k + 1 + 1 = 2 * (k + 1) by omega, ih, List.range'_succ, List.map_cons]

theorem pairUp_level (o : Nat → Option α) (n m : Nat) :
    pairUp c ((List.range' 0 (2 * m)).map (pairTree c o n)) = (List.range' 0 m).map (pairTree c o (n + 1)) := by
  rw [show pairTree c o (n + 1) = fun j => passOn c (pairTree c o n (2 * j)) (pairTree c o n (2 * j + 1)) from funext (pairTree_succ o n)]
  exact pairUp_map (pairTree c o n) m 0

theorem treeReduce_eq (o : Nat → Option α) : treeReduce c ((List.range 32).map o) = pairTree c o 5 0 := by
  have hlevel := pairUp_level (c := c) o
  rw [List.range_eq_range', treeReduce, show o = pairTree c o 0 from rfl, show (32 : Nat) = 2 * 16 from rfl, hlevel 0 16, show (16 : Nat) = 2 * 8 from rfl,
    hlevel 1 8, show (8 : Nat) = 2 * 4 from rfl, hlevel 2 4, show (4 : Nat) = 2 * 2 from rfl, hlevel 3 2, show (2 : Nat) = 2 * 1 from rfl, hlevel 4 1]
  rfl

/-- Under an associative combination the tree gives what the order gives. -/
theorem pairTree_eq_runOver? (hc : ∀ x y z, c (c x y) z = c x (c y z)) (p : Nat → Bool) (n j : Nat) :
    pairTree c (fun l => if p l then some (v l) else none) n j = runOver? c v ((List.range' (2 ^ n * j) (2 ^ n)).filter p) := by
  induction n generalizing j with
  | zero => cases hp : p j <;> simp [pairTree, runOver?, hp]
  | succ n ih =>
    rw [pairTree_succ, ih, ih, ← runOver?_append hc, ← List.filter_append, ← Nat.mul_assoc, ← Nat.pow_succ,
      show 2 ^ n * (2 * j + 1) = 2 ^ (n + 1) * j + 1 * 2 ^ n by rw [Nat.pow_succ, Nat.mul_add, Nat.mul_assoc]; omega, List.range'_append, ← Nat.two_mul, ← Nat.pow_succ']

theorem pairTree_lanes (hc : ∀ x y z, c (c x y) z = c x (c y z)) (A : Word) :
    pairTree c (fun l => if A.getLsbD l then some (v l) else none) 5 0 = runOver? c v (laneList A) := by
  rw [pairTree_eq_runOver? hc, laneList, List.range_eq_range', Nat.mul_zero] <;> rfl

end

/-! ### The operations of OPF on integers (R195) -/

section
variable (x y : Int)

theorem opfInt_and : opfInt 3 x y = ((BitVec.ofInt 64 x &&& BitVec.ofInt 64 y).toNat : Int) := by
  rw [opfInt, wrapTo_eq_toNat, wrapTo_eq_toNat, BitVec.toNat_and]; rfl

theorem opfInt_or : opfInt 4 x y = ((BitVec.ofInt 64 x ||| BitVec.ofInt 64 y).toNat : Int) := by
  rw [opfInt, wrapTo_eq_toNat, wrapTo_eq_toNat, BitVec.toNat_or]; rfl

theorem opfInt_xor (n : Nat) : opfInt (n + 5) x y = ((BitVec.ofInt 64 x ^^^ BitVec.ofInt 64 y).toNat : Int) := by
  have hop : opfInt (n + 5) x y = Nat.xor (wrapTo 64 x) (wrapTo 64 y) := by unfold opfInt; rfl
  rw [hop, wrapTo_eq_toNat, wrapTo_eq_toNat, BitVec.toNat_xor]; rfl

end

theorem opfInt_assoc (op : Nat) (x y z : Int) : opfInt op (opfInt op x y) z = opfInt op x (opfInt op y z) := by
  match op with
  | 0 => exact Int.add_assoc _ _ _
  | 1 => exact Int.min_assoc _ _ _
  | 2 => exact Int.max_assoc _ _ _
  | 3 => simp only [opfInt_and, BitVec.ofInt_natCast, BitVec.ofNat_toNat, BitVec.setWidth_eq, BitVec.and_assoc]
  | 4 => simp only [opfInt_or, BitVec.ofInt_natCast, BitVec.ofNat_toNat, BitVec.setWidth_eq, BitVec.or_assoc]
  | n + 5 => simp only [opfInt_xor, BitVec.ofInt_natCast, BitVec.ofNat_toNat, BitVec.setWidth_eq, BitVec.xor_assoc]

/-! ### Words extended to 64 bits (R196) -/

/-- A word as a dword, by sign where `sg`. -/
def extWord (sg : Bool) (x : Word) : DWord := if sg then x.signExtend 64 else x.setWidth 64

/-- The order of words as their type reads them. -/
def wordLt (sg : Bool) (x y : Word) : Bool := if sg then x.slt y else x.ult y

theorem ofInt_laneInt (sg : Bool) (x : Word) : BitVec.ofInt 64 (laneInt sg x) = extWord sg x := by
  cases sg with
  | true => rfl
  | false => simp [laneInt, extWord, BitVec.ofInt_natCast]

theorem wordLt_iff (sg : Bool) (x y : Word) : wordLt sg x y = true ↔ laneInt sg x < laneInt sg y := by
  cases sg <;> simp [wordLt, laneInt, BitVec.slt, BitVec.ult]

theorem laneInt_min (sg : Bool) (x y : Word) : laneInt sg (if wordLt sg y x then y else x) = min (laneInt sg x) (laneInt sg y) := by
  by_cases h : laneInt sg y < laneInt sg x
  · rw [if_pos ((wordLt_iff sg y x).2 h), Int.min_eq_right (Int.le_of_lt h)]
  · rw [if_neg (mt (wordLt_iff sg y x).1 h), Int.min_eq_left (Int.not_lt.1 h)]

theorem laneInt_max (sg : Bool) (x y : Word) : laneInt sg (if wordLt sg x y then y else x) = max (laneInt sg x) (laneInt sg y) := by
  by_cases h : laneInt sg x < laneInt sg y
  · rw [if_pos ((wordLt_iff sg x y).2 h), Int.max_eq_right (Int.le_of_lt h)]
  · rw [if_neg (mt (wordLt_iff sg x y).1 h), Int.max_eq_left (Int.not_lt.1 h)]

theorem extWord_and (sg : Bool) (x y : Word) : extWord sg (x &&& y) = extWord sg x &&& extWord sg y := by
  cases sg
  · simp only [extWord, Bool.false_eq_true, if_false, BitVec.setWidth_and]
  · exact BitVec.signExtend_and

theorem extWord_or (sg : Bool) (x y : Word) : extWord sg (x ||| y) = extWord sg x ||| extWord sg y := by
  cases sg
  · simp only [extWord, Bool.false_eq_true, if_false, BitVec.setWidth_or]
  · exact BitVec.signExtend_or

theorem extWord_xor (sg : Bool) (x y : Word) : extWord sg (x ^^^ y) = extWord sg x ^^^ extWord sg y := by
  cases sg
  · simp only [extWord, Bool.false_eq_true, if_false, BitVec.setWidth_xor]
  · exact BitVec.signExtend_xor

/-- The words that an operation of OPF makes of words (R195). -/
def opfWord (sg : Bool) (op : Nat) (a b : Word) : Word :=
  match op with
  | 0 => a + b
  | 1 => if wordLt sg b a then b else a
  | 2 => if wordLt sg a b then b else a
  | 3 => a &&& b
  | 4 => a ||| b
  | _ => a ^^^ b

section
variable {sg : Bool} {op : Nat} (v : Nat → Word) {L : List Nat} (hL : L ≠ [])
include hL

theorem ofInt_runOver_bits {g : DWord → DWord → DWord} (hint : ∀ x y, BitVec.ofInt 64 (opfInt op x y) = g (BitVec.ofInt 64 x) (BitVec.ofInt 64 y))
    (hword : ∀ x y, extWord sg (opfWord sg op x y) = g (extWord sg x) (extWord sg y)) :
    BitVec.ofInt 64 (runOver (opfInt op) (fun l => laneInt sg (v l)) 0 L) = extWord sg (runOver (opfWord sg op) v 0 L) :=
  calc BitVec.ofInt 64 (runOver (opfInt op) (fun l => laneInt sg (v l)) 0 L)
      = runOver g (fun l => BitVec.ofInt 64 (laneInt sg (v l))) 0 L := runOver_map hint hL 0
    _ = runOver g (fun l => extWord sg (v l)) 0 L := by simp only [ofInt_laneInt]
    _ = extWord sg (runOver (opfWord sg op) v 0 L) := (runOver_map hword hL 0).symm

theorem ofInt_runOver_order (hword : ∀ x y, laneInt sg (opfWord sg op x y) = opfInt op (laneInt sg x) (laneInt sg y)) :
    BitVec.ofInt 64 (runOver (opfInt op) (fun l => laneInt sg (v l)) 0 L) = extWord sg (runOver (opfWord sg op) v 0 L) := by
  rw [← ofInt_laneInt, runOver_map hword hL 0]

/-- Every operation but the sum, which has 64 bits, gives the extension of a word. -/
theorem ofInt_runOver_opfInt (hop : op ≠ 0) :
    BitVec.ofInt 64 (runOver (opfInt op) (fun l => laneInt sg (v l)) 0 L) = extWord sg (runOver (opfWord sg op) v 0 L) := by
  match op with
  | 1 => exact ofInt_runOver_order v hL (laneInt_min sg)
  | 2 => exact ofInt_runOver_order v hL (laneInt_max sg)
  | 3 => exact ofInt_runOver_bits v hL (g := (· &&& ·)) (fun x y => by simp only [opfInt_and, BitVec.ofInt_natCast, BitVec.ofNat_toNat, BitVec.setWidth_eq]) (extWord_and sg)
  | 4 => exact ofInt_runOver_bits v hL (g := (· ||| ·)) (fun x y => by simp only [opfInt_or, BitVec.ofInt_natCast, BitVec.ofNat_toNat, BitVec.setWidth_eq]) (extWord_or sg)
  | n + 5 => exact ofInt_runOver_bits v hL (g := (· ^^^ ·)) (fun x y => by simp only [opfInt_xor, BitVec.ofInt_natCast, BitVec.ofNat_toNat, BitVec.setWidth_eq]) (extWord_xor sg)

end

theorem runOver_add (v : Nat → Int) (L : List Nat) : runOver (opfInt 0) v 0 L = (L.map v).sum := by
  cases L with
  | nil => rfl
  | cons k ks =>
    simp only [runOver, List.map_cons, List.sum_cons]
    generalize v k = a
    induction ks generalizing a with
    | nil => simp
    | cons j js ih => rw [List.foldl_cons, ih, List.map_cons, List.sum_cons, ← Int.add_assoc]; rfl

/-! ### The running prefix (R197) -/

/-- What the lanes of a list give in order behind those before them. -/
def scanOver (f : Nat → Nat → Nat) (v : Nat → Nat) : Option Nat → List Nat → Nat
  | none, L => runOver f v 0 L
  | some a, L => L.foldl (fun a j => f a (v j)) a

theorem scanOver_cons (f : Nat → Nat → Nat) (v : Nat → Nat) (acc : Option Nat) (l : Nat) (L : List Nat) :
    scanOver f v acc (l :: L) = scanOver f v (some (match acc with | none => v l | some a => f a (v l))) L := by
  cases acc <;> rfl

theorem scanFrom_succ (f : Nat → Nat → Nat) (p : Nat → Bool) (v : Nat → Nat) (k l : Nat) (acc : Option Nat) :
    scanFrom f p v (k + 1) l acc =
      if p l then (l, match acc with | none => v l | some a => f a (v l)) :: scanFrom f p v k (l + 1) (some (match acc with | none => v l | some a => f a (v l)))
      else scanFrom f p v k (l + 1) acc := by
  cases acc <;> rfl

theorem get_scanFrom (f : Nat → Nat → Nat) (p : Nat → Bool) (v : Nat → Nat) {j : Nat} (hp : p j = true) (k l : Nat) (acc : Option Nat)
    (hj : l ≤ j) (hjk : j < l + k) :
    Store.get 0 (scanFrom f p v k l acc) j = scanOver f v acc ((List.range' l (j + 1 - l)).filter p) := by
  induction k generalizing l acc with
  | zero => omega
  | succ k ih =>
    rw [scanFrom_succ, show j + 1 - l = j - l + 1 by omega, List.range'_succ]
    by_cases hlj : l = j
    · subst hlj
      simp only [hp, if_true, Nat.sub_self, List.range'_zero, List.filter_cons_of_pos, List.filter_nil, scanOver_cons, Store.get]
      rfl
    · have hrest : j - l = j + 1 - (l + 1) := by omega
      cases hpl : p l with
      | true =>
        rw [if_pos rfl, List.filter_cons_of_pos hpl, scanOver_cons, hrest, ← ih (l + 1) _ (by omega) (by omega)]
        exact if_neg hlj
      | false =>
        rw [if_neg (by decide), List.filter_cons_of_neg (by simp [hpl]), hrest]
        exact ih (l + 1) _ (by omega) (by omega)

theorem laneList_le (A : Word) {l : Nat} (hl : l < 32) : (laneList A).filter (· ≤ l) = (List.range' 0 (l + 1)).filter A.getLsbD := by
  have hrange : (List.range 32).filter (· ≤ l) = List.range' 0 (l + 1) := by
    have hsplit : List.range 32 = List.range' 0 (l + 1) ++ List.range' (l + 1) (31 - l) := by
      rw [List.range_eq_range', show (32 : Nat) = (l + 1) + (31 - l) by omega, ← List.range'_append_1, Nat.zero_add]
    rw [hsplit, List.filter_append, List.filter_eq_self.2 fun a ha => decide_eq_true (by have := List.mem_range'_1.1 ha; omega),
      List.filter_eq_nil_iff.2 (by simp; omega), List.append_nil]
  rw [laneList, ← hrange, List.filter_filter, List.filter_filter]
  exact congrArg (List.filter · _) (funext fun a => Bool.and_comm _ _)

/-- The running prefix gives lane `l` of `A` what the words of the lanes of `A` up to it give. -/
theorem get_scan {comb : Nat → Nat → Nat} {c : Word → Word → Word} (hc : ∀ a b, (c a b).toNat = comb a.toNat b.toNat) (A : Word) (x : Nat → Word)
    {l : Nat} (hl : l < 32) (hA : A.getLsbD l = true) :
    BitVec.ofNat 32 (Store.get 0 (scanFrom comb A.getLsbD (fun l => (x l).toNat) 32 0 none) l) =
      runOver c x 0 ((laneList A).filter (· ≤ l)) := by
  have hne : (laneList A).filter (· ≤ l) ≠ [] := List.ne_nil_of_mem (a := l) (by simp [laneList, hl, hA])
  rw [get_scanFrom comb _ _ hA 32 0 none (by omega) (by omega), scanOver, Nat.sub_zero, ← laneList_le A hl, ← runOver_map (h := BitVec.toNat) hc hne 0,
    BitVec.ofNat_toNat, BitVec.setWidth_eq]

theorem State.WroteVP.congr_lanes {s t : State} {n : BitVec 6} {A : Word} {v v' : Nat → Word} {ps : List Nat} {p : Nat → Nat → Bool}
    (h : s.WroteVP t n A v ps p) (hv : ∀ l, l < 32 → A.getLsbD l = true → v l = v' l) : s.WroteVP t n A v' ps p :=
  { h with
    lanes := fun m l hl => (h.lanes m l hl).trans (by
      by_cases hw : m = n ∧ A.getLsbD l = true
      · rw [if_pos hw, if_pos hw, hv l hl hw.2]
      · rw [if_neg hw, if_neg hw]) }

/-! ### What the words write -/

/-- The float operations of OPF (R195). -/
theorem opfFlt_eq (v : FEnv) (op : Nat) :
    opfFlt v op = fun a b => if op = 0 then fmtF32.add v a b else fmtF32.minmax v.ftz (op == 1) a b := by
  match op with
  | 0 => rfl
  | 1 => rfl
  | n + 2 => rfl

theorem opfFlt_lt (v : FEnv) (op : Nat) (a b : Word) : opfFlt v op a.toNat b.toNat < 2 ^ 32 := by
  simp only [opfFlt_eq]
  split
  · exact FFmt.write_lt (tyFmt_vector 0) v _
  · exact FFmt.minmax_closed 0 v.ftz (op == 1) _ _ 0 a.isLt b.isLt (Nat.two_pow_pos _)

/-- The word that `vscan` makes of two (R197). -/
def scanWord (v : FEnv) (isF sg : Bool) (op : Nat) (a b : Word) : Word :=
  if isF then BitVec.ofNat 32 (opfFlt v op a.toNat b.toNat) else opfWord sg op a b

theorem setWidth_extWord (sg : Bool) (x : Word) : (extWord sg x).setWidth 32 = x := by
  cases sg
  · simp [extWord]
  · ext i hi
    simp [extWord, BitVec.getElem_signExtend, show i < 64 by omega, hi]

theorem wrapTo_opfInt (sg : Bool) (op : Nat) (a b : Word) :
    wrapTo 32 (opfInt op (laneInt sg a) (laneInt sg b)) = (opfWord sg op a b).toNat := by
  have hlane (x : Word) : BitVec.ofInt 32 (laneInt sg x) = x := by cases sg <;> simp [laneInt, BitVec.ofInt_natCast]
  rw [wrapTo_eq_toNat]
  congr 1
  match op with
  | 0 => rw [opfInt, BitVec.ofInt_add, hlane, hlane]; rfl
  | 1 => exact (congrArg _ (laneInt_min sg a b).symm).trans (hlane _)
  | 2 => exact (congrArg _ (laneInt_max sg a b).symm).trans (hlane _)
  | 3 => rw [opfInt_and, BitVec.ofInt_natCast, BitVec.ofNat_toNat, BitVec.setWidth_and, ofInt_laneInt, ofInt_laneInt, setWidth_extWord, setWidth_extWord]; rfl
  | 4 => rw [opfInt_or, BitVec.ofInt_natCast, BitVec.ofNat_toNat, BitVec.setWidth_or, ofInt_laneInt, ofInt_laneInt, setWidth_extWord, setWidth_extWord]; rfl
  | n + 5 => rw [opfInt_xor, BitVec.ofInt_natCast, BitVec.ofNat_toNat, BitVec.setWidth_xor, ofInt_laneInt, ofInt_laneInt, setWidth_extWord, setWidth_extWord]; rfl

/-- What `vred` makes of the lanes of MASK (R196). -/
def State.redValue (s : State) (f : FmtVS) : DWord :=
  let op := bits f.x10.toNat 0 3
  if f.x10.getLsbD 3 then
    match pairTree (opfFlt s.fenv op) (fun l => if s.mask.getLsbD l then some (s.rdV f.v l).toNat else none) 5 0 with
    | some x => BitVec.ofNat 64 x
    | none => redIdentity true (f.ty == 0) op
  else
    match runOver? (opfInt op) (fun l => laneInt (f.ty == 0) (s.rdV f.v l)) (laneList s.mask) with
    | some x => BitVec.ofInt 64 x
    | none => redIdentity false (f.ty == 0) op

theorem State.yields_vred (s : State) (f : FmtVS) : s.yields (.vred f) fun t => s.WroteS t f.sr (s.redValue f) := by
  have he : exec (.vred f) s = execVred f s := rfl
  unfold execVred at he
  exact State.yields_wroteS rfl he fun t ht => by
    simp only [ht.mask, ht.fenv, ht.rdV, treeReduce_eq, pairTree_lanes (opfInt_assoc _)]
    rfl

theorem State.yields_vscan (s : State) (f : FmtVR) : s.yields (.vscan f) fun t => s.WroteV t f.vd (s.lanes f.gp f.gn) fun l =>
    runOver (scanWord s.fenv (f.vb.getLsbD 3) (f.ty == 0) (bits f.vb.toNat 0 3)) (s.rdV f.va) 0 ((laneList (s.lanes f.gp f.gn)).filter (· ≤ l)) := by
  have he : exec (.vscan f) s = execVscan f s := rfl
  unfold execVscan at he
  refine State.yields_mono rfl (State.yields_wroteV rfl he fun t ht => by simp only [ht.lanes, ht.fenv, ht.rdV]; rfl) fun _ t ht =>
    ht.congr_lanes fun l hl hA => ?_
  refine get_scan (fun a b => ?_) _ _ hl hA
  cases hF : f.vb.getLsbD 3 with
  | true =>
    simp only [scanWord, if_true, BitVec.toNat_ofNat]
    exact Nat.mod_eq_of_lt (opfFlt_lt _ _ _ _)
  | false =>
    simp only [scanWord, Bool.false_eq_true, if_false, BitVec.ofNat_toNat, BitVec.setWidth_eq]
    exact (wrapTo_opfInt _ _ _ _).symm

section
variable {s : State} {f : FmtVS}

/-- The value of `vred` on integers where MASK has lanes. -/
theorem State.redValue_lanes (hF : f.x10.getLsbD 3 = false) (hL : laneList s.mask ≠ []) :
    s.redValue f = BitVec.ofInt 64 (runOver (opfInt (bits f.x10.toNat 0 3)) (fun l => laneInt (f.ty == 0) (s.rdV f.v l)) 0 (laneList s.mask)) := by
  rw [State.redValue, if_neg (by rw [hF]; decide), runOver?_eq hL]

theorem State.redValue_none (hF : f.x10.getLsbD 3 = false) (hL : laneList s.mask = []) :
    s.redValue f = redIdentity false (f.ty == 0) (bits f.x10.toNat 0 3) := by
  rw [State.redValue, if_neg (by rw [hF]; decide), hL]
  rfl

theorem redIdentity_float (sg : Bool) (op : Nat) :
    redIdentity true sg op = if op = 0 then 0 else if op = 1 then 0x7F800000 else 0xFF800000 := by
  match op with
  | 0 => rfl
  | 1 => rfl
  | n + 2 => rfl

end

theorem extWord_type (ty : BitVec 3) (x : Word) : extWord (ty == 0) x = if ty = 0 then x.signExtend 64 else x.setWidth 64 := by
  by_cases h : ty = 0 <;> simp only [extWord, beq_iff_eq, h]

theorem wordLt_type (ty : BitVec 3) (x y : Word) : wordLt (ty == 0) x y = if ty = 0 then x.slt y else x.ult y := by
  by_cases h : ty = 0 <;> simp only [wordLt, beq_iff_eq, h]

theorem opfWord_type (ty : BitVec 3) (op : Nat) : opfWord (ty == 0) op =
    let lt (x y : Word) : Bool := if ty = 0 then x.slt y else x.ult y
    fun a b => match op with
      | 0 => a + b
      | 1 => if lt b a then b else a
      | 2 => if lt a b then b else a
      | 3 => a &&& b
      | 4 => a ||| b
      | _ => a ^^^ b := by
  funext a b
  simp only [opfWord, wordLt_type]

/-- Settles O3: the pairwise tree gives what the order gives for the associative integer operations, and the running prefix lane by lane. -/
theorem vectorReductions : Obligations.VectorReductions := by
  intro s
  refine ⟨fun f => ?vrdl, fun f => ?vred, fun f => ?vscan⟩
  case vrdl =>
    have he : exec (.vrdl f) s = execVrdl f s := rfl
    unfold execVrdl at he
    refine State.yields_wroteS rfl he fun t ht => ?_
    have hlane : bits f.x10.toNat 0 5 = f.x10.toNat % 32 := by simp [bits]
    simp only [ht.rdV, hlane, beq_iff_eq]
  case vred =>
    have hop : bits f.x10.toNat 0 3 = f.x10.toNat % 8 := by simp [bits]
    refine State.yields_mono rfl (State.yields_vred s f) fun _ t ht => ⟨_, ht, fun hF hL => ?_, fun hF hL => ?_, fun hF => ?_⟩
    · rw [State.redValue_lanes hF hL, hop]
      have hword {n : Nat} (hn : n ≠ 0) (h : f.x10.toNat % 8 = n) :
          BitVec.ofInt 64 (runOver (opfInt (f.x10.toNat % 8)) (fun l => laneInt (f.ty == 0) (s.rdV f.v l)) 0 (laneList s.mask)) =
            extWord (f.ty == 0) (runOver (opfWord (f.ty == 0) n) (s.rdV f.v) 0 (laneList s.mask)) := by
        rw [h]
        exact ofInt_runOver_opfInt _ hL hn
      refine ⟨fun h => ?_, fun h => ?_, fun h => ?_, fun h => ?_, fun h => ?_, fun h => ?_⟩
      · rw [h, runOver_add]
        simp only [laneInt, beq_iff_eq]
      all_goals
        rw [hword (by decide) h, extWord_type, opfWord_type]
        rfl
    · rw [State.redValue_none hF hL, hop]
      refine ⟨fun h => ?_, fun h => ?_, fun h => ?_, fun h => ?_⟩
      · obtain h | h | h := h <;> rw [h] <;> rfl
      all_goals
        rw [h]
        by_cases hty : f.ty = 0
        · simp only [hty]; rfl
        · simp only [hty, beq_eq_false_iff_ne.2 hty]; rfl
    · rw [State.redValue, if_pos hF, hop, opfFlt_eq]
      simp only [redIdentity_float] <;> rfl
  case vscan =>
    refine State.yields_mono rfl (State.yields_vscan s f) fun _ t ht => ?_
    have hop : bits f.vb.toNat 0 3 = f.vb.toNat % 8 := by simp [bits]
    have hword (isF : Bool) : scanWord s.fenv isF (f.ty == 0) (f.vb.toNat % 8) = fun a b =>
        if isF then BitVec.ofNat 32 (opfFlt s.fenv (f.vb.toNat % 8) a.toNat b.toNat) else opfWord (f.ty == 0) (f.vb.toNat % 8) a b := rfl
    rw [hop, hword, opfFlt_eq, opfWord_type] at ht
    exact ht

end Sys2Proof.Machine
end

section
/-! SUPPORT. The scalar words (R148 to R155): what each writes to sd. -/

namespace Sys2Proof.Machine

/-! ### Words that write sd from their sources -/

section
variable {s : State} {i : Instr}

theorem State.yields_sr3 {f : FmtSR} {op : DWord → DWord → DWord} (hw : wordInfo s i = some (scaInfo i)) (he : exec i s = sr3 i f op s) :
    s.yields i fun t => s.WroteS t f.sd (op (s.rdS f.sa) (s.rdS f.sb)) := by
  unfold sr3 at he
  exact State.yields_wroteS hw he fun t ht => by simp only [ht.rdS]

theorem State.yields_si2 {f : FmtSI} {op : DWord → DWord} (hw : wordInfo s i = some (scaInfo i)) (he : exec i s = si2 i f op s) :
    s.yields i fun t => s.WroteS t f.sd (op (s.rdS f.sa)) := by
  unfold si2 at he
  exact State.yields_wroteS hw he fun t ht => by simp only [ht.rdS]

theorem State.yields_sf3 {f : FmtSR} {op : Nat → Nat → Nat → Nat} (hw : wordInfo s i = some (scaFInfo i)) (he : exec i s = sf3 i f op s) :
    let lo (n : BitVec 6) : Nat := ((s.rdS n).setWidth 32 : Word).toNat
    s.yields i fun t => s.WroteS t f.sd (BitVec.ofNat 64 (op (lo f.sa) (lo f.sb) (lo f.sd))) := by
  unfold sf3 at he
  have hlo (x : DWord) : bits x.toNat 0 32 = (x.setWidth 32 : Word).toNat := by simp [bits]
  exact State.yields_wroteS hw he fun t ht => by simp only [ht.rdS, hlo]

/-- The value written may be named in another way, of a word whose own fields are legal. -/
theorem State.yields_wroteS_congr {w : WordInfo} {n : BitVec 6} {v v' : DWord} (hw : wordInfo s i = some w)
    (h : s.yields i fun t => s.WroteS t n v) (hv : w.wf = true → v = v') : s.yields i fun t => s.WroteS t n v' :=
  State.yields_mono hw h fun hwf _ ht => hv hwf ▸ ht

end

/-! ### Values of dwords (R149 to R151) -/

section
variable (u : Bool) (x y : DWord)

theorem dwInt_eq_elVal : dwInt u x = elVal (!u) x := by cases u <;> rfl

theorem mulh_eq : BitVec.ofInt 64 (dwInt u x * dwInt u y / 2 ^ 64) =
    if u then (x.setWidth 128 * y.setWidth 128).extractLsb' 64 64 else (x.signExtend 128 * y.signExtend 128).extractLsb' 64 64 := by
  have hhigh (v : Int) : BitVec.ofInt 64 (v / 2 ^ 64) = (BitVec.ofInt 128 v).extractLsb' 64 64 := by
    apply BitVec.eq_of_toNat_eq
    rw [BitVec.extractLsb'_toNat, BitVec.toNat_ofInt, BitVec.toNat_ofInt, Nat.shiftRight_eq_div_pow]
    omega
  rw [hhigh, BitVec.ofInt_mul]
  cases u with
  | true => simp [dwInt, BitVec.ofInt_natCast]
  | false => rfl

/-- Signed division rounds toward zero. -/
theorem ofInt_tdiv : BitVec.ofInt 64 (x.toInt.tdiv y.toInt) = x.sdiv y := by
  apply BitVec.eq_of_toInt_eq
  rw [BitVec.toInt_ofInt, BitVec.toInt_sdiv]

theorem divS_eq : divS u x y = if y = 0 then 0xFFFFFFFFFFFFFFFF else if u then x / y
    else if x = 0x8000000000000000 ∧ y = 0xFFFFFFFFFFFFFFFF then 0x8000000000000000 else x.sdiv y := by
  unfold divS
  split
  · rfl
  · cases u with
    | true =>
      rw [if_pos rfl, dwInt, dwInt, if_pos rfl, if_pos rfl, ← Int.ofNat_tdiv, BitVec.ofInt_natCast, ← BitVec.toNat_udiv, BitVec.ofNat_toNat,
        BitVec.setWidth_eq]
    | false =>
      rw [if_neg Bool.false_ne_true]
      split
      · next h => rw [h.1, h.2]; rfl
      · exact ofInt_tdiv x y

theorem remS_eq : remS u x y = if y = 0 then x else if u then x % y
    else if x = 0x8000000000000000 ∧ y = 0xFFFFFFFFFFFFFFFF then 0 else x - x.sdiv y * y := by
  have hsigned : BitVec.ofInt 64 (x.toInt.tmod y.toInt) = x - x.sdiv y * y := by
    rw [Int.tmod_def, Int.sub_eq_add_neg, BitVec.ofInt_add, BitVec.ofInt_neg, ← BitVec.sub_eq_add_neg, BitVec.ofInt_mul, BitVec.ofInt_toInt, BitVec.ofInt_toInt, ofInt_tdiv, BitVec.mul_comm]
  unfold remS
  split
  · rfl
  · cases u with
    | true =>
      rw [if_pos rfl, dwInt, dwInt, if_pos rfl, if_pos rfl, ← Int.ofNat_tmod, BitVec.ofInt_natCast, ← BitVec.toNat_umod, BitVec.ofNat_toNat,
        BitVec.setWidth_eq]
    | false =>
      rw [if_neg Bool.false_ne_true]
      split
      · next h => rw [h.1, h.2]; rfl
      · exact hsigned

theorem sbfeVal_eq (sg : Bool) : sbfeVal sg x y =
    let pos := y.toNat % 64
    let e := min (min (y.toNat / 256 % 128) 64) (64 - pos)
    let z : BitVec e := (x >>> pos).setWidth e
    if sg then z.signExtend 64 else z.setWidth 64 := by
  have hpos : bits y.toNat 0 6 = y.toNat % 64 := by simp [bits]
  have hlen : bits y.toNat 8 7 = y.toNat / 256 % 128 := by simp [bits]
  have hzext (pos e : Nat) : BitVec.ofNat 64 (bits x.toNat pos e) = ((x >>> pos).setWidth e).setWidth 64 := by
    rw [← ofNat_bits]
    apply BitVec.eq_of_toNat_eq
    simp [bits]
  simp only [sbfeVal, hpos, hlen, sext64_eq_signExtend, ofNat_bits, hzext]

theorem scmp_eq (c : Nat) : BitVec.ofNat 64 (boolNat (condCC c x y)) = if condCC c x y then 1 else 0 := by
  cases condCC c x y <;> rfl

theorem dwInt_lt : (if u then x.ult y else x.slt y) = decide (dwInt u x < dwInt u y) := by
  cases u <;> simp [dwInt, BitVec.ult, BitVec.slt]

theorem smin_eq : (if dwInt u x ≤ dwInt u y then x else y) = if (if u then y.ult x else y.slt x) then y else x := by
  rw [dwInt_lt]
  by_cases h : dwInt u x ≤ dwInt u y
  · rw [if_pos h, if_neg (by simpa using h)]
  · rw [if_neg h, if_pos (by simpa using h)]

theorem dwInt_inj {x y : DWord} (h : dwInt u x = dwInt u y) : x = y := by
  rw [← ofInt_elVal (g := !u) x, ← dwInt_eq_elVal, h, dwInt_eq_elVal, ofInt_elVal]

theorem smax_eq : (if dwInt u x ≤ dwInt u y then y else x) = if (if u then x.ult y else x.slt y) then y else x := by
  rw [dwInt_lt]
  by_cases h : dwInt u x < dwInt u y
  · rw [if_pos (Int.le_of_lt h), if_pos (by simpa using h)]
  · rw [if_neg (show ¬ decide (dwInt u x < dwInt u y) = true by simpa using h)]
    split
    · next hle => exact (dwInt_inj u (Int.le_antisymm hle (Int.not_lt.1 h))).symm
    · rfl

theorem smovh_eq (imm : BitVec 19) : (imm ++ x.setWidth 45 : DWord) = (x &&& 0x1FFFFFFFFFFF) ||| (imm.setWidth 64 <<< 45) := by
  have hlow : ((0x1FFFFFFFFFFF : Nat) : DWord) = (BitVec.allOnes 45).setWidth 64 := by decide
  ext i hi
  rw [BitVec.getElem_append, BitVec.getElem_or, BitVec.getElem_and, BitVec.getElem_shiftLeft, hlow, BitVec.getElem_setWidth, BitVec.getLsbD_allOnes]
  by_cases h : i < 45
  · simp [h, BitVec.getLsbD_eq_getElem hi]
  · have himm : i - 45 < 19 := by omega
    simp [h, BitVec.getLsbD_eq_getElem himm]

end

theorem imm_lt {imm : BitVec 13} (h : imm.ule 63 = true) : imm.toNat < 64 := by
  have hle : imm.toNat ≤ (63 : BitVec 13).toNat := by simpa [BitVec.ule] using h
  exact Nat.lt_succ_of_le hle

/-- Settles O9: each word writes sd with the value of its operation. -/
theorem scalarWords : Obligations.ScalarWords := by
  refine ⟨fun s => ⟨fun f => ?smov, fun f => ?sadd, fun f => ?ssub, fun f => ?smul, fun f => ?smulh, fun f => ?sdiv, fun f => ?srem, fun f => ?sand,
    fun f => ?sor, fun f => ?sxor, fun f => ?sshl, fun f => ?sshr, fun f => ?smin, fun f => ?smax, fun f => ?spopc, fun f => ?sclz, fun f => ?scmp,
    fun f => ?sbfe, fun f => ?saddi, fun f => ?sandi, fun f => ?sshli, fun f => ?sshri, fun f => ?smovi, fun f => ?smovh⟩,
    fun s => ⟨fun f => ?sfadd, fun f => ?sfmul, fun f => ?sfma, fun f => ?scvt⟩⟩
  case smov => exact State.yields_sr3 (op := fun x _ => x) rfl rfl
  case sadd => exact State.yields_sr3 (op := (· + ·)) rfl rfl
  case ssub => exact State.yields_sr3 (op := (· - ·)) rfl rfl
  case smul => exact State.yields_sr3 (op := (· * ·)) rfl rfl
  case smulh =>
    refine State.yields_wroteS_congr rfl (State.yields_sr3 (op := fun x y => BitVec.ofInt 64 (dwInt (f7bit f) x * dwInt (f7bit f) y / 2 ^ 64)) rfl rfl) fun _ => ?_
    exact mulh_eq _ _ _
  case sdiv => exact State.yields_wroteS_congr rfl (State.yields_sr3 (op := divS (f7bit f)) rfl rfl) fun _ => divS_eq _ _ _
  case srem => exact State.yields_wroteS_congr rfl (State.yields_sr3 (op := remS (f7bit f)) rfl rfl) fun _ => remS_eq _ _ _
  case sand => exact State.yields_sr3 (op := (· &&& ·)) rfl rfl
  case sor => exact State.yields_sr3 (op := (· ||| ·)) rfl rfl
  case sxor => exact State.yields_sr3 (op := (· ^^^ ·)) rfl rfl
  case sshl =>
    refine State.yields_wroteS_congr rfl (State.yields_sr3 (op := fun x y => x <<< (y.toNat % 64)) rfl rfl) fun _ => ?_
    simp
  case sshr =>
    refine State.yields_wroteS_congr rfl
      (State.yields_sr3 (op := fun x y => if f7bit f then x.sshiftRight (y.toNat % 64) else x >>> (y.toNat % 64)) rfl rfl) fun _ => ?_
    simp [f7bit, BitVec.sshiftRight']
  case smin =>
    refine State.yields_wroteS_congr rfl (State.yields_sr3 (op := fun x y => if dwInt (f7bit f) x ≤ dwInt (f7bit f) y then x else y) rfl rfl) fun _ => ?_
    exact smin_eq _ _ _
  case smax =>
    refine State.yields_wroteS_congr rfl (State.yields_sr3 (op := fun x y => if dwInt (f7bit f) x ≤ dwInt (f7bit f) y then y else x) rfl rfl) fun _ => ?_
    exact smax_eq _ _ _
  case spopc =>
    refine State.yields_wroteS_congr rfl (State.yields_sr3 (op := fun x _ => BitVec.ofNat 64 (popTo 64 x.toNat)) rfl rfl) fun _ => ?_
    rw [popTo_toNat (Nat.le_refl _)]
  case sclz =>
    refine State.yields_wroteS_congr rfl (State.yields_sr3 (op := fun x _ => BitVec.ofNat 64 (clzTo 64 x.toNat)) rfl rfl) fun _ => ?_
    exact ofNat_clzTo (by decide) _
  case scmp =>
    refine State.yields_wroteS_congr rfl (State.yields_sr3 (op := fun x y => BitVec.ofNat 64 (boolNat (condCC f.f7.toNat x y))) rfl rfl) fun _ => ?_
    exact scmp_eq _ _ _
  case sbfe => exact State.yields_wroteS_congr rfl (State.yields_sr3 (op := sbfeVal (f7bit f)) rfl rfl) fun _ => sbfeVal_eq _ _ _
  case saddi => exact State.yields_si2 (op := (· + f.imm.signExtend 64)) rfl rfl
  case sandi => exact State.yields_si2 (op := (· &&& f.imm.signExtend 64)) rfl rfl
  case sshli =>
    refine State.yields_wroteS_congr rfl (State.yields_si2 (op := fun x => x <<< (f.imm.toNat % 64)) rfl rfl) fun hwf => ?_
    rw [Nat.mod_eq_of_lt (imm_lt hwf)]
    rfl
  case sshri =>
    refine State.yields_wroteS_congr rfl (State.yields_si2 (op := fun x => x >>> (f.imm.toNat % 64)) rfl rfl) fun hwf => ?_
    rw [Nat.mod_eq_of_lt (imm_lt hwf)]
    rfl
  case smovi =>
    have he : exec (.smovi f) s = execSmovi f s := rfl
    unfold execSmovi at he
    exact State.yields_wroteS rfl he fun _ _ => rfl
  case smovh =>
    have he : exec (.smovh f) s = execSmovh f s := rfl
    unfold execSmovh at he
    exact State.yields_wroteS rfl he fun t ht => by simp only [ht.rdS, smovh_eq]
  case sfadd => exact State.yields_sf3 (op := fun x y _ => fmtF32.add envExact x y) rfl rfl
  case sfmul => exact State.yields_sf3 (op := fun x y _ => fmtF32.mul envExact x y) rfl rfl
  case sfma => exact State.yields_sf3 (op := fun x y z => fmtF32.fma envExact x y z) rfl rfl
  case scvt =>
    have he : exec (.scvt f) s = execScvt f s := rfl
    unfold execScvt at he
    refine State.yields_wroteS rfl he fun t ht => ?_
    have hcode : (f.f7.toNat = 0x02) = (f.f7 = 2) := propext ⟨fun h => BitVec.eq_of_toNat_eq h, fun h => h ▸ rfl⟩
    simp only [ht.rdS, ht.fmt, scvtVal, fmtF8NAN, hcode]

end Sys2Proof.Machine
end

section
/-! SUPPORT. The predicate words (R158). -/

namespace Sys2Proof.Machine

section
variable {s : State} {i : Instr}

theorem State.WroteVP.congr_preds {s t : State} {n : BitVec 6} {A : Word} {v : Nat → Word} {ps : List Nat} {p p' : Nat → Nat → Bool}
    (h : s.WroteVP t n A v ps p) (hp : ∀ m l, l < 32 → p m l = p' m l) : s.WroteVP t n A v ps p' :=
  { h with preds := fun m l hm hl => (h.preds m l hm hl).trans (by rw [hp m l hl]) }

/-- What a word that writes only predicates has written. -/
theorem State.HoldsVP.yields_wroteP {w : WordInfo} {body : State → Res} {ps : List Nat} {p : Nat → Nat → Bool}
    (hw : wordInfo s i = some w) (he : exec i s = runWord w body s)
    (hb : ∀ t, s.Entered t → ∃ t', body t = .done t' ∧ s.HoldsVP t' s.rdV
      (fun k => Store.get false s.ccrew.regPoison k && !(ps.any fun m => m != 0 && k == regKey s.cur.tid (64 + m))) p) :
    s.yields i fun t => s.WroteP t ps p := by
  refine State.HoldsVP.yields hw he fun t ht => ?_
  obtain ⟨t', hbody, hvp⟩ := hb t ht
  exact ⟨t', hbody, hvp.congr (fun m l _ => by simp) (fun k => by simp only [laneMark_zero, Bool.not_false, Bool.and_true]) fun _ _ _ => rfl⟩

/-- A word that makes a predicate of two (R158). -/
theorem State.yields_pr3 {f : FmtSR} {op : Word → Word → Word} (hw : wordInfo s i = some (predInfo i)) (he : exec i s = pr3 i f op s) :
    s.yields i fun t => s.WroteP t [f.sd.toNat] fun m l =>
      if m = f.sd.toNat then (op (s.rdP f.sa.toNat) (s.rdP f.sb.toNat)).getLsbD l else s.oldP m l := by
  unfold pr3 at he
  refine State.HoldsVP.yields_wroteP hw he fun t ht => ⟨_, rfl, ?_⟩
  simp only [ht.rdP]
  exact (ht.holdsVP.wrP _ _).congr (fun _ _ _ => rfl) (fun k => by simp) fun _ _ _ => rfl

theorem lowBit_eq (n v : Nat) : lowBit n v = ((List.range n).find? v.testBit).getD n := by
  induction n generalizing v with
  | zero => rfl
  | succ n ih =>
    rw [lowBit, List.range_succ_eq_map, List.find?_cons, List.find?_map, ih]
    by_cases hv : v % 2 = 1
    · simp [hv, Nat.testBit_zero]
    · have htail : v.testBit ∘ Nat.succ = (v / 2).testBit := funext fun k => Nat.testBit_succ v k
      have hhead : v.testBit 0 = false := by simp [Nat.testBit_zero, hv]
      rw [if_neg hv, hhead, htail]
      cases (List.range n).find? (v / 2).testBit <;> simp [Nat.add_comm]

theorem append_word (hi lo : Word) : (hi ++ lo : BitVec (32 + 32)) = BitVec.ofNat 64 (lo.toNat + 2 ^ 32 * hi.toNat) := by
  apply BitVec.eq_of_toNat_eq
  rw [BitVec.toNat_append, BitVec.toNat_ofNat, ← Nat.shiftLeft_add_eq_or_of_lt lo.isLt, Nat.shiftLeft_eq]
  have hhi := hi.isLt
  have hlo := lo.isLt
  omega

end

/-- Settles O10: predicates are written whole. -/
theorem predicateWords : Obligations.PredicateWords := by
  intro s p put
  refine ⟨fun f => ?pand, fun f => ?por, fun f => ?pxor, fun f => ?pandn, fun f => ?pmovsp, fun f => ?pmovps, fun f => ?pcnt, fun f => ?pfirst⟩
  case pand =>
    refine State.yields_mono rfl (State.yields_pr3 (op := (· &&& ·)) rfl rfl) fun _ _ ht => ht.congr_preds fun m l _ => ?_
    rw [BitVec.getLsbD_and]
  case por =>
    refine State.yields_mono rfl (State.yields_pr3 (op := (· ||| ·)) rfl rfl) fun _ _ ht => ht.congr_preds fun m l _ => ?_
    rw [BitVec.getLsbD_or]
  case pxor =>
    refine State.yields_mono rfl (State.yields_pr3 (op := (· ^^^ ·)) rfl rfl) fun _ _ ht => ht.congr_preds fun m l _ => ?_
    rw [BitVec.getLsbD_xor]
  case pandn =>
    refine State.yields_mono rfl (State.yields_pr3 (op := fun x y => x &&& ~~~y) rfl rfl) fun _ _ ht => ht.congr_preds fun m l hl => ?_
    simp only [BitVec.getLsbD_and, BitVec.getLsbD_not, hl, decide_true, Bool.true_and]
    rfl
  case pmovsp =>
    have he : exec (.pmovsp f) s = execPmovsp f s := rfl
    unfold execPmovsp at he
    refine State.HoldsVP.yields_wroteP rfl he fun t ht => ⟨_, rfl, ?_⟩
    simp only [ht.rdS, f7bit]
    have hlow := ht.holdsVP.wrP f.sd.toNat ((s.rdS f.sa).setWidth 32)
    cases hf : f.f7.getLsbD 0 with
    | true =>
      refine (hlow.wrP (f.sd.toNat + 1) ((s.rdS f.sa >>> 32).setWidth 32)).congr (fun _ _ _ => rfl) (fun k => ?_) fun m l hl => ?_
      · simp [Bool.and_assoc]
      · by_cases hm : m = f.sd.toNat
        · simp [hm, hl]
        · by_cases hm' : m = f.sd.toNat + 1 <;> simp [hm, hm', hl]
    | false =>
      refine hlow.congr (fun _ _ _ => rfl) (fun k => by simp) fun m l hl => ?_
      by_cases hm : m = f.sd.toNat <;> simp [hm, hl]
  case pmovps =>
    have he : exec (.pmovps f) s = execPmovps f s := rfl
    unfold execPmovps at he
    refine State.yields_wroteS rfl he fun t ht => ?_
    simp only [ht.rdP, f7bit, append_word]
    cases f.f7.getLsbD 0 with
    | true => rfl
    | false =>
      simp only [Bool.false_eq_true, if_false, Nat.add_zero]
      rw [BitVec.ofNat_toNat]
  case pcnt =>
    have he : exec (.pcnt f) s = execPcnt f s := rfl
    unfold execPcnt at he
    exact State.yields_wroteS rfl he fun t ht => by simp only [ht.rdP, popTo_toNat (Nat.le_refl _)]; rfl
  case pfirst =>
    have he : exec (.pfirst f) s = execPfirst f s := rfl
    unfold execPfirst at he
    exact State.yields_wroteS rfl he fun t ht => by simp only [ht.rdP, lowBit_eq]; rfl

end Sys2Proof.Machine
end

section
/-! SUPPORT. What a word leaves when it falls through, and the special registers (R116, R156, R157). -/

namespace Sys2Proof.Machine

/-! ### Falling through -/

/-- A slot that falls through the word that `cur` names (R54, R62). -/
def State.fallSlot (s : State) (x : Slot) : Slot :=
  if s.cur.word < s.cur.count then
    { x with word := s.cur.word + 1, started := true, st := .ready, wait := none, waitSince := 0, holds := true }
  else (x.at s.nextClause).endClause

theorem State.pair_congr {s t : State} (hcur : t.cur = s.cur) : t.pair = s.pair := by simp only [State.pair, hcur]

theorem State.nextClause_congr {s t : State} (hcur : t.cur = s.cur) : t.nextClause = s.nextClause := by simp only [State.nextClause, hcur]

/-- A slot that does not count clauses down only changes its place. -/
theorem State.clauseEnd_unstepped {t : State} {g : Slot → Slot} (hu : t.unstepped = true) (hg : (g t.cslot).endClause.priv = t.cslot.priv) :
    (t.modCSlot g).clauseEnd t.pair = t.modCSlot fun x => (g x).endClause := by
  have hend : (t.modSlot t.pair g).clauseEnd t.pair = (t.modSlot t.pair fun x => (g x).endClause).countStep t.pair := State.clauseEnd_slot _ _ _
  have hid : (t.modCSlot fun x => (g x).endClause).countStep t.pair = t.modCSlot fun x => (g x).endClause := by
    refine State.countStep_id ?_
    have hslot : (t.modCSlot fun x => (g x).endClause).slot t.pair = (g t.cslot).endClause := State.modCSlot_cslot t _
    have hleft : ((t.modCSlot fun x => (g x).endClause).arch t.pair.uid t.pair.tid).stepLeft = t.carch.stepLeft := by
      show (t.modCSlot fun x => (g x).endClause).carch.stepLeft = _
      rw [State.modCSlot_carch]; cases t.cur.slotB <;> rfl
    rw [hslot, hg, hleft]
    simpa [State.unstepped, State.pair] using hu
  exact hend.trans hid

theorem State.advance_unstepped {t : State} (hu : t.unstepped = true) : t.advance = t.modCSlot t.fallSlot := by
  unfold State.advance
  by_cases hlt : t.cur.word < t.cur.count
  · have hfall : t.fallSlot = fun x : Slot =>
        { x with word := t.cur.word + 1, started := true, st := .ready, wait := none, waitSince := 0, holds := true } :=
      funext fun x => if_pos hlt
    rw [if_pos hlt, hfall]
  · have hfall : t.fallSlot = fun x => (x.at t.nextClause).endClause := funext fun x => if_neg hlt
    rw [if_neg hlt, hfall]
    exact State.clauseEnd_unstepped hu rfl

theorem State.goTo_unstepped {t : State} (hu : t.unstepped = true) (pc : Word) (clears : Bool) :
    t.goTo pc clears = t.modCSlot fun x => ({ x.at pc with inTrap := x.inTrap && !clears } : Slot).endClause :=
  State.clauseEnd_unstepped (g := fun x => { x.at pc with inTrap := x.inTrap && !clears }) hu rfl

theorem State.fallSlot_priv (s : State) (x : Slot) : (s.fallSlot x).priv = x.priv := by
  unfold State.fallSlot; split <;> rfl

/-- The state in which the meaning of a word acts: it has entered the window, or the window has emptied (R120, R121). -/
def State.enter (s : State) (w : WordInfo) : State :=
  let s := s.modThread s.cur.uid s.cur.tid Thread.keepPast
  if w.old then s.drainWindow s.cur.uid s.cur.tid else s.enterWindow s.cur.uid s.cur.tid (runWord.engOf w.cls) w.caps

section
variable {s : State} {i : Instr} {w : WordInfo}

theorem State.enter_entered (s : State) (w : WordInfo) : s.Entered (s.enter w) := by
  obtain ⟨pk, pa, pp⟩ := State.keepPast_kept s
  unfold State.enter
  cases w.old
  · obtain ⟨k, a, p⟩ := State.enterWindow_kept (s.modThread s.cur.uid s.cur.tid Thread.keepPast) (runWord.engOf w.cls) w.caps
    exact ⟨pk.trans k, a.trans pa, p.trans pp⟩
  · obtain ⟨k, a, p⟩ := State.drainWindow_kept (s.modThread s.cur.uid s.cur.tid Thread.keepPast)
    exact ⟨pk.trans k, a.trans pa, p.trans pp⟩

/-- A word that executes runs its meaning. -/
theorem runWord_enter (hw : wordInfo s i = some w) (h : s.executes i = true) (body : State → Res) :
    runWord w body s = .next (s.settle w.old (body (s.enter w))) := by
  simp only [State.executes, hw, Bool.and_eq_true, Bool.not_eq_true', Option.isNone_iff_eq_none] at h
  obtain ⟨⟨⟨hready, hfault⟩, hpoison⟩, hfence⟩ := h
  have hfree : (!s.midAtomic && s.fencePending.any fun k => fenceHolds k w.cls) = false := by
    cases hm : s.midAtomic with
    | true => rfl
    | false => simpa [hm] using hfence
  unfold runWord
  simp only [hready, hfault, hpoison, hfree, Bool.not_true, Bool.false_eq_true, if_false]
  rfl

/-- The word falls through from a state in which its slot counts no clauses down. -/
theorem State.Entered.unstepped {t : State} (h : s.Entered t) : t.unstepped = s.unstepped := by
  simp only [State.unstepped, h.arch, h.cur, h.cslot]

/-- What a word leaves whose meaning is carried out. -/
theorem State.yields_of_next {body : State → Res} {P : State → Prop} (hw : wordInfo s i = some w) (he : exec i s = runWord w body s)
    (hb : s.unstepped = true → ∃ t', body (s.enter w) = .done t' ∧ t'.unstepped = true ∧ P (t'.modCSlot t'.fallSlot)) : s.yields i P := by
  intro hx hu
  obtain ⟨t', hbody, hstep, hP⟩ := hb hu
  refine ⟨_, he.trans (runWord_enter hw hx body), ?_⟩
  rw [hbody]
  show P t'.advance
  rwa [State.advance_unstepped hstep]

theorem State.wrS_unstepped {t : State} (n : BitVec 6) (v : DWord) : (t.wrS n v).unstepped = t.unstepped := by
  have hslot (z : State) (f : Arch → Arch) (hf : ∀ a b, (f a).slot b = a.slot b) (hl : ∀ a, (f a).stepLeft = a.stepLeft) :
      (z.modCArch f).unstepped = z.unstepped := by
    have hc : (z.modCArch f).cslot = z.cslot := by simp only [State.cslot, State.modCArch_carch, hf]; rfl
    simp only [State.unstepped, hc, State.modCArch_carch, hl]
    rfl
  obtain ⟨hkept, harch, -⟩ := State.cleanReg_kept t (sKey n)
  have hcur := hkept.toKeptPackage.cur
  unfold State.wrS
  split
  · refine hslot _ _ (fun a b => ?_) fun _ => rfl
    cases b <;> rfl
  · have hclean : (t.cleanReg (sKey n)).unstepped = t.unstepped := by simp only [State.unstepped, State.cslot, harch, hcur]
    rw [← hclean]
    refine hslot _ _ (fun a b => ?_) fun _ => rfl
    cases b <;> rfl

theorem State.wrS_clock {t : State} (n : BitVec 6) (v : DWord) : (t.wrS n v).now = t.now ∧ (t.wrS n v).cycles = t.cycles := by
  unfold State.wrS
  split <;> exact ⟨rfl, rfl⟩

/-- A word that writes a scalar register with a value that may name the clock: it is that of the next state. -/
theorem State.yields_wroteS_clock {body : State → Res} {n : BitVec 6} {v : Nat → Nat → DWord} (hw : wordInfo s i = some w)
    (he : exec i s = runWord w body s) (hb : ∀ t, s.Entered t → body t = .done (t.wrS n (v t.now t.cycles))) :
    s.yields i fun t => s.WroteS t n (v t.now t.cycles) := by
  intro hx hu
  have hbody := hb _ (s.enter_entered w)
  generalize hv : v (s.enter w).now (s.enter w).cycles = x at hbody
  have hsame : exec i s = runWord w (fun t => .done (t.wrS n x)) s := by
    rw [he, runWord_enter hw hx, runWord_enter hw hx, hbody]
  obtain ⟨t, ht, hwrote⟩ := State.yields_wroteS hw hsame (fun _ _ => rfl) hx hu
  refine ⟨t, ht, ?_⟩
  have hadv : t = ((s.enter w).wrS n x).advance := by
    rw [hsame, runWord_enter hw hx] at ht
    exact (Host.Outcome.next.inj ht).symm
  have hstep : ((s.enter w).wrS n x).unstepped = true := by rw [State.wrS_unstepped, (s.enter_entered w).unstepped, hu]
  have hclock : t.now = (s.enter w).now ∧ t.cycles = (s.enter w).cycles := by
    rw [hadv, State.advance_unstepped hstep]
    exact State.wrS_clock n x
  show s.WroteS t n (v t.now t.cycles)
  rw [hclock.1, hclock.2, hv]
  exact hwrote

end

/-! ### `srd`, `swr` and `sfmt` -/

section
variable {s t : State}

theorem State.Entered.core (h : s.Entered t) (n : Nat) : t.core n = s.core n := by
  rw [State.core, h.package]; rfl

/-- The decision-queue position of the thread stays. -/
theorem State.Entered.dqPos (h : s.Entered t) : t.cthr.dqPos = s.cthr.dqPos := by rw [h.thread]

theorem State.Entered.dqAvail (h : s.Entered t) : t.dqAvail = s.dqAvail := by
  simp only [State.dqAvail, h.cur, h.dqPos]
  rw [h.ccrew]

/-- The special registers but the clock's stand as before (R116). -/
theorem State.Entered.special (h : s.Entered t) (n : Nat) : t.special n =
    if n = 0x10 then BitVec.ofNat 64 t.now else if n = 0x11 then BitVec.ofNat 64 (t.cycles + (s.core s.ccrew.core).skew) else s.special n := by
  have hcore : t.ccrew.core = s.ccrew.core := by rw [h.ccrew]
  have hidx : t.ccrew.idx = s.ccrew.idx := by rw [h.ccrew]
  have htask : t.ccrew.task = s.ccrew.task := by rw [h.ccrew]
  by_cases h10 : n = 0x10
  · rw [if_pos h10, h10]; rfl
  · by_cases h11 : n = 0x11
    · rw [if_neg h10, if_pos h11, h11, ← hcore, ← h.core]; rfl
    · rw [if_neg h10, if_neg h11]
      simp only [State.special, h.cur, h.mask, h.cslot, h.fmt, h.chdr, h.widBase, h.arch, h.dqAvail, h.core, hcore, hidx, htask]
      split <;> first | rfl | contradiction

end

theorem widField_eq (w : List Nat) (wid n : Nat) : widField w wid n = wid / 2 ^ (w.take n).sum % 2 ^ w.getD n 0 := by
  rw [widField, bits, widLow, ← List.sum_eq_foldl]

/-- A word that writes FMT (R113, R114). -/
theorem State.yields_wrFmt {s : State} {i : Instr} {w : WordInfo} {body : State → Res} {v : Word} (hw : wordInfo s i = some w)
    (he : exec i s = runWord w body s) (hb : ∀ t, s.Entered t → body t = .done (t.wrFmt v)) :
    s.yields i fun t => s.WroteFmt t (v &&& 0xFFFFFF) := by
  refine State.yields_of_arch (f := fun a => a.modSlot s.cur.slotB fun x => { x with fmt := v &&& 0xFFFFFF }) (m := s.ccrew.regPoison) hw he
    (fun t ht => ⟨t, ?_, State.KeptThread.refl t, rfl, ht.poison⟩) ?_ ?_ ?_ fun t hfell harch hpoison => ?_
  · rw [hb t ht, ← ht.cur]; rfl
  · cases s.cur.slotB <;> rfl
  · cases h : s.cur.slotB <;> simp [Arch.modSlot, State.cslot, h]
  · cases s.cur.slotB <;> rfl
  · have hslot : (s.carch.modSlot s.cur.slotB fun x => { x with fmt := v &&& 0xFFFFFF }).slot s.cur.slotB = { s.cslot with fmt := v &&& 0xFFFFFF } := by
      simp [State.cslot]
    rw [hslot] at hfell
    refine ⟨hfell, hpoison, ?_⟩
    rw [harch]; cases s.cur.slotB <;> rfl

/-- Settles O11. -/
theorem specialRegisters : Obligations.SpecialRegisters := by
  intro s
  refine ⟨fun f => ?srd, fun f => ?swr, fun f => ?sfmt⟩
  case srd =>
    have he : exec (.srd f) s = execSrd f s := rfl
    unfold execSrd at he
    have hread : s.yields (.srd f) fun t => s.WroteS t f.sd (if f.imm.toNat = 0x10 then BitVec.ofNat 64 t.now
        else if f.imm.toNat = 0x11 then BitVec.ofNat 64 (t.cycles + (s.core s.ccrew.core).skew) else s.special f.imm.toNat) :=
      State.yields_wroteS_clock (v := fun now cycles => if f.imm.toNat = 0x10 then BitVec.ofNat 64 now
        else if f.imm.toNat = 0x11 then BitVec.ofNat 64 (cycles + (s.core s.ccrew.core).skew) else s.special f.imm.toNat) rfl he
        fun t ht => by rw [ht.special]
    refine State.yields_mono rfl hread fun hwf t ht => ⟨_, ht, ?_⟩
    have hn : f.imm.toNat ≤ 0x19 := by
      have hwf' : f.imm.ule 0x19 = true := hwf
      simpa [BitVec.ule] using hwf'
    generalize f.imm.toNat = n at hn
    have hfield (k : Nat) : widField s.chdr.widw s.widBase k = s.widBase / 2 ^ (s.chdr.widw.take k).sum % 2 ^ s.chdr.widw.getD k 0 := widField_eq _ _ _
    obtain rfl | hlow : n = 25 ∨ n ≤ 24 := by omega
    · show BitVec.ofNat 64 s.dqAvail = _
      rw [State.dqAvail]
      cases isLead s.cur.tid <;> cases isHandler s.cur.tid <;> rfl
    have hcases : n = 0 ∨ n = 1 ∨ n = 2 ∨ n = 3 ∨ n = 4 ∨ n = 5 ∨ n = 6 ∨ n = 7 ∨ n = 8 ∨ n = 9 ∨ n = 10 ∨ n = 11 ∨ n = 12 ∨ n = 13 ∨
        n = 14 ∨ n = 15 ∨ n = 16 ∨ n = 17 ∨ n = 18 ∨ n = 19 ∨ n = 20 ∨ n = 21 ∨ n = 22 ∨ n = 23 ∨ n = 24 := by omega
    rcases hcases with rfl | rfl | rfl | rfl | rfl | rfl | rfl | rfl | rfl | rfl | rfl | rfl | rfl | rfl | rfl | rfl | rfl | rfl | rfl | rfl | rfl | rfl | rfl | rfl | rfl
    any_goals rfl
    all_goals exact congrArg (BitVec.ofNat 64) (hfield _)
  case swr =>
    have he : exec (.swr f) s = execSwr f s := rfl
    unfold execSwr at he
    exact State.yields_wrFmt rfl he fun t ht => by rw [ht.rdS]
  case sfmt =>
    have he : exec (.sfmt f) s = execSfmt f s := rfl
    unfold execSfmt at he
    exact State.yields_wrFmt rfl he fun t ht => by rw [ht.rdS, ht.rdS, ht.fmt]

end Sys2Proof.Machine
end

section
/-! SUPPORT. Sample words of the manual, and what reset leaves. -/

namespace Sys2Proof.Machine

/-- Settles O59: the decoder computes on each word. -/
theorem sampleWordsDecode : Obligations.SampleWordsDecode := by
  unfold Obligations.SampleWordsDecode
  repeat' apply And.intro
  all_goals rfl

/-- The journal that reset leaves is empty, and so in order. -/
theorem journalInOrder_reset : State.reset.JournalInOrder :=
  ⟨rfl, ⟨Nat.zero_le _, Nat.zero_le _⟩, List.Pairwise.nil, fun _ hr => absurd hr List.not_mem_nil⟩

/-- Settles O55: the fields and tables of the reset state. -/
theorem resetValues : Obligations.ResetValues := by
  refine ⟨rfl, rfl, rfl, rfl, rfl, rfl, rfl, rfl, rfl, rfl, rfl, rfl, rfl, rfl, journalInOrder_reset, rfl, rfl, fun _ => ?_, fun _ => ?_, fun _ => ?_,
    fun _ _ => ?_, fun _ => ?_, fun _ _ => ?_, fun _ _ => ?_⟩
  · exact ⟨rfl, rfl, rfl, rfl, rfl⟩
  · exact ⟨rfl, rfl, rfl, rfl, rfl⟩
  · exact ⟨rfl, rfl, fun _ => ⟨rfl, rfl⟩⟩
  · exact ⟨rfl, rfl⟩
  · exact ⟨rfl, rfl⟩
  · show HEntry.valid {} = false
    decide
  · rfl

/-! ### What a selected pair runs (R54 to R66) -/

section
variable {u : State} {p : PairRef}

theorem toNat_append_add {m n : Nat} (x : BitVec m) (y : BitVec n) : (x ++ y).toNat = x.toNat * 2 ^ n + y.toNat := by
  rw [BitVec.toNat_append, ← Nat.shiftLeft_add_eq_or_of_lt y.isLt, Nat.shiftLeft_eq]

theorem wordOfBytes_eq (b0 b1 b2 b3 : Byte) : wordOfBytes b0 b1 b2 b3 = BitVec.ofNat 32 (leNat [b0, b1, b2, b3]) := by
  have h0 := b0.isLt
  have h1 := b1.isLt
  have h2 := b2.isLt
  have h3 := b3.isLt
  apply BitVec.eq_of_toNat_eq
  simp only [wordOfBytes, toNat_append_add, BitVec.toNat_ofNat, leNat]
  omega

/-- The bytes at a word's place are fetched where the code object lets them be (R63). -/
theorem State.fetchWord_eq {c : Crew} {y : Slot} {off : Nat} {w : Word} (eng : Nat) (hsize : off + 4 ≤ (u.codeOf c y).size)
    (hlive : y.priv = none → u.step5 c.pref (u.codeOf c y) false false c.core = none)
    (hpage : u.missingPage (u.codeDev c y) (u.codeOf c y) off 4 = none)
    (hbytes : let a := memKey (u.codeDev c y) ((u.codeOf c y).base + off)
      wordOfBytes (u.peek (.mem a)) (u.peek (.mem (a + 1))) (u.peek (.mem (a + 2))) (u.peek (.mem (a + 3))) = w) :
    u.fetchWord c y eng off = .word w := by
  have hread (a : Nat) : u.rd32 a = wordOfBytes (u.peek (.mem a)) (u.peek (.mem (a + 1))) (u.peek (.mem (a + 2))) (u.peek (.mem (a + 3))) := by
    rw [wordOfBytes_eq]; rfl
  have hdrop : (y.priv.isNone && (u.step5 c.pref (u.codeOf c y) false false c.core).isSome) = false := by
    cases h : y.priv with
    | none => simp [hlive h]
    | some _ => rfl
  unfold State.fetchWord
  simp only [show ¬ (u.codeOf c y).size < off + 4 by omega, if_false, hdrop, Bool.false_eq_true, hpage, hread, hbytes]

/-- Fetching a word runs the instruction that it decodes to, or the word as one without a meaning (R62, R81). -/
theorem State.fetchAt_go {k : Nat} {h : Header} {w : Word} (hfits : ¬ (isTransferWord h.cls w = true ∧ k < h.count))
    (hword : u.fetchWord (u.crew p.uid) (u.slot p) (engOfCls h.cls) ((u.slot p).pc.toNat + 4 * k) = .word w) :
    (u.fetchAt p k h).go = match decode h.cls w with
      | some i => exec i ((u.setCur p (u.slot p).pc k h).rankAt p k h)
      | none => exec (.reservedOpcodeWord h.cls w) ((u.setCur p (u.slot p).pc k h).rankAt p k h) := by
  unfold State.fetchAt
  simp only [hword]
  have hplace : (isTransferWord h.cls w && decide (k < h.count)) = false := by simpa using hfits
  rw [hplace]
  cases decode h.cls w <;> rfl

end

section
variable {s : State} {p : PairRef}

/-- The state in which a selected pair issues: what holds it has been looked at again, and it stands READY if its wait is over. -/
def State.selected (s : State) (p : PairRef) : State :=
  let e := (s.refreshBlk p.uid p.tid).modArch p.uid p.tid fun a => { a with starveCyc := none }
  if e.wakes p then e.resume p else e

/-- What it issues from there. -/
def State.issueSelected (v : State) (p : PairRef) : Fetched :=
  let x := v.slot p
  if x.started then match decodeHeader x.hw with
    | some h => (if x.holds then v else v.payTrace p x.pc x.word).fetchAt p x.word h
    | none => .does (.next v)
  else v.atBoundary p

theorem State.issueNext_eq (s : State) (p : PairRef) : s.issueNext p = (s.selected p).issueSelected p := rfl

variable {v : State} {h : Header} {w : Word}

/-- A pair inside its clause issues its next word. -/
theorem State.issueSelected_inside (hstarted : (v.slot p).started = true) (hhdr : decodeHeader (v.slot p).hw = some h) :
    v.issueSelected p = (if (v.slot p).holds then v else v.payTrace p (v.slot p).pc (v.slot p).word).fetchAt p (v.slot p).word h := by
  simp only [State.issueSelected, hstarted, if_true, hhdr]

/-- A pair at a clause boundary with nothing before its clause stops at a breakpoint, or starts the clause. -/
theorem State.issueSelected_boundary (hstarted : (v.slot p).started = false)
    (hclear : (v.slot p).word ≠ 0 ∨ (v.slot p).priv ≠ none ∨ ((v.thread p.uid p.tid).pendOf p.slotB = [] ∧
      Store.get 0 (v.arch p.uid p.tid).stepLeft (boolNat p.slotB) ≠ 1))
    (hswap : (v.thread p.uid p.tid).swapped = true ∨ (v.thread p.uid p.tid).arch.swapDue = none)
    (hword : v.fetchWord (v.crew p.uid) (v.slot p) 0 (v.slot p).pc.toNat = .word w)
    (hhdr : decodeHeader w = some h) (htoks : (v.thread p.uid p.tid).tokensClear h.twait = true) (hcount : (v.slot p).word ≤ h.count) :
    v.issueSelected p = if (v.slot p).word ≠ 0 ∨ (v.slot p).priv ≠ none ∨ (v.slot p).skipBp = true ∨ (v.crew p.uid).bpHits p (v.slot p).pc = 0
      then (v.startClause p w h).fetchAt p (max 1 (v.slot p).word) h else .stop (v.breakHit p) := by
  have hthread : (v.crew p.uid).thread p.tid = v.thread p.uid p.tid := rfl
  have hslot : (v.arch p.uid p.tid).slot p.slotB = v.slot p := rfl
  have harch : (v.thread p.uid p.tid).arch = v.arch p.uid p.tid := rfl
  have hpend : (!(v.slot p).word != 0 && (v.slot p).priv.isNone && !((v.thread p.uid p.tid).pendOf p.slotB).isEmpty) = false := by
    obtain h | h | ⟨h, -⟩ := hclear
    · simp [h]
    · simp [h]
    · simp [h]
  have hstep : (!(v.slot p).word != 0 && (v.slot p).priv.isNone && decide (Store.get 0 (v.arch p.uid p.tid).stepLeft (boolNat p.slotB) = 1)) = false := by
    obtain h | h | ⟨-, h⟩ := hclear
    · simp [h]
    · simp [h]
    · simp [h]
  have hage : (!(v.thread p.uid p.tid).swapped && (v.arch p.uid p.tid).swapDue.isSome) = false := by
    obtain h | h := hswap
    · simp [h]
    · rw [← harch, h]; simp
  unfold State.issueSelected State.atBoundary
  simp only [hstarted, Bool.false_eq_true, if_false, hthread, hslot, harch, hpend, hstep, hage, hword, hhdr, htoks, Bool.not_true,
    show ¬ h.count < (v.slot p).word by omega]
  by_cases hpass : (v.slot p).word ≠ 0 ∨ (v.slot p).priv ≠ none ∨ (v.slot p).skipBp = true ∨ (v.crew p.uid).bpHits p (v.slot p).pc = 0
  · rw [if_pos hpass, if_neg]
    obtain h | h | h | h := hpass <;> simp [h]
  · rw [if_neg hpass, if_pos]
    simpa [not_or, and_assoc] using hpass

end

theorem step_agenda {s : State} {m : Move} {rest : List Move} (h : s.agenda = m :: rest) :
    step s = m.act.go { s with agenda := rest, now := s.now + m.dNs, cycles := s.cycles + m.dCyc } := by
  rw [step, h]
  rfl

/-- Settles O58. -/
theorem stepRunsDecodedWord : Obligations.StepRunsDecodedWord := by
  intro s p back only m rest s1 e1 s2 x bytes fits u inside boundary passes
  have hfetch (v : State) (eng k : Nat) (w : Word) (h : bytes v k w) (hpc : (v.slot p).pc = x.pc) :
      v.fetchWord (v.crew p.uid) (v.slot p) eng ((v.slot p).pc.toNat + 4 * k) = .word w := by
    obtain ⟨hsize, hlive, hpage, hword⟩ := h
    rw [hpc]
    exact State.fetchWord_eq eng hsize hlive hpage hword
  have hrun {v : State} {k : Nat} {h : Header} {w : Word} (hb : bytes v k w) (hpc : (v.slot p).pc = x.pc) (hfits : fits h k w) :
      (v.fetchAt p k h).go = match decode h.cls w with
        | some i => exec i ((v.setCur p x.pc k h).rankAt p k h)
        | none => exec (.reservedOpcodeWord h.cls w) ((v.setCur p x.pc k h).rankAt p k h) := by
    rw [State.fetchAt_go hfits (hfetch v _ k w hb hpc), hpc]
  refine ⟨fun hagenda => ?_, fun hagenda hopen => ?nothing⟩
  case nothing =>
    simp only [step, hagenda, hopen, State.idleTick, State.pass]
  have hstep := step_agenda hagenda
  refine ⟨fun hact => ?idle, fun i hact hf => ?fetch, fun i hact hf => ?event, fun hact hpick => ?busy, fun hact hpick => ?issue⟩
  case idle => rw [hstep, hact]; rfl
  case fetch => rw [hstep, hact, Act.go, if_pos hf]; rfl
  case event => rw [hstep, hact, Act.go, if_neg (by rw [hf]; decide)]
  case busy =>
    rw [hstep, hact, Act.go, issuePair, if_neg (by rw [hpick]; decide)]
    rfl
  case issue =>
    have hgo : step s = (s2.issueSelected p).go := by
      rw [hstep, hact, Act.go, issuePair, if_pos hpick]
      rfl
    refine ⟨fun h w hstarted hhdr hb hpc hf => ?_, fun h hw hbd hpass => ?_, fun h hw w hbd hpass => ?_⟩
    · have hnext : step s = (u.fetchAt p x.word h).go := by rw [hgo, State.issueSelected_inside hstarted hhdr]
      rw [hnext, hrun hb hpc hf]
      exact ⟨fun i hi => by rw [hi], fun hi => by rw [hi]⟩
    · obtain ⟨hstarted, hclear, hswap, hb, hhdr, htoks, hcount⟩ := hbd
      rw [hgo, State.issueSelected_boundary hstarted hclear hswap (hfetch s2 0 0 hw hb rfl) hhdr htoks hcount, if_neg hpass]
      rfl
    · obtain ⟨hstarted, hclear, hswap, hb, hhdr, htoks, hcount⟩ := hbd
      intro v hbv hpc hf
      have hnext : step s = (v.fetchAt p (max 1 x.word) h).go := by
        rw [hgo, State.issueSelected_boundary hstarted hclear hswap (hfetch s2 0 0 hw hb rfl) hhdr htoks hcount, if_pos hpass]
      rw [hnext, hrun hbv hpc hf]
      exact ⟨fun i hi => by rw [hi], fun hi => by rw [hi]⟩

end Sys2Proof.Machine
end

section
/-! SUPPORT. What the trace packets of a word may change (R425), and the transfers of control (R131, R145, R146). -/

namespace Sys2Proof.Machine

/-! ### Trace packets -/

/-- What the packets of crew `u` may change: the crew's trace state, the trace ring in memory with what its writes leave in the caches,
the port, and the count of free choices. -/
structure State.Traced (u : Nat) (s t : State) : Prop where
  package : t = { s with crews := t.crews, freeCtr := t.freeCtr, mem := t.mem, poison := t.poison, cores := t.cores
                         sharers := t.sharers, fills := t.fills, absent := t.absent, writes := t.writes, hist := t.hist
                         portOut := t.portOut }
  others : ∀ v, v ≠ u → t.crew v = s.crew v
  crew : t.crew u = { s.crew u with trace := (t.crew u).trace }

namespace State.Traced

variable {u : Nat} {s t r : State}

theorem refl (u : Nat) (s : State) : State.Traced u s s := ⟨rfl, fun _ _ => rfl, rfl⟩

theorem trans (h : State.Traced u s t) (h' : State.Traced u t r) : State.Traced u s r :=
  ⟨by rw [h'.package, h.package], fun v hv => (h'.others v hv).trans (h.others v hv), by rw [h'.crew, h.crew]⟩

theorem foldl {α : Type} {f : State → α → State} (hf : ∀ s a, State.Traced u s (f s a)) (as : List α) (s : State) :
    State.Traced u s (as.foldl f s) := by
  induction as generalizing s with
  | nil => exact refl u s
  | cons a as ih => exact (hf s a).trans (ih _)

theorem ite {c : Prop} [Decidable c] (h : State.Traced u s t) (h' : State.Traced u s r) : State.Traced u s (if c then t else r) := by
  split
  · exact h
  · exact h'

theorem cur (h : State.Traced u s t) : t.cur = s.cur := by rw [h.package]

theorem threads (h : State.Traced u s t) (v : Nat) : (t.crew v).threads = (s.crew v).threads := by
  by_cases hv : v = u
  · rw [hv, h.crew]
  · rw [h.others v hv]

theorem thread (h : State.Traced u s t) (v k : Nat) : t.thread v k = s.thread v k := by
  simp only [State.thread, Crew.thread, h.threads]

end State.Traced

theorem traced_trace (s : State) (u : Nat) (f : TraceSt → TraceSt) :
    State.Traced u s (s.modCrew u fun c => { c with trace := f c.trace }) :=
  ⟨rfl, fun v hv => State.setCrew_crew_ne _ _ _ hv, by simp⟩

theorem traced_homeWrite (u : Nat) (s : State) (w : Option Nat) (ar : Option ArenaRef) (a : Nat) (bs : List Byte) :
    State.Traced u s (s.homeWrite w ar (.mem a) bs) := by
  obtain ⟨_, _, _, _, _, _, h⟩ := s.homeWrite_mem_eq w ar a bs
  rw [h]
  exact ⟨rfl, fun _ _ => rfl, rfl⟩

theorem traced_ringWrite (u : Nat) (s : State) (p : PartRef) (r : ToolRing) (rec : List Byte) :
    State.Traced u s (s.ringWrite p r rec) :=
  .ite (((State.Traced.ite (traced_homeWrite ..) (.refl ..)).trans (traced_homeWrite ..)).trans (traced_homeWrite ..))
    (traced_homeWrite ..)

theorem traced_sendFrame (s : State) (u : Nat) (bs : List Byte) : State.Traced u s (s.sendFrame u bs) := by
  have hring (frame : List Byte) : State.Traced u s (match (s.part (s.crew u).pref).traceRing with
      | some r => s.ringWrite (s.crew u).pref r frame
      | none => s) := by
    split
    · exact traced_ringWrite ..
    · exact .refl ..
  exact .ite ((hring _).trans ⟨rfl, fun _ _ => rfl, rfl⟩) (hring _)

theorem traced_streamBytes (s : State) (u : Nat) (bs : List Byte) : State.Traced u s (s.streamBytes u bs) :=
  (State.Traced.foldl (fun s _ => traced_sendFrame s u _) _ s).trans (traced_trace _ u fun t => { t with buf := _, lastNs := _ })

theorem traced_writePacket (s : State) (u cyc kind arg : Nat) (payload : List Byte) :
    State.Traced u s (s.writePacket u cyc kind arg payload) :=
  (traced_streamBytes ..).trans (traced_trace _ u fun t => { t with first := false, lastCyc := cyc })

theorem traced_emitAt (s : State) (u cyc kind arg : Nat) (payload : List Byte) :
    State.Traced u s (s.emitAt u cyc kind arg payload) := by
  have hfree : State.Traced u s s.free.2 := ⟨rfl, fun _ _ => rfl, rfl⟩
  unfold State.emitAt
  exact .ite (.refl ..) (hfree.trans (.ite (traced_trace _ u fun t => { t with lost := t.lost + 1, lostName := t.lostName || kind == 9 })
    (traced_writePacket ..)))

theorem traced_holdPacket (s : State) (u : Nat) (owner : Option (Nat × Nat)) (kind arg : Nat) (payload : List Byte) :
    State.Traced u s (s.holdPacket u owner kind arg payload) :=
  .ite (.refl ..) (traced_trace s u fun t =>
    let h : HeldPacket := ⟨s.cycles, owner, kind, arg, payload⟩
    let first (x : HeldPacket) : Bool := x.cyc < h.cyc || x.order ≤ h.order
    { t with held := t.held.takeWhile first ++ h :: t.held.dropWhile first })

theorem traced_traceWhile (s : State) (u : Nat) (ok : HeldPacket → Bool) : State.Traced u s (s.traceWhile u ok) :=
  .ite (.refl ..) ((traced_trace s u fun t => { t with held := t.held.dropWhile ok }).trans
    (.foldl (fun s _ => traced_emitAt s u _ _ _ _) _ _))

theorem traced_emit (s : State) (u kind arg : Nat) (payload : List Byte) : State.Traced u s (s.emit u kind arg payload) :=
  (traced_traceWhile ..).trans (traced_holdPacket ..)

theorem traced_packet (s : State) (u tid kind arg : Nat) (payload : List Byte) : State.Traced u s (s.packet u tid kind arg payload) :=
  .ite (.refl ..) (traced_emit ..)

theorem traced_wordPacket (s : State) (u tid kind arg : Nat) (payload : List Byte) :
    State.Traced u s (s.wordPacket u tid kind arg payload) :=
  .ite (.refl ..) ((traced_traceWhile ..).trans (traced_holdPacket ..))

/-! A crew that is not traced sends no packet. -/

section
variable {s : State} {u : Nat}

theorem traceOut_off (h : (s.crew u).trace.on = false) : s.traceOut u = s := by simp [State.traceOut, State.traceWhile, h]

theorem holdPacket_off (h : (s.crew u).trace.on = false) (owner : Option (Nat × Nat)) (kind arg : Nat) (payload : List Byte) :
    s.holdPacket u owner kind arg payload = s := by simp [State.holdPacket, h]

theorem emit_off (h : (s.crew u).trace.on = false) (kind arg : Nat) (payload : List Byte) : s.emit u kind arg payload = s := by
  rw [State.emit, traceOut_off h, holdPacket_off h]

theorem packet_off (h : (s.crew u).trace.on = false) (tid kind arg : Nat) (payload : List Byte) : s.packet u tid kind arg payload = s := by
  rw [State.packet, emit_off h, ite_self]

theorem wordPacket_off (h : (s.crew u).trace.on = false) (tid kind arg : Nat) (payload : List Byte) :
    s.wordPacket u tid kind arg payload = s := by rw [State.wordPacket, traceOut_off h, holdPacket_off h, ite_self]

end

/-! ### A word's own changes -/

namespace State.Own

variable {s t r : State}

theorem of_kept (h : s.KeptThread t) : s.Own t := ⟨h.toKeptPackage.cur, h.threads, h.thread, fun _ => h⟩

theorem trans (h : s.Own t) (h' : t.Own r) : s.Own r where
  cur := h'.cur.trans h.cur
  threads k hk := by rw [← h.threads k hk, ← h.cur]; exact h'.threads k (by rwa [h.cur])
  thread := by rw [h'.thread, h.thread]
  kept hoff := by
    have hst := h.kept hoff
    refine hst.trans (h'.kept ?_)
    rw [hst.crew]; exact hoff

theorem of_traced (h : State.Traced s.cur.uid s t) (hoff : s.ccrew.trace.on = false → t = s) : s.Own t where
  cur := h.cur
  threads k _ := h.thread _ k
  thread := by
    have hthr : t.cthr = s.cthr := by rw [State.cthr, h.cur]; exact h.thread _ _
    rw [hthr]
  kept h0 := by rw [hoff h0]; exact State.KeptThread.refl s

end State.Own

theorem wordPacket_own (s : State) (kind arg : Nat) (payload : List Byte) :
    s.Own (s.wordPacket s.cur.uid s.cur.tid kind arg payload) :=
  .of_traced (traced_wordPacket ..) fun hoff => wordPacket_off hoff ..

theorem wordPacket_carch (s : State) (kind arg : Nat) (payload : List Byte) :
    (s.wordPacket s.cur.uid s.cur.tid kind arg payload).carch = s.carch := by
  have h := traced_wordPacket s s.cur.uid s.cur.tid kind arg payload
  rw [State.carch, State.cthr, h.cur]
  exact congrArg Thread.arch (h.thread _ _)

/-! ### Transfers and falling through -/

/-- Of the thread's registers only scalar ones differ. -/
def Arch.SameButS (a b : Arch) : Prop := b = { a with s := b.s, bank := b.bank }

theorem Arch.SameButS.refl (a : Arch) : a.SameButS a := rfl

theorem Arch.SameButS.trans {a b c : Arch} (h : a.SameButS b) (h' : b.SameButS c) : a.SameButS c := by
  unfold Arch.SameButS at *; rw [h', h]

theorem Arch.SameButS.slot {a b : Arch} (h : a.SameButS b) (x : Bool) : b.slot x = a.slot x := by
  rw [h]; cases x <;> rfl

section
variable {s t : State}

theorem State.cslot_of_sameButS (hcur : t.cur = s.cur) (h : s.carch.SameButS t.carch) : t.cslot = s.cslot := by
  simp only [State.cslot, hcur, h.slot]

theorem State.unstepped_of_sameButS (hcur : t.cur = s.cur) (h : s.carch.SameButS t.carch) : t.unstepped = s.unstepped := by
  have hleft : t.carch.stepLeft = s.carch.stepLeft := by rw [h]
  simp only [State.unstepped, State.cslot_of_sameButS hcur h, hcur, hleft]

theorem State.rdS_congr (hcur : t.cur = s.cur) (harch : t.carch = s.carch) (m : BitVec 6) : t.rdS m = s.rdS m := by
  have hslot : t.cslot = s.cslot := by simp only [State.cslot, harch, hcur]
  simp only [State.rdS, hslot, harch]

/-- What changing the issuing slot leaves. -/
theorem State.modCSlot_arch (t : State) (g : Slot → Slot) : (t.modCSlot g).cslot = g t.cslot ∧
    (t.modCSlot g).carch.slot (!t.cur.slotB) = t.carch.slot (!t.cur.slotB) ∧
    (t.modCSlot g).carch = { t.carch with a := (t.modCSlot g).carch.a, b := (t.modCSlot g).carch.b } := by
  have hc := State.modCSlot_carch t g
  refine ⟨State.modCSlot_cslot t g, ?_, ?_⟩
  · rw [hc]; cases t.cur.slotB <;> rfl
  · rw [hc]; cases t.cur.slotB <;> rfl

theorem State.modCSlot_rdS (t : State) (g : Slot → Slot) (hg : ∀ x, (g x).priv = x.priv) (m : BitVec 6) :
    (t.modCSlot g).rdS m = t.rdS m := by
  obtain ⟨hslot, -, harch⟩ := State.modCSlot_arch t g
  simp only [State.rdS, hslot, hg]
  rw [harch]

theorem State.goTo_moved {pc : Word} {clears : Bool} {r : BitVec 6 → DWord} (hu : s.unstepped = true) (hown : s.Own t)
    (hsame : s.carch.SameButS t.carch) (hr : ∀ m, t.rdS m = r m) : s.Moved (t.goTo pc clears) pc clears r := by
  rw [State.goTo_unstepped (by rw [State.unstepped_of_sameButS hown.cur hsame, hu])]
  obtain ⟨hslot, hother, harch⟩ := State.modCSlot_arch t fun x => ({ x.at pc with inTrap := x.inTrap && !clears } : Slot).endClause
  refine ⟨hown.trans (.of_kept (State.modCSlot_kept ..)), ?_, ?_, ?_, fun m => ?_⟩
  · rw [hslot, State.cslot_of_sameButS hown.cur hsame]; rfl
  · rw [hown.cur] at hother; rw [hother, hsame.slot]
  · rw [harch, hsame]
  · rw [State.modCSlot_rdS, hr]; exact fun _ => rfl

theorem State.advance_fellThrough (hcur : t.cur = s.cur) (hu : t.unstepped = true)
    (hother : t.carch.slot (!s.cur.slotB) = s.carch.slot (!s.cur.slotB)) : s.FellThrough t.advance t.cslot := by
  rw [State.advance_unstepped hu]
  obtain ⟨hslot, hoth, -⟩ := State.modCSlot_arch t t.fallSlot
  rw [hcur, hother] at hoth
  have hnext : t.nextClause = s.nextClause := State.nextClause_congr hcur
  rcases Nat.lt_or_ge s.cur.word s.cur.count with hlt | hge
  · have hfall : t.fallSlot t.cslot = { t.cslot with word := s.cur.word + 1, started := true, st := .ready, wait := none
                                                     waitSince := 0, holds := true } := by
      rw [State.fallSlot, hcur, if_pos hlt]
    rw [hfall] at hslot
    exact ⟨by rw [hslot, if_pos hlt]; exact ⟨rfl, rfl, rfl⟩, by rw [hslot]; exact ⟨rfl, rfl⟩, by rw [hslot], hoth⟩
  · have hfall : t.fallSlot t.cslot = (t.cslot.at s.nextClause).endClause := by
      rw [State.fallSlot, hcur, hnext, if_neg (Nat.not_lt.2 hge)]
    rw [hfall] at hslot
    exact ⟨by rw [hslot, if_neg (Nat.not_lt.2 hge)]; exact ⟨rfl, rfl, rfl⟩, by rw [hslot]; exact ⟨rfl, rfl⟩,
      by rw [hslot]; rfl, hoth⟩

theorem State.advance_wentOn {r : BitVec 6 → DWord} (hu : s.unstepped = true) (hown : s.Own t)
    (hsame : s.carch.SameButS t.carch) (hr : ∀ m, t.rdS m = r m) : s.WentOn t.advance r := by
  have hu' : t.unstepped = true := by rw [State.unstepped_of_sameButS hown.cur hsame, hu]
  have hfell := State.advance_fellThrough hown.cur hu' (hsame.slot _)
  rw [State.cslot_of_sameButS hown.cur hsame] at hfell
  rw [State.advance_unstepped hu'] at hfell ⊢
  obtain ⟨-, -, harch⟩ := State.modCSlot_arch t t.fallSlot
  refine ⟨hown.trans (.of_kept (State.modCSlot_kept ..)), hfell, ?_, fun m => ?_⟩
  · rw [harch, hsame]
  · rw [State.modCSlot_rdS _ _ (State.fallSlot_priv t), hr]

/-- A word that only falls through. -/
theorem State.advance_wroteSlot (hu : s.unstepped = true) (hk : s.KeptThread t) (harch : t.carch = s.carch)
    (hpoison : t.ccrew.regPoison = s.ccrew.regPoison) : s.WroteSlot t.advance s.cslot := by
  have hslot : t.cslot = s.cslot := State.cslot_of_sameButS hk.toKeptPackage.cur (by rw [harch]; exact .refl _)
  obtain ⟨hfell, hadv, hpois⟩ := State.advance_fell hk (by rw [harch]) (by rw [hslot]) (by rw [harch]) hu
  rw [hslot] at hfell
  refine ⟨hfell, hpois.trans hpoison, ?_⟩
  rw [hadv, harch]; cases s.cur.slotB <;> rfl

end

/-! ### Words that transfer -/

section
variable {s : State} {i : Instr} {w : WordInfo} {body : State → Res}

/-- A word that transfers or goes on after at most its own packets and scalar registers. -/
theorem State.yields_of_res {P : State → Prop} (hw : wordInfo s i = some w) (he : exec i s = runWord w body s)
    (hb : ∀ t, s.Entered t → s.unstepped = true → P (s.settle w.old (body t))) : s.yields i P :=
  fun hx hu => ⟨_, he.trans (runWord_enter hw hx body), hb _ (State.enter_entered s w) hu⟩

/-- A word that takes a fault. -/
theorem State.traps_of_body {f : FaultInfo} (hw : wordInfo s i = some w) (he : exec i s = runWord w body s)
    (hb : ∀ t, s.Entered t → ∃ u, t.KeptThread u ∧ u.carch = t.carch ∧ u.ccrew.regPoison = t.ccrew.regPoison ∧ body t = .trap u f) :
    s.traps i f := by
  intro hx
  have hent := State.enter_entered s w
  obtain ⟨u, hkept, harch, hpoison, hbody⟩ := hb _ hent
  refine ⟨u, hent.toKeptThread.trans hkept, harch.trans hent.arch, hpoison.trans hent.poison, ?_⟩
  rw [he, runWord_enter hw hx, hbody]; rfl

end

/-- A branch that is taken or not (R131). -/
theorem branchOn_moves {s t : State} {take : Bool} {pc : Word} {r : BitVec 6 → DWord} {old : Bool} (hu : s.unstepped = true) (hown : s.Own t)
    (hsame : s.carch.SameButS t.carch) (hr : ∀ m, t.rdS m = r m) :
    if take then s.Moved (s.settle old (branchOn t take pc)) pc true r else s.WentOn (s.settle old (branchOn t take pc)) r := by
  have hpk : s.Own (t.branchPacket take) := hown.trans (wordPacket_own ..)
  have harch : (t.branchPacket take).carch = t.carch := wordPacket_carch ..
  have hreg (m : BitVec 6) : (t.branchPacket take).rdS m = r m := by
    rw [State.rdS_congr (hpk.cur.trans hown.cur.symm) harch, hr]
  rw [← harch] at hsame
  cases take
  · exact State.advance_wentOn hu hpk hsame hreg
  · exact State.goTo_moved hu hpk hsame hreg

/-! ### Scalar registers -/

section
variable {s t : State}

theorem State.Entered.own (h : s.Entered t) : s.Own t := .of_kept h.toKeptThread

theorem State.Entered.sameButS (h : s.Entered t) : s.carch.SameButS t.carch := by rw [h.arch]; exact .refl _

theorem State.Entered.target (h : s.Entered t) (n : Int) : t.target n = s.label n := by rw [State.target, h.cur]; rfl

/-- What a write of a scalar register leaves (R108, R396). -/
theorem State.wrS_kept (t : State) (n : BitVec 6) (v : DWord) : t.KeptThread (t.wrS n v) ∧ t.carch.SameButS (t.wrS n v).carch := by
  obtain ⟨hkept, harch, -⟩ := State.cleanReg_kept t (sKey n)
  unfold State.wrS
  split
  · exact ⟨State.modCArch_kept .., by rw [State.modCArch_carch]; rfl⟩
  · exact ⟨hkept.trans (State.modCArch_kept ..), by rw [State.modCArch_carch, harch]; rfl⟩

theorem State.rdS_wrS (t : State) (n : BitVec 6) (v : DWord) (m : BitVec 6) : (t.wrS n v).rdS m = if m = n then v else t.rdS m := by
  obtain ⟨hkept, hsame⟩ := State.wrS_kept t n v
  have hslot := State.cslot_of_sameButS hkept.toKeptPackage.cur hsame
  obtain ⟨-, harch, -⟩ := State.cleanReg_kept t (sKey n)
  simp only [State.rdS, hslot]
  unfold State.wrS
  cases t.cslot.priv.isSome
  · simp [State.modCArch_carch, harch, Store.get_set, BitVec.toNat_inj]
  · simp [State.modCArch_carch, Store.get_set, BitVec.toNat_inj]

end

theorem State.Entered.codeEntry {s t : State} (h : s.Entered t) : t.codeEntry = s.codeEntry := by
  have hcrew : t.ccrew.ldev = s.ccrew.ldev ∧ t.ccrew.task = s.ccrew.task := by rw [h.ccrew]; exact ⟨rfl, rfl⟩
  have htask : t.taskOf t.ccrew = s.taskOf s.ccrew := by
    simp only [State.taskOf, hcrew]
    rw [h.package]; rfl
  have hfw : t.fw = s.fw := by rw [h.package]
  simp only [State.codeEntry, h.cslot, htask, hfw]

theorem State.Entered.badTarget {s t : State} (h : s.Entered t) (x : DWord) : t.badTarget x = s.badTarget x := by
  simp only [State.badTarget, h.codeEntry, h.chdr]

theorem State.badTarget_none {s : State} {x : DWord} (hal : x.toNat % 4 = 0) (hin : x.toNat < s.codeEntry.size) : s.badTarget x = none := by
  simp [State.badTarget, hal, hin]

theorem State.enter_issueCtr (s : State) (w : WordInfo) : (s.enter w).issueCtr = s.issueCtr := by
  have hd (t : State) (u k : Nat) : (t.drainWindow u k).issueCtr = t.issueCtr := by
    unfold State.drainWindow; split <;> rfl
  have he (t : State) (u k eng : Nat) (caps : List Nat) : (t.enterWindow u k eng caps).issueCtr = t.issueCtr := by
    unfold State.enterWindow
    dsimp only [State.modThread, State.modCrew, State.setCrew]
    split
    · rfl
    · split <;> rfl
  unfold State.enter
  cases w.old
  · exact he ..
  · exact hd ..

/-- What `yield` leaves. -/
theorem yield_leaves {s t : State} (ht : s.Entered t) (hu : s.unstepped = true) (hctr : t.issueCtr = s.issueCtr) :
    let u := ((t.yieldRank t.pair).modCSlot fun x => x.at t.nextClause).clauseEnd t.pair
    s.KeptThread u ∧ u.carch = { s.carch with a := u.carch.a, b := u.carch.b } ∧
      u.carch.slot (!s.cur.slotB) = s.carch.slot (!s.cur.slotB) ∧
      u.cslot = { s.cslot with pc := s.nextClause, word := 0, started := false, st := .ready, wait := none, waitSince := 0
                               holds := false, skipBp := false, skipWp := 0, dbgStep := false, lastIssue := s.issueCtr + 1 } := by
  let r : State := { t with issueCtr := t.issueCtr + 1 }
  let z := r.modCSlot fun x => { x with lastIssue := t.issueCtr + 1 }
  have hr : s.Entered r := ⟨ht.toKeptThread.trans ⟨⟨rfl, fun _ _ => rfl⟩, rfl, fun _ _ => rfl, rfl⟩, ht.arch, ht.poison⟩
  have hzk : s.KeptThread z := hr.toKeptThread.trans (State.modCSlot_kept ..)
  obtain ⟨hzslot, hzother, hzarch⟩ := State.modCSlot_arch r fun x => { x with lastIssue := t.issueCtr + 1 }
  have hzstep : z.unstepped = true := by
    have hpriv : z.cslot.priv = s.cslot.priv := by rw [show z.cslot = _ from hzslot, hr.cslot]
    have hleft : z.carch.stepLeft = s.carch.stepLeft := by rw [show z.carch = _ from hzarch, hr.arch]
    rw [← hu]
    simp only [State.unstepped, hleft, hzk.toKeptPackage.cur, hpriv]
  have hend : ((t.yieldRank t.pair).modCSlot fun x => x.at t.nextClause).clauseEnd t.pair = z.modCSlot fun x => (x.at t.nextClause).endClause :=
    State.clauseEnd_unstepped hzstep rfl
  simp only [hend]
  obtain ⟨hslot, hother, harch⟩ := State.modCSlot_arch z fun x => (x.at t.nextClause).endClause
  rw [hzk.toKeptPackage.cur] at hother
  rw [hr.cur] at hzother
  refine ⟨hzk.trans (State.modCSlot_kept ..), ?_, ?_, ?_⟩
  · rw [harch, show z.carch = _ from hzarch, hr.arch]
  · rw [hother, show z.carch.slot _ = _ from hzother, hr.arch]
  · rw [hslot, show z.cslot = _ from hzslot, hr.cslot, State.nextClause_congr ht.cur, hctr]; rfl

/-- Settles O12. -/
theorem uniformTransfers : Obligations.UniformTransfers := by
  intro s cond
  refine ⟨fun f => ?bra, fun f => ?bcnd, fun f => ?sloop, fun f => ?bany, fun f => ?ball, fun f hal hin => ?jmp, fun f => ?yield, fun f => ?nop⟩
  case bra =>
    have he : exec (.bra f) s = execBra f s := rfl
    refine State.yields_of_res rfl he fun t ht hu => ?_
    rw [ht.target]
    exact State.goTo_moved hu ht.own ht.sameButS ht.rdS
  case bcnd =>
    have he : exec (.bcnd f) s = execBcnd f s := rfl
    refine State.yields_of_res rfl he fun t ht hu => ?_
    rw [ht.target, ht.rdS, ht.rdS]
    exact branchOn_moves hu ht.own ht.sameButS ht.rdS
  case sloop =>
    have he : exec (.sloop f) s = execSloop f s := rfl
    refine State.yields_of_res rfl he fun t ht hu => ?_
    obtain ⟨hkept, hsame⟩ := State.wrS_kept t f.sa (t.rdS f.sa + 1)
    have hreg (m : BitVec 6) : (t.wrS f.sa (t.rdS f.sa + 1)).rdS m = if m = f.sa then s.rdS f.sa + 1 else s.rdS m := by
      rw [State.rdS_wrS, ht.rdS, ht.rdS]
    have htarget : (t.wrS f.sa (t.rdS f.sa + 1)).target f.off.toInt = s.label f.off.toInt := by
      rw [State.target, hkept.toKeptPackage.cur, ht.cur]; rfl
    simp only [htarget, hreg]
    exact branchOn_moves hu (ht.own.trans (.of_kept hkept)) (ht.sameButS.trans hsame) hreg
  case bany =>
    have he : exec (.bany f) s = execBany f s := rfl
    refine State.yields_of_res rfl he fun t ht hu => ?_
    rw [ht.target, ht.lanes]
    have h := branchOn_moves (take := s.lanes f.gp f.gn != 0) (pc := s.label f.off.toInt) (old := (ctlInfo (.bany f) false).old) hu ht.own ht.sameButS ht.rdS
    simpa [bne_iff_ne, State.lanes] using h
  case ball =>
    have he : exec (.ball f) s = execBall f s := rfl
    refine State.yields_of_res rfl he fun t ht hu => ?_
    rw [ht.target, ht.lanes, ht.mask]
    have h := branchOn_moves (take := s.lanes f.gp f.gn == s.mask) (pc := s.label f.off.toInt) (old := (ctlInfo (.ball f) false).old) hu ht.own ht.sameButS ht.rdS
    simpa [beq_iff_eq, State.lanes] using h
  case jmp =>
    have he : exec (.jmp f) s = execJmp f s := rfl
    refine State.yields_of_res rfl he fun t ht hu => ?_
    simp only [ht.rdS, ht.badTarget, State.badTarget_none hal hin]
    have hpk : s.Own (t.indirectPacket ((s.rdS f.sa).setWidth 32)) := ht.own.trans (wordPacket_own ..)
    have harch : (t.indirectPacket ((s.rdS f.sa).setWidth 32)).carch = t.carch := wordPacket_carch ..
    refine State.goTo_moved hu hpk (by rw [harch]; exact ht.sameButS) fun m => ?_
    rw [State.rdS_congr (hpk.cur.trans ht.cur.symm) harch, ht.rdS]
  case yield =>
    have he : exec (.yield f) s = execYield f s := rfl
    intro hx hu
    exact ⟨_, he.trans (runWord_enter rfl hx _), yield_leaves (State.enter_entered ..) hu (State.enter_issueCtr ..)⟩
  case nop =>
    have he : exec (.nop f) s = execNop f s := rfl
    exact State.yields_of_res rfl he fun t ht hu => State.advance_wroteSlot hu ht.toKeptThread ht.arch ht.poison

end Sys2Proof.Machine
end

section
/-! SUPPORT. A fragment that leaves its slot in privileged code while steps are armed: the count of R400 sees the fragment that takes
the slot, so the frames that the statements give for `join` and `exit` do not hold. -/

namespace Sys2Proof.Machine

open Tests

/-- Privileged code in which `sstep` has armed three steps (R400). -/
def inArmedFirmware : State → State := arc (fun a => { a with stepLeft := [(0, 3)] }) ∘ slt fun x => { x with priv := some 0 }

/-- A fragment of divergence 1 of the tenant's waits in the control stack. -/
def spilledSibling : State → State := arc fun a => a.setEntry 5 (.frag { st := .ready, mask := 2, divid := 1 } false)

theorem after_eq {i : Instr} {f : State → State} {t : State} (h : exec i (f (atWord i)) = .next t) : after i f = t := by
  simp only [after, h]

/-- Refutes O14: an arrival in privileged code with steps armed hands its slot to a sibling outside privileged code, and the count of R400
then takes one of the steps off, which the statement's frame does not allow. -/
theorem not_joinArrives : ¬ Obligations.JoinArrives := by
  intro h
  let f := spilledSibling ∘ joins 2 0 ∘ inArmedFirmware
  have hwit : wit (.join ⟨0, 0⟩) f (fun s => s.noneHeld && s.cslot.divid == 1 && s.cslot.rcv == s.cur.hdr && s.cslot.depth == 0 &&
      s.carch.findDiv s.cslot.divid == some (3, ⟨0, 1, 0, Config.noneAddr, 0xFFFFFFFF, 0, 0, 2, none⟩)) = true := by decide
  simp only [wit, Bool.and_eq_true, beq_iff_eq] at hwit
  obtain ⟨⟨hexec, hstep⟩, ⟨⟨⟨hheld, hdivid⟩, hrcv⟩, hdepth⟩, hfind⟩ := hwit
  obtain ⟨t, ht, -, harch, -⟩ := (h.1 _ hheld ⟨0, 0⟩).2 3 _ (by rw [hdivid]; decide) hrcv hfind hdepth hexec hstep
  have hleft : t.carch.stepLeft = (f (atWord (.join ⟨0, 0⟩))).carch.stepLeft := by rw [harch]
  rw [← after_eq ht] at hleft
  exact absurd hleft (by decide)

/-- Refutes O15: the slot that `exit` empties is no longer in privileged code, so with steps armed the count of R400 takes one of them off,
which the statement's frame does not allow. -/
theorem not_exitEndsFragment : ¬ Obligations.ExitEndsFragment := by
  intro h
  let f := inArmedFirmware ∘ sibling
  have hwit : wit (.exit ⟨0, 0⟩) f (fun s => s.carch.frags == [] && s.cslot.divid == 0 &&
      decide ((s.carch.slot (!s.cur.slotB)).st ≠ .empty)) = true := by decide
  simp only [wit, Bool.and_eq_true, beq_iff_eq, decide_eq_true_eq] at hwit
  obtain ⟨⟨hexec, hstep⟩, ⟨hfrags, hdivid⟩, hother⟩ := hwit
  obtain ⟨t, ht, -, -, -, -, -, harch⟩ := (h _ ⟨0, 0⟩ hfrags).2.1 hdivid hother hexec hstep
  have hleft : t.carch.stepLeft = (f (atWord (.exit ⟨0, 0⟩))).carch.stepLeft := by rw [harch]
  rw [← after_eq ht] at hleft
  exact absurd hleft (by decide)

end Sys2Proof.Machine
end

section
/-! SUPPORT. The control stack (R125 to R128, R133 to R144): what its operations leave, calls and returns. -/

namespace Sys2Proof.Machine

/-! ### Entries and slots -/

/-- Nothing of a group's registers differs but its two slots and its control stack. -/
def Arch.SameButStack (a b : Arch) : Prop := b = { a with a := b.a, b := b.b, cstk := b.cstk }

theorem Arch.SameButStack.refl (a : Arch) : a.SameButStack a := rfl

theorem Arch.SameButStack.trans {a b c : Arch} (h : a.SameButStack b) (h' : b.SameButStack c) : a.SameButStack c := by
  unfold Arch.SameButStack at *; rw [h', h]

theorem Arch.SameButStack.of_slots {a b : Arch} (h : b = { a with a := b.a, b := b.b }) : a.SameButStack b := by
  have hstk : b.cstk = a.cstk := by rw [h]
  unfold Arch.SameButStack
  rw [hstk]; exact h

theorem Arch.setEntry_same (a : Arch) (k : Nat) (e : CEntry) : a.SameButStack (a.setEntry k e) := rfl

theorem Arch.setSlot_same (a : Arch) (b : Bool) (x : Slot) : a.SameButStack (a.setSlot b x) := by cases b <;> rfl

@[simp] theorem Arch.setEntry_slot (a : Arch) (k : Nat) (e : CEntry) (b : Bool) : (a.setEntry k e).slot b = a.slot b := by cases b <;> rfl

theorem Arch.setSlot_slot_ne (a : Arch) {b c : Bool} (h : c ≠ b) (x : Slot) : (a.setSlot b x).slot c = a.slot c := by
  cases b <;> cases c <;> first | rfl | exact absurd rfl h

@[simp] theorem Arch.setSlot_entry (a : Arch) (b : Bool) (x : Slot) (k : Nat) : (a.setSlot b x).entry k = a.entry k := by cases b <;> rfl

theorem Arch.setEntry_entry (a : Arch) (k : Nat) (e : CEntry) (j : Nat) : (a.setEntry k e).entry j = if j = k then e else a.entry j :=
  Store.get_set ..

/-- A divergence record that is found stands at its entry. -/
theorem Arch.findDiv_entry {a : Arch} {id k : Nat} {e : DivRec} (h : a.findDiv id = some (k, e)) : a.entry k = .div e ∧ e.divid = id := by
  have hid := List.find?_some h
  have hmem := List.mem_of_find?_eq_some h
  simp only [Arch.divs, Arch.entries, List.mem_filterMap, List.mem_map] at hmem
  obtain ⟨_, ⟨j, -, rfl⟩, hj⟩ := hmem
  refine ⟨?_, by simpa using hid⟩
  cases hent : a.entry j <;> simp only [hent] at hj <;> simp_all

theorem Arch.mem_frags {a : Arch} {k : Nat} {x : Slot} {blk : Bool} (h : (k, x, blk) ∈ a.frags) : a.entry k = .frag x blk := by
  simp only [Arch.frags, Arch.entries, List.mem_filterMap, List.mem_map] at h
  obtain ⟨_, ⟨j, -, rfl⟩, hj⟩ := h
  cases hent : a.entry j <;> simp only [hent] at hj <;> simp_all

theorem Arch.mem_calls {a : Arch} {k : Nat} {c : CallRec} (h : (k, c) ∈ a.calls) : a.entry k = .call c := by
  simp only [Arch.calls, Arch.entries, List.mem_filterMap, List.mem_map] at h
  obtain ⟨_, ⟨j, -, rfl⟩, hj⟩ := h
  cases hent : a.entry j <;> simp only [hent] at hj <;> simp_all

/-! ### Refilling and releasing -/

/-- A fold that keeps the best of what it has seen answers a member of its list. -/
theorem foldl_best_mem {α : Type} {f : Option α → α → Option α} (hf : ∀ b x, f b x = some x ∨ f b x = b) (l : List α) (b : Option α) :
    l.foldl f b = b ∨ ∃ x ∈ l, l.foldl f b = some x := by
  induction l generalizing b with
  | nil => exact .inl rfl
  | cons x xs ih =>
    rcases ih (f b x) with h | ⟨y, hy, h⟩
    · rcases hf b x with hx | hx
      · exact .inr ⟨x, List.mem_cons_self, by rw [List.foldl_cons, h, hx]⟩
      · exact .inl (by rw [List.foldl_cons, h, hx])
    · exact .inr ⟨y, List.mem_cons_of_mem _ hy, by rw [List.foldl_cons, h]⟩

theorem Arch.oldest_mem {a : Arch} {p : Slot → Bool → Bool} {k : Nat} {x : Slot} (h : a.oldest p = some (k, x)) :
    ∃ blk, (k, x, blk) ∈ a.frags ∧ p x blk = true := by
  have key (l : List (Nat × Slot × Bool)) (b : Option (Nat × Slot)) : l.foldl (fun b e => match b with
      | none => some (e.1, e.2.1)
      | some y => if y.2.age < e.2.1.age then some (e.1, e.2.1) else some y) b = b ∨
      ∃ e ∈ l, l.foldl (fun b e => match b with
        | none => some (e.1, e.2.1)
        | some y => if y.2.age < e.2.1.age then some (e.1, e.2.1) else some y) b = some (e.1, e.2.1) := by
    induction l generalizing b with
    | nil => exact .inl rfl
    | cons e es ih =>
      rw [List.foldl_cons]
      rcases ih (match b with
        | none => some (e.1, e.2.1)
        | some y => if y.2.age < e.2.1.age then some (e.1, e.2.1) else some y) with hh | ⟨g, hg, hh⟩
      · rw [hh]
        cases b with
        | none => exact .inr ⟨e, List.mem_cons_self, rfl⟩
        | some y =>
          by_cases hage : y.2.age < e.2.1.age
          · exact .inr ⟨e, List.mem_cons_self, if_pos hage⟩
          · exact .inl (if_neg hage)
      · exact .inr ⟨g, List.mem_cons_of_mem _ hg, hh⟩
  rcases key (a.frags.filter fun e => p e.2.1 e.2.2) none with hn | ⟨e, he, hs⟩
  · exact absurd (hn.symm.trans h) (by simp)
  · obtain ⟨hmem, hp⟩ := List.mem_filter.1 he
    have heq : (e.1, e.2.1) = (k, x) := Option.some.inj (hs.symm.trans h)
    obtain ⟨h1, h2⟩ := Prod.mk.inj heq
    exact ⟨e.2.2, by rw [← h1, ← h2]; exact hmem, by rw [← h2]; exact hp⟩

theorem Arch.refill_same (a : Arch) (b : Bool) : a.SameButStack (a.refill b) := by
  unfold Arch.refill
  split
  · exact .refl a
  · split
    · exact .refl a
    · exact (Arch.setEntry_same ..).trans (Arch.setSlot_same ..)

/-- A slot that holds a fragment keeps it when slots are refilled (R126). -/
theorem Arch.refill_slot {a : Arch} {c : Bool} (h : (a.slot c).st ≠ .empty) (b : Bool) : (a.refill b).slot c = a.slot c := by
  unfold Arch.refill
  split
  · rfl
  · next hb =>
    have hcb : c ≠ b := by
      rintro rfl
      exact hb (by simpa using h)
    split
    · rfl
    · rw [Arch.setSlot_slot_ne _ hcb, Arch.setEntry_slot]

theorem Arch.refillBoth_same (a : Arch) : a.SameButStack a.refillBoth := (Arch.refill_same ..).trans (Arch.refill_same ..)

theorem Arch.refillBoth_slot {a : Arch} {c : Bool} (h : (a.slot c).st ≠ .empty) : a.refillBoth.slot c = a.slot c := by
  have h1 := Arch.refill_slot h false
  exact (Arch.refill_slot (by rwa [h1]) true).trans h1

theorem Arch.release_same (n : Nat) (a : Arch) : a.SameButStack (Arch.release n a) := by
  induction n generalizing a with
  | zero => exact .refl a
  | succ n ih =>
    unfold Arch.release
    dsimp only
    split
    · exact .refl a
    · exact (Arch.setEntry_same ..).trans (ih _)

theorem Arch.release_slot (n : Nat) (a : Arch) (b : Bool) : (Arch.release n a).slot b = a.slot b := by
  induction n generalizing a with
  | zero => rfl
  | succ n ih =>
    unfold Arch.release
    dsimp only
    split
    · rfl
    · rw [ih, Arch.setEntry_slot]

theorem Arch.tidy_same (a : Arch) : a.SameButStack a.tidy := Arch.release_same ..

@[simp] theorem Arch.tidy_slot (a : Arch) (b : Bool) : a.tidy.slot b = a.slot b := Arch.release_slot ..

/-! ### Arrivals (R137) -/

theorem Arch.vacate_same (a : Arch) (p : Place) : a.SameButStack (a.vacate p) := by
  cases p with
  | slot b => exact Arch.setSlot_same ..
  | entry k => exact Arch.setEntry_same ..

theorem Arch.put_same (a : Arch) (p : Place) (x : Slot) : a.SameButStack (a.put p x) := by
  cases p with
  | slot b => exact Arch.setSlot_same ..
  | entry k => exact Arch.setEntry_same ..

/-- A slot that waits for an arrival is in JOINWAIT. -/
theorem Arch.mem_waiters_slot {a : Arch} {id : Nat} {b : Bool} {x : Slot} (h : (Place.slot b, x) ∈ a.waiters id) : (a.slot b).st = .joinwait := by
  simp only [Arch.waiters, List.mem_append, List.mem_map, List.mem_filter] at h
  rcases h with ⟨c, ⟨-, hw⟩, hc⟩ | ⟨e, -, he⟩
  · obtain ⟨rfl, -⟩ : c = b ∧ _ := by simpa using hc
    rw [Bool.and_eq_true, beq_iff_eq] at hw
    exact hw.1
  · simp at he

/-- What the fuse writes into the place of its survivor; the other waiting fragments leave theirs. -/
theorem Arch.vacated_same (ws : List (Place × Slot)) (p : Place) (a : Arch) :
    a.SameButStack (ws.foldl (fun a w => if w.1 == p then a else a.vacate w.1) a) := by
  induction ws generalizing a with
  | nil => exact .refl a
  | cons w ws ih =>
    refine Arch.SameButStack.trans ?_ (ih _)
    dsimp only
    split
    · exact .refl a
    · exact Arch.vacate_same ..

theorem Arch.vacated_slot {c : Bool} (ws : List (Place × Slot)) (p : Place) (a : Arch) (h : ∀ w ∈ ws, w.1 ≠ .slot c) :
    (ws.foldl (fun a w => if w.1 == p then a else a.vacate w.1) a).slot c = a.slot c := by
  induction ws generalizing a with
  | nil => rfl
  | cons w ws ih =>
    rw [List.foldl_cons, ih _ fun v hv => h v (List.mem_cons_of_mem _ hv)]
    have hw := h w List.mem_cons_self
    split
    · rfl
    · cases hp : w.1 with
      | slot b => exact Arch.setSlot_slot_ne _ (fun hc => hw (by rw [hp, hc])) _
      | entry k => exact Arch.setEntry_slot ..

theorem Arch.fuse_same (a : Arch) (e : DivRec) (o : Nat) (j : Option Bool) (next : Word) : a.SameButStack (a.fuse e o j next) := by
  unfold Arch.fuse
  dsimp only
  split
  · exact .refl a
  · exact (Arch.vacated_same ..).trans (Arch.put_same ..)

/-- A fuse without a joiner leaves a slot that is not in JOINWAIT alone. -/
theorem Arch.fuse_slot {a : Arch} {c : Bool} (h : (a.slot c).st ≠ .joinwait) (e : DivRec) (o : Nat) (next : Word) :
    (a.fuse e o none next).slot c = a.slot c := by
  have hws : ∀ w ∈ a.waiters e.divid, w.1 ≠ .slot c := by
    rintro ⟨p, x⟩ hw rfl
    exact h (Arch.mem_waiters_slot hw)
  unfold Arch.fuse
  dsimp only
  split
  · rfl
  · next p x pc hchosen =>
    obtain ⟨w, hlast, hw⟩ := Option.map_eq_some_iff.1 hchosen
    obtain ⟨rfl, -⟩ := Prod.mk.inj hw
    have hbest (b : Option (Place × Slot)) (x : Place × Slot) : (match b with
        | none => some x
        | some y => if y.2.arr < x.2.arr then some x else some y) = some x ∨ (match b with
        | none => some x
        | some y => if y.2.arr < x.2.arr then some x else some y) = b := by
      cases b with
      | none => exact .inl rfl
      | some y =>
        by_cases hlt : y.2.arr < x.2.arr
        · exact .inl (if_pos hlt)
        · exact .inr (if_neg hlt)
    have hmem : w ∈ a.waiters e.divid := by
      rcases foldl_best_mem hbest (a.waiters e.divid) none with hn | ⟨y, hy, hs⟩
      · exact absurd (hn.symm.trans hlast) (by simp)
      · rwa [← Option.some.inj (hs.symm.trans hlast)]
    have hput (a' : Arch) (z : Slot) : (a'.put w.1 z).slot c = a'.slot c := by
      cases hp : w.1 with
      | slot b => exact Arch.setSlot_slot_ne _ (fun hc => hws w hmem (by rw [hp, hc])) _
      | entry k => exact Arch.setEntry_slot ..
    rw [hput, Arch.vacated_slot _ _ _ hws]

theorem Arch.arrive_same (n : Nat) (a : Arch) (id : Nat) (m : Word) (j : Option Bool) (next : Word) :
    a.SameButStack (Arch.arrive n a id m j next).1 := by
  induction n generalizing a id m j with
  | zero => exact .refl a
  | succ n ih =>
    unfold Arch.arrive
    split
    · exact .refl a
    · next k e _ =>
      dsimp only
      split
      · exact Arch.setEntry_same ..
      · split
        · dsimp only
          refine (Arch.setEntry_same a k .free).trans ?_
          split
          · exact .refl _
          · exact ih ..
        · exact (Arch.setEntry_same a k .free).trans (Arch.fuse_same ..)

/-- An arrival without a joiner leaves a slot that is not in JOINWAIT alone. -/
theorem Arch.arrive_slot {c : Bool} (n : Nat) (a : Arch) (id : Nat) (m next : Word) (h : (a.slot c).st ≠ .joinwait) :
    (Arch.arrive n a id m none next).1.slot c = a.slot c := by
  induction n generalizing a id m with
  | zero => rfl
  | succ n ih =>
    unfold Arch.arrive
    split
    · rfl
    · dsimp only
      split
      · exact Arch.setEntry_slot ..
      · split
        · dsimp only
          split
          · exact Arch.setEntry_slot ..
          · rw [ih _ _ _ (by rwa [Arch.setEntry_slot]), Arch.setEntry_slot]
        · dsimp only
          rw [Arch.fuse_slot (by rwa [Arch.setEntry_slot]), Arch.setEntry_slot]

/-- R144's detach gives a fragment of a divergence of its own depth the DIVID of the enclosing one, and changes nothing else of its slot. -/
def Arch.detached (a : Arch) (b : Bool) : Nat :=
  match (if (a.slot b).divid = 0 then none else a.findDiv (a.slot b).divid) with
  | some (_, e) => if e.depth = (a.slot b).depth then a.outer (a.slot b).mask ((a.slot b).depth - 1) 0 else (a.slot b).divid
  | none => (a.slot b).divid

theorem Arch.detach_same (a : Arch) (b : Bool) : a.SameButStack (a.detach b) := by
  unfold Arch.detach
  dsimp only
  split
  · exact .refl a
  · split
    · exact .refl a
    · refine Arch.SameButStack.trans ?_ ((Arch.arrive_same ..).trans (Arch.setSlot_same ..))
      split
      · exact Arch.setEntry_same ..
      · exact .refl a

theorem Arch.detach_slot {a : Arch} {b : Bool} (h : (a.slot b).st ≠ .joinwait) :
    (a.detach b).slot b = { a.slot b with divid := a.detached b } := by
  unfold Arch.detach Arch.detached
  simp only [beq_iff_eq]
  split
  · next hn => simp [hn]
  · next k e hs =>
    simp only [hs, bne_iff_ne, ne_eq, ite_not]
    split
    · have hkeep (z : Arch) (hz : z.slot b = a.slot b) (o : Nat) :
          ((z.arriveNone (a.slot b).divid).modSlot b fun y => { y with divid := o }).slot b = { a.slot b with divid := o } := by
        rw [Arch.modSlot, Arch.setSlot_slot, Arch.arriveNone, Arch.arrive_slot _ _ _ _ _ (by rwa [hz]), hz]
      apply hkeep
      split
      · exact Arch.setEntry_slot ..
      · rfl
    · rfl

end Sys2Proof.Machine
end

section
/-! SUPPORT. Calls and returns (R141 to R145). -/

namespace Sys2Proof.Machine

section
variable {s t : State}

theorem State.Entered.stackCap (h : s.Entered t) : t.stackCap t.ccrew t.cur.tid = s.stackCap s.ccrew s.cur.tid := by
  have hcrew : t.ccrew.ldev = s.ccrew.ldev ∧ t.ccrew.task = s.ccrew.task := by rw [h.ccrew]; exact ⟨rfl, rfl⟩
  have htask : t.taskOf t.ccrew = s.taskOf s.ccrew := by
    simp only [State.taskOf, hcrew]
    rw [h.package]; rfl
  simp only [State.stackCap, State.hdrOf, htask, h.cur]

theorem State.Entered.nextClause (h : s.Entered t) : t.nextClause = s.nextClause := State.nextClause_congr h.cur

/-- Whether the slot counts clauses down depends on the count and on whether it is in privileged code (R400). -/
theorem State.unstepped_congr (hcur : t.cur = s.cur) (hleft : t.carch.stepLeft = s.carch.stepLeft) (hpriv : t.cslot.priv = s.cslot.priv) :
    t.unstepped = s.unstepped := by simp only [State.unstepped, hcur, hleft, hpriv]

/-- What a transfer leaves. -/
theorem State.goTo_leaves (hu : t.unstepped = true) (pc : Word) (clears : Bool) : t.KeptThread (t.goTo pc clears) ∧
    (t.goTo pc clears).cslot = ({ t.cslot.at pc with inTrap := t.cslot.inTrap && !clears } : Slot).endClause ∧
    (t.goTo pc clears).carch.slot (!t.cur.slotB) = t.carch.slot (!t.cur.slotB) ∧
    (t.goTo pc clears).carch = { t.carch with a := (t.goTo pc clears).carch.a, b := (t.goTo pc clears).carch.b } := by
  rw [State.goTo_unstepped hu]
  exact ⟨State.modCSlot_kept .., State.modCSlot_arch t fun x => ({ x.at pc with inTrap := x.inTrap && !clears } : Slot).endClause⟩

/-- With no fragment held BLOCKED no entry of the control stack changes before a word of this class (R128). -/
theorem State.refreshBlk_noneHeld (ht : s.Entered t) (h : s.noneHeld = true) : t.refreshBlk t.cur.uid t.cur.tid = t := by
  unfold State.refreshBlk
  refine if_pos ?_
  show t.carch.frags.all _ = true
  rw [ht.arch]; exact h

theorem State.executes_slot {i : Instr} (h : s.executes i = true) : s.cslot.st = .ready := by
  unfold State.executes at h
  split at h
  · cases h
  · simp only [State.issuerReady, Bool.and_eq_true, beq_iff_eq] at h
    obtain ⟨⟨⟨⟨⟨-, hready⟩, -⟩, -⟩, -⟩, -⟩ := h
    exact hready

end

/-! ### `call` and `callr` -/

/-- The frame that a call pushes, and its slot before the transfer (R141). -/
def Arch.framed (a : Arch) (b : Bool) (k : Nat) (next : Word) : Arch :=
  let x := a.slot b
  (a.setEntry k (.call ⟨x.depth, next, x.rcv, x.rpcn, x.link⟩)).setSlot b { x with depth := x.depth + 1, rpcn := Config.noneAddr, link := some k }

section
variable {s t u : State} {k : Nat} {pc : Word}

theorem callTo_room (ht : s.Entered t) (hk : s.carch.freeEntry (s.stackCap s.ccrew s.cur.tid) = some k) (hd : s.cslot.depth ≠ 255)
    (after : State → State) : callTo t pc after =
      .goto (after (t.modCArch fun a => (a.setEntry k (.call ⟨s.cslot.depth, s.nextClause, s.cslot.rcv, s.cslot.rpcn, s.cslot.link⟩)).setSlot
        t.cur.slotB { s.cslot with depth := s.cslot.depth + 1, rpcn := Config.noneAddr, link := some k })) pc false := by
  unfold callTo
  simp only [ht.arch, ht.stackCap, ht.cslot, hk, hd, ht.nextClause, if_false]

theorem callTo_noRoom (ht : s.Entered t) (h : ¬ (s.cslot.depth ≠ 255 ∧ s.carch.freeEntry (s.stackCap s.ccrew s.cur.tid) ≠ none))
    (after : State → State) : callTo t pc after = .trap t stackLimit := by
  unfold callTo
  simp only [ht.arch, ht.stackCap, ht.cslot]
  split
  · rfl
  · next k hk =>
    have hd : s.cslot.depth = 255 := by
      refine Classical.byContradiction fun hne => ?_
      exact h ⟨hne, by rw [hk]; simp⟩
    rw [if_pos hd]

/-- What a call that has its entry leaves. -/
structure State.Framed (s t : State) (k : Nat) (pc : Word) : Prop where
  own : s.Own t
  cstk : t.carch.cstk = Store.set .free s.carch.cstk k (.call ⟨s.cslot.depth, s.nextClause, s.cslot.rcv, s.cslot.rpcn, s.cslot.link⟩)
  slot : t.cslot = { s.cslot with pc := pc, word := 0, started := false, st := .ready, wait := none, waitSince := 0, holds := false
                                  skipBp := false, skipWp := 0, dbgStep := false, depth := s.cslot.depth + 1, rpcn := Config.noneAddr
                                  link := some k }
  other : t.carch.slot (!s.cur.slotB) = s.carch.slot (!s.cur.slotB)
  arch : t.carch = { s.carch with a := t.carch.a, b := t.carch.b, cstk := t.carch.cstk }

theorem callTo_frames (hu : s.unstepped = true) (ht : s.Entered t) {r : CallRec} {x : Slot}
    (hr : r = ⟨s.cslot.depth, s.nextClause, s.cslot.rcv, s.cslot.rpcn, s.cslot.link⟩)
    (hx : x = { s.cslot with depth := s.cslot.depth + 1, rpcn := Config.noneAddr, link := some k })
    (hown : (t.modCArch fun a => (a.setEntry k (.call r)).setSlot t.cur.slotB x).Own u)
    (harch : u.carch = (t.modCArch fun a => (a.setEntry k (.call r)).setSlot t.cur.slotB x).carch) :
    s.Framed (u.goTo pc false) k pc := by
  rw [State.modCArch_carch, ht.arch, ht.cur] at harch
  have hkept := State.modCArch_kept t fun a => (a.setEntry k (.call r)).setSlot t.cur.slotB x
  have hcur : u.cur = s.cur := hown.cur.trans (hkept.toKeptPackage.cur.trans ht.cur)
  have hslot : u.cslot = x := by rw [State.cslot, harch, hcur]; simp
  have hstep : u.unstepped = true := by
    rw [State.unstepped_congr hcur (by rw [harch]; cases s.cur.slotB <;> rfl) (by rw [hslot, hx]), hu]
  obtain ⟨hgk, hgslot, hgother, hgarch⟩ := State.goTo_leaves hstep pc false
  rw [hcur, harch, Arch.setSlot_slot_other, Arch.setEntry_slot] at hgother
  refine ⟨(ht.own.trans (.of_kept hkept)).trans (hown.trans (.of_kept hgk)), ?_, ?_, hgother, ?_⟩
  · have hstk : (u.goTo pc false).carch.cstk = u.carch.cstk := by rw [hgarch]
    rw [hstk, harch, ← hr]; cases s.cur.slotB <;> rfl
  · rw [hgslot, hslot, hx]; simp [Slot.at, Slot.endClause]
  · have hsame : s.carch.SameButStack u.carch := by rw [harch]; exact (Arch.setEntry_same ..).trans (Arch.setSlot_same ..)
    exact hsame.trans (.of_slots hgarch)

end

theorem State.badTarget_misaligned {s : State} {x : DWord} (h : x.toNat % 4 ≠ 0) : s.badTarget x =
    some { exc := .misaligned, eng := 3, code := true, hindex := BitVec.ofNat 20 s.chdr.codeh, offset := x } := by simp [State.badTarget, h]

theorem State.badTarget_bounds {s : State} {x : DWord} (h : x.toNat % 4 = 0) (hb : s.codeEntry.size ≤ x.toNat) : s.badTarget x =
    some { exc := .handleBounds, eng := 3, code := true, hindex := BitVec.ofNat 20 s.chdr.codeh, offset := x } := by
  simp [State.badTarget, h, hb]

/-- A body that traps in the state it enters. -/
theorem State.traps_at {s : State} {i : Instr} {w : WordInfo} {body : State → Res} {f : FaultInfo} (hw : wordInfo s i = some w)
    (he : exec i s = runWord w body s) (hb : ∀ t, s.Entered t → body t = .trap t f) : s.traps i f :=
  State.traps_of_body hw he fun t ht => ⟨t, State.KeptThread.refl t, rfl, rfl, hb t ht⟩

theorem callr_traps {s : State} (f : FmtCR) {e : FaultInfo}
    (hroom : s.cslot.depth ≠ 255 ∧ s.carch.freeEntry (s.stackCap s.ccrew s.cur.tid) ≠ none) (hbad : s.badTarget (s.rdS f.sa) = some e) :
    s.traps (.callr f) e := by
  have he : exec (.callr f) s = execCallr f s := rfl
  refine State.traps_at rfl he fun t ht => ?_
  have hfree : (s.carch.freeEntry (s.stackCap s.ccrew s.cur.tid)).isNone = false := by
    simpa [Option.isNone_eq_false_iff, Option.isSome_iff_ne_none] using hroom.2
  simp only [ht.rdS, ht.badTarget, hbad, ht.cslot, ht.arch, ht.stackCap, hfree, hroom.1]
  simp

theorem jmp_traps {s : State} (f : FmtCR) {e : FaultInfo} (hbad : s.badTarget (s.rdS f.sa) = some e) : s.traps (.jmp f) e := by
  have he : exec (.jmp f) s = execJmp f s := rfl
  exact State.traps_at rfl he fun t ht => by simp only [ht.rdS, ht.badTarget, hbad]

/-! ### `ret` -/

/-- What a return leaves (R144). -/
theorem ret_returns {s t : State} {k : Nat} {c : CallRec} (ht : s.Entered t) (hready : s.cslot.st = .ready)
    (hheld : s.noneHeld = true) (hd : s.cslot.depth ≠ 0) (hl : s.cslot.link = some k)
    (hc : s.carch.calls.find? (fun e => e.1 == k) = some (k, c)) : ∃ u, retBody t = .goto u c.pc true ∧ t.KeptThread u ∧
      u.cslot = { s.cslot with depth := c.depth, rcv := c.rcv, rpcn := c.rpcn, link := c.link, divid := s.carch.detached s.cur.slotB } ∧
      s.carch.SameButStack u.carch := by
  let a := (s.carch.detach s.cur.slotB).modSlot s.cur.slotB fun y => { y with depth := c.depth, rcv := c.rcv, rpcn := c.rpcn, link := c.link }
  have ha : a.slot s.cur.slotB =
      { s.cslot with depth := c.depth, rcv := c.rcv, rpcn := c.rpcn, link := c.link, divid := s.carch.detached s.cur.slotB } := by
    rw [Arch.modSlot_slot, Arch.detach_slot (by show s.cslot.st ≠ _; rw [hready]; decide)]
    rfl
  have hkept := State.modCArch_kept t fun _ => a.tidy.refillBoth
  refine ⟨t.modCArch fun _ => a.tidy.refillBoth, ?_, hkept, ?_, ?_⟩
  · unfold retBody
    rw [State.refreshBlk_noneHeld ht hheld]
    simp only [ht.cslot, ht.arch, ht.cur, hl, hc, hd, Option.map_some, if_false]
    rfl
  · have hfull : (a.tidy.slot s.cur.slotB).st ≠ .empty := by
      rw [Arch.tidy_slot, ha]
      show s.cslot.st ≠ .empty
      rw [hready]; decide
    rw [State.cslot, State.modCArch_carch, hkept.toKeptPackage.cur, ht.cur, Arch.refillBoth_slot hfull, Arch.tidy_slot, ha]
  · rw [State.modCArch_carch]
    exact ((Arch.detach_same ..).trans (Arch.setSlot_same ..)).trans ((Arch.tidy_same ..).trans (Arch.refillBoth_same ..))

/-- Settles O16. -/
theorem callsAndReturns : Obligations.CallsAndReturns := by
  refine ⟨fun s => ?calls, fun s hheld f => ?returns⟩
  case calls =>
    intro x free room framed stack bad
    refine ⟨fun f hroom => ?call, fun f hroom => ?callLimit, fun f hroom hal hin => ?callr, fun f hroom => ?callrLimit,
      fun f hroom hal => ?callrMisaligned, fun f hroom hal hin => ?callrBounds, fun f hal => ?jmpMisaligned, fun f hal hin => ?jmpBounds⟩
    case call =>
      have he : exec (.call f) s = execCall f s := rfl
      refine State.yields_of_res rfl he fun t ht hu => ?_
      obtain ⟨k, hk⟩ := Option.ne_none_iff_exists'.1 hroom.2
      simp only [callTo_room ht hk hroom.1, ht.target]
      obtain ⟨hown, hstk, hslot, hother, harch⟩ := callTo_frames (u := id _) (pc := s.label f.off.toInt) hu ht rfl rfl (.of_kept (State.KeptThread.refl _)) rfl
      exact ⟨hown, ⟨k, hk, hstk, hslot⟩, hother, harch⟩
    case callLimit =>
      have he : exec (.call f) s = execCall f s := rfl
      exact State.traps_at rfl he fun t ht => callTo_noRoom ht hroom _
    case callr =>
      have he : exec (.callr f) s = execCallr f s := rfl
      refine State.yields_of_res rfl he fun t ht hu => ?_
      obtain ⟨k, hk⟩ := Option.ne_none_iff_exists'.1 hroom.2
      simp only [ht.rdS, ht.badTarget, State.badTarget_none hal hin, callTo_room ht hk hroom.1]
      obtain ⟨hown, hstk, hslot, hother, harch⟩ := callTo_frames (pc := (s.rdS f.sa).setWidth 32) hu ht rfl rfl (wordPacket_own ..) (wordPacket_carch ..)
      exact ⟨hown, ⟨k, hk, hstk, hslot⟩, hother, harch⟩
    case callrLimit =>
      have he : exec (.callr f) s = execCallr f s := rfl
      refine State.traps_at rfl he fun t ht => ?_
      simp only [ht.rdS, ht.badTarget]
      split
      · have hfull : (s.cslot.depth = 255 || (s.carch.freeEntry (s.stackCap s.ccrew s.cur.tid)).isNone) = true := by
          refine Classical.byContradiction fun hne => ?_
          simp only [Bool.or_eq_true, decide_eq_true_eq, Option.isNone_iff_eq_none, not_or] at hne
          exact hroom hne
        simp only [ht.cslot, ht.arch, ht.stackCap, hfull, if_true]
        rfl
      · exact callTo_noRoom ht hroom _
    case callrMisaligned => exact callr_traps f hroom (State.badTarget_misaligned hal)
    case callrBounds => exact callr_traps f hroom (State.badTarget_bounds hal hin)
    case jmpMisaligned => exact jmp_traps f (State.badTarget_misaligned hal)
    case jmpBounds => exact jmp_traps f (State.badTarget_bounds hal hin)
  case returns =>
    intro x
    refine ⟨fun hd => ?retDepth, fun hl => ?retLink, fun k c hd hl hc => ?ret⟩
    case retDepth =>
      have he : exec (.ret f) s = execRet f s := rfl
      refine State.traps_at rfl he fun t ht => ?_
      unfold retBody
      rw [State.refreshBlk_noneHeld ht hheld]
      simp only [ht.cslot]
      split
      · rfl
      · exact if_pos hd
    case retLink =>
      have he : exec (.ret f) s = execRet f s := rfl
      refine State.traps_at rfl he fun t ht => ?_
      unfold retBody
      rw [State.refreshBlk_noneHeld ht hheld]
      simp only [ht.cslot, show s.cslot.link = none from hl]
      rfl
    case ret =>
      have he : exec (.ret f) s = execRet f s := rfl
      intro hx hu
      have ht := State.enter_entered s (ctlInfo (.ret f) true)
      obtain ⟨u, hbody, hkept, hslot, hsame⟩ := ret_returns ht (State.executes_slot hx) hheld hd hl hc
      refine ⟨u.goTo c.pc true, by rw [he, execRet, runWord_enter rfl hx, hbody]; rfl, ?_⟩
      have hcur := hkept.toKeptPackage.cur.trans ht.cur
      have hstep : u.unstepped = true := by
        rw [State.unstepped_congr hcur (by rw [hsame]) (by rw [hslot]), hu]
      obtain ⟨hgk, hgslot, -, hgarch⟩ := State.goTo_leaves hstep c.pc true
      rw [hslot] at hgslot
      refine ⟨(ht.toKeptThread.trans hkept).trans hgk, ?_⟩
      simp only [hgslot]
      refine ⟨rfl, rfl, rfl, rfl, rfl, rfl, rfl, rfl, rfl, Bool.and_false _, ?_, rfl⟩
      rw [hgarch, hsame]

end Sys2Proof.Machine
end

section
/-! SUPPORT. Divergence: the split of R133 and the entries that R134 asks for. -/

namespace Sys2Proof.Machine

/-! ### Free entries -/

theorem Store.mem_keys_of_get_ne {α : Type} {d : α} {m : Store α} {k : Nat} (h : Store.get d m k ≠ d) : k ∈ m.keys := by
  induction m with
  | nil => exact absurd rfl h
  | cons e m ih =>
    obtain ⟨j, x⟩ := e
    by_cases hj : j = k
    · exact hj ▸ List.mem_cons_self
    · exact List.mem_cons_of_mem _ (ih (by simpa [Store.get, hj] using h))

/-- One of the offsets that the search for a free entry covers is free. -/
theorem Arch.exists_free (a : Arch) : ∃ k ∈ List.range (a.cstk.length + 1), a.entry k = .free := by
  refine Classical.byContradiction fun hne => ?_
  have hsub : List.range (a.cstk.length + 1) ⊆ a.cstk.keys := fun k hk =>
    Store.mem_keys_of_get_ne (d := CEntry.free) fun hfree => hne ⟨k, hk, hfree⟩
  have hlen := List.nodup_range.length_le_of_subset hsub
  simp only [List.length_range, Store.keys, List.length_map] at hlen
  omega

theorem Arch.freeEntry_some {a : Arch} {cap k : Nat} (h : a.freeEntry cap = some k) : a.entry k = .free ∧ k < cap := by
  obtain ⟨hfind, hlt⟩ := Option.filter_eq_some_iff.1 h
  exact ⟨by simpa using List.find?_some hfind, by simpa using hlt⟩

theorem Arch.freeEntry_none {a : Arch} {cap : Nat} (h : a.freeEntry cap = none) : ∀ k < cap, a.entry k ≠ .free := by
  intro k hk hfree
  obtain ⟨m, hm, hmfree⟩ := a.exists_free
  obtain ⟨j, hj⟩ := Option.isSome_iff_exists.1 ((List.find?_isSome (p := fun k => a.entry k == .free)).2 ⟨m, hm, by simpa using hmfree⟩)
  have hlow : ¬ j < cap := by
    intro hlt
    have hsome : a.freeEntry cap = some j := Option.filter_eq_some_iff.2 ⟨hj, by simpa using hlt⟩
    rw [h] at hsome; cases hsome
  obtain ⟨-, as, bs, hsplit, hbefore⟩ := List.find?_eq_some_iff_append.1 hj
  have hjm : j ∈ List.range (a.cstk.length + 1) := List.mem_of_find?_eq_some hj
  have hkj : k < j := by omega
  have hkm : k ∈ as := by
    have hk' : k ∈ as ++ j :: bs := by rw [← hsplit, List.mem_range]; rw [List.mem_range] at hjm; omega
    rcases List.mem_append.1 hk' with h1 | h1
    · exact h1
    · exfalso
      have hsorted : (as ++ j :: bs).Pairwise (· < ·) := by rw [← hsplit]; exact List.pairwise_lt_range
      rcases List.mem_cons.1 h1 with rfl | h2
      · omega
      · have := List.rel_of_pairwise_cons (List.pairwise_append.1 hsorted).2.1 h2
        omega
  simpa [hfree] using hbefore k hkm

/-- How many entries of the first `cap` are free. -/
def Arch.freeCount (a : Arch) (cap : Nat) : Nat := ((List.range cap).filter fun k => a.entry k == .free).length

theorem Arch.freeEntry_ne_none (a : Arch) (cap : Nat) : a.freeEntry cap ≠ none ↔ 1 ≤ a.freeCount cap := by
  rw [Arch.freeCount, Nat.one_le_iff_ne_zero, Ne, Ne, List.length_eq_zero_iff, List.filter_eq_nil_iff]
  refine not_congr ⟨?_, ?_⟩
  · intro h k hk
    simpa using Arch.freeEntry_none h k (List.mem_range.1 hk)
  · intro h
    refine Classical.byContradiction fun hne => ?_
    obtain ⟨k, hk⟩ := Option.ne_none_iff_exists'.1 hne
    obtain ⟨hfree, hlt⟩ := Arch.freeEntry_some hk
    exact h k (List.mem_range.2 hlt) (by simpa using hfree)

/-- An entry that is not free and stays so leaves the count. -/
theorem Arch.freeCount_setEntry_used {a : Arch} {k : Nat} {e : CEntry} (hk : a.entry k ≠ .free) (he : e ≠ .free) (cap : Nat) :
    (a.setEntry k e).freeCount cap = a.freeCount cap := by
  unfold Arch.freeCount
  congr 2
  funext j
  rw [Arch.setEntry_entry]
  split
  · next h => rw [h, beq_false_of_ne he, beq_false_of_ne hk]
  · rfl

/-- Taking a free entry takes one off the count. -/
theorem Arch.freeCount_setEntry_free {a : Arch} {k cap : Nat} {e : CEntry} (hk : a.entry k = .free) (hlt : k < cap) (he : e ≠ .free) :
    (a.setEntry k e).freeCount cap + 1 = a.freeCount cap := by
  have hmem : k ∈ (List.range cap).filter fun j => a.entry j == .free := List.mem_filter.2 ⟨List.mem_range.2 hlt, by simpa using hk⟩
  have herase : ((List.range cap).filter fun j => (a.setEntry k e).entry j == .free) =
      ((List.range cap).filter fun j => a.entry j == .free).erase k := by
    rw [List.Nodup.erase_eq_filter (List.Pairwise.filter _ List.nodup_range), List.filter_filter]
    congr 1
    funext j
    rw [Arch.setEntry_entry]
    by_cases hj : j = k
    · simp [hj, he]
    · simp [hj]
  unfold Arch.freeCount
  rw [herase, List.length_erase_of_mem hmem]
  have := List.length_pos_of_mem hmem
  omega

/-! ### The split (R133, R134) -/

/-- The divergence of a split: the group with its DIV entry, its DIVID and its reconvergence point. -/
def Arch.opened (a : Arch) (b : Bool) (cap : Nat) : Option (Arch × Nat × Word) :=
  let x := a.slot b
  if x.rpcn == Config.noneAddr then
    some (match a.findDiv x.divid with
      | some (k, e) => (a.setEntry k (.div { e with pending := e.pending + 1 }), x.divid, x.rcv)
      | none => (a, x.divid, x.rcv))
  else if (a.findDiv a.divctr).isSome then none
  else (a.freeEntry cap).map fun k =>
    ({ a.setEntry k (.div ⟨x.depth, a.divctr, x.rcv, x.rpcn, x.mask, 0, x.fmt, 2, x.link⟩) with divctr := nextDiv a.divctr }, a.divctr, x.rpcn)

/-- The fragment that a split starts. -/
def Slot.split (x : Slot) (target T : Word) : Slot := { x.at target with mask := T, age := 0, issuedHere := false, dbgStep := false }

/-- The two fragments of a split, once its divergence is open. -/
def Arch.parted (a : Arch) (b : Bool) (cap id : Nat) (rcv : Word) (x : Slot) (T F target next : Word) : Option Arch :=
  let y : Slot := { x with rcv := rcv, rpcn := Config.noneAddr, divid := id }
  let a := a.setSlot b { y.at next with mask := F }
  let o := a.slot (!b)
  if o.st == .empty then some (a.setSlot (!b) { y.split target T with lastIssue := o.lastIssue })
  else (a.freeEntry cap).map fun k => a.setEntry k (.frag (y.split target T) false)

theorem Arch.split_eq (a : Arch) (b : Bool) (cap : Nat) (T F target next : Word) : a.split b cap T F target next =
    match a.opened b cap with
    | none => none
    | some (a', id, rcv) => a'.parted b cap id rcv (a.slot b) T F target next := rfl

section
variable {a a' : Arch} {b : Bool} {cap id : Nat} {rcv : Word}

/-- Where RPCN is NONE the new fragment joins the divergence of this one. -/
theorem Arch.opened_none (h : (a.slot b).rpcn = Config.noneAddr) (cap : Nat) : ∃ a', a.opened b cap = some (a', (a.slot b).divid, (a.slot b).rcv) ∧
    a.SameButStack a' ∧ (∀ c, a'.slot c = a.slot c) ∧ a'.freeCount cap = a.freeCount cap ∧
    ∀ k, a'.entry k = match a.entry k with
      | .div e => if a.findDiv (a.slot b).divid = some (k, e) then .div { e with pending := e.pending + 1 } else .div e
      | e => e := by
  unfold Arch.opened
  simp only [h, beq_self_eq_true, if_true]
  cases hfind : a.findDiv (a.slot b).divid with
  | none =>
    refine ⟨a, rfl, .refl a, fun _ => rfl, rfl, fun k => ?_⟩
    cases a.entry k <;> simp
  | some ke =>
    obtain ⟨k, e⟩ := ke
    obtain ⟨hent, -⟩ := Arch.findDiv_entry hfind
    refine ⟨_, rfl, Arch.setEntry_same .., fun _ => Arch.setEntry_slot .., Arch.freeCount_setEntry_used (by rw [hent]; simp) (by simp) _, fun j => ?_⟩
    rw [Arch.setEntry_entry]
    by_cases hj : j = k
    · rw [if_pos hj, hj, hent]; simp
    · rw [if_neg hj]
      have hkj : k ≠ j := fun hc => hj hc.symm
      cases a.entry j <;> simp [hkj]

/-- Where RPCN is set the split opens a divergence, if it can have a DIV entry and a DIVID. -/
theorem Arch.opened_opens (h : (a.slot b).rpcn ≠ Config.noneAddr) (hopen : a.opened b cap = some (a', id, rcv)) :
    id = a.divctr ∧ rcv = (a.slot b).rpcn ∧ a.findDiv a.divctr = none ∧
    (∃ k, a.entry k = .free ∧ k < cap ∧
      a' = { a.setEntry k (.div ⟨(a.slot b).depth, a.divctr, (a.slot b).rcv, (a.slot b).rpcn, (a.slot b).mask, 0, (a.slot b).fmt, 2, (a.slot b).link⟩)
             with divctr := nextDiv a.divctr }) := by
  unfold Arch.opened at hopen
  simp only [beq_iff_eq, h, if_false] at hopen
  split at hopen
  · cases hopen
  · next hnone =>
    obtain ⟨k, hk, heq⟩ := Option.map_eq_some_iff.1 hopen
    obtain ⟨hfree, hlt⟩ := Arch.freeEntry_some hk
    obtain ⟨rfl, hrest⟩ := Prod.mk.inj heq
    obtain ⟨rfl, rfl⟩ := Prod.mk.inj hrest
    exact ⟨rfl, rfl, by simpa using hnone, k, hfree, hlt, rfl⟩

theorem Arch.opened_ne_none (h : (a.slot b).rpcn ≠ Config.noneAddr) :
    a.opened b cap ≠ none ↔ a.findDiv a.divctr = none ∧ 1 ≤ a.freeCount cap := by
  unfold Arch.opened
  simp only [beq_iff_eq, h, if_false]
  split
  · next hs => simp only [ne_eq, not_true, false_iff]; rintro ⟨hn, -⟩; rw [hn] at hs; simp at hs
  · next hs =>
    have hfind : a.findDiv a.divctr = none := by simpa using hs
    rw [ne_eq, Option.map_eq_none_iff, ← ne_eq, Arch.freeEntry_ne_none]
    simp [hfind]

/-- Where the two fragments of a split stand. -/
structure Arch.Parts (a r : Arch) (b : Bool) (x n : Slot) : Prop where
  slot : r.slot b = x
  resident : (a.slot (!b)).st = .empty → r.slot (!b) = { n with lastIssue := (a.slot (!b)).lastIssue } ∧ ∀ k, r.entry k = a.entry k
  spilled : (a.slot (!b)).st ≠ .empty → r.slot (!b) = a.slot (!b) ∧
    ∃ k, a.entry k = .free ∧ r.entry k = .frag n false ∧ ∀ j, j ≠ k → r.entry j = a.entry j
  same : a.SameButStack r

theorem Arch.parted_parts {x : Slot} {T F target next : Word} {r : Arch} (h : a.parted b cap id rcv x T F target next = some r) :
    let y : Slot := { x with rcv := rcv, rpcn := Config.noneAddr, divid := id }
    a.Parts r b { y.at next with mask := F } (y.split target T) := by
  intro y
  unfold Arch.parted at h
  simp only [Arch.setSlot_slot_other, beq_iff_eq] at h
  split at h
  · next hempty =>
    obtain rfl := Option.some.inj h
    refine ⟨?_, fun _ => ⟨Arch.setSlot_slot .., fun k => by rw [Arch.setSlot_entry, Arch.setSlot_entry]⟩, fun hne => absurd hempty hne,
      (Arch.setSlot_same ..).trans (Arch.setSlot_same ..)⟩
    rw [Arch.setSlot_slot_ne _ (by cases b <;> decide), Arch.setSlot_slot]
  · next hfull =>
    obtain ⟨k, hk, rfl⟩ := Option.map_eq_some_iff.1 h
    obtain ⟨hfree, -⟩ := Arch.freeEntry_some hk
    refine ⟨by rw [Arch.setEntry_slot, Arch.setSlot_slot], fun he => absurd he hfull, fun _ => ⟨by rw [Arch.setEntry_slot, Arch.setSlot_slot_other],
      k, by rwa [Arch.setSlot_entry] at hfree, by rw [Arch.setEntry_entry, if_pos rfl], fun j hj => ?_⟩,
      (Arch.setSlot_same ..).trans (Arch.setEntry_same ..)⟩
    rw [Arch.setEntry_entry, if_neg hj, Arch.setSlot_entry]

theorem Arch.parted_ne_none (a : Arch) (b : Bool) (cap id : Nat) (rcv : Word) (x : Slot) (T F target next : Word) :
    a.parted b cap id rcv x T F target next ≠ none ↔ ((a.slot (!b)).st ≠ .empty → 1 ≤ a.freeCount cap) := by
  unfold Arch.parted
  simp only [Arch.setSlot_slot_other, beq_iff_eq]
  split
  · next h => simp [h]
  · next h =>
    have hcount (z : Slot) : (a.setSlot b z).freeCount cap = a.freeCount cap := by simp only [Arch.freeCount, Arch.setSlot_entry]
    rw [ne_eq, Option.map_eq_none_iff, ← ne_eq, Arch.freeEntry_ne_none, hcount]
    simp [h]

end

/-- What R134 asks of a control stack. -/
theorem Arch.split_ne_none (a : Arch) (b : Bool) (cap : Nat) (T F target next : Word) : a.split b cap T F target next ≠ none ↔
    (if (a.slot b).rpcn ≠ Config.noneAddr then 1 else 0) + (if (a.slot (!b)).st ≠ .empty then 1 else 0) ≤ a.freeCount cap ∧
      ((a.slot b).rpcn ≠ Config.noneAddr → a.findDiv a.divctr = none) := by
  rw [Arch.split_eq]
  by_cases hr : (a.slot b).rpcn = Config.noneAddr
  · obtain ⟨a', hopen, -, hslot, hcount, -⟩ := Arch.opened_none hr cap
    simp only [hopen, Arch.parted_ne_none, hslot, hcount, hr]
    by_cases he : (a.slot (!b)).st = .empty <;> simp [he]
  · cases hopen : a.opened b cap with
    | none =>
      have hno := mt (Arch.opened_ne_none (cap := cap) hr).2 (Classical.not_not.2 hopen)
      simp only [ne_eq, not_true, false_iff, hr, not_false_eq_true, if_true, true_implies]
      rintro ⟨hneeds, hfind⟩
      exact hno ⟨hfind, by omega⟩
    | some r =>
      obtain ⟨a', id, rcv⟩ := r
      obtain ⟨-, -, hfind, k, hfree, hlt, rfl⟩ := Arch.opened_opens hr hopen
      have hcount := Arch.freeCount_setEntry_free (cap := cap) (e := .div ⟨(a.slot b).depth, a.divctr, (a.slot b).rcv, (a.slot b).rpcn, (a.slot b).mask, 0,
        (a.slot b).fmt, 2, (a.slot b).link⟩) hfree hlt (by simp)
      have hslot (z : Arch) (n : Nat) (c : Bool) : ({ z with divctr := n } : Arch).slot c = z.slot c := by cases c <;> rfl
      simp only [Arch.parted_ne_none, hslot, Arch.setEntry_slot, hfind, hr, ne_eq, not_false_eq_true, if_true, implies_true, and_true]
      rw [show ∀ z : Arch, ∀ n, ({ z with divctr := n } : Arch).freeCount cap = z.freeCount cap from fun _ _ => rfl]
      by_cases he : (a.slot (!b)).st = .empty
      · simp only [he, not_true, false_implies, if_false, true_iff]; omega
      · simp only [he, not_false_eq_true, true_implies, if_true]; omega

/-! ### `brp` and `rcvpt` -/

section
variable {s t : State}

theorem and_not_and (m g : Word) : m &&& ~~~(m &&& g) = m &&& ~~~g := by
  ext i
  simp only [BitVec.getElem_and, BitVec.getElem_not]
  cases m[i] <;> simp

/-- `brp` in the state it enters. -/
theorem brpBody_eq (ht : s.Entered t) (hheld : s.noneHeld = true) (f : FmtCB) : brpBody f t =
    if s.mask &&& s.guard f.gp f.gn = 0 then .done (t.branchPacket false)
    else if s.mask &&& ~~~s.guard f.gp f.gn = 0 then .goto (t.branchPacket true) (s.label f.off.toInt) false
    else match s.carch.split s.cur.slotB (s.stackCap s.ccrew s.cur.tid) (s.mask &&& s.guard f.gp f.gn) (s.mask &&& ~~~s.guard f.gp f.gn)
        (s.label f.off.toInt) s.nextClause with
      | none => .trap t stackLimit
      | some a =>
        let u := t.modCArch fun _ => a
        let u := u.wordPacket u.cur.uid u.cur.tid 1 (boolNat u.cur.slotB + 6) (leBytes 4 (s.mask &&& s.guard f.gp f.gn).toNat)
        .placed (u.clauseEnd u.pair) := by
  unfold brpBody
  rw [State.refreshBlk_noneHeld ht hheld]
  simp only [State.lanes, ht.mask, ht.guard, ht.target, ht.arch, ht.stackCap, ht.nextClause, and_not_and, beq_iff_eq]
  rw [ht.cur] <;> rfl

/-- The end of a clause at a slot that counts no clauses down. -/
theorem State.clauseEnd_pair {u : State} (hu : u.unstepped = true) : u.clauseEnd u.pair = u.modCSlot Slot.endClause := by
  refine State.countStep_id (s := u.modCSlot Slot.endClause) ?_
  have hslot : (u.modCSlot Slot.endClause).slot u.pair = u.cslot.endClause := State.modCSlot_cslot u _
  have hleft : ((u.modCSlot Slot.endClause).arch u.pair.uid u.pair.tid).stepLeft = u.carch.stepLeft := by
    show (u.modCSlot Slot.endClause).carch.stepLeft = _
    rw [State.modCSlot_carch]; cases u.cur.slotB <;> rfl
  rw [hslot, hleft]
  simpa [State.unstepped, State.pair, Slot.endClause] using hu

/-- What the control stack of a split holds (R133). -/
structure Arch.Split (a r : Arch) (b : Bool) (x : Slot) (id : Nat) (T F rcv target next : Word) : Prop where
  parts : ∃ y : Slot, y = { x with rcv := rcv, rpcn := Config.noneAddr, divid := id } ∧ r.slot b = { y.at next with mask := F } ∧
    ((a.slot (!b)).st = .empty → r.slot (!b) = { y.split target T with lastIssue := (a.slot (!b)).lastIssue }) ∧
    ((a.slot (!b)).st ≠ .empty → r.slot (!b) = a.slot (!b) ∧ ∃ k, a.entry k = .free ∧ r.entry k = .frag (y.split target T) false)
  opens : x.rpcn ≠ Config.noneAddr → r.divctr = nextDiv a.divctr ∧ ∃ k, a.entry k = .free ∧ r.entry k =
    .div ⟨x.depth, id, x.rcv, x.rpcn, x.mask, 0, x.fmt, 2, x.link⟩
  joins : x.rpcn = Config.noneAddr → r.divctr = a.divctr
  old : ∀ k, a.entry k ≠ .free → r.entry k = match a.entry k with
    | .div e => if x.rpcn = Config.noneAddr ∧ a.findDiv x.divid = some (k, e) then .div { e with pending := e.pending + 1 } else .div e
    | e => e
  same : r = { a with a := r.a, b := r.b, cstk := r.cstk, divctr := r.divctr }

theorem Arch.split_splits {a r : Arch} {b : Bool} {cap : Nat} {T F target next : Word} (h : a.split b cap T F target next = some r) :
    a.Split r b (a.slot b) (if (a.slot b).rpcn ≠ Config.noneAddr then a.divctr else (a.slot b).divid) T F
      (if (a.slot b).rpcn ≠ Config.noneAddr then (a.slot b).rpcn else (a.slot b).rcv) target next := by
  rw [Arch.split_eq] at h
  by_cases hr : (a.slot b).rpcn = Config.noneAddr
  · obtain ⟨a', hopen, hsame, hslot, -, hent⟩ := Arch.opened_none hr cap
    rw [hopen] at h
    obtain ⟨hpslot, hres, hspill, hpsame⟩ := Arch.parted_parts h
    rw [hslot] at hres hspill
    simp only [hr, ne_eq, not_true, if_false]
    have hall := hsame.trans hpsame
    refine ⟨⟨_, rfl, hpslot, fun he => (hres he).1, fun he => ?_⟩, fun hc => absurd hr hc, fun _ => by rw [hall], fun k hk => ?_, ?_⟩
    · obtain ⟨hsl, k, hfree, hfrag, -⟩ := hspill he
      refine ⟨hsl, k, ?_, hfrag⟩
      rw [hent] at hfree
      cases hak : a.entry k with
      | div e => rw [hak] at hfree; dsimp only at hfree; split at hfree <;> cases hfree
      | free => rfl
      | _ => rw [hak] at hfree; cases hfree
    · have hkeep : r.entry k = a'.entry k := by
        by_cases he : (a.slot (!b)).st = .empty
        · exact (hres he).2 k
        · obtain ⟨-, j, hfree, -, hrest⟩ := hspill he
          refine hrest k fun hkj => ?_
          rw [← hkj, hent] at hfree
          cases hak : a.entry k with
          | div e => rw [hak] at hfree; dsimp only at hfree; split at hfree <;> cases hfree
          | free => exact hk hak
          | _ => rw [hak] at hfree; cases hfree
      rw [hkeep, hent]
      simp only [hr, true_and]
    · have hctr : r.divctr = a.divctr := by rw [hall]
      rw [hctr]; exact hall
  · cases hopen : a.opened b cap with
    | none => rw [hopen] at h; cases h
    | some o =>
      obtain ⟨a', id, rcv⟩ := o
      rw [hopen] at h
      obtain ⟨rfl, rfl, -, k, hkfree, -, rfl⟩ := Arch.opened_opens hr hopen
      obtain ⟨hpslot, hres, hspill, hpsame⟩ := Arch.parted_parts h
      have hslot (z : Arch) (n : Nat) (c : Bool) : ({ z with divctr := n } : Arch).slot c = z.slot c := by cases c <;> rfl
      have hent (z : Arch) (n j : Nat) : ({ z with divctr := n } : Arch).entry j = z.entry j := rfl
      simp only [hslot, Arch.setEntry_slot, hent, Arch.setEntry_entry] at hres hspill
      simp only [ne_eq, hr, not_false_eq_true, if_true]
      refine ⟨⟨_, rfl, hpslot, fun he => (hres he).1, fun he => ?_⟩, fun _ => ⟨by rw [hpsame], k, hkfree, ?_⟩, fun hc => absurd hc hr, fun j hj => ?_, ?_⟩
      · obtain ⟨hsl, j, hfree, hfrag, -⟩ := hspill he
        refine ⟨hsl, j, ?_, hfrag⟩
        split at hfree
        · cases hfree
        · exact hfree
      · by_cases he : (a.slot (!b)).st = .empty
        · rw [(hres he).2, if_pos rfl]
        · obtain ⟨-, j, hfree, -, hrest⟩ := hspill he
          have hjk : k ≠ j := by rintro rfl; rw [if_pos rfl] at hfree; cases hfree
          rw [hrest k hjk, if_pos rfl]
      · have hjk : j ≠ k := by rintro rfl; exact hj hkfree
        have hkeep : r.entry j = a.entry j := by
          by_cases he : (a.slot (!b)).st = .empty
          · rw [(hres he).2, if_neg hjk]
          · obtain ⟨-, i, hfree, -, hrest⟩ := hspill he
            have hji : j ≠ i := by rintro rfl; rw [if_neg hjk] at hfree; exact hj hfree
            rw [hrest j hji, if_neg hjk]
        rw [hkeep]
        cases a.entry j <;> simp [hr]
      · rw [hpsame]; rfl

end

/-- What a split leaves of the package and of the slots. -/
theorem brp_places {s t : State} {r : Arch} {kind arg : Nat} {payload : List Byte} (hu : s.unstepped = true) (ht : s.Entered t)
    (hleft : r.stepLeft = s.carch.stepLeft) (hpriv : (r.slot s.cur.slotB).priv = s.cslot.priv) :
    let u := t.modCArch fun _ => r
    let v := (u.wordPacket u.cur.uid u.cur.tid kind arg payload)
    s.Own (v.clauseEnd v.pair) ∧ (v.clauseEnd v.pair).cslot = (r.slot s.cur.slotB).endClause ∧
      (v.clauseEnd v.pair).carch = r.setSlot s.cur.slotB (r.slot s.cur.slotB).endClause := by
  intro u v
  have hkept : t.KeptThread u := State.modCArch_kept t fun _ => r
  have hown : u.Own v := wordPacket_own u kind arg payload
  have harch : v.carch = r := (wordPacket_carch u kind arg payload).trans (State.modCArch_carch t _)
  have hcur : v.cur = s.cur := hown.cur.trans (hkept.toKeptPackage.cur.trans ht.cur)
  have hslot : v.cslot = r.slot s.cur.slotB := by rw [State.cslot, harch, hcur]
  have hstep : v.unstepped = true := by
    rw [State.unstepped_congr hcur (by rw [harch, hleft]) (by rw [hslot, hpriv]), hu]
  rw [State.clauseEnd_pair hstep]
  refine ⟨((ht.own.trans (.of_kept hkept)).trans hown).trans (.of_kept (State.modCSlot_kept ..)), ?_, ?_⟩
  · rw [(State.modCSlot_arch v _).1, hslot]
  · rw [State.modCSlot_carch, harch, hcur, hslot]

/-- Settles O13. -/
theorem branches : Obligations.Branches := by
  refine ⟨fun s hheld f => ?split, fun s => ⟨fun f => ?rcvpt, fun hheld => ⟨fun f hT => ?none, fun f hT hF => ?all⟩⟩,
    fun a b cap T F target next => ?entries⟩
  case split =>
    intro T F target x opens other had hT hF
    have he : exec (.brp f) s = execBrp f s := rfl
    have hbody (t : State) (ht : s.Entered t) := brpBody_eq ht hheld f
    refine ⟨fun hnone => State.traps_at rfl he fun t ht => ?_, fun hsome => State.yields_of_res rfl he fun t ht hu => ?_⟩
    · rw [hbody t ht, if_neg hT, if_neg hF, show s.carch.split _ _ _ _ _ _ = none from hnone]
      rfl
    · obtain ⟨r, hr⟩ := Option.ne_none_iff_exists'.1 hsome
      have hsplit := Arch.split_splits hr
      obtain ⟨⟨y, rfl, hslot, hres, hspill⟩, hopens, hjoins, hold, hsame⟩ := hsplit
      rw [hbody t ht, if_neg hT, if_neg hF, show s.carch.split _ _ _ _ _ _ = some r from hr]
      obtain ⟨hown, hcslot, hcarch⟩ := brp_places (r := r) (kind := 1) (arg := boolNat (t.modCArch fun _ => r).cur.slotB + 6)
        (payload := leBytes 4 T.toNat) hu ht (by rw [hsame]) (by rw [hslot]; rfl)
      rw [hslot] at hcslot hcarch
      simp only [State.settle]
      refine ⟨hown, by rw [hcslot]; exact ⟨rfl, rfl, rfl, rfl, rfl, rfl, rfl, rfl, rfl, rfl⟩, fun hempty => ?_, fun hfull => ?_, fun hop => ?_,
        fun hop => ?_, fun k hk => ?_, ?_⟩
      · rw [hcarch, Arch.setSlot_slot_other, hres hempty]
        exact ⟨rfl, rfl, rfl, rfl, rfl, rfl, rfl, rfl, rfl, rfl, rfl⟩
      · obtain ⟨hkeep, k, hfree, hfrag⟩ := hspill hfull
        rw [hcarch, Arch.setSlot_slot_other]
        exact ⟨hkeep, k, _, hfree, (Arch.setSlot_entry ..).trans hfrag, rfl, rfl, rfl, rfl, rfl, rfl, rfl, rfl, rfl, rfl, rfl⟩
      · obtain ⟨hctr, k, hfree, hdiv⟩ := hopens hop
        refine ⟨?_, k, hfree, ?_⟩
        · rw [hcarch, ← hctr]; cases s.cur.slotB <;> rfl
        · rw [hcarch, Arch.setSlot_entry]; exact hdiv
      · rw [hcarch, ← hjoins (Classical.not_not.1 hop)]; cases s.cur.slotB <;> rfl
      · rw [hcarch, Arch.setSlot_entry, hold k hk]
        cases s.carch.entry k with
        | div e =>
          have hop : (¬ opens) ↔ (s.carch.slot s.cur.slotB).rpcn = Config.noneAddr := Classical.not_not
          simp only [hop]; rfl
        | _ => rfl
      · rw [hcarch, hsame]; cases s.cur.slotB <;> rfl
  case rcvpt =>
    have he : exec (.rcvpt f) s = execRcvpt f s := rfl
    refine State.yields_of_arch (f := fun a => a.modSlot s.cur.slotB fun x => { x with rpcn := s.label f.off.toInt }) (m := s.ccrew.regPoison) rfl he
      (fun t ht => ⟨t, ?_, State.KeptThread.refl t, rfl, ht.poison⟩) ?_ ?_ ?_ fun t hfell harch hpoison => ?_
    · rw [ht.target, ← ht.cur]; rfl
    · cases s.cur.slotB <;> rfl
    · rw [Arch.modSlot_slot]; rfl
    · rw [Arch.modSlot, Arch.setSlot_slot_other]
    · rw [Arch.modSlot_slot] at hfell
      refine ⟨hfell, hpoison, ?_⟩
      rw [harch]; cases s.cur.slotB <;> rfl
  case none =>
    have he : exec (.brp f) s = execBrp f s := rfl
    refine State.yields_of_res rfl he fun t ht hu => ?_
    rw [brpBody_eq ht hheld, if_pos hT]
    exact branchOn_moves (take := false) (pc := 0) (old := false) hu ht.own ht.sameButS ht.rdS
  case all =>
    have he : exec (.brp f) s = execBrp f s := rfl
    refine State.yields_of_res rfl he fun t ht hu => ?_
    rw [brpBody_eq ht hheld, if_neg hT, if_pos hF]
    have hpk : s.Own (t.branchPacket true) := ht.own.trans (wordPacket_own ..)
    have harch : (t.branchPacket true).carch = t.carch := wordPacket_carch ..
    exact State.goTo_moved hu hpk (by rw [harch]; exact ht.sameButS) fun m => by
      rw [State.rdS_congr (hpk.cur.trans ht.cur.symm) harch, ht.rdS]
  case entries => exact Arch.split_ne_none a b cap T F target next

end Sys2Proof.Machine
end

section
/-! SUPPORT. The checks of R80 on a word. -/

namespace Sys2Proof.Machine

/-- Every word runs as its `wordInfo` says. -/
theorem exec_runWord {s : State} {i : Instr} {w : WordInfo} (hw : wordInfo s i = some w) : ∃ body, exec i s = runWord w body s := by
  cases i <;> cases hw <;> simp only [exec, execVmov, execVmovi, execVadd, execVsub, execVadds, execVsubs, execVmul, execVmulhi, execVmad, execVmin, execVmax,
    execVabsd, execVand, execVor, execVxor, execVandn, execVshl, execVshr, execVrot, execVbfe, execVbfi, execVpopc, execVclz,
    execVbrev, execVsel, execVaddi, execVandi, execVshli, execVshri, execVacs, execVhsel, execVperm, execVshfl, execVred,
    execVscan, execVmovs, execVrdl, execVwrl, execVsr, execVdot4, execVdot2, execVfadd, execVfsub, execVfmul, execVfma, execVfmin,
    execVfmax, execVcmp, execVfcmp, execVrcp, execVrsqrt, execVsqrt, execVexp2, execVlog2, execVcvt, execVfclass, execVround,
    execSmov, execSmovi, execSmovh, execSadd, execSsub, execSmul, execSmulh, execSdiv, execSrem, execSand, execSor, execSxor,
    execSshl, execSshr, execSmin, execSmax, execSaddi, execSandi, execSshli, execSshri, execScmp, execSbfe, execSpopc, execSclz,
    execSfadd, execSfmul, execSfma, execScvt, execSrd, execSwr, execSfmt, execPand, execPor, execPxor, execPandn, execPmovsp,
    execPmovps, execPcnt, execPfirst, execVld, execVlds, execVst, execSld, execSlds, execSst, execVatomI32, execVatomU32,
    execVatomF32, execVatomF16x2, execVatomB16x2, execVatomnI32, execVatomnU32, execVatomnF32, execVatomnF16x2, execVatomnB16x2,
    execSatom, execHsel, execHinfo, execFence, execFlsig, execFlwait, execBarinit, execBarexp, execBarrive, execBwait,
    execBartest, execBsync, execBra, execBrp, execRcvpt, execJoin, execBcnd, execSloop, execCall, execCallr, execRet, execJmp,
    execExit, execYield, execTwait, execDqpop, execDqpush, execBany, execBall, execNop, execMshape, execMzero, execMma, execMloop,
    execMloopg, execMloopn, execMsmx, execMdrain, execMside, execMprog, execMstat, execCpy, execCpy2d, execCpymc, execCpyfill,
    execCpyrec, execTlrd, execTlwait, execCprog, execQpost, execArnew, execHalloc, execArseal, execArdrop, execArquota,
    execArinfo, execSend, execAsend, execRdy, execUnrdy, execRecv, execGrpnew, execGrpdel, execColnew, execRedpost, execRedwait,
    execColabort, execMsgstat, execTrap, execBrk, execEret, execPrd, execPwr, execCapmask, execTmark, execDump, execRespost,
    execSstep, execKiln, arnAsync, arnSync, cmpWord, cpyStart, loopWord, pr3, sf3, si2, softFault, sr3, vFlt, vFun, vInt,
    vatomWord, vatomnWord, vi2, vr2, vr3] <;> exact ⟨_, rfl⟩

section
variable {s : State} {i : Instr} {w : WordInfo}

/-- A word that R80 turns away takes the fault at its place. -/
theorem exec_wordFault {e : Exc} (hready : s.issuerReady = true) (hw : wordInfo s i = some w) (hfault : s.wordFault w = some e) :
    ∃ f : FaultInfo, f.exc = e ∧ f.lanes = none ∧ f.hreg = none ∧ exec i s = .next (s.faultWord f) := by
  obtain ⟨body, he⟩ := exec_runWord hw
  refine ⟨{ exc := e, eng := runWord.engOf w.cls }, rfl, rfl, rfl, ?_⟩
  rw [he, runWord]
  simp only [hready, hfault, Bool.not_true, Bool.false_eq_true, if_false]

/-- The word may run in its thread. -/
def WordInfo.here (w : WordInfo) (tid : Nat) : Bool := if tid = 63 then w.lead else if 32 ≤ tid ∧ tid < 63 then w.handler else w.group

/-- Form, registers, tiles and thread of a word are legal (R79 to R81). -/
def State.legal (s : State) (w : WordInfo) : Prop :=
  w.wf = true ∧ (∀ n ∈ w.vregs, n < s.chdr.vregs) ∧ (∀ n ∈ w.tiles, n < s.chdr.tiles) ∧ w.here s.cur.tid = true

theorem WordInfo.here_eq (w : WordInfo) (tid : Nat) :
    (if isLead tid then w.lead else if isHandler tid then w.handler else w.group) = w.here tid := by
  unfold WordInfo.here isLead isHandler
  simp only [beq_iff_eq, Bool.and_eq_true, decide_eq_true_eq]

theorem State.legal_iff (s : State) (w : WordInfo) : s.legal w ↔
    (!w.wf || w.vregs.any (fun n => s.chdr.vregs ≤ n) || w.tiles.any (fun n => s.chdr.tiles ≤ n) || !w.here s.cur.tid) = false := by
  simp only [State.legal, Bool.or_eq_false_iff, Bool.not_eq_false', List.any_eq_false, decide_eq_true_eq, Nat.not_le, and_assoc]

theorem State.wordFault_eq (s : State) (w : WordInfo) : s.wordFault w =
    if (!w.wf || w.vregs.any (fun n => s.chdr.vregs ≤ n) || w.tiles.any (fun n => s.chdr.tiles ≤ n) || !w.here s.cur.tid) = true then
      some .illegalInstruction
    else if w.priv && s.cslot.priv.isNone then some .privileged
    else if w.caps.any (fun b => !s.chdr.uses.getLsbD b) then some .opclassUndeclared
    else if w.caps.any (fun b => !(s.core s.ccrew.core).mask.getLsbD b) then some .capabilityFenced
    else none := by
  rw [← WordInfo.here_eq]; rfl

theorem caps_any (l : List Nat) (m : BitVec n) : (l.any fun b => !m.getLsbD b) = true ↔ ¬ ∀ b ∈ l, m.getLsbD b = true := by
  simp

end

/-- Settles O35. -/
theorem wordChecksInOrder : Obligations.WordChecksInOrder := by
  intro s i w hready hw h tid here legal user declared present faults
  have hlegal : legal ↔ s.legal w := Iff.rfl
  have hpriv : (w.priv = true ∧ user) ↔ (w.priv && s.cslot.priv.isNone) = true := by
    simp only [user, Bool.and_eq_true, Option.isNone_iff_eq_none]
  have hdeclared : (w.caps.any fun b => !s.chdr.uses.getLsbD b) = true ↔ ¬ declared := caps_any ..
  have hpresent : (w.caps.any fun b => !(s.core s.ccrew.core).mask.getLsbD b) = true ↔ ¬ present := caps_any ..
  rw [hlegal, hpriv, s.legal_iff]
  refine ⟨fun hno => ?_, fun hok hp hu => ?_, fun hok hp hd => ?_, fun hok hp hd hm => ?_, fun hok hp hd hm hclean hfence => ?_⟩
  · exact exec_wordFault hready hw (by rw [s.wordFault_eq, if_pos (Bool.of_not_eq_false hno)])
  · exact exec_wordFault hready hw (by rw [s.wordFault_eq, if_neg (by rw [hok]; decide), if_pos (hpriv.1 ⟨hp, hu⟩)])
  · exact exec_wordFault hready hw (by rw [s.wordFault_eq, if_neg (by rw [hok]; decide), if_neg hp, if_pos (hdeclared.2 hd)])
  · exact exec_wordFault hready hw (by
      rw [s.wordFault_eq, if_neg (by rw [hok]; decide), if_neg hp, if_neg (mt hdeclared.1 (Classical.not_not.2 hd)), if_pos (hpresent.2 hm)])
  · have hnone : s.wordFault w = none := by
      rw [s.wordFault_eq, if_neg (by rw [hok]; decide), if_neg hp, if_neg (mt hdeclared.1 (Classical.not_not.2 hd)), if_neg (mt hpresent.1 (Classical.not_not.2 hm))]
    simp [State.executes, hw, hready, hnone, hclean, State.fencePending, hfence]

end Sys2Proof.Machine
end

section
/-! SUPPORT. Taking a fault (R391 to R396). -/

namespace Sys2Proof.Machine

/-! ### Trap records (R393) -/

theorem Exc.code_lt (e : Exc) : e.code < 256 := by cases e <;> decide

/-- A field of a dword. -/
theorem extract_eq {n lo w : Nat} {x : BitVec w} (h : lo + w ≤ 64) (hx : n / 2 ^ lo % 2 ^ w = x.toNat) :
    (BitVec.ofNat 64 n).extractLsb' lo w = x := by
  apply BitVec.eq_of_toNat_eq
  simp only [BitVec.extractLsb'_toNat, BitVec.toNat_ofNat, Nat.shiftRight_eq_div_pow]
  have hpow : (2 : Nat) ^ 64 = 2 ^ lo * 2 ^ (64 - lo) := by rw [← Nat.pow_add]; congr 1; omega
  rw [hpow, Nat.mod_mul_right_div_self, Nat.mod_mod_of_dvd _ (Nat.pow_dvd_pow 2 (by omega)), hx]

/-- A flag of a dword. -/
theorem getLsbD_eq {n i : Nat} {b : Bool} (h : i < 64) (hb : n / 2 ^ i % 2 = boolNat b) : (BitVec.ofNat 64 n).getLsbD i = b := by
  rw [BitVec.getLsbD_ofNat]
  simp only [h, decide_true, Bool.true_and, Nat.testBit, Nat.shiftRight_eq_div_pow, Nat.one_and_eq_mod_two, hb]
  cases b <;> rfl

theorem boolNat_le (b : Bool) : boolNat b ≤ 1 := by cases b <;> decide

theorem FaultInfo.record_tells (f : FaultInfo) (hdr : Word) (word : Nat) (mask : Word) (hword : word < 16) :
    (f.record hdr word mask).Tells f hdr word mask := by
  have hcode := f.exc.code_lt
  have hlate := boolNat_le f.late
  have hasyn := boolNat_le f.asyn
  have hnone := boolNat_le (f.hreg.isNone && !f.code)
  have hidx := f.hindex.isLt
  have hinfo := f.info.isLt
  have hreg : f.hreg.getD 0 % 8 < 8 := Nat.mod_lt _ (by decide)
  refine ⟨extract_eq (by decide) ?_, ⟨extract_eq (by decide) ?_, extract_eq (by decide) ?_⟩, extract_eq (by decide) ?_, extract_eq (by decide) ?_,
    ⟨getLsbD_eq (by decide) ?_, getLsbD_eq (by decide) ?_⟩, ⟨extract_eq (by decide) ?_, getLsbD_eq (by decide) ?_⟩, extract_eq (by decide) ?_, rfl,
    extract_eq (by decide) ?_, extract_eq (by decide) ?_⟩
  all_goals bv_omega

/-! ### Changes of one thread -/

section
variable (s : State) (u k : Nat) (p : PairRef)

theorem State.modCrew_onlyCrew (f : Crew → Crew) : s.OnlyCrew (s.modCrew u f) u := ⟨rfl, fun _ hv => State.setCrew_crew_ne _ _ _ hv⟩

theorem State.modThread_onlyThread (f : Thread → Thread) : s.OnlyThread (s.modThread u k f) ⟨u, k⟩ := by
  refine ⟨State.modCrew_onlyCrew .., ?_, fun j hj => ?_⟩
  · rw [State.modThread_eq, State.setCrew_crew]; rfl
  · rw [State.modThread_eq, State.thread_eq, State.setCrew_crew, Crew.setThread_thread_ne _ _ _ hj]; rfl

theorem State.modArch_onlyThread (f : Arch → Arch) : s.OnlyThread (s.modArch u k f) ⟨u, k⟩ := State.modThread_onlyThread ..

theorem State.modArch_thread (f : Arch → Arch) : (s.modArch u k f).thread u k = (s.thread u k).modArch f := State.modThread_thread ..

theorem State.modSlot_onlySlot (f : Slot → Slot) : s.OnlySlot (s.modSlot p f) p (f (s.slot p)) :=
  ⟨State.modArch_onlyThread .., State.modSlot_slot .., State.modArch_thread ..⟩

end

namespace State.OnlyCrew

variable {s t r : State} {u : Nat}

theorem refl (s : State) (u : Nat) : s.OnlyCrew s u := ⟨rfl, fun _ _ => rfl⟩

theorem trans (h : s.OnlyCrew t u) (h' : t.OnlyCrew r u) : s.OnlyCrew r u :=
  ⟨by rw [h'.package, h.package], fun v hv => (h'.crews v hv).trans (h.crews v hv)⟩

end State.OnlyCrew

namespace State.OnlyThread

variable {s t r : State} {k : ThreadRef}

theorem refl (s : State) (k : ThreadRef) : s.OnlyThread s k := ⟨.refl .., rfl, fun _ _ => rfl⟩

theorem trans (h : s.OnlyThread t k) (h' : t.OnlyThread r k) : s.OnlyThread r k :=
  ⟨h.toOnlyCrew.trans h'.toOnlyCrew, by rw [h'.crew, h.crew], fun j hj => (h'.threads j hj).trans (h.threads j hj)⟩

end State.OnlyThread

/-! ### Where a fault goes -/

section
variable {s : State} {p : PairRef}

theorem Arch.slot_trec (a : Arch) (r : TrapRec) (b : Bool) : ({ a with trec := r } : Arch).slot b = a.slot b := by cases b <;> rfl

/-- An intercepted fault enters firmware (R396). -/
theorem State.enterFirmware_arch (s : State) (p : PairRef) (cause : Nat) (hdr : Word) (word : Nat) :
    (s.enterFirmware p cause hdr word).arch p.uid p.tid = { (s.arch p.uid p.tid).modSlot p.slotB fun x =>
      { x.at s.fw.entry with priv := some cause, retPc := hdr, retWord := word } with cause := cause } := State.modArch_arch ..

/-- A fault that finds the other slot IN TRAP waits (R392). -/
theorem State.take_waits {f : FaultInfo} (hdr : Word) (word : Nat) (hp : (s.slot p).priv = none)
    (hi : (s.crew p.uid).icept.getLsbD f.exc.code = false) (hs : f.exc ≠ .singleStep) (ht : (s.hdrOf (s.crew p.uid)).trapPc ≠ Config.noneAddr)
    (hx : (s.slot p).inTrap = false) (hl : isLead p.tid = false) (ho : (s.slot { p with slotB := !p.slotB }).inTrap = true) :
    s.take p f hdr word = s.modSlot p fun x =>
      { x with st := .blocked, pc := hdr, word := word, started := word != 0, holds := false, wait := some (.trapClear f), waitSince := s.now } := by
  change ((s.arch p.uid p.tid).slot p.slotB).priv = none at hp
  change ((s.arch p.uid p.tid).slot p.slotB).inTrap = false at hx
  change ((s.arch p.uid p.tid).slot (!p.slotB)).inTrap = true at ho
  unfold State.take
  dsimp only
  rw [if_neg (by simp [hp, hi, hs]), if_neg (by simp [hp, hx, ht]), if_pos (by simp [hl, ho])]

/-- The crew stops for a fatal fault whose record it keeps (R394, R409). -/
def State.HaltedBy (s : State) (u : Nat) (r : TrapRec) : Prop := (s.crew u).cause = some .fatal ∧ (s.crew u).fatalRec = some r

theorem Store.get_map {α : Type} (d : α) (m : Store α) (g : α → α) (k : Nat) (hk : g (Store.get d m k) = Store.get d m k) :
    Store.get d (m.map fun e => (e.1, g e.2)) k = Store.get d m k := by
  induction m with
  | nil => rfl
  | cons e m ih =>
    obtain ⟨j, x⟩ := e
    by_cases hj : j = k
    · simp only [Store.get, hj, if_true, List.map_cons] at hk ⊢; exact hk
    · simp only [Store.get, hj, if_false, List.map_cons] at hk ⊢; exact ih hk

/-- A crew that stops already is not stopped again by the kill of its task (R379). -/
theorem State.killCrews_crew {u : Nat} (h : (s.crew u).cause ≠ none) (src ldev task : Nat) (k : KillCause) :
    (s.killCrews src ldev task k).crew u = s.crew u := by
  let g (c : Crew) : Crew := if c.ldev == ldev && c.task == task && c.cause.isNone then { c with cause := some k } else c
  have hg : g (s.crew u) = s.crew u := if_neg (by simp [h])
  have hmap : (s.killCrews src ldev task k).crews = s.crews.map fun e => (e.1, g e.2) := by
    unfold State.killCrews
    refine List.map_congr_left fun e _ => ?_
    dsimp only [g]
    split <;> rfl
  rw [State.crew, hmap]
  exact Store.get_map _ _ g u hg

theorem State.HaltedBy.modTask {u : Nat} {r : TrapRec} (h : s.HaltedBy u r) (d k : Nat) (f : Task → Task) : (s.modTask d k f).HaltedBy u r := h

theorem State.HaltedBy.modPart {u : Nat} {r : TrapRec} (h : s.HaltedBy u r) (q : PartRef) (f : Part → Part) : (s.modPart q f).HaltedBy u r := h

theorem State.HaltedBy.logFault {u : Nat} {r : TrapRec} (h : s.HaltedBy u r) (c : Crew) (code dump : Nat) : (s.logFault c code dump).HaltedBy u r := h

theorem State.fatal_halts (r : TrapRec) (h : (s.crew p.uid).fatalRec = none) : (s.fatal p r).HaltedBy p.uid r := by
  have hslot (t : State) (f : Slot → Slot) (ht : t.HaltedBy p.uid r) : (t.modSlot p f).HaltedBy p.uid r := by
    rw [State.HaltedBy, (State.modSlot_onlySlot t p f).crew]; exact ht
  have hkill (t : State) (src ldev task : Nat) (ht : t.HaltedBy p.uid r) : (t.killCrews src ldev task .fatal).HaltedBy p.uid r := by
    rw [State.HaltedBy, State.killCrews_crew (by rw [ht.1]; simp)]; exact ht
  have hhalt (f : Slot → Slot) : ((s.modCrew p.uid fun c =>
      { c with cause := some .fatal, fatalRec := some r, stopNs := s.now
               fatalWhere := BitVec.ofNat 64 (whereDword c.core p.tid p.slotB) }).modSlot p f).HaltedBy p.uid r := by
    refine hslot _ f ?_
    rw [State.HaltedBy, State.modCrew_crew]; exact ⟨rfl, rfl⟩
  unfold State.fatal
  simp only [h, Option.isSome_none, Bool.false_eq_true, if_false]
  split
  · exact hkill _ _ _ _ (((hhalt _).modTask ..).logFault ..)
  · split
    · exact ((hhalt _).modTask ..).modPart ..
    · split
      · exact (((hhalt _).modTask ..).modPart ..).logFault ..
      · exact hkill _ _ _ _ (((hhalt _).modTask ..).logFault ..)

/-- R392's delivery to the trap entry. -/
theorem State.enterTrap_toEntry (s : State) (p : PairRef) (pc : Word) (r : TrapRec) : s.ToEntry (s.enterTrap p pc r) p pc r := by
  let f (a : Arch) : Arch := ((a.took r).putRecord r).modSlot p.slotB fun x => { x.at pc with inTrap := true }
  let z := s.modArch p.uid p.tid f
  have hz : s.OnlyThread z ⟨p.uid, p.tid⟩ := State.modArch_onlyThread ..
  have harch : z.arch p.uid p.tid = f (s.arch p.uid p.tid) := State.modArch_arch ..
  have htr : State.Traced p.uid z (s.enterTrap p pc r) := traced_packet ..
  have hfinal : (s.enterTrap p pc r).arch p.uid p.tid = f (s.arch p.uid p.tid) := by
    rw [← harch]; exact congrArg Thread.arch (htr.thread ..)
  have hslot (b : Bool) : ((s.arch p.uid p.tid).took r |>.putRecord r).slot b = (s.arch p.uid p.tid).slot b := by cases b <;> rfl
  have hsame : ((s.arch p.uid p.tid).took r |>.putRecord r).SameButStack (f (s.arch p.uid p.tid)) := Arch.setSlot_same ..
  have hstk : (f (s.arch p.uid p.tid)).cstk = (s.arch p.uid p.tid).cstk := by dsimp only [f, Arch.modSlot]; cases p.slotB <;> rfl
  refine ⟨?_, ?_, fun n => ?_, ?_, ?_, fun k hk => ?_, fun hoff => ?_⟩
  · show ((s.enterTrap p pc r).arch p.uid p.tid).slot p.slotB = _
    rw [hfinal, Arch.modSlot_slot, hslot]; rfl
  · show ((s.enterTrap p pc r).arch p.uid p.tid).slot (!p.slotB) = (s.arch p.uid p.tid).slot (!p.slotB)
    rw [hfinal, ← hslot (!p.slotB)]
    exact Arch.setSlot_slot_other ..
  · have hs : (f (s.arch p.uid p.tid)).s = ((s.arch p.uid p.tid).putRecord r).s := by rw [hsame]; rfl
    rw [hfinal, hs, Arch.putRecord]
    simp only [Store.get_set]
    obtain h | h | h | h | ⟨h0, h1, h2, h3⟩ : n = 60 ∨ n = 61 ∨ n = 62 ∨ n = 63 ∨ n ≠ 60 ∧ n ≠ 61 ∧ n ≠ 62 ∧ n ≠ 63 := by omega
    · simp [h]
    · simp [h]
    · simp [h]
    · simp [h]
    · rw [if_neg h3, if_neg h2, if_neg h1, if_neg h0]
      split <;> first | contradiction | rfl
  · rw [hfinal, hsame]; exact ⟨rfl, rfl⟩
  · rw [hfinal]
    dsimp only
    rw [hsame, hstk]; rfl
  · rw [htr.thread]; exact hz.threads k hk
  · have hz0 : (z.crew p.uid).trace.on = false := by rw [hz.crew]; exact hoff
    have heq : s.enterTrap p pc r = z := packet_off hz0 ..
    rw [heq]
    exact ⟨hz.package, hz.crews, hz.crew⟩

end

/-- Settles O34. -/
theorem faultEntry : Obligations.FaultEntry := by
  refine ⟨fun s p f hdr word hword => ?_, rfl, rfl, rfl, rfl, rfl⟩
  intro t x c r intercepted fatal otherIn
  have hnone : (0xFFFFFFFF : Word) = Config.noneAddr := by decide
  have hnot (hi : ¬ intercepted) : x.priv = none → c.icept.getLsbD f.exc.code = false ∧ f.exc ≠ .singleStep := fun hp =>
    ⟨Bool.eq_false_iff.2 fun h => hi ⟨hp, .inl h⟩, fun h => hi ⟨hp, .inr h⟩⟩
  refine ⟨f.record_tells hdr word _ hword, fun hi => ?firmware, fun hi hf hc => ?fatal, fun hi hf ho => ?waits, fun ho => ?entry⟩
  case firmware =>
    have ht : t = (s.modArch p.uid p.tid fun a => { a with trec := r }).enterFirmware p (if f.exc == .singleStep then 3 else 2) hdr word :=
      State.take_firmware hdr word hi.1 hi.2
    have hcode : (if f.exc == .singleStep then 3 else 2) = if f.exc = .singleStep then 3 else 2 := by simp only [beq_iff_eq]
    have harch := State.enterFirmware_arch (s.modArch p.uid p.tid fun a => { a with trec := r }) p (if f.exc == .singleStep then 3 else 2) hdr word
    have hfw : (s.modArch p.uid p.tid fun a => { a with trec := r }).fw = s.fw := rfl
    rw [← ht, State.modArch_arch, hcode, hfw] at harch
    have hslot : t.slot p = { x.at s.fw.entry with priv := some (if f.exc = .singleStep then 3 else 2), retPc := hdr, retWord := word } := by
      have hmod (a : Arch) (g : Slot → Slot) (n : Nat) : ({ a.modSlot p.slotB g with cause := n } : Arch).slot p.slotB = g (a.slot p.slotB) := by
        cases p.slotB <;> rfl
      rw [State.slot, harch, hmod, Arch.slot_trec]; rfl
    refine ⟨by rw [hslot]; rfl, by rw [hslot]; rfl, by rw [hslot], by rw [hslot], by rw [hslot], ?_, by rw [harch], ?_, by rw [ht]; rfl⟩
    · rw [harch]; cases p.slotB <;> rfl
    · rw [harch]; cases p.slotB <;> rfl
  case fatal =>
    have hf' : x.priv ≠ none ∨ (s.hdrOf c).trapPc = Config.noneAddr ∨ x.inTrap = true := by rwa [← hnone]
    have ht : t = s.fatal p r := State.take_fatal hdr word (hnot hi) hf'
    rw [ht]
    obtain ⟨hcause, hrec⟩ := State.fatal_halts r hc
    exact ⟨hcause, hrec, State.fatal_mem ..⟩
  case waits =>
    obtain ⟨hp, hpc, hin⟩ : x.priv = none ∧ (s.hdrOf c).trapPc ≠ Config.noneAddr ∧ ¬ x.inTrap = true := by
      rw [← hnone]; simpa only [fatal, not_or, Classical.not_not] using hf
    obtain ⟨hicept, hstep⟩ := hnot hi hp
    have ht := State.take_waits hdr word hp hicept hstep hpc (Bool.eq_false_iff.2 hin) (by simpa [isLead] using ho.1) ho.2
    obtain ⟨honly, hslot, hthread⟩ := State.modSlot_onlySlot s p fun x =>
      { x with st := .blocked, pc := hdr, word := word, started := word != 0, holds := false, wait := some (.trapClear f), waitSince := s.now }
    rw [← ht] at hslot hthread
    have harch : (t.arch p.uid p.tid).s = (s.arch p.uid p.tid).s := by
      show (t.thread p.uid p.tid).arch.s = _
      rw [show t.thread p.uid p.tid = _ from hthread]; cases p.slotB <;> rfl
    have hsl : t.slot p = _ := hslot
    exact ⟨by rw [hsl], by rw [hsl], by rw [hsl], by rw [hsl], harch, by show (s.take p f hdr word).mem = _; rw [ht]; rfl⟩
  case entry =>
    obtain ⟨hp, hicept, hstep, hpc, hin, hoth⟩ := ho
    rw [hnone] at hpc
    have ht : t = s.enterTrap p (s.hdrOf c).trapPc r := State.take_trap hdr word hp hicept hstep hpc hin (by simpa [isLead] using hoth)
    rw [ht]
    exact State.enterTrap_toEntry ..

end Sys2Proof.Machine
end

section
/-! SUPPORT. A crew table that lists the issuing crew twice: what the statements of loads and stores say of the place of an access there. -/

namespace Sys2Proof.Machine

open Tests

/-- Behind its entry the issuing crew has a second one, of a task whose control stacks stand at 0x10000; memory holds 5 at 0x1003C.
A change of the crew takes the second entry away, so that the place of a key that it covers is memory again. -/
def listedTwice (s : State) : State :=
  let s := (reg 2 60 (handleIn 2 (obj 64 2) s)).modTask 0 2 fun x => { x with hdr := soleHdr, blockBase := 0x10000 }
  { s with crews := s.crews ++ [(s.cur.uid, { task := 2, block := some 0 })], mem := Store.set 0 s.mem 0x1003C 5 }

/-- What a load reads of a control stack: its present bytes (R125). -/
theorem State.sees_stack {s : State} {acq : Bool} {h : HReg} {uid off n v : Nat} (hoff : stackBase ≤ off)
    (hsees : s.sees acq h (.reg uid off) n v) : v = valueAt (s.own s.peek) (.reg uid off) n := by
  obtain ⟨r, -, hv⟩ := hsees
  rw [hv, valueAt, valueAt]
  congr 1
  refine List.map_congr_left fun k _ => ?_
  simp only [State.own, Loc.plus, hoff, if_true]

/-- Refutes O19: the load of a byte that the second entry covers reads the memory there, which is 5, and not the control stack that the
statement names, whose bytes are 0. -/
theorem not_loads : ¬ Obligations.Loads := by
  intro h
  have hwit : wit (.sld msT) listedTwice (fun s => s.grants (s.msAccess msT .load) &&
      s.accLoc (s.msAccess msT .load) 0 == .reg 1 1048636) = true := by decide
  simp only [wit, Bool.and_eq_true, beq_iff_eq] at hwit
  obtain ⟨⟨hexec, hstep⟩, hgrants, hloc⟩ := hwit
  obtain ⟨t, ht, -, v, hsees, hwrote⟩ := ((h.2 _ msT).2 hgrants).1 hexec hstep
  have hv : v = 0 := by
    rw [hloc] at hsees
    rw [State.sees_stack (by decide) hsees]
    decide
  have hreg := hwrote.regs msT.sd
  rw [if_pos rfl, hv, ← after_eq (i := .sld msT) (f := listedTwice) ht] at hreg
  exact absurd hreg (by decide)

/-- Refutes O20: the store to a byte that the second entry covers goes to the memory there, and not to the control stack that the statement
names. -/
theorem not_storesQueue : ¬ Obligations.StoresQueue := by
  intro h
  have hwit : wit (.sst msT) listedTwice (fun s => s.issues (s.msAccess msT .store) && s.cthr.sq == [] &&
      (s.msAccess msT .store).list.map (s.accLoc (s.msAccess msT .store)) == [.reg 1 1048636]) = true := by decide
  simp only [wit, Bool.and_eq_true, beq_iff_eq] at hwit
  obtain ⟨⟨hexec, hstep⟩, ⟨hissues, hqueue⟩, hlocs⟩ := hwit
  obtain ⟨t, ht, -, -, w, hsq, hholds⟩ := (h _).2.1 msT hissues hexec hstep
  rw [hqueue, List.nil_append, ← after_eq (i := .sst msT) (f := listedTwice) ht] at hsq
  have hplaces : w.lanes.map LaneWrite.loc = [.reg 1 1048636] := by
    rw [← hlocs]
    simpa [Function.comp_def] using congrArg (List.map Prod.fst) hholds.lanes
  have hmem : (after (.sst msT) listedTwice).cthr.sq.map (fun w => w.lanes.map LaneWrite.loc) = [[.mem 65596]] := by decide
  rw [hsq, List.map_singleton, hplaces] at hmem
  exact absurd hmem (by decide)

end Sys2Proof.Machine
end

section
/-! SUPPORT. Words that wait, and the checks of an access (R86 to R90). -/

namespace Sys2Proof.Machine

/-! ### Waiting at a word -/

section
variable {s t : State}

/-- A state that keeps the thread's registers and poison is entered too. -/
theorem State.Entered.trans {u : State} (h : s.Entered t) (hk : t.KeptThread u) (harch : u.carch = t.carch)
    (hpoison : u.ccrew.regPoison = t.ccrew.regPoison) : s.Entered u :=
  ⟨h.toKeptThread.trans hk, harch.trans h.arch, hpoison.trans h.poison⟩

theorem State.leaveWindow_kept (t : State) : t.KeptThread (t.leaveWindow t.cur.uid t.cur.tid) ∧
    (t.leaveWindow t.cur.uid t.cur.tid).carch = t.carch ∧ (t.leaveWindow t.cur.uid t.cur.tid).ccrew.regPoison = t.ccrew.regPoison := by
  refine ⟨State.modThread_kept _ _ rfl, ?_, ?_⟩
  · rw [State.leaveWindow, State.carch, State.modThread_cthr]; rfl
  · rw [State.leaveWindow, State.modThread_ccrew]; rfl

/-- What waiting at a word leaves. -/
theorem State.suspend_suspended (h : s.Entered t) (w : Wait) : s.Suspended (t.suspend w) w := by
  unfold State.suspend
  obtain ⟨hslot, hother, harch⟩ := State.modCSlot_arch t fun x =>
    { x with st := .blocked, pc := t.cur.hdr, word := t.cur.word, started := true, holds := false, wait := some w
             waitSince := if x.wait.isSome then x.waitSince else t.now
             wdSince := if x.wait.isSome then x.wdSince else t.now
             blockedCyc := t.cycles }
  refine ⟨h.toKeptThread.trans (State.modCSlot_kept ..), ?_, ?_, ?_, ?_⟩
  · rw [hslot, h.cslot, h.cur]
  · have hb : s.cur.slotB = t.cur.slotB := by rw [h.cur]
    rw [hb, hother, h.arch]
  · rw [harch, h.arch]
  · rw [State.modCSlot_regPoison, h.poison]

/-- A word that waits. -/
theorem State.waits_of_body {i : Instr} {w : WordInfo} {body : State → Res} {wt : Wait} (hw : wordInfo s i = some w)
    (he : exec i s = runWord w body s) (hb : ∀ t, s.Entered t → ∃ u, s.Entered u ∧ body t = .block u wt) : s.waits i wt := by
  intro hx
  obtain ⟨u, hu, hbody⟩ := hb _ (State.enter_entered s w)
  refine ⟨_, by rw [he, runWord_enter hw hx, hbody], ?_⟩
  cases w.old
  · obtain ⟨hk, harch, hpoison⟩ := State.leaveWindow_kept u
    rw [hu.cur] at hk harch hpoison
    exact State.suspend_suspended (hu.trans hk harch hpoison) wt
  · exact State.suspend_suspended hu wt

end

/-! ### What an access finds -/

section
variable {s t : State} (h : s.Entered t)
include h

theorem State.Entered.memH (n : Nat) : t.memH n = s.memH n := by simp only [State.memH, h.rdH, h.cslot]

theorem State.Entered.pref : t.ccrew.pref = s.ccrew.pref := by rw [h.ccrew]; rfl

theorem State.Entered.crewCore : t.ccrew.core = s.ccrew.core := by rw [h.ccrew]

theorem State.Entered.arena (r : ArenaRef) : t.arena r = s.arena r := by rw [State.arena, h.package]; rfl

theorem State.Entered.checkStep (p : PartRef) (x : HReg) (w : Want) (lanes : Option Nat) (cache : Nat) (off : DWord) (k : Nat) :
    t.checkStep p x w lanes cache off k = s.checkStep p x w lanes cache off k := by
  unfold State.checkStep
  split
  all_goals first | rfl | simp only [State.step5, State.arenaStop, h.arena]

theorem State.Entered.missingPage (d : Nat) (e : HEntry) (off n : Nat) : t.missingPage d e off n = s.missingPage d e off n := by
  have hpages : t.absentPages = s.absentPages := by rw [h.package]
  simp only [State.missingPage, State.pagePresent, hpages]

theorem State.Entered.checkAccess (a : Access) : t.checkAccess a = s.checkAccess a := by
  simp only [State.checkAccess, h.memH, h.pref, h.crewCore, h.chdr, State.checkLanes, State.checkOne, h.checkStep, h.missingPage]

theorem State.Entered.mvAccess (f : FmtMV) (k : AccKind) (A : Word) : t.mvAccess f k A = s.mvAccess f k A := by
  simp only [State.mvAccess, h.rdV]

theorem State.Entered.msAccess (f : FmtMS) (k : AccKind) : t.msAccess f k = s.msAccess f k := by
  simp only [State.msAccess, h.rdS]

theorem State.Entered.maAccess (f : FmtMA) : t.maAccess f = s.maAccess f := by simp only [State.maAccess, h.mask, h.rdV]

theorem State.Entered.saAccess (f : FmtSA) : t.saAccess f = s.saAccess f := by simp only [State.saAccess, h.rdS]

end

/-! ### The steps of R86 -/

/-- What each step of R86 asks of a lane. -/
def State.stepFails (s : State) (p : PartRef) (h : HReg) (w : Want) (cache : Nat) (off : DWord) (k : Nat) : Prop := match k with
  | 1 => ¬ (h.ent.valid = true ∧ h.ent.space ≠ 7 ∧ h.ent.policy ≠ 3)
  | 2 => h.ent.size < off.toNat + w.n
  | 3 => (w.rd = true ∧ h.ent.r = false) ∨ (w.wr = true ∧ h.ent.w = false)
  | 4 => off.toNat % w.align ≠ 0
  | _ => h.ent.space ≠ 0 ∧ h.ent.space ≠ 5 ∧ let a := s.arena (h.ent.arenaRef p)
    (h.stale = true ∨ a.goneAt cache = true ∨ a.gen ≠ h.ent.gen ∨ (w.wr = true ∧ a.sealedAt cache = true))

/-- The fault of each step; the arena's is one of two. -/
def stepExc (k : Nat) (e : Exc) : Prop := (k ≤ 4 → e = match k with
    | 1 => .handleInvalid
    | 2 => .handleBounds
    | 3 => .handlePermission
    | _ => .misaligned) ∧ (k = 5 → e = .arenaStale ∨ e = .sealedWrite)

section
variable {s : State} {p : PartRef} {h : HReg} {w : Want} {cache : Nat} {off : DWord} {k : Nat}

theorem State.arenaStop_cases (s : State) (a : ArenaRef) (gen : Nat) (stale wr : Bool) (cache : Nat) :
    (∃ e, s.arenaStop a gen stale wr cache = some e ∧ (e = .arenaStale ∨ e = .sealedWrite) ∧
      (stale = true ∨ (s.arena a).goneAt cache = true ∨ (s.arena a).gen ≠ gen ∨ (wr = true ∧ (s.arena a).sealedAt cache = true))) ∨
    (s.arenaStop a gen stale wr cache = none ∧
      ¬ (stale = true ∨ (s.arena a).goneAt cache = true ∨ (s.arena a).gen ≠ gen ∨ (wr = true ∧ (s.arena a).sealedAt cache = true))) := by
  unfold State.arenaStop
  dsimp only
  split
  · next hgone =>
    refine .inl ⟨_, rfl, .inl rfl, ?_⟩
    simp only [Bool.or_eq_true, bne_iff_ne] at hgone
    grind
  · next hgone =>
    simp only [Bool.or_eq_true, bne_iff_ne] at hgone
    split
    · next hsealed => exact .inl ⟨_, rfl, .inr rfl, .inr (.inr (.inr (by simpa using hsealed)))⟩
    · next hsealed =>
      refine .inr ⟨rfl, ?_⟩
      simp only [Bool.and_eq_true] at hsealed
      grind

/-- A step fails where R86 says so, with its fault. -/
theorem State.checkStep_cases (hk : 1 ≤ k) (hk5 : k ≤ 5) :
    (∃ e, s.checkStep p h w none cache off k = some e ∧ stepExc k e ∧ s.stepFails p h w cache off k) ∨
    (s.checkStep p h w none cache off k = none ∧ ¬ s.stepFails p h w cache off k) := by
  have hstep (e : Exc) (c : Prop) [Decidable c] (n : Nat) (hn : n ≤ 4) (he : stepExc n e) (hc : c ↔ ¬ s.stepFails p h w cache off n)
      (heq : s.checkStep p h w none cache off n = if c then none else some e) :
      (∃ e, s.checkStep p h w none cache off n = some e ∧ stepExc n e ∧ s.stepFails p h w cache off n) ∨
      (s.checkStep p h w none cache off n = none ∧ ¬ s.stepFails p h w cache off n) := by
    by_cases h0 : c
    · exact .inr ⟨by rw [heq, if_pos h0], hc.1 h0⟩
    · exact .inl ⟨e, by rw [heq, if_neg h0], he, Classical.not_not.1 (mt hc.2 h0)⟩
  obtain rfl | rfl | rfl | rfl | rfl : k = 1 ∨ k = 2 ∨ k = 3 ∨ k = 4 ∨ k = 5 := by omega
  · refine hstep .handleInvalid _ 1 (by decide) ⟨fun _ => rfl, by decide⟩ ?_ rfl
    simp [State.stepFails, and_assoc]
  · refine hstep .handleBounds _ 2 (by decide) ⟨fun _ => rfl, by decide⟩ ?_ rfl
    simp [State.stepFails]
  · refine hstep .handlePermission (((w.rd && !h.ent.r) || (w.wr && !h.ent.w)) = false) 3 (by decide) ⟨fun _ => rfl, by decide⟩ ?_ ?_
    · simp [State.stepFails]
    · show (if ((w.rd && !h.ent.r) || (w.wr && !h.ent.w)) = true then some Exc.handlePermission else none) = _
      cases ((w.rd && !h.ent.r) || (w.wr && !h.ent.w)) <;> rfl
  · refine hstep .misaligned _ 4 (by decide) ⟨fun _ => rfl, by decide⟩ ?_ rfl
    simp [State.stepFails]
  · show (∃ e, s.step5 p h.ent h.stale w.wr cache = some e ∧ _) ∨ (s.step5 p h.ent h.stale w.wr cache = none ∧ _)
    unfold State.step5
    by_cases hsp : h.ent.space = 0 ∨ h.ent.space = 5
    · rw [if_pos (by simpa using hsp)]
      refine .inr ⟨rfl, ?_⟩
      rintro ⟨h0, h5, -⟩
      exact hsp.elim h0 h5
    · rw [if_neg (by simpa using hsp)]
      rw [not_or] at hsp
      rcases s.arenaStop_cases (h.ent.arenaRef p) h.ent.gen h.stale w.wr cache with ⟨e, he, hexc, hcond⟩ | ⟨he, hcond⟩
      · exact .inl ⟨e, he, ⟨fun h4 => absurd h4 (by decide), fun _ => hexc⟩, hsp.1, hsp.2, hcond⟩
      · exact .inr ⟨he, fun hf => hcond hf.2.2⟩

theorem State.checkStep_isSome (hk : 1 ≤ k) (hk5 : k ≤ 5) :
    (s.checkStep p h w none cache off k).isSome = true ↔ s.stepFails p h w cache off k := by
  rcases State.checkStep_cases (s := s) (p := p) (h := h) (w := w) (cache := cache) (off := off) hk hk5 with ⟨e, he, -, hf⟩ | ⟨he, hf⟩
  · rw [he]; exact iff_of_true rfl hf
  · rw [he]; exact iff_of_false (by simp) hf

end

theorem mem_laneList {A : Word} {l : Nat} : l ∈ laneList A ↔ l < 32 ∧ A.getLsbD l = true := by
  simp [laneList]

/-- R88: the earliest step that a lane of A fails decides, and exactly the lanes that failed it are named. -/
theorem State.checkLanes_bad (s : State) (p : PartRef) (hn : Nat) (h : HReg) (w : Want) (cache eng : Nat) (A : Word) (off : Nat → DWord)
    {k : Nat} (hk : 1 ≤ k) (hk5 : k ≤ 5) (hsome : ∃ l, (l < 32 ∧ A.getLsbD l = true) ∧ s.stepFails p h w cache (off l) k)
    (hfirst : ∀ j, 1 ≤ j → j < k → ∀ l, (l < 32 ∧ A.getLsbD l = true) → ¬ s.stepFails p h w cache (off l) j) :
    ∃ f m, s.checkLanes p hn h w none cache eng A off = .bad f ∧ f.lanes = some m ∧
      (∀ l, l < 32 → (m.getLsbD l = true ↔ (l < 32 ∧ A.getLsbD l = true) ∧ s.stepFails p h w cache (off l) k)) ∧ stepExc k f.exc := by
  let fails (k : Nat) : List Nat := (laneList A).filter fun l => (s.checkStep p h w none cache (off l) k).isSome
  have hmem (j l : Nat) (h1 : 1 ≤ j) (h5 : j ≤ 5) : l ∈ fails j ↔ (l < 32 ∧ A.getLsbD l = true) ∧ s.stepFails p h w cache (off l) j := by
    simp only [fails, List.mem_filter, mem_laneList, State.checkStep_isSome h1 h5]
  have hne : (fails k).isEmpty = false := by
    obtain ⟨l, hl⟩ := hsome
    have := (hmem k l hk hk5).2 hl
    cases hf : fails k with
    | nil => rw [hf] at this; cases this
    | cons _ _ => rfl
  have hempty (j : Nat) (h1 : 1 ≤ j) (hj : j < k) : (fails j).isEmpty = true := by
    rw [List.isEmpty_iff, List.eq_nil_iff_forall_not_mem]
    intro l hl
    obtain ⟨hin, hf⟩ := (hmem j l h1 (by omega)).1 hl
    exact hfirst j h1 hj l hin hf
  have hfind : [1, 2, 3, 4, 5].find? (fun k => !(fails k).isEmpty) = some k := by
    have hstep (j : Nat) (h1 : 1 ≤ j) (hj : j ≤ k) : (!(fails j).isEmpty) = decide (j = k) := by
      by_cases hjk : j = k
      · rw [hjk, hne]; simp
      · rw [hempty j h1 (by omega)]; simp [hjk]
    obtain rfl | rfl | rfl | rfl | rfl : k = 1 ∨ k = 2 ∨ k = 3 ∨ k = 4 ∨ k = 5 := by omega
    all_goals simp [List.find?, hstep]
  have hhead : (fails k).headD 0 ∈ fails k := by
    cases hf : fails k with
    | nil => rw [hf] at hne; cases hne
    | cons l _ => exact List.mem_cons_self
  obtain ⟨-, hfails⟩ := (hmem k _ hk hk5).1 hhead
  rcases State.checkStep_cases (s := s) (p := p) (h := h) (w := w) (cache := cache) (off := off ((fails k).headD 0)) hk hk5 with
    ⟨e, he, hexc, -⟩ | ⟨-, hnot⟩
  · refine ⟨{ exc := (s.checkStep p h w none cache (off ((fails k).headD 0)) k).getD .handleInvalid, lanes := some (laneMask fun i => (fails k).contains i)
              hreg := some hn, hindex := h.idx, offset := off ((fails k).headD 0), eng := eng }, _, ?_, rfl, fun l hl => ?_, ?_⟩
    · unfold State.checkLanes
      simp only [show [1, 2, 3, 4, 5].find? (fun k => !((laneList A).filter fun l => (s.checkStep p h w none cache (off l) k).isSome).isEmpty) = some k from hfind]
      rfl
    · rw [laneMask_getLsbD _ hl, List.contains_iff_mem, hmem k l hk hk5]
    · show stepExc k ((s.checkStep p h w none cache (off ((fails k).headD 0)) k).getD .handleInvalid)
      rw [he]; exact hexc
  · exact absurd hfails hnot

/-- An access that every lane of A passes raises none of R86's faults. -/
theorem State.checkLanes_passes (s : State) (p : PartRef) (hn : Nat) (h : HReg) (w : Want) (cache eng : Nat) (A : Word) (off : Nat → DWord)
    (hpass : ∀ k, 1 ≤ k → k ≤ 5 → ∀ l, (l < 32 ∧ A.getLsbD l = true) → ¬ s.stepFails p h w cache (off l) k) (f : FaultInfo) :
    s.checkLanes p hn h w none cache eng A off ≠ .bad f := by
  have hfind : [1, 2, 3, 4, 5].find? (fun k => !((laneList A).filter fun l => (s.checkStep p h w none cache (off l) k).isSome).isEmpty) = none := by
    rw [List.find?_eq_none]
    intro k hk
    have hk1 : 1 ≤ k ∧ k ≤ 5 := by simp only [List.mem_cons, List.not_mem_nil, or_false] at hk; omega
    simp only [Bool.not_eq_true', Bool.not_eq_false, List.isEmpty_iff, List.filter_eq_nil_iff, mem_laneList, State.checkStep_isSome hk1.1 hk1.2]
    exact fun l hl => hpass k hk1.1 hk1.2 l hl
  unfold State.checkLanes
  simp only [hfind]
  split <;> simp

/-! ### Words whose access is turned away -/

theorem withAccess_bad {t : State} {a : Access} {f : FaultInfo} (h : t.checkAccess a = .bad f) (go : State → Res) :
    withAccess t a go = .trap t f := by unfold withAccess; rw [h]

theorem withAccess_page {t : State} {a : Access} {d p : Nat} {f : FaultInfo} (h : t.checkAccess a = .page d p f) (go : State → Res) :
    withAccess t a go = .block t (.page d p f) := by unfold withAccess; rw [h]

/-- A word whose meaning begins with the checks of an access (R86, R90). -/
theorem stops_of_withAccess {s : State} {i : Instr} {w : WordInfo} {body : State → Res} {a : Access} (hw : wordInfo s i = some w)
    (he : exec i s = runWord w body s) (hb : ∀ t, s.Entered t → ∃ go, body t = withAccess t a go) :
    (∀ f, s.checkAccess a = .bad f → s.traps i f) ∧ ∀ d p f, s.checkAccess a = .page d p f → s.waits i (.page d p f) := by
  refine ⟨fun f hf => State.traps_at hw he fun t ht => ?_, fun d p f hf => State.waits_of_body hw he fun t ht => ⟨t, ht, ?_⟩⟩
  · obtain ⟨go, hgo⟩ := hb t ht
    rw [hgo, withAccess_bad (by rw [ht.checkAccess, hf])]
  · obtain ⟨go, hgo⟩ := hb t ht
    rw [hgo, withAccess_page (by rw [ht.checkAccess, hf])]

theorem loadBody_access {s t : State} (ht : s.Entered t) (f : FmtMV) (hA : s.lanes f.gp 0 ≠ 0) (sg : Bool) :
    ∃ go, loadBody f sg t = withAccess t (s.mvAccess f .load (s.lanes f.gp 0)) go := by
  unfold loadBody
  simp only [ht.lanes, ht.mvAccess, beq_iff_eq, hA, if_false]
  exact ⟨_, rfl⟩

theorem atomBody_access {t : State} (hmid : t.midAtomic = false) (a : Access) (ty k : Nat) (val cmp : Nat → Nat)
    (fin : List (Nat × Nat) → State → Res) : ∃ go, atomBody a ty k val cmp fin t = withAccess t a go := by
  unfold atomBody
  split
  · next vs fault hw => simp [State.midAtomic, hw] at hmid
  · exact ⟨_, rfl⟩

theorem State.Entered.midAtomic {s t : State} (h : s.Entered t) : t.midAtomic = s.midAtomic := by simp only [State.midAtomic, h.cslot]

theorem vatomWord_stops {s : State} {i : Instr} {ty : Nat} {f : FmtMA} (hw : wordInfo s i = some (maInfo i ty f)) (he : exec i s = vatomWord i ty f s)
    (hmid : s.midAtomic = false) : (∀ e, s.checkAccess (s.maAccess f) = .bad e → s.traps i e) ∧
      ∀ d p e, s.checkAccess (s.maAccess f) = .page d p e → s.waits i (.page d p e) := by
  refine stops_of_withAccess hw (he.trans rfl) fun t ht => ?_
  rw [← ht.maAccess]
  exact atomBody_access (by rw [ht.midAtomic, hmid]) ..

theorem vatomnWord_stops {s : State} {i : Instr} {ty : Nat} {f : FmtMA} (hw : wordInfo s i = some (maInfo i ty f)) (he : exec i s = vatomnWord i ty f s) :
    (∀ e, s.checkAccess (s.maAccess f) = .bad e → s.traps i e) ∧
      ∀ d p e, s.checkAccess (s.maAccess f) = .page d p e → s.waits i (.page d p e) := by
  refine stops_of_withAccess hw (he.trans rfl) fun t ht => ?_
  rw [← ht.maAccess]
  exact ⟨_, rfl⟩

/-- Memory outside the control stacks of the crews' blocks is memory (R125). -/
theorem State.placeOf_mem {s : State} {key : Nat} (h : ∀ e ∈ s.crews, e.2.block ≠ none →
    key < (s.blockOf e.2).1 + (s.hdrOf e.2).groups * (s.hdrOf e.2).privw * 128 ∨
      (s.blockOf e.2).1 + (s.hdrOf e.2).groups * (s.hdrOf e.2).privw * 128 + ((s.hdrOf e.2).groups + (s.hdrOf e.2).hslots) * (s.hdrOf e.2).cstk ≤ key) :
    s.placeOf key = .mem key := by
  have hnone : s.stackAt key = none := by
    unfold State.stackAt
    rw [List.findSome?_eq_none_iff]
    intro e he
    refine if_neg fun hin => ?_
    simp only [Bool.and_eq_true, decide_eq_true_eq, Option.isSome_iff_ne_none] at hin
    obtain ⟨⟨hblock, hlo⟩, hhi⟩ := hin
    have := h e he hblock
    omega
  rw [State.placeOf, hnone]

/-- Settles O18. -/
theorem accessChecks : Obligations.AccessChecks := by
  refine ⟨fun s p hn h w cache eng A off => ?lanes, fun s p h w privw cache l uid off => ?priv, fun s => ?words⟩
  case lanes =>
    intro fails inA
    have hfails : fails = fun k l => s.stepFails p h w cache (off l) k := rfl
    refine ⟨fun k hk hk5 hsome hfirst => ?_, fun hpass f => s.checkLanes_passes p hn h w cache eng A off hpass f⟩
    obtain ⟨f, m, hbad, hlanes, hmask, hexc, h5⟩ := s.checkLanes_bad p hn h w cache eng A off hk hk5 hsome hfirst
    exact ⟨f, m, hbad, hlanes, hmask, hexc, h5⟩
  case priv =>
    refine ⟨?_, fun hsp => ?_, fun key hkey => State.placeOf_mem hkey⟩
    · show (if off.toNat / 4 < privw then none else some Exc.privLimit) = _
      by_cases hlt : off.toNat / 4 < privw
      · rw [if_pos hlt, if_neg (by omega)]
      · rw [if_neg hlt, if_pos (Nat.le_of_not_lt hlt)]
    · simp only [State.locOf, hsp] <;> rfl
  case words =>
    intro stops
    refine ⟨fun f hA => ⟨?vld, ?vlds, ?vst⟩, fun f => ⟨?sld, ?slds, ?sst⟩, fun f hmid => ?vatom, fun f hmid => ?satom⟩
    case vld =>
      have he : exec (.vld f) s = execVld f s := rfl
      exact stops_of_withAccess rfl he fun t ht => loadBody_access ht f hA _
    case vlds =>
      have he : exec (.vlds f) s = execVlds f s := rfl
      exact stops_of_withAccess rfl he fun t ht => loadBody_access ht f hA _
    case vst =>
      have he : exec (.vst f) s = execVst f s := rfl
      refine stops_of_withAccess rfl he fun t ht => ?_
      simp only [ht.lanes, ht.mvAccess, beq_iff_eq, hA, if_false]
      exact ⟨_, rfl⟩
    case sld =>
      have he : exec (.sld f) s = execSld f s := rfl
      refine stops_of_withAccess rfl he fun t ht => ?_
      rw [← ht.msAccess]
      exact ⟨_, rfl⟩
    case slds =>
      have he : exec (.slds f) s = execSlds f s := rfl
      refine stops_of_withAccess rfl he fun t ht => ?_
      rw [← ht.msAccess]
      exact ⟨_, rfl⟩
    case sst =>
      have he : exec (.sst f) s = execSst f s := rfl
      refine stops_of_withAccess rfl he fun t ht => ?_
      rw [← ht.msAccess]
      exact ⟨_, rfl⟩
    case vatom =>
      exact ⟨vatomWord_stops rfl rfl hmid, vatomWord_stops rfl rfl hmid, vatomWord_stops rfl rfl hmid, vatomWord_stops rfl rfl hmid,
        vatomWord_stops rfl rfl hmid, vatomnWord_stops rfl rfl, vatomnWord_stops rfl rfl, vatomnWord_stops rfl rfl, vatomnWord_stops rfl rfl,
        vatomnWord_stops rfl rfl⟩
    case satom =>
      have he : exec (.satom f) s = execSatom f s := rfl
      refine stops_of_withAccess rfl he fun t ht => ?_
      have hacc : t.saAccess f = ⟨f.h.toNat, .atomic, 8, 8, none, fun _ => s.rdS f.sa⟩ := ht.saAccess f
      rw [← hacc]
      exact atomBody_access (by rw [ht.midAtomic, hmid]) ..

end Sys2Proof.Machine
end

section
/-! SUPPORT. Words whose effect beside their registers is undone by a restoring function of the statement. -/

namespace Sys2Proof.Machine

/-! ### Changes of one crew in a row -/

theorem State.modCrew_modCrew (s : State) (u : Nat) (f g : Crew → Crew) : (s.modCrew u f).modCrew u g = s.modCrew u fun c => g (f c) := by
  simp [State.modCrew]

theorem State.modCrew_congr {s : State} {u : Nat} {f g : Crew → Crew} (h : f (s.crew u) = g (s.crew u)) : s.modCrew u f = s.modCrew u g := by
  simp only [State.modCrew, h]

theorem State.modThread_crewEq (s : State) (u k : Nat) (f : Thread → Thread) : s.modThread u k f = s.modCrew u fun c => c.modThread k f := rfl

theorem Crew.modThread_modThread (c : Crew) (k : Nat) (f g : Thread → Thread) : (c.modThread k f).modThread k g = c.modThread k fun h => g (f h) := by
  simp [Crew.modThread]

theorem State.modThread_modThread (s : State) (u k : Nat) (f g : Thread → Thread) :
    (s.modThread u k f).modThread u k g = s.modThread u k fun h => g (f h) := by
  simp only [State.modThread_crewEq, State.modCrew_modCrew, Crew.modThread_modThread]

theorem State.modThread_congr {s : State} {u k : Nat} {f g : Thread → Thread} (h : f (s.thread u k) = g (s.thread u k)) :
    s.modThread u k f = s.modThread u k g := by
  rw [State.modThread_eq, State.modThread_eq, h]

/-! ### Restoring -/

/-- A function that gives back part of a state: it changes nothing of the issuing thread's registers, slots and poison, and commutes
with their changes. -/
structure State.Restores (s : State) (R : State → State) : Prop where
  cur : ∀ x, (R x).cur = x.cur
  carch : ∀ x, x.cur = s.cur → (R x).carch = x.carch
  arch : ∀ x F, x.cur = s.cur → R (x.modCArch F) = (R x).modCArch F
  clean : ∀ x k, x.cur = s.cur → R (x.cleanReg k) = (R x).cleanReg k

namespace State.Restores

variable {s x : State} {R S : State → State}

theorem comp (hR : s.Restores R) (hS : s.Restores S) : s.Restores fun x => R (S x) where
  cur x := (hR.cur _).trans (hS.cur x)
  carch x hx := (hR.carch _ ((hS.cur x).trans hx)).trans (hS.carch x hx)
  arch x F hx := by rw [hS.arch x F hx, hR.arch _ F ((hS.cur x).trans hx)]
  clean x k hx := by rw [hS.clean x k hx, hR.clean _ k ((hS.cur x).trans hx)]

/-- Giving back fields of the issuing crew other than its threads and poison. -/
theorem ofCrew {f : Crew → Crew} (hthr : ∀ c, (f c).threads = c.threads) (hset : ∀ c th, f { c with threads := th } = { f c with threads := th })
    (hpois : ∀ c z, f { c with regPoison := z } = { f c with regPoison := z }) (hreg : ∀ c, (f c).regPoison = c.regPoison) :
    s.Restores fun x => x.modCrew s.cur.uid f where
  cur _ := rfl
  carch x hx := by
    show (((x.modCrew s.cur.uid f).crew x.cur.uid).thread x.cur.tid).arch = ((x.crew x.cur.uid).thread x.cur.tid).arch
    rw [hx, State.modCrew_crew, Crew.thread, hthr, Crew.thread]
  arch x F hx := by
    have hth (c : Crew) (k : Nat) : (f c).thread k = c.thread k := by rw [Crew.thread, hthr]; rfl
    have hcomm (c : Crew) (k : Nat) (g : Thread → Thread) : f (c.modThread k g) = (f c).modThread k g := by
      show f { c with threads := Store.set {} c.threads k (g (c.thread k)) } = { f c with threads := Store.set {} (f c).threads k (g ((f c).thread k)) }
      rw [hset, hthr, hth]
    show ((x.modCrew x.cur.uid fun c => c.modThread x.cur.tid (Thread.modArch · F)).modCrew s.cur.uid f) =
      ((x.modCrew s.cur.uid f).modCrew x.cur.uid fun c => c.modThread x.cur.tid (Thread.modArch · F))
    rw [hx, State.modCrew_modCrew, State.modCrew_modCrew]
    exact State.modCrew_congr (hcomm ..)
  clean x k hx := by
    show ((x.modCrew x.cur.uid fun c => { c with regPoison := Store.set false c.regPoison (regKey x.cur.tid k) false }).modCrew s.cur.uid f) =
      ((x.modCrew s.cur.uid f).modCrew x.cur.uid fun c => { c with regPoison := Store.set false c.regPoison (regKey x.cur.tid k) false })
    rw [hx, State.modCrew_modCrew, State.modCrew_modCrew]
    exact State.modCrew_congr (by rw [hpois, hreg])

/-- Giving back fields of the issuing thread other than its registers and slots. -/
theorem ofThread {g : Thread → Thread} (harch : ∀ h, (g h).arch = h.arch) (hset : ∀ h a, g { h with arch := a } = { g h with arch := a }) :
    s.Restores fun x => x.modThread s.cur.uid s.cur.tid g where
  cur _ := rfl
  carch x hx := by
    rw [← hx, State.carch, State.modThread_cthr, harch]; rfl
  arch x F hx := by
    have hcomm (h : Thread) : g (h.modArch F) = (g h).modArch F := by rw [Thread.modArch, hset, Thread.modArch, harch]
    show (x.modThread x.cur.uid x.cur.tid (Thread.modArch · F)).modThread s.cur.uid s.cur.tid g =
      (x.modThread s.cur.uid s.cur.tid g).modThread x.cur.uid x.cur.tid (Thread.modArch · F)
    rw [hx, State.modThread_modThread, State.modThread_modThread]
    exact State.modThread_congr (hcomm _)
  clean x k hx := by
    have hcomm (c : Crew) (z : Store Bool) : ({ c with regPoison := z } : Crew).modThread s.cur.tid g = { c.modThread s.cur.tid g with regPoison := z } := rfl
    have hreg (c : Crew) : (c.modThread s.cur.tid g).regPoison = c.regPoison := rfl
    show ((x.modCrew x.cur.uid fun c => { c with regPoison := Store.set false c.regPoison (regKey x.cur.tid k) false }).modCrew s.cur.uid
        fun c => c.modThread s.cur.tid g) =
      ((x.modCrew s.cur.uid fun c => c.modThread s.cur.tid g).modCrew x.cur.uid
        fun c => { c with regPoison := Store.set false c.regPoison (regKey x.cur.tid k) false })
    rw [hx, State.modCrew_modCrew, State.modCrew_modCrew]
    exact State.modCrew_congr (by rw [hcomm, hreg])

variable (h : s.Restores R) (hx : x.cur = s.cur)
include h hx

theorem cslot : (R x).cslot = x.cslot := by rw [State.cslot, h.carch x hx, h.cur]; rfl

theorem unstepped : (R x).unstepped = x.unstepped := by
  simp only [State.unstepped, h.carch x hx, h.cslot hx, h.cur]

theorem advance (hu : x.unstepped = true) : R x.advance = (R x).advance := by
  have hfall : (R x).fallSlot = x.fallSlot := by funext y; simp only [State.fallSlot, h.cur, State.nextClause_congr (h.cur x)]
  rw [State.advance_unstepped hu, State.advance_unstepped (by rw [h.unstepped hx, hu]), hfall]
  show R (x.modCArch fun a => a.modSlot x.cur.slotB x.fallSlot) = (R x).modCArch fun a => a.modSlot (R x).cur.slotB x.fallSlot
  rw [h.arch x _ hx, h.cur]

theorem wrS (n : BitVec 6) (v : DWord) : R (x.wrS n v) = (R x).wrS n v := by
  unfold State.wrS
  rw [h.cslot hx]
  split
  · exact h.arch x _ hx
  · rw [h.arch (x.cleanReg (sKey n)) _ hx, h.clean x _ hx]

end State.Restores

/-! ### Words on an entered state -/

section
variable {s t : State}

/-- A word that writes a scalar register alone. -/
theorem State.Entered.wroteS (h : s.Entered t) (hu : s.unstepped = true) (n : BitVec 6) (v : DWord) : s.WroteS (t.wrS n v).advance n v := by
  obtain ⟨hk, hsame⟩ := State.wrS_kept t n v
  have hkept := h.toKeptThread.trans hk
  have hall := h.sameButS.trans hsame
  have hslot := State.cslot_of_sameButS hkept.toKeptPackage.cur hall
  obtain ⟨hfell, hadv, hpois⟩ := State.advance_fell hkept (by rw [hall]) (by rw [hslot]) (hall.slot _) hu
  rw [hslot] at hfell
  have hpriv : t.cslot.priv = s.cslot.priv := by rw [h.cslot]
  obtain ⟨-, hcarch, hcpois⟩ := State.cleanReg_kept t (sKey n)
  refine ⟨hfell, fun k => ?_, ?_, fun m => ?_, ?_⟩
  · rw [hpois]
    unfold State.wrS
    rw [hpriv]
    split
    · next hp => rw [State.modCArch_regPoison, h.poison, hp]; simp
    · next hp =>
      rw [State.modCArch_regPoison, hcpois, h.poison, Store.get_set, h.cur]
      have hp' : s.cslot.priv.isSome = false := Bool.eq_false_iff.2 hp
      rw [hp', sKey]
      by_cases hk : k = regKey s.cur.tid n.toNat <;> simp [hk]
  · rw [hadv, hall]; cases s.cur.slotB <;> rfl
  · have hpriv' : (t.wrS n v).advance.cslot.priv = (t.wrS n v).cslot.priv := by rw [hfell.slot, hslot]
    have hreg : (t.wrS n v).advance.rdS m = (t.wrS n v).rdS m := by
      simp only [State.rdS, hpriv', hadv]
      cases s.cur.slotB <;> rfl
    rw [hreg, State.rdS_wrS, h.rdS]
  · have hs : (t.wrS n v).advance.carch.s = (t.wrS n v).carch.s ∧ (t.wrS n v).advance.carch.bank = (t.wrS n v).carch.bank := by
      rw [hadv]; cases s.cur.slotB <;> exact ⟨rfl, rfl⟩
    rw [hs.1, hs.2]
    unfold State.wrS
    rw [hpriv]
    split
    · rw [State.modCArch_carch, h.arch]
    · rw [State.modCArch_carch, hcarch, h.arch]

theorem State.Entered.wroteSlot (h : s.Entered t) (hu : s.unstepped = true) : s.WroteSlot t.advance s.cslot :=
  State.advance_wroteSlot hu h.toKeptThread h.arch h.poison

/-- What the word changes does not make it count steps. -/
theorem State.Restores.unstepped_of {x : State} {R : State → State} (hR : s.Restores R) (hx : x.cur = s.cur) (h : s.Entered (R x))
    (hu : s.unstepped = true) : x.unstepped = true := by
  rw [← hR.unstepped hx, h.unstepped, hu]

/-- What a word of the issuing thread that changes `x` and falls through leaves, once `R` gives back the change. -/
theorem State.restored_wroteS {x : State} {R : State → State} (hR : s.Restores R) (hx : x.cur = s.cur) (h : s.Entered (R x))
    (hu : s.unstepped = true) (n : BitVec 6) (v : DWord) : s.WroteS (R (x.wrS n v).advance) n v := by
  have hxu := hR.unstepped_of hx h hu
  have hcur : (x.wrS n v).cur = s.cur := (State.wrS_kept x n v).1.toKeptPackage.cur.trans hx
  rw [hR.advance hcur (by rw [State.wrS_unstepped, hxu]), hR.wrS hx]
  exact h.wroteS hu n v

theorem State.restored_wroteSlot {x : State} {R : State → State} (hR : s.Restores R) (hx : x.cur = s.cur) (h : s.Entered (R x))
    (hu : s.unstepped = true) : s.WroteSlot (R x.advance) s.cslot := by
  have hxu := hR.unstepped_of hx h hu
  rw [hR.advance hx hxu]
  exact h.wroteSlot hu

theorem State.advance_kept (hu : t.unstepped = true) : t.KeptThread t.advance := by
  rw [State.advance_unstepped hu]; exact State.modCSlot_kept ..

/-- What the thread has seen is given back (R101). -/
theorem State.unseen_restores (s : State) : s.Restores s.unseen :=
  .ofThread (fun _ => rfl) (fun _ _ => rfl)

end

end Sys2Proof.Machine
end

section
/-! SUPPORT. Handle registers (R218, R219). -/

namespace Sys2Proof.Machine

/-- Replacing the poison of a crew's registers keeps everything but it. -/
theorem State.modCrew_regPoison_kept (t : State) (z : Store Bool) :
    t.KeptThread (t.modCrew t.cur.uid fun c => { c with regPoison := z }) ∧
    (t.modCrew t.cur.uid fun c => { c with regPoison := z }).carch = t.carch ∧
    (t.modCrew t.cur.uid fun c => { c with regPoison := z }).ccrew.regPoison = z := by
  refine ⟨⟨⟨rfl, fun u hu => State.setCrew_crew_ne _ _ _ hu⟩, ?_, fun j _ => ?_, ?_⟩, ?_, ?_⟩
  all_goals simp [State.modCrew_eq, State.ccrew, State.cthr, State.carch, State.thread_eq, Crew.thread]

/-- Falling through is a matter of the slots alone. -/
theorem State.FellThrough.of_slots {s t u : State} {x : Slot} (h : s.FellThrough t x) (hslot : u.cslot = t.cslot)
    (hother : u.carch.slot (!s.cur.slotB) = t.carch.slot (!s.cur.slotB)) : s.FellThrough u x := by
  obtain ⟨hplace, hready, hx, ho⟩ := h
  exact ⟨by rw [hslot]; exact hplace, by rw [hslot]; exact hready, by rw [hslot]; exact hx, hother.trans ho⟩

/-- A written handle register given back: nothing but the place has changed. -/
theorem State.Fell.handleBack {s t : State} {hs : Store HReg} (hfell : s.Fell t s.cslot)
    (harch : t.carch = ({ s.carch with h := hs } : Arch).setSlot s.cur.slotB t.cslot) :
    s.WroteSlot ((t.modCArch fun a => { a with h := s.carch.h }).modCrew s.cur.uid fun c =>
      { c with regPoison := s.ccrew.regPoison }) s.cslot := by
  obtain ⟨hkept, hft⟩ := hfell
  have hcur : t.cur = s.cur := hkept.toKeptPackage.cur
  obtain ⟨hk, ha, hp⟩ := State.modCrew_regPoison_kept (t.modCArch fun a => { a with h := s.carch.h }) s.ccrew.regPoison
  rw [show (t.modCArch fun a => { a with h := s.carch.h }).cur = s.cur from hcur] at hk ha hp
  have harch' := ha.trans (State.modCArch_carch ..)
  have hcur' := (hkept.trans ((State.modCArch_kept ..).trans hk)).toKeptPackage.cur
  refine ⟨⟨hkept.trans ((State.modCArch_kept ..).trans hk), hft.of_slots ?_ ?_⟩, hp, ?_⟩
  · rw [State.cslot, harch', hcur', State.cslot, hcur]
    cases s.cur.slotB <;> rfl
  · rw [harch']
    cases s.cur.slotB <;> rfl
  · rw [harch', harch]
    cases s.cur.slotB <;> rfl

/-- R218's conditions on the entry that `hsel` copies. -/
theorem State.hselBad_iff (s : State) (i : Nat) :
    s.hselBad i = true ↔ ¬ (i < 2 ^ 20 ∧ (s.handle s.ccrew.pref i).valid = true ∧ (s.handle s.ccrew.pref i).space ≠ 7 ∧
      (s.handle s.ccrew.pref i).policy ≠ 3 ∧ (s.arena ((s.handle s.ccrew.pref i).arenaRef s.ccrew.pref)).st ≠ .free ∧
      (s.arena ((s.handle s.ccrew.pref i).arenaRef s.ccrew.pref)).st ≠ .dropping ∧
      (s.arena ((s.handle s.ccrew.pref i).arenaRef s.ccrew.pref)).gen = (s.handle s.ccrew.pref i).gen) := by
  simp only [State.hselBad, Bool.or_eq_true, Bool.not_eq_true', decide_eq_true_eq, beq_iff_eq, bne_iff_ne, ne_eq, Classical.not_and_iff_not_or_not, Classical.not_not,
    Nat.not_lt, Bool.not_eq_true, or_assoc, ge_iff_le]

theorem State.Entered.handle {s t : State} (h : s.Entered t) (p : PartRef) (i : Nat) : t.handle p i = s.handle p i := by
  rw [State.handle, h.package]; rfl

theorem State.Entered.hselBad {s t : State} (h : s.Entered t) (i : Nat) : t.hselBad i = s.hselBad i := by
  simp only [State.hselBad, h.pref, h.handle, h.arena]

theorem hsel_copies {s : State} (f : FmtMS) (hgood : s.hselBad (s.rdS f.sa + BitVec.ofNat 64 f.imm.toNat).toNat = false) :
    let i := (s.rdS f.sa + BitVec.ofNat 64 f.imm.toNat).toNat
    s.yields (.hsel f) fun t => s.WroteSlot ((t.modCArch fun a => { a with h := s.carch.h }).modCrew s.cur.uid fun c =>
        { c with regPoison := s.ccrew.regPoison }) s.cslot ∧
      (∀ k, Store.get false t.ccrew.regPoison k = (Store.get false s.ccrew.regPoison k && k != regKey s.cur.tid (128 + f.h.toNat))) ∧
      ∀ n, t.rdH n = if n = f.h.toNat then ⟨BitVec.ofNat 20 i, s.handle s.ccrew.pref i, false⟩ else s.rdH n := by
  intro i
  have he : exec (.hsel f) s = execHsel f s := rfl
  refine State.yields_of_arch (f := fun a => { a with h := Store.set {} a.h f.h.toNat ⟨BitVec.ofNat 20 i, s.handle s.ccrew.pref i, false⟩ })
    (m := Store.set false s.ccrew.regPoison (regKey s.cur.tid (hKey f.h)) false) rfl he (fun t ht => ?_) rfl ?_ ?_ fun t hfell harch hpois => ?_
  · obtain ⟨hk, ha, hp⟩ := State.cleanReg_kept t (hKey f.h)
    refine ⟨t.cleanReg (hKey f.h), ?_, hk, ha, by rw [hp, ht.poison, ht.cur]⟩
    simp only [ht.rdS, ht.hselBad, hgood, ht.handle, ht.pref]
    rfl
  · rw [State.cslot]; cases s.cur.slotB <;> rfl
  · cases s.cur.slotB <;> rfl
  · have hslot : ({ s.carch with h := Store.set {} s.carch.h f.h.toNat ⟨BitVec.ofNat 20 i, s.handle s.ccrew.pref i, false⟩ } : Arch).slot s.cur.slotB =
        s.cslot := by rw [State.cslot]; cases s.cur.slotB <;> rfl
    rw [hslot] at hfell
    refine ⟨hfell.handleBack harch, fun k => ?_, fun n => ?_⟩
    · rw [hpois, Store.get_set]
      by_cases hk : k = regKey s.cur.tid (128 + f.h.toNat) <;> simp [hk, hKey]
    · have hh : t.carch.h = Store.set {} s.carch.h f.h.toNat ⟨BitVec.ofNat 20 i, s.handle s.ccrew.pref i, false⟩ := by
        rw [harch]; cases s.cur.slotB <;> rfl
      rw [State.rdH, hh, Store.get_set]
      rfl

theorem hsel_traps {s : State} (f : FmtMS) (hbad : s.hselBad (s.rdS f.sa + BitVec.ofNat 64 f.imm.toNat).toNat = true) :
    let i := (s.rdS f.sa + BitVec.ofNat 64 f.imm.toNat).toNat
    s.traps (.hsel f) { exc := .handleInvalid, eng := 2, hreg := some f.h.toNat
                        hindex := if i < 2 ^ 20 then BitVec.ofNat 20 i else 0xFFFFF } := by
  intro i
  have he : exec (.hsel f) s = execHsel f s := rfl
  refine State.traps_at rfl he fun t ht => ?_
  simp only [ht.rdS, ht.hselBad, hbad]
  rfl

theorem hinfo_reads {s : State} (f : FmtMS) : s.yields (.hinfo f) fun t => s.WroteS t f.sd
    (let e := (s.rdH f.h.toNat).ent
     match f.imm.toNat with
      | 0 => e.d0
      | 1 => e.d1
      | 2 => e.d2
      | _ => e.d3) := by
  have he : exec (.hinfo f) s = execHinfo f s := rfl
  refine State.yields_wroteS rfl he fun t ht => ?_
  rw [ht.rdH] <;> rfl

/-- Settles O22: `hsel` changes its handle register and that register's poison, `hinfo` a scalar register. -/
theorem handleWords : Obligations.HandleWords := by
  unfold Obligations.HandleWords
  intro s
  refine ⟨fun f => ⟨fun hgood => hsel_copies f ?_, fun hbad => hsel_traps f ((State.hselBad_iff ..).2 hbad)⟩, fun f => hinfo_reads f⟩
  exact Bool.eq_false_iff.2 fun h => (State.hselBad_iff ..).1 h hgood

end Sys2Proof.Machine
end

section
/-! SUPPORT. Fences and flushes (R220 to R222). -/

namespace Sys2Proof.Machine

/-! ### Entering a word -/

section
variable {s t : State}

theorem State.pass_cthr (t : State) (n : Nat) : (t.pass n).cthr = t.cthr := rfl

/-- Entering the window: after a wait for its oldest word, the thread counts one word more (R119). -/
theorem State.enterWindow_takes (t : State) (eng : Nat) (caps : List Nat) : ∃ (y : State) (F : Thread → Thread), y.cur = t.cur ∧
    y.cthr = t.cthr ∧ t.enterWindow t.cur.uid t.cur.tid eng caps = y.modThread t.cur.uid t.cur.tid F ∧ ∀ h, (F h).issued = h.issued + 1 := by
  unfold State.enterWindow
  refine ⟨_, _, ?_, ?_, rfl, fun _ => rfl⟩
  · split
    · rfl
    · split <;> rfl
  · split
    · rfl
    · split <;> rfl

/-- A word takes the next issue number, one that waits for the window to drain none (R119). -/
theorem State.enter_issued (s : State) (w : WordInfo) : (s.enter w).cthr.issued = s.cthr.issued + if w.old then 0 else 1 := by
  have hkeep : (s.modThread s.cur.uid s.cur.tid Thread.keepPast).cthr.issued = s.cthr.issued := by rw [State.modThread_cthr]; rfl
  unfold State.enter
  generalize s.modThread s.cur.uid s.cur.tid Thread.keepPast = x at hkeep
  rw [← hkeep]
  cases w.old
  · obtain ⟨y, F, hcur, hthr, heq, hissued⟩ := State.enterWindow_takes x (runWord.engOf w.cls) w.caps
    show (x.enterWindow x.cur.uid x.cur.tid _ _).cthr.issued = x.cthr.issued + 1
    rw [heq, ← hcur, State.modThread_cthr, hissued, hthr]
  · show (x.drainWindow x.cur.uid x.cur.tid).cthr.issued = x.cthr.issued
    unfold State.drainWindow
    split
    · rfl
    · next e _ =>
      have hthr := congrArg Thread.issued (State.modThread_cthr (x.passTo e.cyc Config.dCycles) fun h => { h with window := [], residue := 0 })
      exact hthr

theorem State.yields_of_enter {P : State → Prop} {i : Instr} {w : WordInfo} {body : State → Res} (hw : wordInfo s i = some w)
    (he : exec i s = runWord w body s) (hb : s.unstepped = true → P (s.settle w.old (body (s.enter w)))) : s.yields i P :=
  fun hx hu => ⟨_, he.trans (runWord_enter hw hx body), hb hu⟩

/-- A change of the issuing thread that leaves it as it is. -/
theorem State.Entered.modThread_same (h : s.Entered t) {g : Thread → Thread} (hg : g t.cthr = t.cthr) :
    s.Entered (t.modThread s.cur.uid s.cur.tid g) := by
  have hcur := h.cur
  have hkept : t.KeptThread (t.modThread t.cur.uid t.cur.tid g) := State.modThread_kept _ _ (by rw [hg])
  rw [hcur] at hkept
  refine h.trans hkept ?_ ?_
  · rw [← hcur, State.carch, State.modThread_cthr, hg]; rfl
  · rw [← hcur, State.modThread_ccrew]; rfl

theorem State.Entered.floor (h : s.Entered t) : t.cthr.floor = s.cthr.floor := by rw [h.thread]
theorem State.Entered.seen (h : s.Entered t) : t.cthr.seen = s.cthr.seen := by rw [h.thread]
theorem State.Entered.fence (h : s.Entered t) : t.cthr.fence = s.cthr.fence := by rw [h.thread]
theorem State.Entered.writes (h : s.Entered t) : t.writes = s.writes := by rw [h.package]
theorem State.Entered.coreEq (h : s.Entered t) (c : Nat) : t.core c = s.core c := by rw [State.core, h.package]; rfl

end

/-! ### Reading what others have written -/

section
variable {s t : State}

/-- Giving back the cores and their sharers. -/
theorem State.coresBack_restores (s : State) : s.Restores fun x => { x with sharers := s.sharers, cores := s.cores } :=
  ⟨fun _ => rfl, fun _ _ => rfl, fun _ _ _ => rfl, fun _ _ _ => rfl⟩

theorem State.unread_restores (s : State) : s.Restores s.unread := (State.unseen_restores s).comp (State.coresBack_restores s)

/-- An entered state of which only the cores and the issuing thread have changed. -/
theorem State.Entered.unread_modThread (h : s.Entered t) {y : State} (hy : y = { t with cores := y.cores }) {g k : Thread → Thread}
    (hg : k { g t.cthr with floor := s.cthr.floor, seen := s.cthr.seen } = t.cthr) :
    s.Entered ((s.unread (y.modThread s.cur.uid s.cur.tid g)).modThread s.cur.uid s.cur.tid k) := by
  have hback : ({ y with sharers := s.sharers, cores := s.cores } : State) = t := by rw [hy, h.package]
  have heq : (s.unread (y.modThread s.cur.uid s.cur.tid g)).modThread s.cur.uid s.cur.tid k =
      t.modThread s.cur.uid s.cur.tid fun x => k { g x with floor := s.cthr.floor, seen := s.cthr.seen } := by
    show ((({ y with sharers := s.sharers, cores := s.cores } : State).modThread s.cur.uid s.cur.tid g).modThread s.cur.uid s.cur.tid
      fun x => { x with floor := s.cthr.floor, seen := s.cthr.seen }).modThread s.cur.uid s.cur.tid k = _
    rw [hback, State.modThread_modThread, State.modThread_modThread]
  rw [heq]
  exact h.modThread_same hg

/-- What an acquire at die scope or wider leaves (R101, R221). -/
theorem State.Entered.acquireAt_die (h : s.Entered t) {scope : Nat} (hs : 1 ≤ scope) : t.acquireAt scope =
    (t.modCore s.ccrew.core fun c => { c with inval := [] }).modThread s.cur.uid s.cur.tid fun x => { x with floor := s.writes, seen := [] } := by
  rw [State.acquireAt, if_pos hs, ← h.writes, ← h.crewCore]
  show (t.applyAll t.ccrew.core).seeAll t.cur.uid t.cur.tid = (t.applyAll t.ccrew.core).seeAll s.cur.uid s.cur.tid
  rw [h.cur]

/-- What an acquire below die scope leaves. -/
theorem State.Entered.acquireAt_crew (h : s.Entered t) : ∃ m, t.acquireAt 0 = t.modThread s.cur.uid s.cur.tid
    fun x => { x with floor := max x.floor m } := by
  rw [State.acquireAt, if_neg (by decide), h.cur]
  exact ⟨_, rfl⟩

theorem State.Entered.acquireAt_same (h : s.Entered t) (scope : Nat) :
    t.acquireAt scope = (t.acquireAt scope).modThread s.cur.uid s.cur.tid id := by
  rcases Nat.eq_zero_or_pos scope with rfl | hs
  · obtain ⟨m, hm⟩ := h.acquireAt_crew
    rw [hm, State.modThread_modThread]
    rfl
  · rw [h.acquireAt_die hs, State.modThread_modThread]
    rfl

theorem Thread.bound_mono {x y : Thread} (hseen : y.seen = x.seen) (hfloor : x.floor ≤ y.floor) (l : Loc) (n : Nat) : x.bound l n ≤ y.bound l n := by
  unfold Thread.bound
  rw [hseen]
  generalize List.range n = ks
  generalize x.floor = a at hfloor
  generalize y.floor = b at hfloor
  induction ks generalizing a b with
  | nil => exact hfloor
  | cons k ks ih => exact ih _ _ (Nat.max_le.2 ⟨Nat.le_trans hfloor (Nat.le_max_left ..), Nat.le_max_right ..⟩)

theorem Thread.floor_le_bound (x : Thread) (l : Loc) (n : Nat) : x.floor ≤ x.bound l n := by
  unfold Thread.bound
  generalize List.range n = ks
  suffices h : ∀ a, a ≤ ks.foldl (fun m k => max m (Store.get 0 x.seen (l.plus k).key)) a from h _
  induction ks with
  | nil => exact fun a => Nat.le_refl a
  | cons k ks ih => exact fun a => Nat.le_trans (Nat.le_max_left ..) (ih _)

/-- A state that differs from an entered one in one thread's floor alone has read only. -/
theorem State.ReadOnly.of_crew (h : s.Entered t) {u : State} (hcores : ∀ c, u.core c = t.core c) (hseen : u.cthr.seen = s.cthr.seen)
    (hfloor : s.cthr.floor ≤ u.cthr.floor) : s.ReadOnly u false where
  others c _ := (hcores c).trans (h.coreEq c)
  own := by rw [hcores, h.coreEq]
  taken i hi := ⟨rfl, by rwa [hcores, h.coreEq] at hi⟩
  seen h := absurd h (by decide)
  grows l n _ := Thread.bound_mono hseen hfloor l n

theorem State.ReadOnly.of_die {u : State}
    (hcores : ∀ c, u.core c = if c = s.ccrew.core then { s.core c with inval := [] } else s.core c) (hseen : u.cthr.seen = [])
    (hfloor : u.cthr.floor = s.writes) (acq : Bool) : s.ReadOnly u acq where
  others c hc := by rw [hcores, if_neg hc]
  own := by rw [hcores, if_pos rfl]
  taken i hi := by rw [hcores, if_pos rfl] at hi; cases hi
  seen _ := ⟨hfloor, hseen⟩
  grows l n hle := Nat.le_trans hle (hfloor ▸ Thread.floor_le_bound ..)

/-- What `advance` leaves of the issuing thread. -/
theorem State.advance_cthr (hu : t.unstepped = true) : t.advance.cthr = t.cthr.modArch fun a => a.modSlot t.cur.slotB t.fallSlot := by
  rw [State.advance_unstepped hu]
  exact State.modThread_cthr ..

theorem State.advance_core (hu : t.unstepped = true) (c : Nat) : t.advance.core c = t.core c := by
  rw [State.advance_unstepped hu]; rfl

/-- Giving back the fence that is pending. -/
theorem State.fenceBack_restores (s : State) : s.Restores fun x => x.modThread s.cur.uid s.cur.tid fun h => { h with fence := s.cthr.fence } :=
  .ofThread (fun _ => rfl) (fun _ _ => rfl)

/-- What a change of the cores and the issuing thread leaves when the word falls through. -/
theorem State.Entered.unread_fell (h : s.Entered t) (hu : s.unstepped = true) {y : State} (hy : y = { t with cores := y.cores })
    {g : Thread → Thread} (hg : ∀ x, g x = { x with floor := (g x).floor, seen := (g x).seen, fence := (g x).fence }) :
    let u := (y.modThread s.cur.uid s.cur.tid g).advance
    s.WroteSlot ((s.unread u).modThread s.cur.uid s.cur.tid fun x => { x with fence := s.cthr.fence }) s.cslot ∧
    u.cthr.floor = (g t.cthr).floor ∧ u.cthr.seen = (g t.cthr).seen ∧ u.cthr.fence = (g t.cthr).fence ∧
    ∀ c, u.core c = y.core c := by
  intro u
  have hback := h.unread_modThread hy (g := g) (k := fun x => { x with fence := s.cthr.fence }) (by rw [hg, h.thread])
  have hR := (State.fenceBack_restores s).comp (State.unread_restores s)
  have hycur : y.cur = s.cur := by rw [hy]; exact h.cur
  have hythr : y.cthr = t.cthr := by rw [hy]; rfl
  have hxcur : (y.modThread s.cur.uid s.cur.tid g).cur = s.cur := hycur
  have hxu : (y.modThread s.cur.uid s.cur.tid g).unstepped = true := by
    rw [← hR.unstepped hxcur, hback.unstepped, hu]
  have hthr : (y.modThread s.cur.uid s.cur.tid g).cthr = g t.cthr := by
    rw [← hycur, State.modThread_cthr, hythr]
  refine ⟨State.restored_wroteSlot hR hxcur hback hu, ?_, ?_, ?_, fun c => State.advance_core hxu c⟩
  all_goals rw [State.advance_cthr hxu, hthr]; rfl

theorem State.modCore_core (t : State) (n : Nat) (F : Core → Core) (c : Nat) :
    (t.modCore n F).core c = if c = n then F (t.core n) else t.core c := by
  simp only [State.core, State.modCore, Store.get_set]

/-- What a fence leaves that completes, or that becomes pending: `p` marks it (R104, R221). -/
theorem fence_goes (h : s.Entered t) (hu : s.unstepped = true) (scope : Nat) {p : Thread → Thread} (hp : ∀ x, p x = { x with fence := (p x).fence }) :
    let u := ((t.acquireAt scope).modThread s.cur.uid s.cur.tid p).advance
    s.ReadOnly u (scope != 0) ∧ u.cthr.fence = (p { t.cthr with floor := u.cthr.floor, seen := u.cthr.seen }).fence ∧
    s.WroteSlot ((s.unread u).modThread s.cur.uid s.cur.tid fun x => { x with fence := s.cthr.fence }) s.cslot := by
  rcases Nat.eq_zero_or_pos scope with rfl | hs
  · obtain ⟨m, hm⟩ := h.acquireAt_crew
    rw [hm, State.modThread_modThread]
    obtain ⟨hwrote, hfloor, hseen, hfence, hcores⟩ := h.unread_fell hu (y := t) rfl (g := fun x => p { x with floor := max x.floor m })
      fun x => by rw [hp]
    have hfloor' := hfloor.trans (congrArg Thread.floor (hp _))
    have hseen' := hseen.trans (congrArg Thread.seen (hp _))
    refine ⟨.of_crew h hcores ?_ ?_, ?_, hwrote⟩
    · rw [hseen', h.seen]
    · rw [hfloor', ← h.floor]; exact Nat.le_max_left ..
    · rw [hfence, hfloor', hseen']
  · rw [h.acquireAt_die hs, State.modThread_modThread]
    obtain ⟨hwrote, hfloor, hseen, hfence, hcores⟩ := h.unread_fell hu (y := t.modCore s.ccrew.core fun c => { c with inval := [] }) rfl
      (g := fun x => p { x with floor := s.writes, seen := [] }) fun x => by rw [hp]
    have hfloor' := hfloor.trans (congrArg Thread.floor (hp _))
    have hseen' := hseen.trans (congrArg Thread.seen (hp _))
    refine ⟨.of_die (fun c => ?_) hseen' hfloor' _, ?_, hwrote⟩
    · rw [hcores, State.modCore_core]
      split
      · next hc => rw [h.coreEq, hc]
      · rw [h.coreEq]
    · rw [hfence, hfloor', hseen']

end

/-! ### Fences -/

section
variable {s t : State}

theorem State.Entered.sq (h : s.Entered t) : t.cthr.sq = s.cthr.sq := by rw [h.thread]

/-- A local write before issue `m` is queued of a kind that the fence orders (R104). -/
theorem Thread.localBefore_iff (x : Thread) (m : Nat) (k : Nat) : x.localBefore m (fenceLoads k) = true ↔
    ∃ w ∈ x.sq, w.gone = false ∧ w.posted = none ∧ w.at_ < m ∧ (k = 1 ∨ k = 3 → w.kind ≠ .store) := by
  simp only [Thread.localBefore, fenceLoads, List.any_eq_true, Bool.and_eq_true, Bool.not_eq_true', Option.isNone_iff_eq_none,
    decide_eq_true_eq, Bool.or_eq_true, bne_iff_ne, Bool.or_eq_false_iff, beq_eq_false_iff_ne, and_assoc]
  refine exists_congr fun w => and_congr_right fun _ => and_congr_right fun _ => and_congr_right fun _ => and_congr_right fun _ => ?_
  grind

/-- What R104 asks of the fence `f` on its issue. -/
def State.heldBefore (s : State) (f : FmtMF) : Prop :=
  ∃ w ∈ s.cthr.sq, w.gone = false ∧ w.posted = none ∧ w.at_ < s.cthr.issued ∧ (f.kind = 1 ∨ f.kind = 3 → w.kind ≠ .store)

/-- What `fence` leaves where it goes on with `fence` pending from then on. -/
def State.FenceWent (s : State) (f : FmtMF) (fence : Option (Nat × Nat)) (t : State) : Prop :=
  s.ReadOnly t (f.scope != 0) ∧ t.cthr.fence = fence ∧
    s.WroteSlot ((s.unread t).modThread s.cur.uid s.cur.tid fun x => { x with fence := s.cthr.fence }) s.cslot

theorem fence_issueNo (f : FmtMF) : (s.enter (msInfo (Instr.fence f))).issueNo = s.cthr.issued := by
  rw [State.issueNo, State.enter_issued]
  simp [msInfo]

theorem fence_localBefore (f : FmtMF) : (s.enter (msInfo (Instr.fence f))).cthr.localBefore s.cthr.issued (fenceLoads f.kind.toNat) = true ↔
    s.heldBefore f := by
  have h1 : f.kind.toNat = 1 ↔ f.kind = 1 := by rw [← BitVec.toNat_inj]; rfl
  have h3 : f.kind.toNat = 3 ↔ f.kind = 3 := by rw [← BitVec.toNat_inj]; rfl
  rw [Thread.localBefore_iff, (State.enter_entered s _).sq, h1, h3]
  rfl

theorem scope_ne_zero (f : FmtMF) : (f.scope.toNat != 0) = (f.scope != 0) := by
  rw [Bool.eq_iff_iff, bne_iff_ne, bne_iff_ne, ne_eq, ne_eq, ← BitVec.toNat_inj]
  rfl

theorem fence_passes (f : FmtMF) (hnone : s.fencePending = none) (hfree : ¬ s.heldBefore f) : s.yields (.fence f) (s.FenceWent f none) := by
  have he : exec (.fence f) s = execFence f s := rfl
  have ht := State.enter_entered s (msInfo (Instr.fence f))
  have hfence : (s.enter (msInfo (Instr.fence f))).cthr.fence = none := by
    rw [ht.fence]; exact Option.map_eq_none_iff.1 hnone
  have hbefore := Bool.eq_false_iff.2 fun h => hfree ((fence_localBefore f).1 h)
  refine State.yields_of_enter rfl he fun hu => ?_
  have hpend : (s.enter (msInfo (Instr.fence f))).fencePending = none := by rw [State.fencePending, hfence]; rfl
  simp only [hpend, fence_issueNo, hbefore, Bool.not_false, if_true, Option.isSome_none, Bool.false_eq_true, if_false, State.settle]
  obtain ⟨hread, hp, hwrote⟩ := fence_goes ht hu f.scope.toNat (p := id) fun _ => rfl
  rw [scope_ne_zero] at hread
  rw [ht.acquireAt_same]
  generalize State.advance _ = u at hread hp hwrote ⊢
  rw [id, hfence] at hp
  exact ⟨hread, hp, hwrote⟩

theorem fence_pends (f : FmtMF) (hnone : s.fencePending = none) (hheld : s.heldBefore f) :
    s.yields (.fence f) (s.FenceWent f (some (8 * f.scope.toNat + f.kind.toNat, s.cthr.issued))) := by
  have he : exec (.fence f) s = execFence f s := rfl
  have ht := State.enter_entered s (msInfo (Instr.fence f))
  have hbefore := (fence_localBefore f).2 hheld
  refine State.yields_of_enter rfl he fun hu => ?_
  have hpend : (s.enter (msInfo (Instr.fence f))).fencePending = none := by rw [State.fencePending, ht.fence]; exact hnone
  simp only [hpend, fence_issueNo, hbefore, ht.cur]
  obtain ⟨hread, hp, hwrote⟩ := fence_goes ht hu f.scope.toNat
    (p := fun x => { x with fence := some (8 * f.scope.toNat + f.kind.toNat, s.cthr.issued) }) fun _ => rfl
  rw [scope_ne_zero] at hread
  exact ⟨hread, hp, hwrote⟩

theorem fence_waits (f : FmtMF) (hsome : s.fencePending ≠ none) : s.waits (.fence f) .fence := by
  have he : exec (.fence f) s = execFence f s := rfl
  refine State.waits_of_body rfl he fun t ht => ⟨t, ht, ?_⟩
  have hpend : t.fencePending.isSome = true := by
    rw [State.fencePending, ht.fence]; exact Option.isSome_iff_ne_none.2 hsome
  simp only [hpend, if_true]

end

/-! ### Flushes -/

section
variable {s t : State}

/-- The byte that `flsig` and `flwait` name (R222), its die, the steps of R86 it must pass, and the fault of a step that it fails. -/
def State.flushAt (s : State) (f : FmtMS) : DWord := s.rdS f.sa + BitVec.ofNat 64 f.imm.toNat
def State.flushTo (s : State) (f : FmtMS) : Nat := if (s.rdH f.h.toNat).ent.space = 4 then (s.rdH f.h.toNat).ent.pdev else s.ccrew.die
def State.flushValid (s : State) (f : FmtMS) : Prop :=
  (s.rdH f.h.toNat).ent.valid = true ∧ (s.rdH f.h.toNat).ent.space ≠ 7 ∧ (s.rdH f.h.toNat).ent.policy ≠ 3
def State.flushInside (s : State) (f : FmtMS) : Prop := (s.flushAt f).toNat + 1 ≤ (s.rdH f.h.toNat).ent.size
def State.flushFault (s : State) (f : FmtMS) (x : Exc) : FaultInfo :=
  { exc := x, eng := 2, hreg := some f.h.toNat, hindex := (s.rdH f.h.toNat).idx, offset := s.flushAt f }

theorem State.flushDie_invalid {f : FmtMS} (h : ¬ s.flushValid f) : s.flushDie f = .inr (s.flushFault f .handleInvalid) := by
  have hbad : ((s.rdH f.h.toNat).ent.valid && (s.rdH f.h.toNat).ent.space != 7 && (s.rdH f.h.toNat).ent.policy != 3) = false :=
    Bool.eq_false_iff.2 fun hb => h (by simpa [State.flushValid, and_assoc] using hb)
  simp only [State.flushDie, List.findSome?_cons, State.checkStep, hbad, Bool.false_eq_true, if_false]
  rfl

theorem State.flushDie_outside {f : FmtMS} (h : s.flushValid f) (h2 : ¬ s.flushInside f) : s.flushDie f = .inr (s.flushFault f .handleBounds) := by
  have hgood : ((s.rdH f.h.toNat).ent.valid && (s.rdH f.h.toNat).ent.space != 7 && (s.rdH f.h.toNat).ent.policy != 3) = true := by
    simpa [State.flushValid, and_assoc] using h
  have hout : ¬ (s.rdS f.sa + BitVec.ofNat 64 f.imm.toNat).toNat + 1 ≤ (s.rdH f.h.toNat).ent.size := h2
  simp only [State.flushDie, List.findSome?_cons, State.checkStep, hgood, if_true, if_neg hout]
  rfl

theorem State.flushDie_good {f : FmtMS} (h : s.flushValid f) (h2 : s.flushInside f) : s.flushDie f = .inl (s.flushTo f) := by
  have hgood : ((s.rdH f.h.toNat).ent.valid && (s.rdH f.h.toNat).ent.space != 7 && (s.rdH f.h.toNat).ent.policy != 3) = true := by
    simpa [State.flushValid, and_assoc] using h
  have hin : (s.rdS f.sa + BitVec.ofNat 64 f.imm.toNat).toNat + 1 ≤ (s.rdH f.h.toNat).ent.size := h2
  simp only [State.flushDie, List.findSome?_cons, List.findSome?_nil, State.checkStep, hgood, if_true, if_pos hin, State.flushTo, beq_iff_eq]

theorem State.Entered.die (h : s.Entered t) : t.ccrew.die = s.ccrew.die := by rw [Crew.die, h.crew]; rfl

theorem State.Entered.flushDie (h : s.Entered t) (f : FmtMS) : t.flushDie f = s.flushDie f := by
  simp only [State.flushDie, h.rdH, h.rdS, h.die, h.checkStep, h.pref, h.crewCore]

theorem flsig_own {f : FmtMS} (h : s.flushValid f) (h2 : s.flushInside f) (hown : s.flushTo f = s.ccrew.die) :
    s.yields (.flsig f) (s.WroteS · f.sd 0) := by
  have he : exec (.flsig f) s = execFlsig f s := rfl
  refine State.yields_wroteS rfl he fun t ht => ?_
  simp only [ht.flushDie, State.flushDie_good h h2, hown, ht.die, beq_self_eq_true, if_true]

/-- What `flsig` counts for a die (R222). -/
def Thread.signalled (d n : Nat) (x : Thread) : Thread :=
  { x with flIssued := Store.set 0 x.flIssued d n, flushes := x.flushes ++ [(d, n, x.issued)] }

/-- Giving back what `flsig` counts. -/
theorem State.flushBack_restores (s : State) : s.Restores fun x => x.modThread s.cur.uid s.cur.tid fun h =>
    { h with flIssued := s.cthr.flIssued, flushes := s.cthr.flushes } :=
  .ofThread (fun _ => rfl) (fun _ _ => rfl)

theorem flsig_counts {f : FmtMS} (h : s.flushValid f) (h2 : s.flushInside f) (hother : s.flushTo f ≠ s.ccrew.die) :
    s.yields (.flsig f) fun t =>
    s.WroteS (t.modThread s.cur.uid s.cur.tid fun x => { x with flIssued := s.cthr.flIssued, flushes := s.cthr.flushes }) f.sd
      (BitVec.ofNat 64 (Store.get 0 s.cthr.flIssued (s.flushTo f) + 1)) ∧
    (∀ d, Store.get 0 t.cthr.flIssued d = if d = s.flushTo f then Store.get 0 s.cthr.flIssued (s.flushTo f) + 1 else Store.get 0 s.cthr.flIssued d) ∧
    t.cthr.flushes = s.cthr.flushes ++ [(s.flushTo f, Store.get 0 s.cthr.flIssued (s.flushTo f) + 1, s.cthr.issued)] := by
  have he : exec (.flsig f) s = execFlsig f s := rfl
  have ht := State.enter_entered s { msInfo (Instr.flsig f) with old := true }
  have hissued := State.enter_issued s { msInfo (Instr.flsig f) with old := true }
  refine State.yields_of_enter rfl he fun hu => ?_
  generalize s.enter { msInfo (Instr.flsig f) with old := true } = t at ht hissued ⊢
  have hne : (s.flushTo f == s.ccrew.die) = false := by simpa using hother
  have hiss : t.cthr.flIssued = s.cthr.flIssued := by rw [ht.thread]
  have hfl : t.cthr.flushes = s.cthr.flushes := by rw [ht.thread]
  simp only [ht.flushDie, State.flushDie_good h h2, ht.die, hne, Bool.false_eq_true, if_false, ht.cur, hiss, State.settle]
  generalize Store.get 0 s.cthr.flIssued (s.flushTo f) + 1 = n
  have hcur := ht.cur
  have hfun : (fun x : Thread => { x with flIssued := Store.set 0 x.flIssued (s.flushTo f) n, flushes := x.flushes ++ [(s.flushTo f, n, x.issued)] }) =
      Thread.signalled (s.flushTo f) n := rfl
  rw [hfun]
  have hback : s.Entered ((t.modThread s.cur.uid s.cur.tid (Thread.signalled (s.flushTo f) n)).modThread s.cur.uid s.cur.tid fun h =>
      { h with flIssued := s.cthr.flIssued, flushes := s.cthr.flushes }) := by
    rw [State.modThread_modThread]
    exact ht.modThread_same (by rw [Thread.signalled, ht.thread])
  have hxcur : (t.modThread s.cur.uid s.cur.tid (Thread.signalled (s.flushTo f) n)).cur = s.cur := hcur
  have hwrote := State.restored_wroteS (State.flushBack_restores s) hxcur hback hu f.sd (BitVec.ofNat 64 n)
  have hthr : (t.modThread s.cur.uid s.cur.tid (Thread.signalled (s.flushTo f) n)).cthr = t.cthr.signalled (s.flushTo f) n := by
    rw [← hcur, State.modThread_cthr]
  have hxu := State.Restores.unstepped_of (State.flushBack_restores s) hxcur hback hu
  generalize t.modThread s.cur.uid s.cur.tid (Thread.signalled (s.flushTo f) n) = x at hwrote hthr hxu ⊢
  have hkept := ((State.wrS_kept x f.sd (BitVec.ofNat 64 n)).1.trans (State.advance_kept (by rw [State.wrS_unstepped, hxu]))).thread
  refine ⟨hwrote, fun d => ?_, ?_⟩
  · have hd : (x.wrS f.sd (BitVec.ofNat 64 n)).advance.cthr.flIssued = Store.set 0 t.cthr.flIssued (s.flushTo f) n := by rw [hkept, hthr]; rfl
    rw [hd, Store.get_set, hiss]
  · have hd : (x.wrS f.sd (BitVec.ofNat 64 n)).advance.cthr.flushes = t.cthr.flushes ++ [(s.flushTo f, n, t.cthr.issued)] := by rw [hkept, hthr]; rfl
    rw [hd, hfl, hissued]
    rfl

theorem flwait_passes {f : FmtMS} (h : s.flushValid f) (h2 : s.flushInside f) (hdone : s.flushTo f = s.ccrew.die ∨
    min (s.rdS f.sd).toNat (Store.get 0 s.cthr.flIssued (s.flushTo f)) ≤ Store.get 0 s.cthr.flDone (s.flushTo f)) :
    s.yields (.flwait f) fun t => s.WroteSlot (s.unseen t) s.cslot := by
  have he : exec (.flwait f) s = execFlwait f s := rfl
  refine State.yields_of_res rfl he fun t ht hu => ?_
  have hiss : t.cthr.flIssued = s.cthr.flIssued := by rw [ht.thread]
  have hdn : t.cthr.flDone = s.cthr.flDone := by rw [ht.thread]
  have hgo : (s.flushTo f == s.ccrew.die || decide (min (s.rdS f.sd).toNat (Store.get 0 s.cthr.flIssued (s.flushTo f)) ≤
      Store.get 0 s.cthr.flDone (s.flushTo f))) = true := by simpa using hdone
  simp only [ht.flushDie, State.flushDie_good h h2, ht.die, ht.rdS, hiss, hdn, hgo, if_true, State.settle, ht.cur]
  refine State.restored_wroteSlot (State.unseen_restores s) (x := t.seeAll s.cur.uid s.cur.tid) ht.cur ?_ hu
  rw [State.unseen, State.seeAll, State.modThread_modThread]
  exact ht.modThread_same (by rw [← ht.floor, ← ht.seen])

theorem flwait_waits {f : FmtMS} (h : s.flushValid f) (h2 : s.flushInside f) (hother : s.flushTo f ≠ s.ccrew.die)
    (hless : Store.get 0 s.cthr.flDone (s.flushTo f) < min (s.rdS f.sd).toNat (Store.get 0 s.cthr.flIssued (s.flushTo f))) :
    s.waits (.flwait f) (.flwait (s.flushTo f) (min (s.rdS f.sd).toNat (Store.get 0 s.cthr.flIssued (s.flushTo f)))) := by
  have he : exec (.flwait f) s = execFlwait f s := rfl
  refine State.waits_of_body rfl he fun t ht => ⟨t, ht, ?_⟩
  have hiss : t.cthr.flIssued = s.cthr.flIssued := by rw [ht.thread]
  have hdn : t.cthr.flDone = s.cthr.flDone := by rw [ht.thread]
  have hgo : (s.flushTo f == s.ccrew.die || decide (min (s.rdS f.sd).toNat (Store.get 0 s.cthr.flIssued (s.flushTo f)) ≤
      Store.get 0 s.cthr.flDone (s.flushTo f))) = false := by simpa [hother] using hless
  simp only [ht.flushDie, State.flushDie_good h h2, ht.die, ht.rdS, hiss, hdn, hgo, Bool.false_eq_true, if_false]

theorem flush_traps {f : FmtMS} {e : FaultInfo} (h : s.flushDie f = .inr e) : s.traps (.flsig f) e ∧ s.traps (.flwait f) e := by
  have hsig : exec (.flsig f) s = execFlsig f s := rfl
  have hwait : exec (.flwait f) s = execFlwait f s := rfl
  constructor
  · exact State.traps_at rfl hsig fun t ht => by simp only [ht.flushDie, h]
  · exact State.traps_at rfl hwait fun t ht => by simp only [ht.flushDie, h]

end

/-- Settles O23: a fence changes what the issuer's L1 and thread have seen, and its own mark; a flush its thread's counters. -/
theorem fencesAndFlushes : Obligations.FencesAndFlushes := by
  unfold Obligations.FencesAndFlushes
  constructor
  · intro s f
    exact ⟨fun hnone hfree => fence_passes f hnone hfree, fun hnone hheld => fence_pends f hnone hheld, fun hsome => fence_waits f hsome⟩
  · intro s f
    refine ⟨fun h h2 hown => ⟨flsig_own h h2 hown, flwait_passes h h2 (.inl hown)⟩, fun h h2 hother => flsig_counts h h2 hother,
      fun h h2 _ hle => flwait_passes h h2 (.inr hle), fun h h2 hother hless => flwait_waits h h2 hother hless, fun h => ?_, fun h h2 => ?_⟩
    · exact flush_traps (State.flushDie_invalid h)
    · exact flush_traps (State.flushDie_outside h h2)

end Sys2Proof.Machine
end

section
/-! SUPPORT. A barrier word that releases the other slot of its own thread: it cannot also leave that slot as it was. -/

namespace Sys2Proof.Machine

open Tests

/-- The other slot of the thread waits at the object at 32 for the end of phase 0. -/
def siblingAtBarrier : State → State := arc fun a => { a with b := { st := .blocked, mask := 1, wait := some (.barrier 32 false) } }

/-- Refutes O24: `barinit` with 0 releases the words that wait at the object (R225), one of which may stand in the other slot of the issuing
thread; the statement asks both that this slot has been released and that it is as before. -/
theorem not_barrierWords : ¬ Obligations.BarrierWords := by
  intro h
  have hwit : wit (.barinit barT) siblingAtBarrier (fun s => s.barOk barT && (s.rdS barT.sr).toNat % 2 ^ 32 == 0 &&
      decide ((s.carch.slot (!s.cur.slotB)).freed (s.barAt barT) (some 3) ≠ s.carch.slot (!s.cur.slotB))) = true := by decide
  simp only [wit, Bool.and_eq_true, beq_iff_eq, decide_eq_true_eq] at hwit
  obtain ⟨⟨hexec, hstep⟩, ⟨hok, hzero⟩, hfreed⟩ := hwit
  obtain ⟨t, -, hdid, hfell⟩ := (h.1 _ barT hok).1 hzero hexec hstep
  exact hfreed (hdid.other.symm.trans hfell.other)

end Sys2Proof.Machine
end

section
/-! SUPPORT. A shape record read from scratch at an earlier moment. -/

namespace Sys2Proof.Machine

open Tests

/-- Scratch byte 0 held 5 until a write that the issuer has not seen; the move lets the word's load be performed before that write. -/
def beforeWrite (s : State) : State :=
  { s with writes := 1, hist := [⟨0, none, .scr s.cur.uid 0, [5]⟩], cur := { s.cur with back := 2 } }

/-- Refutes O25: without REG `mshape` is a plain load (R267), which may read what scratch held before a write that its thread has not seen
(R94); the statement gives it the present bytes. -/
theorem not_matrixWords : ¬ Obligations.MatrixWords := by
  intro h
  let f : FmtEB := ⟨0, 8, 0, 8⟩
  have hwit : wit (.mshape f) beforeWrite (fun s => f.f.getLsbD 0 == false && (s.rdS 8).toNat % 2 ^ 32 % 16 == 0 &&
      decide ((s.rdS 8).toNat % 2 ^ 32 + 16 ≤ (s.rdH 0).ent.size) && s.grants (shapeAcc s) &&
      valueAt (s.own s.peek) (.scr s.cur.uid ((s.rdS 8).toNat % 2 ^ 32)) 8 == 0) = true := by decide
  simp only [wit, Bool.and_eq_true, beq_iff_eq, decide_eq_true_eq] at hwit
  obtain ⟨⟨hexec, hstep⟩, ⟨⟨⟨hreg, halign⟩, hsize⟩, hgrants⟩, hzero⟩ := hwit
  obtain ⟨t, ht, -, -, hrec⟩ := ((h.1 _).1 f).2.1 hreg halign hsize hgrants hexec hstep
  have hone := congrArg Prod.fst (hrec 1)
  rw [if_pos (by decide)] at hone
  have hread : (t.ccrew.slotRec 1).1 = BitVec.ofNat 64 0 := hone.trans (congrArg (BitVec.ofNat 64) hzero)
  rw [← after_eq ht] at hread
  exact absurd hread (by decide)

end Sys2Proof.Machine
end

section
/-! SUPPORT. A dump that waits for the window to drain before it stops its crew. -/

namespace Sys2Proof.Machine

open Tests

/-- A word that executed in this cycle still stands in the window. -/
def wordInWindow : State → State := thr fun x => { x with window := [⟨0, 0, x.arch, false, 0, 0, 0, []⟩], issued := 1 }

/-- Refutes O37: `dump` lets the words in the window retire first, 72 cycles after they executed (R120), so that its stop record carries a
later cycle than that in which the word was selected, which the statement names. -/
theorem not_systemWords : ¬ Obligations.SystemWords := by
  intro h
  let f : FmtEB := ⟨1, 8, 0, 0⟩
  have hwit : wit (.dump f) wordInWindow (fun s => s.cslot.wait == none && s.handlesClean [(s.rdS 8).toNat / 2 ^ 61] &&
      s.rangeBad 8 { hn := (s.rdS 8).toNat / 2 ^ 61, off := (((s.rdS 8).toNat % 2 ^ 48 : Nat) : Int), n := (s.rdS 9).toNat % 2 ^ 32, wr := true } == none &&
      s.ccrew.stop == none && s.cycles == 0) = true := by decide
  simp only [wit, Bool.and_eq_true, beq_iff_eq] at hwit
  generalize hs : wordInWindow (atWord (.dump f)) = s at hwit
  obtain ⟨⟨hexec, -⟩, ⟨⟨⟨hwait, hclean⟩, hbad⟩, hstop⟩, hcyc⟩ := hwit
  have hfresh : ¬ ∃ v w, s.cslot.wait = some (.released v w) := by rintro ⟨v, w, hw⟩; rw [hwait] at hw; cases hw
  obtain ⟨t, ht, -, hrec, -⟩ := (h.2.1 s f).2.2.2.1 ⟨hfresh, hclean⟩ hbad hstop hexec
  have hat : t.ccrew.stopRec.cyc = 0 := (congrArg StopRec.cyc hrec).trans hcyc
  rw [← hs] at ht
  rw [← after_eq ht] at hat
  exact absurd hat (by decide)

end Sys2Proof.Machine
end

section
/-! SUPPORT. Suspended pairs, the replay window and the swaps of fragments (R61, R120, R127, R128). -/

namespace Sys2Proof.Machine

/-! ### What a suspended pair waits for -/

theorem Thread.tokensClear_of {h : Thread} {m : BitVec 8} (hm : ∀ k, k < 8 → m.getLsbD k = true → (h.token k).set = false) :
    h.tokensClear m = true := by
  rw [Thread.tokensClear, List.all_eq_true]
  intro k hk
  cases e : m.getLsbD k
  · rfl
  · rw [hm k (List.mem_range.1 hk) e]; rfl

section
variable {s : State} {p : PairRef} {w : Wait}

/-- What a resumption does once the wait of the pair is over. -/
theorem State.resume_eq (hw : (s.slot p).wait = some w) (hr : s.canResume p.uid p.tid p.slotB (s.slot p) = true)
    (ht : ∀ f, w ≠ .trapClear f) : s.resume p = s.modSlot p fun x =>
      { if s.waitOver x && !s.canResume p.uid p.tid p.slotB x then x.expire else x with st := .ready } := by
  unfold State.resume
  dsimp only
  rw [hw]
  cases w with
  | trapClear f => exact absurd rfl (ht f)
  | _ => rfl

/-- A pair whose word can proceed is READY again (R61). -/
theorem State.suspendedAt.up (h : s.suspendedAt p w) (ht : ∀ f, w ≠ .trapClear f)
    (hr : s.canResume p.uid p.tid p.slotB (s.slot p) = true) :
    s.gives (.blockedWordResume p) fun t => s.OnlySlot t p { s.slot p with st := .ready } := by
  obtain ⟨hgoes, hruns, hst, hw⟩ := h
  have hx : exec (.blockedWordResume p) s = .next (s.resume p) := by
    change execBlockedWordResume p s = _
    unfold execBlockedWordResume when_ State.wakes
    dsimp only
    rw [if_neg (by rw [hst]; decide), if_pos (by simp only [hgoes, hruns, hst, hr]; rfl)]
  refine ⟨_, hx, ?_⟩
  rw [State.resume_eq hw hr ht]
  have hslot := s.modSlot_onlySlot p fun x => { if s.waitOver x && !s.canResume p.uid p.tid p.slotB x then x.expire else x with st := .ready }
  simpa only [hr, Bool.not_true, Bool.and_false, Bool.false_eq_true, if_false] using hslot

/-- A limit of a waiting word acts where it has passed, and does nothing else. -/
theorem State.execLimit_out {us : Nat} (hst : (s.slot p).st = .blocked)
    (ho : s.waitOver (s.slot p) = (us != 0 && decide ((s.slot p).waitSince + us * 1000 ≤ s.now))) :
    (us ≠ 0 → (s.slot p).waitSince + us * 1000 ≤ s.now →
      ∃ t, execLimit p s = .next t ∧ s.OnlySlot t p { s.slot p with wait := some (.released 0 0) }) ∧
    (us = 0 ∨ s.now < (s.slot p).waitSince + us * 1000 → ∃ t, execLimit p s = .next t ∧ t = s) := by
  unfold execLimit when_
  dsimp only
  refine ⟨fun h0 h1 => ⟨_, rfl, ?_⟩, fun h => ⟨_, rfl, if_neg ?_⟩⟩
  · rw [if_pos (by simp only [hst, ho, beq_self_eq_true, Bool.true_and, Bool.and_eq_true, bne_iff_ne, decide_eq_true_eq]; exact ⟨h0, h1⟩)]
    exact s.modSlot_onlySlot p Slot.expire
  · simp only [hst, ho, beq_self_eq_true, Bool.true_and, Bool.and_eq_true, bne_iff_ne, decide_eq_true_eq]
    omega

end

/-! ### The fragment that has waited longest -/

/-- One step of the search for the fragment with the highest AGE. -/
def elder (b : Option (Nat × Slot)) (e : Nat × Slot × Bool) : Option (Nat × Slot) := match b with
  | none => some (e.1, e.2.1)
  | some x => if x.2.age < e.2.1.age then some (e.1, e.2.1) else some x

theorem foldl_elder : ∀ (l : List (Nat × Slot × Bool)) (b : Option (Nat × Slot)) (r : Nat × Slot), l.foldl elder b = some r →
    (b = some r ∨ ∃ e ∈ l, r = (e.1, e.2.1)) ∧ (∀ x, b = some x → x.2.age ≤ r.2.age) ∧ ∀ e ∈ l, e.2.1.age ≤ r.2.age
  | [], b, r, h => ⟨.inl h, fun x hx => by obtain rfl := Option.some.inj (hx.symm.trans h); exact Nat.le_refl _, fun _ he => absurd he List.not_mem_nil⟩
  | e :: l, b, r, h => by
    obtain ⟨hfrom, hb, hl⟩ := foldl_elder l (elder b e) r h
    cases b with
    | none =>
      refine ⟨.inr ?_, fun _ hx => (nomatch hx), ?_⟩
      · rcases hfrom with hr | ⟨e', he', hr⟩
        · exact ⟨e, List.mem_cons_self .., (Option.some.inj hr).symm⟩
        · exact ⟨e', List.mem_cons_of_mem _ he', hr⟩
      · exact List.forall_mem_cons.2 ⟨hb _ rfl, hl⟩
    | some x =>
      by_cases hlt : x.2.age < e.2.1.age
      · have hstep : elder (some x) e = some (e.1, e.2.1) := if_pos hlt
        have he : e.2.1.age ≤ r.2.age := hb _ hstep
        refine ⟨.inr ?_, fun y hy => ?_, List.forall_mem_cons.2 ⟨he, hl⟩⟩
        · rcases hfrom with hr | ⟨e', he', hr⟩
          · exact ⟨e, List.mem_cons_self .., (Option.some.inj (hstep.symm.trans hr)).symm⟩
          · exact ⟨e', List.mem_cons_of_mem _ he', hr⟩
        · obtain rfl := Option.some.inj hy
          exact Nat.le_trans (Nat.le_of_lt hlt) he
      · have hstep : elder (some x) e = some x := if_neg hlt
        have hx : x.2.age ≤ r.2.age := hb _ hstep
        refine ⟨?_, fun y hy => ?_, List.forall_mem_cons.2 ⟨Nat.le_trans (Nat.le_of_not_lt hlt) hx, hl⟩⟩
        · rcases hfrom with hr | ⟨e', he', hr⟩
          · exact .inl (hstep.symm.trans hr)
          · exact .inr ⟨e', List.mem_cons_of_mem _ he', hr⟩
        · obtain rfl := Option.some.inj hy
          exact hx

/-- The oldest of the fragments that meet a condition. -/
theorem Arch.oldest_some {a : Arch} {q : Slot → Bool → Bool} {k : Nat} {y : Slot} (h : a.oldest q = some (k, y)) :
    (∃ blk, (k, y, blk) ∈ a.frags ∧ q y blk = true) ∧ ∀ e ∈ a.frags, q e.2.1 e.2.2 = true → e.2.1.age ≤ y.age := by
  obtain ⟨hfrom, -, hall⟩ := foldl_elder _ _ _ (h : List.foldl elder none _ = _)
  refine ⟨?_, fun e he hq => hall e (List.mem_filter.2 ⟨he, hq⟩)⟩
  rcases hfrom with hn | ⟨⟨j, x, blk⟩, he, hr⟩
  · exact nomatch hn
  · obtain ⟨hj, hx⟩ := Prod.mk.inj hr
    obtain ⟨hmem, hq⟩ := List.mem_filter.1 he
    exact ⟨blk, hj ▸ hx ▸ hmem, hx ▸ hq⟩

theorem Arch.swapDue_some {a : Arch} {k : Nat} {y : Slot} {b : Bool} (h : a.swapDue = some (k, y, b)) :
    a.oldest (fun x blk => !blk && x.st != .joinwait && decide (256 ≤ x.age)) = some (k, y) ∧
      ((a.slot b).st = .ready ∨ (a.slot b).st = .joinwait) ∧ (a.slot b).started = false ∧ (a.slot b).issuedHere = true := by
  unfold Arch.swapDue at h
  dsimp only at h
  have hfree : ∀ c : Bool, (((a.slot c).st == .ready || (a.slot c).st == .joinwait) && !(a.slot c).started && (a.slot c).issuedHere) = true →
      ((a.slot c).st = .ready ∨ (a.slot c).st = .joinwait) ∧ (a.slot c).started = false ∧ (a.slot c).issuedHere = true := by
    intro c hc
    simpa [and_assoc] using hc
  split at h
  · next k' y' b' he hb =>
    split at h
    · exact nomatch h
    · obtain ⟨rfl, rfl, rfl⟩ := Prod.mk.inj (Option.some.inj h) |>.imp id Prod.mk.inj
      refine ⟨he, hfree _ ?_⟩
      split at hb
      · next hf ht => cases hb; cases hd : decide (a.b.age ≤ a.a.age) <;> assumption
      · next hf ht => cases hb; exact hf
      · next hf ht => cases hb; exact ht
      · exact nomatch hb
  · exact nomatch h

theorem Arch.starving_some {a : Arch} {k : Nat} {y : Slot} {b : Bool} (h : a.starving = some (k, y, b)) :
    a.oldest (fun x blk => !blk && x.st != .joinwait) = some (k, y) ∧ (a.slot b).st = .blocked ∧ (a.slot (!b)).st ≠ .ready := by
  unfold Arch.starving at h
  split at h
  · next b' k' y' hs ho =>
    obtain ⟨rfl, rfl, rfl⟩ := Prod.mk.inj (Option.some.inj h) |>.imp id Prod.mk.inj
    refine ⟨ho, ?_⟩
    unfold Arch.starved at hs
    split at hs
    · next ha hb =>
      have ha := eq_of_beq ha
      have hb := eq_of_beq hb
      cases hs
      cases decide (a.b.blockedCyc ≤ a.a.blockedCyc)
      · exact ⟨ha, fun hr => nomatch hb.symm.trans hr⟩
      · exact ⟨hb, fun hr => nomatch ha.symm.trans hr⟩
    · next ha hb =>
      split at hs
      · exact nomatch hs
      · next hn => cases hs; exact ⟨eq_of_beq ha, fun hr => hn (beq_iff_eq.2 hr)⟩
    · next ha hb =>
      split at hs
      · exact nomatch hs
      · next hn => cases hs; exact ⟨eq_of_beq hb, fun hr => hn (beq_iff_eq.2 hr)⟩
    · exact nomatch hs
  · exact nomatch h

theorem Arch.starveDue_some {a : Arch} {cyc : Nat} {r : Nat × Slot × Bool} (h : a.starveDue cyc = some r) :
    a.starving = some r ∧ ∃ n, a.starveCyc = some n ∧ n + 64 ≤ cyc := by
  unfold Arch.starveDue at h
  split at h
  · next n hn =>
    split at h
    · next hle => exact ⟨h, n, hn, hle⟩
    · exact nomatch h
  · exact nomatch h

/-- Where a starvation swap is due, marking its conditions changes nothing. -/
theorem Arch.starveMark_due {a : Arch} {cyc : Nat} {r : Nat × Slot × Bool} (h : a.starveDue cyc = some r) : a.starveMark cyc = a := by
  obtain ⟨hs, n, hn, -⟩ := Arch.starveDue_some h
  obtain ⟨⟩ := a
  unfold Arch.starveMark
  rw [hs, hn]
  dsimp only at hn
  subst hn
  rfl

/-! ### The swaps -/

theorem Slot.enters_eq {x : Slot} (old : Slot) (h : x.st ≠ .joinwait) :
    x.enters old = { x with st := .ready, lastIssue := old.lastIssue, issuedHere := false, entered := true } := by
  unfold Slot.enters
  rw [if_neg (by simpa using h)]

theorem Arch.ageFrags_slot (a : Arch) (b : Bool) : a.ageFrags.slot b = a.slot b := by cases b <;> rfl

end Sys2Proof.Machine
end

section
/-! SUPPORT. O38: what makes a suspended pair ready, the replay window, and fragment swaps. -/

namespace Sys2Proof.Machine

/-! ### What each suspended word waits for (R61) -/

section
variable {s : State} {p : PairRef}

theorem State.canResume_wait (s : State) (u k : Nat) (b : Bool) (x : Slot) :
    s.canResume u k b x = s.canResume u k b { wait := x.wait } := rfl

/-- A resumption reads what the word waits for. -/
theorem State.suspendedAt.up_of {w : Wait} (h : s.suspendedAt p w) (ht : ∀ f, w ≠ .trapClear f)
    (hr : s.canResume p.uid p.tid p.slotB { wait := some w } = true) :
    s.gives (.blockedWordResume p) fun t => s.OnlySlot t p { s.slot p with st := .ready } := by
  have hw := h.2.2.2
  exact h.up ht (by rw [State.canResume_wait, hw]; exact hr)

/-- The limit of a word releases it once it has passed, and not before. -/
theorem State.limit_out {i : Instr} {us : Nat} (he : exec i s = execLimit p s) (hst : (s.slot p).st = .blocked)
    (ho : s.waitOver (s.slot p) = (us != 0 && decide ((s.slot p).waitSince + us * 1000 ≤ s.now))) :
    (us ≠ 0 → (s.slot p).waitSince + us * 1000 ≤ s.now → s.gives i fun t => s.OnlySlot t p { s.slot p with wait := some (.released 0 0) }) ∧
    (us = 0 ∨ s.now < (s.slot p).waitSince + us * 1000 → s.gives i (· = s)) := by
  unfold State.gives
  rw [he]
  exact State.execLimit_out hst ho

end

/-! ### The replay window (R120) -/

theorem State.windowRetire_due {s : State} {r : ThreadRef} {e : WinEntry} {w : List WinEntry} (hw : (s.thread r.uid r.tid).window = e :: w)
    (h : e.cyc + 72 ≤ s.cycles) : s.gives (.windowRetire r) fun t => s.OnlyThread t r ∧
      t.thread r.uid r.tid = { s.thread r.uid r.tid with window := w } := by
  have hr : (s.thread r.uid r.tid).retires s.cycles = true := by
    unfold Thread.retires
    rw [hw]
    exact decide_eq_true h
  have hx : exec (.windowRetire r) s = .next (s.modThread r.uid r.tid fun x => { x with window := x.window.drop 1 }) :=
    congrArg Host.Outcome.next (if_pos hr)
  refine ⟨_, hx, State.modThread_onlyThread .., ?_⟩
  rw [State.modThread_thread, hw]
  rfl

theorem State.windowRetire_early {s : State} {r : ThreadRef} {e : WinEntry} {w : List WinEntry} (hw : (s.thread r.uid r.tid).window = e :: w)
    (h : s.cycles < e.cyc + 72) : s.gives (.windowRetire r) (· = s) := by
  have hr : (s.thread r.uid r.tid).retires s.cycles = false := by
    unfold Thread.retires
    rw [hw]
    exact decide_eq_false (Nat.not_le_of_lt h)
  exact ⟨_, rfl, if_neg (by rw [hr]; decide)⟩

/-! ### The swaps (R127, R128) -/

section
variable {a : Arch} {k : Nat} {y : Slot} {b : Bool}

theorem Arch.ageSwap_eq (h : a.swapDue = some (k, y, b)) (hy : y.st ≠ .joinwait) :
    a.ageSwap = (a.setSlot b { y with st := .ready, lastIssue := 0, issuedHere := false, entered := true }).setEntry k
      (.frag { a.slot b with age := 0 } false) := by
  unfold Arch.ageSwap
  rw [h]
  dsimp only
  rw [Slot.enters_eq _ hy]

theorem Arch.starveSwap_eq {cyc : Nat} (h : a.starveDue cyc = some (k, y, b)) (hy : y.st ≠ .joinwait) :
    a.starveSwap cyc = { ((a.setEntry k .free).ageFrags.setSlot b
      { y with st := .ready, lastIssue := (a.slot b).lastIssue, issuedHere := false, entered := true }).setEntry k
      (.frag { a.slot b with age := 0 } true) with starveCyc := none } := by
  unfold Arch.starveSwap
  rw [h]
  dsimp only
  rw [Slot.enters_eq _ hy]

/-- An oldest fragment that is not in JOINWAIT. -/
theorem Arch.oldest_frag {q : Slot → Bool} (h : a.oldest (fun x blk => !blk && x.st != .joinwait && q x) = some (k, y)) :
    (k, y, false) ∈ a.frags ∧ y.st ≠ .joinwait ∧ q y = true ∧
      ∀ e ∈ a.frags, e.2.2 = false → e.2.1.st ≠ .joinwait → q e.2.1 = true → e.2.1.age ≤ y.age := by
  obtain ⟨⟨blk, hmem, hq⟩, hall⟩ := Arch.oldest_some h
  obtain ⟨⟨rfl, hst⟩, hqy⟩ : (blk = false ∧ y.st ≠ .joinwait) ∧ q y = true := by simpa using hq
  exact ⟨hmem, hst, hqy, fun e he hb hj hqe => hall e he (by simp [hb, hj, hqe])⟩

end

section
variable {s : State} {r : ThreadRef} {k : Nat} {y : Slot} {b : Bool}

theorem State.refreshBlk_none (h : ∀ e ∈ (s.arch r.uid r.tid).frags, e.2.2 = false) : s.refreshBlk r.uid r.tid = s := by
  unfold State.refreshBlk
  rw [if_pos]
  rw [List.all_eq_true]
  intro e he
  rw [h e he]
  rfl

theorem State.ageSwap_gives (hst : (s.thread r.uid r.tid).st = .running) (hsw : (s.thread r.uid r.tid).swapped = false)
    (hd : (s.arch r.uid r.tid).swapDue = some (k, y, b)) (hy : y.st ≠ .joinwait) :
    s.gives (.ageSwap r) fun t => s.OnlyThread t r ∧ t.arch r.uid r.tid =
      ((s.arch r.uid r.tid).setSlot b { y with st := .ready, lastIssue := 0, issuedHere := false, entered := true }).setEntry k
        (.frag { (s.arch r.uid r.tid).slot b with age := 0 } false) := by
  have hon : ((s.thread r.uid r.tid).st == .running && !(s.thread r.uid r.tid).swapped && (s.thread r.uid r.tid).arch.swapDue.isSome) = true := by
    rw [hst, hsw, show (s.thread r.uid r.tid).arch.swapDue = _ from hd]
    rfl
  have hx : exec (.ageSwap r) s = .next (s.modThread r.uid r.tid fun x => { x with swapped := true, arch := x.arch.ageSwap }) :=
    congrArg Host.Outcome.next (if_pos hon)
  refine ⟨_, hx, State.modThread_onlyThread .., ?_⟩
  exact (congrArg Thread.arch (State.modThread_thread ..)).trans (Arch.ageSwap_eq hd hy)

theorem State.starvationSwap_gives (hst : (s.thread r.uid r.tid).st = .running) (hb : ∀ e ∈ (s.arch r.uid r.tid).frags, e.2.2 = false)
    (hd : (s.arch r.uid r.tid).starveDue s.cycles = some (k, y, b)) :
    s.gives (.starvationSwap r) fun t => s.OnlyThread t r ∧ t.arch r.uid r.tid = (s.arch r.uid r.tid).starveSwap s.cycles := by
  have hthread : (s.modArch r.uid r.tid fun a => a.starveMark s.cycles).thread r.uid r.tid = s.thread r.uid r.tid := by
    rw [State.modArch_thread]
    exact congrArg (fun a => { s.thread r.uid r.tid with arch := a }) (Arch.starveMark_due hd)
  have hx : exec (.starvationSwap r) s = .next ((s.modArch r.uid r.tid fun a => a.starveMark s.cycles).modThread r.uid r.tid
      fun x => { x with swapped := false, arch := x.arch.starveSwap s.cycles }) := by
    change execStarvationSwap r s = _
    unfold execStarvationSwap when_
    dsimp only
    rw [State.refreshBlk_none hb, hthread, hst, if_pos (by decide), show (s.thread r.uid r.tid).arch.starveDue s.cycles = _ from hd]
    rfl
  refine ⟨_, hx, (State.modArch_onlyThread ..).trans (State.modThread_onlyThread ..), ?_⟩
  refine (congrArg Thread.arch (State.modThread_thread ..)).trans ?_
  rw [hthread]
  rfl

end

theorem Arch.slot_starveCyc (a : Arch) (n : Option Nat) (b : Bool) : ({ a with starveCyc := n } : Arch).slot b = a.slot b := by cases b <;> rfl

theorem Arch.entry_starveCyc (a : Arch) (n : Option Nat) (k : Nat) : ({ a with starveCyc := n } : Arch).entry k = a.entry k := rfl

/-- Settles O38: what a word waits for and its limit, by the kind of wait; the window by its oldest word; the swaps by the fragment that
`oldest` finds and the slot that it replaces. -/
theorem pairsAndWindows : Obligations.PairsAndWindows := by
  refine ⟨fun s p => ⟨fun m hs h => hs.up_of (fun _ => nofun) (Thread.tokensClear_of h), fun m hs h => hs.up_of (fun _ => nofun) (Thread.tokensClear_of h),
    fun hs h => hs.up_of (fun _ => nofun) ?dqpop, fun hs h => hs.up_of (fun _ => nofun) ?dqpush,
    fun off ph hs h => hs.up_of (fun _ => nofun) ?barrier, fun die n hs h => hs.up_of (fun _ => nofun) (decide_eq_true h),
    fun ctx n us hs h => hs.up_of (fun _ => nofun) (decide_eq_true h), fun k hs h => hs.up_of (fun _ => nofun) (decide_eq_true h),
    fun n hs h => hs.up_of (fun _ => nofun) ?copy, fun hs h => hs.up_of (fun _ => nofun) (Option.isNone_iff_eq_none.2 h),
    fun g us hs h => hs.up_of (fun _ => nofun) (decide_eq_true h), fun k us hs h => hs.up_of (fun _ => nofun) (decide_eq_true h),
    fun n hs h => hs.up_of (fun _ => nofun) (decide_eq_true h), fun hs hf h => hs.up_of (fun _ => nofun) ?room,
    fun hs hf h => hs.up_of (fun _ => nofun) ?room', fun hs hf h => hs.up_of (fun _ => nofun) ?room'',
    fun d pg hs h => hs.up_of (fun _ => nofun) (List.contains_iff_mem.2 h),
    fun k us hst hw => State.limit_out ?cellar hst (by unfold State.waitOver; rw [hw]),
    fun g us hst hw => State.limit_out ?recv hst (by unfold State.waitOver; rw [hw]),
    fun ctx n us hst hw => State.limit_out ?timeline hst (by unfold State.waitOver; rw [hw])⟩,
    fun s r => ⟨fun e w hw h => State.windowRetire_due hw h, fun e w hw h => State.windowRetire_early hw h, fun k y b hst hsw hd => ?age,
      fun k y b hst hb hd => ?starve⟩⟩
  case dqpop => exact Bool.or_eq_true_iff.2 (h.imp (decide_eq_true ·) fun hl => by rw [hl]; rfl)
  case dqpush => exact Bool.or_eq_true_iff.2 (h.imp (decide_eq_true ·) fun hl => by rw [hl]; rfl)
  case barrier =>
    rcases h with h | h | h
    · exact Bool.or_eq_true_iff.2 (.inl (Bool.or_eq_true_iff.2 (.inl h)))
    · exact Bool.or_eq_true_iff.2 (.inl (Bool.or_eq_true_iff.2 (.inr (by rw [h]; rfl))))
    · exact Bool.or_eq_true_iff.2 (.inr (bne_iff_ne.2 h))
  case copy => exact Bool.or_eq_true_iff.2 (h.imp (decide_eq_true ·) List.contains_iff_mem.2)
  case room => exact Bool.and_eq_true_iff.2 ⟨(Bool.not_eq_true' _).mpr hf, decide_eq_true h⟩
  case room' => exact Bool.and_eq_true_iff.2 ⟨(Bool.not_eq_true' _).mpr hf, decide_eq_true h⟩
  case room'' => exact Bool.and_eq_true_iff.2 ⟨(Bool.not_eq_true' _).mpr hf, decide_eq_true h⟩
  case cellar =>
    change execCellarLimit p s = _
    unfold execCellarLimit
    rw [hw]
  case recv =>
    change execRecvLimit p s = _
    unfold execRecvLimit
    rw [hw]
  case timeline =>
    change execTlwaitLimit p s = _
    unfold execTlwaitLimit
    rw [hw]
  case age =>
    obtain ⟨ho, hfree, hstarted, hissued⟩ := Arch.swapDue_some hd
    obtain ⟨hmem, hy, hage, hall⟩ := Arch.oldest_frag ho
    obtain ⟨t, ht, honly, harch⟩ := State.ageSwap_gives hst hsw hd hy
    refine ⟨⟨t, ht, ⟨honly, ?_, ?_, ?_⟩, fun j hj => ?_⟩, hmem, of_decide_eq_true hage, hy, fun e he hb hj => ?_, ?_, ?_, hstarted, hissued⟩
    · rw [harch, Arch.setEntry_slot, Arch.setSlot_slot]
    · rw [harch, Arch.setEntry_slot, Arch.setSlot_slot_other]
      rfl
    · rw [harch, Arch.setEntry_entry, if_pos rfl]
      rfl
    · rw [harch, Arch.setEntry_entry, if_neg hj, Arch.setSlot_entry]
      rfl
    · by_cases hle : 256 ≤ e.2.1.age
      · exact hall e he hb hj (decide_eq_true hle)
      · have := of_decide_eq_true hage
        omega
    · intro h; rcases hfree with hf | hf <;> exact nomatch hf.symm.trans h
    · intro h; rcases hfree with hf | hf <;> exact nomatch hf.symm.trans h
  case starve =>
    obtain ⟨hs, hmark⟩ := Arch.starveDue_some hd
    obtain ⟨ho, hblocked, hother⟩ := Arch.starving_some hs
    obtain ⟨hmem, hy, -, hall⟩ := Arch.oldest_frag (q := fun _ => true) (by simpa only [Bool.and_true] using ho)
    obtain ⟨t, ht, honly, harch⟩ := State.starvationSwap_gives hst hb hd
    replace harch := harch.trans (Arch.starveSwap_eq hd hy)
    refine ⟨⟨t, ht, honly, ?_, ?_, ?_⟩, hmem, hy, hblocked, hother, hmark, fun e he hb hj => hall e he hb hj rfl⟩
    · rw [harch, Arch.slot_starveCyc, Arch.setEntry_slot, Arch.setSlot_slot]
      rfl
    · rw [harch, Arch.slot_starveCyc, Arch.setEntry_slot, Arch.setSlot_slot_other, Arch.ageFrags_slot, Arch.setEntry_slot]
      rfl
    · rw [harch, Arch.entry_starveCyc, Arch.setEntry_entry, if_pos rfl]
      rfl

end Sys2Proof.Machine
end

section
/-! SUPPORT. Privileged registers (R399): what `prd` reads of a thread and what `pwr` writes. -/

namespace Sys2Proof.Machine

/-! ### Registers of a thread but for its slots -/

/-- A privileged register of a thread, 0 where the number names a slot, IN TRAP, the decision queue or nothing. -/
def Thread.reg (t : Thread) (n : Nat) : DWord :=
  if n < 0x40 then Store.get 0 t.arch.s n
  else if n < 0x48 then BitVec.ofNat 64 (t.arch.pred (n - 0x40)).toNat
  else if n < 0x68 then (Store.get {} t.arch.h ((n - 0x48) / 4)).ent.dw ((n - 0x48) % 4)
  else if n < 0x70 then BitVec.ofNat 64 ((Store.get {} t.arch.h (n - 0x68)).idx.toNat + boolNat (Store.get {} t.arch.h (n - 0x68)).stale * 2 ^ 63)
  else if n < 0x78 then BitVec.ofNat 64 (boolNat (t.token (n - 0x70)).set + (t.token (n - 0x70)).cnt * 16)
  else if n = 0xA0 then BitVec.ofNat 64 t.arch.divctr
  else if n = 0xA1 then t.arch.trec.d0
  else if n = 0xA2 then t.arch.trec.d1
  else if n = 0xA3 then t.arch.trec.d2
  else if n = 0xA4 then t.arch.trec.d3
  else if n = 0xA6 then BitVec.ofNat 64 t.arch.cause
  else if 0xB0 ≤ n && n ≤ 0xB3 then BitVec.ofNat 64 (Store.get 0 t.flIssued (n - 0xB0) + 1)
  else 0

/-- The numbers of slot fields, IN TRAP and the decision queue. -/
def slotReg (n : Nat) : Prop := (0x80 ≤ n ∧ n ≤ 0x88) ∨ (0x90 ≤ n ∧ n ≤ 0x98) ∨ n = 0xA5 ∨ n = 0xC0

theorem State.privReg_reg (s : State) (u k : Nat) {n : Nat} (h : ¬ slotReg n) : s.privReg u k n = (s.thread u k).reg n := by
  have ha : (decide (0x80 ≤ n) && decide (n ≤ 0x88)) = false := Bool.eq_false_iff.2 fun e => h (.inl (by simpa using e))
  have hb : (decide (0x90 ≤ n) && decide (n ≤ 0x98)) = false := Bool.eq_false_iff.2 fun e => h (.inr (.inl (by simpa using e)))
  have ht : ¬ n = 0xA5 := fun e => h (.inr (.inr (.inl e)))
  have hq : ¬ n = 0xC0 := fun e => h (.inr (.inr (.inr e)))
  unfold State.privReg Thread.reg
  simp only [ha, hb, ht, hq, if_false, Bool.false_eq_true, State.thread_eq]

/-! ### What `pwr` makes of a thread -/

/-- A change of one handle register. -/
def Arch.modH (a : Arch) (i : Nat) (f : HReg → HReg) : Arch := { a with h := Store.set {} a.h i (f (Store.get {} a.h i)) }

/-- A privileged register of a thread takes a value; `lead` for the lead thread, `stale` for whether a copy is stale. -/
def Thread.setReg (t : Thread) (lead : Bool) (stale : HEntry → Bool) (n : Nat) (v : DWord) : Thread :=
  if n < 0x40 then t.modArch fun a => { a with s := Store.set 0 a.s n v }
  else if n = 0x40 then t
  else if n < 0x48 then t.modArch fun a => { a with p := Store.set 0 a.p (n - 0x40) (v.setWidth 32) }
  else if n < 0x68 then t.modArch fun a => a.modH ((n - 0x48) / 4) fun h => { h with ent := h.ent.setDw ((n - 0x48) % 4) v }
  else if n < 0x70 then t.modArch fun a => a.modH (n - 0x68) fun h => { h with idx := v.setWidth 20, stale := stale h.ent }
  else if n < 0x78 then { t with toks := Store.set {} t.toks (n - 0x70) ⟨v.getLsbD 0, bits v.toNat 4 4⟩ }
  else if 0x80 ≤ n && n ≤ 0x88 then t.modArch fun a => { a with a := a.a.setField (n - 0x80) v.toNat }
  else if 0x90 ≤ n && n ≤ 0x98 then if lead then t else t.modArch fun a => { a with b := a.b.setField (n - 0x90) v.toNat }
  else if n = 0xA0 then t.modArch fun a => { a with divctr := v.toNat % 65536 }
  else if n = 0xA1 then t.modArch fun a => { a with trec := { a.trec with d0 := v &&& trecBits 0 } }
  else if n = 0xA2 then t.modArch fun a => { a with trec := { a.trec with d1 := v &&& trecBits 1 } }
  else if n = 0xA3 then t.modArch fun a => { a with trec := { a.trec with d2 := v &&& trecBits 2 } }
  else if n = 0xA4 then t.modArch fun a => { a with trec := { a.trec with d3 := v &&& trecBits 3 } }
  else if n = 0xA5 then t.modArch fun a =>
    { a with a := { a.a with inTrap := v.getLsbD 0 }, b := { a.b with inTrap := v.getLsbD 1 && !lead } }
  else if n = 0xA6 then t.modArch fun a => { a with cause := v.toNat }
  else if 0xB0 ≤ n && n ≤ 0xB3 then { t with flIssued := Store.set 0 t.flIssued (n - 0xB0) (v.toNat - 1) }
  else if n = 0xC0 then if lead then t else { t with dqPos := v.toNat }
  else t

section
variable (s : State) (u k n : Nat) (v : DWord)

/-- A crew whose register poison or decision queue changes keeps its threads. -/
theorem State.modCrew_regPoison_thread (f : Crew → Store Bool) (j : Nat) :
    (s.modCrew u fun c => { c with regPoison := f c }).thread u j = s.thread u j := by
  rw [State.modCrew_eq, State.thread_eq, State.setCrew_crew]
  rfl

theorem State.modCrew_dqBase_thread (f : Crew → Nat) (j : Nat) :
    (s.modCrew u fun c => { c with dqBase := f c }).thread u j = s.thread u j := by
  rw [State.modCrew_eq, State.thread_eq, State.setCrew_crew]
  rfl

theorem State.setPrivReg_thread : (s.setPrivReg u k n v).thread u k =
    (s.thread u k).setReg (isLead k) (s.staleCopy (s.crew u).pref) n v := by
  simp only [State.setPrivReg, Thread.setReg, apply_ite fun t : State => t.thread u k, State.modCrew_regPoison_thread,
    State.modCrew_dqBase_thread, State.modThread_thread, State.modArch_thread, ite_self]
  rfl

theorem State.OnlyCrew.ite {s t r : State} {u : Nat} {c : Prop} [Decidable c] (h : s.OnlyCrew t u) (h' : s.OnlyCrew r u) :
    s.OnlyCrew (if c then t else r) u := by
  split
  · exact h
  · exact h'

theorem State.setPrivReg_onlyCrew : s.OnlyCrew (s.setPrivReg u k n v) u := by
  have hthread (f : Thread → Thread) : s.OnlyCrew (s.modThread u k f) u := State.modCrew_onlyCrew ..
  have hclean (f : Thread → Thread) (g : Crew → Crew) : s.OnlyCrew ((s.modThread u k f).modCrew u g) u :=
    (hthread f).trans (State.modCrew_onlyCrew ..)
  exact .ite (hclean ..) <| .ite (.refl ..) <| .ite (hclean ..) <| .ite (hthread _) <| .ite (hthread _) <| .ite (hthread _) <| .ite (hthread _) <|
    .ite (.ite (.refl ..) (hthread _)) <| .ite (hthread _) <| .ite (hthread _) <| .ite (hthread _) <| .ite (hthread _) <| .ite (hthread _) <|
    .ite (hthread _) <| .ite (hthread _) <| .ite (hthread _) <| .ite (.ite (State.modCrew_onlyCrew ..) (hthread _)) (.refl ..)

end

/-! ### What each part of a thread becomes -/

section
variable (t : Thread) (lead : Bool) (stale : HEntry → Bool) (n m : Nat) (v : DWord)

theorem Thread.setReg_s : (t.setReg lead stale n v).arch.s = if n < 0x40 then Store.set 0 t.arch.s n v else t.arch.s := by
  simp only [Thread.setReg, apply_ite fun t : Thread => t.arch.s, Thread.modArch, Arch.modH, ite_self]

theorem Thread.setReg_p : (t.setReg lead stale n v).arch.p = if n < 0x40 then t.arch.p else if n = 0x40 then t.arch.p else
    if n < 0x48 then Store.set 0 t.arch.p (n - 0x40) (v.setWidth 32) else t.arch.p := by
  simp only [Thread.setReg, apply_ite fun t : Thread => t.arch.p, Thread.modArch, Arch.modH, ite_self]

theorem Thread.setReg_h : (t.setReg lead stale n v).arch.h = if n < 0x40 then t.arch.h else if n = 0x40 then t.arch.h else
    if n < 0x48 then t.arch.h else
    if n < 0x68 then (t.arch.modH ((n - 0x48) / 4) fun h => { h with ent := h.ent.setDw ((n - 0x48) % 4) v }).h else
    if n < 0x70 then (t.arch.modH (n - 0x68) fun h => { h with idx := v.setWidth 20, stale := stale h.ent }).h else t.arch.h := by
  simp only [Thread.setReg, apply_ite fun t : Thread => t.arch.h, Thread.modArch, Arch.modH, ite_self]

theorem Thread.setReg_toks : (t.setReg lead stale n v).toks = if n < 0x40 then t.toks else if n = 0x40 then t.toks else
    if n < 0x48 then t.toks else if n < 0x68 then t.toks else if n < 0x70 then t.toks else
    if n < 0x78 then Store.set {} t.toks (n - 0x70) ⟨v.getLsbD 0, bits v.toNat 4 4⟩ else t.toks := by
  simp only [Thread.setReg, apply_ite fun t : Thread => t.toks, Thread.modArch, ite_self]

theorem Thread.setReg_divctr : (t.setReg lead stale n v).arch.divctr = if n = 0xA0 then v.toNat % 65536 else t.arch.divctr := by
  by_cases h : n = 0xA0
  · subst h; rfl
  · simp only [Thread.setReg, apply_ite fun t : Thread => t.arch.divctr, Thread.modArch, Arch.modH, h, if_false, ite_self]

theorem Thread.setReg_d0 : (t.setReg lead stale n v).arch.trec.d0 = if n = 0xA1 then v &&& trecBits 0 else t.arch.trec.d0 := by
  by_cases h : n = 0xA1
  · subst h; rfl
  · simp only [Thread.setReg, apply_ite fun t : Thread => t.arch.trec.d0, Thread.modArch, Arch.modH, h, if_false, ite_self]

theorem Thread.setReg_d1 : (t.setReg lead stale n v).arch.trec.d1 = if n = 0xA2 then v &&& trecBits 1 else t.arch.trec.d1 := by
  by_cases h : n = 0xA2
  · subst h; rfl
  · simp only [Thread.setReg, apply_ite fun t : Thread => t.arch.trec.d1, Thread.modArch, Arch.modH, h, if_false, ite_self]

theorem Thread.setReg_d2 : (t.setReg lead stale n v).arch.trec.d2 = if n = 0xA3 then v &&& trecBits 2 else t.arch.trec.d2 := by
  by_cases h : n = 0xA3
  · subst h; rfl
  · simp only [Thread.setReg, apply_ite fun t : Thread => t.arch.trec.d2, Thread.modArch, Arch.modH, h, if_false, ite_self]

theorem Thread.setReg_d3 : (t.setReg lead stale n v).arch.trec.d3 = if n = 0xA4 then v &&& trecBits 3 else t.arch.trec.d3 := by
  by_cases h : n = 0xA4
  · subst h; rfl
  · simp only [Thread.setReg, apply_ite fun t : Thread => t.arch.trec.d3, Thread.modArch, Arch.modH, h, if_false, ite_self]

theorem Thread.setReg_cause : (t.setReg lead stale n v).arch.cause = if n = 0xA6 then v.toNat else t.arch.cause := by
  by_cases h : n = 0xA6
  · subst h; rfl
  · simp only [Thread.setReg, apply_ite fun t : Thread => t.arch.cause, Thread.modArch, Arch.modH, h, if_false, ite_self]

theorem Thread.setReg_flIssued (hlo : 0xB0 ≤ n) (hhi : n ≤ 0xB3) :
    (t.setReg lead stale n v).flIssued = Store.set 0 t.flIssued (n - 0xB0) (v.toNat - 1) := by
  obtain rfl | rfl | rfl | rfl : n = 0xB0 ∨ n = 0xB1 ∨ n = 0xB2 ∨ n = 0xB3 := by omega
  all_goals rfl

/-- The counts that a step of its slot keeps. -/
theorem Thread.setReg_stepLeft : (t.setReg lead stale n v).arch.stepLeft = t.arch.stepLeft := by
  simp only [Thread.setReg, apply_ite fun t : Thread => t.arch.stepLeft, Thread.modArch, Arch.modH, ite_self]

/-- A number without a register. -/
theorem Thread.setReg_unlisted (h : ¬ (n < 0x78 ∨ (0x80 ≤ n ∧ n ≤ 0x88) ∨ (0x90 ≤ n ∧ n ≤ 0x98) ∨ (0xA0 ≤ n ∧ n ≤ 0xA6) ∨ (0xB0 ≤ n ∧ n ≤ 0xB3) ∨ n = 0xC0)) :
    t.setReg lead stale n v = t := by
  unfold Thread.setReg
  simp only [Bool.and_eq_true, decide_eq_true_eq]
  repeat rw [if_neg (by omega)]

end

/-! ### What each register reads -/

section
variable (t : Thread) {m : Nat}

theorem Thread.reg_s (h : m < 0x40) : t.reg m = Store.get 0 t.arch.s m := if_pos h

theorem Thread.reg_p (h : 0x40 < m) (h' : m < 0x48) : t.reg m = BitVec.ofNat 64 (Store.get 0 t.arch.p (m - 0x40)).toNat := by
  unfold Thread.reg Arch.pred
  rw [if_neg (by omega), if_pos h', if_neg (by omega)]

theorem Thread.reg_h (h : 0x48 ≤ m) (h' : m < 0x68) : t.reg m = (Store.get {} t.arch.h ((m - 0x48) / 4)).ent.dw ((m - 0x48) % 4) := by
  unfold Thread.reg
  rw [if_neg (by omega), if_neg (by omega), if_pos h']

theorem Thread.reg_idx (h : 0x68 ≤ m) (h' : m < 0x70) : t.reg m =
    BitVec.ofNat 64 ((Store.get {} t.arch.h (m - 0x68)).idx.toNat + boolNat (Store.get {} t.arch.h (m - 0x68)).stale * 2 ^ 63) := by
  unfold Thread.reg
  rw [if_neg (by omega), if_neg (by omega), if_neg (by omega), if_pos h']

theorem Thread.reg_tok (h : 0x70 ≤ m) (h' : m < 0x78) : t.reg m =
    BitVec.ofNat 64 (boolNat (t.token (m - 0x70)).set + (t.token (m - 0x70)).cnt * 16) := by
  unfold Thread.reg
  rw [if_neg (by omega), if_neg (by omega), if_neg (by omega), if_neg (by omega), if_pos h']

theorem Thread.reg_fl (h : 0xB0 ≤ m) (h' : m ≤ 0xB3) : t.reg m = BitVec.ofNat 64 (Store.get 0 t.flIssued (m - 0xB0) + 1) := by
  obtain rfl | rfl | rfl | rfl : m = 0xB0 ∨ m = 0xB1 ∨ m = 0xB2 ∨ m = 0xB3 := by omega
  all_goals rfl

end

/-! ### Writing and reading -/

/-- The numbers of the registers that `pwr` writes, cut to their widths. -/
def plainReg (n : Nat) : Bool := n < 0x68 || (0x70 ≤ n && n < 0x78) || (0xA0 ≤ n && n ≤ 0xA4) || n == 0xA6

/-- The bits that each of them has. -/
def regWidth (n : Nat) : DWord := if n < 0x40 then 0xFFFFFFFFFFFFFFFF else if n < 0x48 then 0xFFFFFFFF
  else if n < 0x68 then (match n % 4 with
    | 2 => 0xFFFFFFFFFF9F0000
    | 3 => 0xFFFFFFFF
    | _ => 0xFFFFFFFFFFFF)
  else if n < 0x78 then 0xF1 else if n = 0xA0 then 0xFFFF else if n = 0xA1 then 0xFFFFFFFF000FF0FF
  else if n = 0xA2 then 0xFFFFFFFFFC0FFFFF else if n = 0xA4 then 0xF0000000FFFFFFFF else 0xFFFFFFFFFFFFFFFF

theorem HEntry.dw_setDw (e : HEntry) {i j : Nat} (hi : i < 4) (hj : j < 4) (v : DWord) :
    (e.setDw j v).dw i = if i = j then v &&& entryBits i else e.dw i := by
  obtain rfl | rfl | rfl | rfl : i = 0 ∨ i = 1 ∨ i = 2 ∨ i = 3 := by omega
  all_goals
    obtain rfl | rfl | rfl | rfl : j = 0 ∨ j = 1 ∨ j = 2 ∨ j = 3 := by omega
    all_goals rfl

theorem entryBits_width {m : Nat} (h : 0x48 ≤ m) (h' : m < 0x68) : entryBits ((m - 0x48) % 4) = regWidth m := by
  have hw : regWidth m = match m % 4 with
    | 2 => 0xFFFFFFFFFF9F0000
    | 3 => 0xFFFFFFFF
    | _ => 0xFFFFFFFFFFFF := (if_neg (by omega)).trans ((if_neg (by omega)).trans (if_pos h'))
  rw [hw, show (m - 0x48) % 4 = m % 4 by omega]
  obtain h4 | h4 | h4 | h4 : m % 4 = 0 ∨ m % 4 = 1 ∨ m % 4 = 2 ∨ m % 4 = 3 := by omega
  all_goals rw [h4]; rfl

theorem Arch.modH_get (a : Arch) (i : Nat) (f : HReg → HReg) (j : Nat) :
    Store.get {} (a.modH i f).h j = if j = i then f (Store.get {} a.h j) else Store.get {} a.h j := by
  refine (Store.get_set ..).trans (ite_congr rfl (fun h => ?_) fun _ => rfl)
  rw [h]

theorem and_allOnes64 (v : DWord) : v &&& 0xFFFFFFFFFFFFFFFF = v := BitVec.and_allOnes

theorem ofNat_toNat_and {v m : DWord} {k : Nat} (hm : m.toNat = 2 ^ k - 1) : BitVec.ofNat 64 (v.toNat % 2 ^ k) = v &&& m := by
  apply BitVec.eq_of_toNat_eq
  rw [BitVec.toNat_and, hm, Nat.and_two_pow_sub_one_eq_mod, BitVec.toNat_ofNat, Nat.mod_eq_of_lt]
  exact Nat.lt_of_le_of_lt (Nat.mod_le ..) v.isLt

/-- A token reads back its flag and its count. -/
theorem token_and (v : DWord) : BitVec.ofNat 64 (boolNat (v.getLsbD 0) + bits v.toNat 4 4 * 16) = v &&& 0xF1 := by
  have hall : ∀ a b : Fin 16, boolNat ((16 * a.val + b.val).testBit 0) + bits (16 * a.val + b.val) 4 4 * 16 = 16 * a.val + b.val &&& 0xF1 := by
    decide
  have hlow := hall ⟨v.toNat / 16 % 16, Nat.mod_lt _ (by decide)⟩ ⟨v.toNat % 16, Nat.mod_lt _ (by decide)⟩
  have hsplit : 16 * (v.toNat / 16 % 16) + v.toNat % 16 = v.toNat % 256 := by omega
  have hbit : (v.toNat % 256).testBit 0 = v.getLsbD 0 := by rw [← BitVec.testBit_toNat, Nat.testBit_mod_two_pow v.toNat 8 0]; rfl
  have hfield : bits (v.toNat % 256) 4 4 = bits v.toNat 4 4 := by unfold bits; omega
  have hand : v.toNat % 256 &&& 0xF1 = v.toNat &&& 0xF1 := by
    rw [← Nat.and_two_pow_sub_one_eq_mod v.toNat 8, Nat.and_assoc]
    rfl
  dsimp only at hlow
  rw [hsplit, hbit, hfield, hand] at hlow
  apply BitVec.eq_of_toNat_eq
  rw [hlow, BitVec.toNat_and, BitVec.toNat_ofNat, Nat.mod_eq_of_lt (Nat.lt_of_le_of_lt Nat.and_le_right (by decide))]
  rfl

theorem if_eq_symm {α : Type} (a b : Nat) (x y : α) : (if a = b then x else y) = if b = a then x else y :=
  ite_congr (propext eq_comm) (fun _ => rfl) fun _ => rfl

theorem Thread.reg_setReg (t : Thread) (lead : Bool) (stale : HEntry → Bool) (n : Nat) {m : Nat} (v : DWord) (hm : plainReg m = true) (h0 : m ≠ 0x40) :
    (t.setReg lead stale n v).reg m = if m = n then v &&& regWidth m else t.reg m := by
  have hplain : m < 0x40 ∨ (0x40 ≤ m ∧ m < 0x48) ∨ (0x48 ≤ m ∧ m < 0x68) ∨ (0x70 ≤ m ∧ m < 0x78) ∨ m = 0xA0 ∨ m = 0xA1 ∨ m = 0xA2 ∨ m = 0xA3 ∨ m = 0xA4 ∨
      m = 0xA6 := by
    simp only [plainReg, Bool.or_eq_true, Bool.and_eq_true, decide_eq_true_eq, beq_iff_eq] at hm
    omega
  rcases hplain with hs | ⟨hp, hp'⟩ | ⟨hh, hh'⟩ | ⟨ht, ht'⟩ | rfl | rfl | rfl | rfl | rfl | rfl
  · rw [Thread.reg_s _ hs, Thread.reg_s _ hs, Thread.setReg_s, show regWidth m = _ from if_pos hs, and_allOnes64]
    by_cases hn : n < 0x40
    · rw [if_pos hn, Store.get_set]
    · rw [if_neg hn, if_neg (by omega)]
  · have hp : 0x40 < m := by omega
    rw [Thread.reg_p _ hp hp', Thread.reg_p _ hp hp', Thread.setReg_p]
    have hw : regWidth m = 0xFFFFFFFF := (if_neg (by omega)).trans (if_pos hp')
    by_cases hn : 0x40 < n ∧ n < 0x48
    · rw [if_neg (by omega), if_neg (by omega), if_pos hn.2, Store.get_set]
      by_cases he : m = n
      · rw [if_pos (by omega), if_pos he, hw, BitVec.toNat_setWidth]
        exact ofNat_toNat_and rfl
      · rw [if_neg (by omega), if_neg he]
    · rw [if_neg (by omega : ¬ m = n)]
      by_cases hn1 : n < 0x40
      · rw [if_pos hn1]
      · by_cases hn2 : n = 0x40
        · rw [if_neg hn1, if_pos hn2]
        · rw [if_neg hn1, if_neg hn2, if_neg (by omega)]
  · rw [Thread.reg_h _ hh hh', Thread.reg_h _ hh hh', Thread.setReg_h]
    have hw : entryBits ((m - 0x48) % 4) = regWidth m := entryBits_width hh hh'
    by_cases hn : 0x48 ≤ n ∧ n < 0x68
    · rw [if_neg (by omega), if_neg (by omega), if_neg (by omega), if_pos hn.2, Arch.modH_get]
      by_cases hreg : (m - 0x48) / 4 = (n - 0x48) / 4
      · rw [if_pos hreg]
        refine (HEntry.dw_setDw _ (Nat.mod_lt _ (by decide)) (Nat.mod_lt _ (by decide)) v).trans ?_
        rw [hw]
        exact ite_congr (propext (by omega)) (fun _ => rfl) fun _ => rfl
      · rw [if_neg hreg, if_neg (fun he => hreg (by rw [he]))]
    · rw [if_neg (by omega : ¬ m = n)]
      by_cases hn1 : n < 0x48
      · rw [if_pos hn1, ite_self, ite_self]
      · rw [if_neg (by omega), if_neg (by omega), if_neg hn1, if_neg (by omega)]
        by_cases hn2 : n < 0x70
        · rw [if_pos hn2, Arch.modH_get]
          by_cases hreg : (m - 0x48) / 4 = n - 0x68
          · rw [if_pos hreg]
          · rw [if_neg hreg]
        · rw [if_neg hn2]
  · rw [Thread.reg_tok _ ht ht', Thread.reg_tok _ ht ht', Thread.token, Thread.token, Thread.setReg_toks]
    have hw : regWidth m = 0xF1 := (if_neg (by omega)).trans ((if_neg (by omega)).trans ((if_neg (by omega)).trans (if_pos ht')))
    by_cases hn : 0x70 ≤ n
    · rw [if_neg (by omega), if_neg (by omega), if_neg (by omega), if_neg (by omega), if_neg (by omega)]
      by_cases hn2 : n < 0x78
      · rw [if_pos hn2, Store.get_set]
        by_cases he : m = n
        · rw [if_pos (by omega), if_pos he, hw]
          exact token_and v
        · rw [if_neg (by omega), if_neg he]
      · rw [if_neg hn2, if_neg (by omega)]
    · rw [if_neg (by omega : ¬ m = n)]
      have hn2 : n < 0x70 := by omega
      simp only [hn2, if_true, ite_self]
  · rw [if_eq_symm]
    refine (congrArg (BitVec.ofNat 64) (Thread.setReg_divctr ..)).trans ?_
    rw [apply_ite (BitVec.ofNat 64)]
    exact ite_congr rfl (fun _ => ofNat_toNat_and (k := 16) rfl) fun _ => rfl
  · exact (Thread.setReg_d0 ..).trans (if_eq_symm ..)
  · exact (Thread.setReg_d1 ..).trans (if_eq_symm ..)
  · exact (Thread.setReg_d2 ..).trans (if_eq_symm ..)
  · exact (Thread.setReg_d3 ..).trans (if_eq_symm ..)
  · rw [if_eq_symm]
    refine (congrArg (BitVec.ofNat 64) (Thread.setReg_cause ..)).trans ?_
    rw [apply_ite (BitVec.ofNat 64)]
    refine ite_congr rfl (fun _ => ?_) fun _ => rfl
    exact (BitVec.ofNat_toNat ..).trans ((BitVec.setWidth_eq v).trans (and_allOnes64 v).symm)

end Sys2Proof.Machine

end

section
/-! SUPPORT. O36: privileged code. -/

namespace Sys2Proof.Machine

section
variable {s t : State}

/-- A privileged word executes in privileged code only (R79). -/
theorem State.executes_priv {i : Instr} {w : WordInfo} (hw : wordInfo s i = some w) (hp : w.priv = true) (hx : s.executes i = true) :
    s.cslot.priv.isSome = true := by
  unfold State.executes at hx
  rw [hw] at hx
  simp only [Bool.and_eq_true, Option.isNone_iff_eq_none] at hx
  obtain ⟨⟨⟨-, hnone⟩, -⟩, -⟩ := hx
  rw [s.wordFault_eq, hp, Bool.true_and] at hnone
  cases h : s.cslot.priv with
  | some n => rfl
  | none =>
    rw [h, Option.isNone_none, if_pos rfl] at hnone
    exact absurd hnone (by rw [apply_ite (· = none)]; simp)

theorem State.unstepped_of_priv (h : t.cslot.priv.isSome = true) : t.unstepped = true := by
  unfold State.unstepped
  rw [h, Bool.or_true]

/-- The end of a clause of a slot that does not count clauses down. -/
theorem State.clauseEnd_plain (hu : t.unstepped = true) : t.clauseEnd t.pair = t.modCSlot Slot.endClause := by
  refine State.countStep_id ?_
  obtain ⟨hslot, -, harch⟩ := State.modCSlot_arch t Slot.endClause
  have hslot' : (t.modSlot t.pair Slot.endClause).slot t.pair = t.cslot.endClause := hslot
  have hleft : ((t.modSlot t.pair Slot.endClause).arch t.pair.uid t.pair.tid).stepLeft = t.carch.stepLeft :=
    (congrArg Arch.stepLeft harch : (t.modCSlot Slot.endClause).carch.stepLeft = _)
  rw [hslot', hleft]
  simpa [State.unstepped, State.pair, Slot.endClause] using hu

/-! ### eret and sstep (R398, R400) -/

theorem Arch.startSteps_slot (a : Arch) (b c : Bool) : (a.startSteps b).slot c = a.slot c := by
  unfold Arch.startSteps
  dsimp only
  split
  · rfl
  · cases c <;> rfl

theorem Arch.startSteps_arm (a : Arch) (b : Bool) (j : Nat) : Store.get 0 (a.startSteps b).stepArm j =
    if j = boolNat b then 0 else Store.get 0 a.stepArm j := by
  unfold Arch.startSteps
  dsimp only
  split
  · next h =>
    by_cases hj : j = boolNat b
    · rw [if_pos hj, hj, h]
    · rw [if_neg hj]
  · exact Store.get_set 0 0 _ _ _

theorem Arch.startSteps_left (a : Arch) (b : Bool) (j : Nat) : Store.get 0 (a.startSteps b).stepLeft j =
    if j = boolNat b ∧ Store.get 0 a.stepArm j ≠ 0 then Store.get 0 a.stepArm j + 1 else Store.get 0 a.stepLeft j := by
  unfold Arch.startSteps
  dsimp only
  split
  · next h => rw [if_neg (fun hj => hj.2 (by rw [hj.1, h]))]
  · next h =>
    simp only [Store.get_set]
    by_cases hj : j = boolNat b
    · rw [if_pos hj, if_pos ⟨hj, by rw [hj]; exact h⟩, hj]
    · rw [if_neg hj, if_neg (fun hj' => hj hj'.1)]

theorem Arch.startSteps_same (a : Arch) (b : Bool) :
    a.startSteps b = { a with stepArm := (a.startSteps b).stepArm, stepLeft := (a.startSteps b).stepLeft } := by
  unfold Arch.startSteps
  dsimp only
  split <;> rfl

/-- A slot after `eret` to the place that a register names. -/
def Slot.returned (x : Slot) (v : DWord) : Slot :=
  { x with pc := v.extractLsb' 32 32, word := v.toNat / 2 ^ 12 % 16, started := false, st := .ready
           wait := none, waitSince := 0, holds := false, priv := none, inTrap := false, skipBp := false, skipWp := 0
           dbgStep := false }

end

theorem Slot.returned_eq (x : Slot) (v : DWord) :
    x.endClause.returns (BitVec.ofNat 32 (bits v.toNat 32 32)) (bits v.toNat 12 4) = x.returned v := by
  have hpc : BitVec.ofNat 32 (bits v.toNat 32 32) = v.extractLsb' 32 32 := by
    apply BitVec.eq_of_toNat_eq
    rw [BitVec.toNat_ofNat, BitVec.extractLsb'_toNat, bits, Nat.shiftRight_eq_div_pow, Nat.mod_mod]
  rw [hpc]
  rfl

theorem eret_returns {s : State} (f : FmtCR) : s.yields (.eret f) fun t => s.Own t ∧ t.cslot = s.cslot.returned (s.rdS f.sa) ∧
    t.carch.slot (!s.cur.slotB) = s.carch.slot (!s.cur.slotB) ∧
    (∀ j, Store.get 0 t.carch.stepArm j = if j = boolNat s.cur.slotB then 0 else Store.get 0 s.carch.stepArm j) ∧
    (∀ j, Store.get 0 t.carch.stepLeft j = if j = boolNat s.cur.slotB ∧ Store.get 0 s.carch.stepArm j ≠ 0
      then Store.get 0 s.carch.stepArm j + 1 else Store.get 0 s.carch.stepLeft j) ∧
    t.carch = { s.carch with a := t.carch.a, b := t.carch.b, stepArm := t.carch.stepArm, stepLeft := t.carch.stepLeft } := by
  have he : exec (.eret f) s = execEret f s := rfl
  refine State.yields_of_res rfl he fun t ht hu => ?_
  generalize hp : t.indirectPacket (BitVec.ofNat 32 (bits (s.rdS f.sa).toNat 32 32)) = p
  have hown : s.Own p := by rw [← hp]; exact ht.own.trans (wordPacket_own ..)
  have harch : p.carch = s.carch := by rw [← hp]; exact (wordPacket_carch ..).trans ht.arch
  have hcur : p.cur = s.cur := hown.cur
  have hslot : p.cslot = s.cslot := by rw [State.cslot, State.cslot, hcur, harch]
  have hpair : t.pair = p.pair := State.pair_congr (ht.cur.trans hcur.symm)
  have hu' : p.unstepped = true := by rw [State.unstepped_congr hcur (congrArg Arch.stepLeft harch) (congrArg Slot.priv hslot), hu]
  simp only [State.settle, ht.rdS, hp, hpair, State.clauseEnd_plain hu']
  generalize hq : p.modCSlot Slot.endClause = q
  have hqown : s.Own q := by rw [← hq]; exact hown.trans (.of_kept (State.modCSlot_kept ..))
  obtain ⟨hqslot, hqother, hqarch⟩ := hq ▸ State.modCSlot_arch p Slot.endClause
  rw [hcur, harch] at hqother
  rw [hslot] at hqslot
  rw [harch] at hqarch
  generalize hr : q.modCSlot (fun y => y.returns (BitVec.ofNat 32 (bits (s.rdS f.sa).toNat 32 32)) (bits (s.rdS f.sa).toNat 12 4)) = r
  have hrown : s.Own r := by rw [← hr]; exact hqown.trans (.of_kept (State.modCSlot_kept ..))
  obtain ⟨hrslot, hrother, hrarch⟩ := hr ▸ State.modCSlot_arch q
    (fun y => y.returns (BitVec.ofNat 32 (bits (s.rdS f.sa).toNat 32 32)) (bits (s.rdS f.sa).toNat 12 4))
  rw [hqown.cur, hqother] at hrother
  rw [hqslot, Slot.returned_eq] at hrslot
  rw [hqarch] at hrarch
  have hfin : (r.modCArch (Arch.startSteps · q.cur.slotB)).carch = r.carch.startSteps s.cur.slotB := by rw [State.modCArch_carch, hqown.cur]
  have hfcur : (r.modCArch (Arch.startSteps · q.cur.slotB)).cur = s.cur := hrown.cur
  have hleft : r.carch.stepLeft = s.carch.stepLeft := by rw [hrarch]
  have harm : r.carch.stepArm = s.carch.stepArm := by rw [hrarch]
  refine ⟨hrown.trans (.of_kept (State.modCArch_kept ..)), ?_, ?_, fun j => ?_, fun j => ?_, ?_⟩
  · rw [State.cslot, hfin, hfcur, Arch.startSteps_slot, ← hrown.cur]
    exact hrslot
  · rw [hfin, Arch.startSteps_slot, hrother]
  · rw [hfin, Arch.startSteps_arm, harm]
  · rw [hfin, Arch.startSteps_left, harm, hleft]
  · rw [hfin, Arch.startSteps_same, hrarch]

/-- What `sstep` does with the counts of a slot. -/
def Arch.arms (a : Arch) (k n : Nat) : Arch :=
  { a with stepArm := Store.set 0 a.stepArm k n, stepLeft := if n = 0 then Store.set 0 a.stepLeft k 0 else a.stepLeft }

theorem Arch.arms_left (a : Arch) (k n j : Nat) :
    Store.get 0 (a.arms k n).stepLeft j = if j = k ∧ n = 0 then 0 else Store.get 0 a.stepLeft j := by
  unfold Arch.arms
  by_cases hn : n = 0
  · simp only [hn, if_true, Store.get_set, and_true]
  · simp only [hn, if_false, and_false]

theorem State.Entered.armed {s t : State} (ht : s.Entered t) (hpriv : s.cslot.priv.isSome = true) (n : Nat) :
    let u := (t.modCArch (Arch.arms · (boolNat t.cur.slotB) n)).advance
    s.Fell u s.cslot ∧
    (∀ j, Store.get 0 u.carch.stepArm j = if j = boolNat s.cur.slotB then n else Store.get 0 s.carch.stepArm j) ∧
    (∀ j, Store.get 0 u.carch.stepLeft j = if j = boolNat s.cur.slotB ∧ n = 0 then 0 else Store.get 0 s.carch.stepLeft j) ∧
    u.carch = { s.carch with a := u.carch.a, b := u.carch.b, stepArm := u.carch.stepArm, stepLeft := u.carch.stepLeft } := by
  intro u
  generalize hz : t.modCArch (Arch.arms · (boolNat t.cur.slotB) n) = z
  have hu : u = z.advance := congrArg State.advance hz
  have hk : s.KeptThread z := by rw [← hz]; exact ht.toKeptThread.trans (State.modCArch_kept ..)
  have hcur : z.cur = s.cur := hk.toKeptPackage.cur
  have harch : z.carch = s.carch.arms (boolNat s.cur.slotB) n := by rw [← hz, State.modCArch_carch, ht.arch, ht.cur]
  have hother (b : Bool) : z.carch.slot b = s.carch.slot b := by rw [harch]; cases b <;> rfl
  have hslot : z.cslot = s.cslot := by rw [State.cslot, hother, hcur]; rfl
  have hstep : z.unstepped = true := State.unstepped_of_priv (by rw [hslot, hpriv])
  have hfell := State.advance_fellThrough hcur hstep (hother _)
  rw [hslot, ← hu] at hfell
  obtain ⟨-, -, hadv⟩ := State.modCSlot_arch z z.fallSlot
  rw [← State.advance_unstepped hstep, ← hu, harch] at hadv
  have hkept : s.KeptThread u := by rw [hu]; exact hk.trans (State.advance_kept hstep)
  refine ⟨⟨hkept, hfell⟩, fun j => ?_, fun j => ?_, ?_⟩
  · rw [hadv]
    exact Store.get_set 0 _ _ _ _
  · rw [hadv]
    exact Arch.arms_left ..
  · rw [hadv]
    rfl

theorem sstep_arms {s : State} (f : FmtSL) : s.yields (.sstep f) fun t => s.Fell t s.cslot ∧
    (∀ j, Store.get 0 t.carch.stepArm j = if j = boolNat s.cur.slotB then f.imm.toNat else Store.get 0 s.carch.stepArm j) ∧
    (∀ j, Store.get 0 t.carch.stepLeft j = if j = boolNat s.cur.slotB ∧ f.imm = 0 then 0 else Store.get 0 s.carch.stepLeft j) ∧
    t.carch = { s.carch with a := t.carch.a, b := t.carch.b, stepArm := t.carch.stepArm, stepLeft := t.carch.stepLeft } := by
  have he : exec (.sstep f) s = execSstep f s := rfl
  intro hx hu
  have hpriv := State.executes_priv rfl rfl hx
  revert hx hu
  refine State.yields_of_res rfl he fun t ht _ => ?_
  have hzero : (f.imm = 0) = (f.imm.toNat = 0) := propext BitVec.toNat_inj.symm
  simp only [hzero]
  exact ht.armed hpriv f.imm.toNat

end Sys2Proof.Machine
end

section
/-! SUPPORT. O36: what `pwr` writes, `prd` then reads (R399). -/

namespace Sys2Proof.Machine

/-! ### The slots -/

theorem Slot.setField_place {x : Slot} (h : x.priv.isSome = true) (k v : Nat) :
    (x.setField k v).pc = x.pc ∧ (x.setField k v).priv = x.priv := by
  unfold Slot.setField
  split
  case h_2 => rw [if_pos h]; exact ⟨rfl, rfl⟩
  all_goals exact ⟨rfl, rfl⟩

section
variable (t : Thread) (lead : Bool) (stale : HEntry → Bool) (n : Nat) (v : DWord)

theorem Thread.setReg_a : (t.setReg lead stale n v).arch.a = if 0x80 ≤ n ∧ n ≤ 0x88 then t.arch.a.setField (n - 0x80) v.toNat
    else if n = 0xA5 then { t.arch.a with inTrap := v.getLsbD 0 } else t.arch.a := by
  by_cases ha : 0x80 ≤ n ∧ n ≤ 0x88
  · rw [if_pos ha]
    have hon : (decide (0x80 ≤ n) && decide (n ≤ 0x88)) = true := by simpa using ha
    unfold Thread.setReg
    simp only [show ¬ n < 0x40 by omega, show ¬ n = 0x40 by omega, show ¬ n < 0x48 by omega, show ¬ n < 0x68 by omega, show ¬ n < 0x70 by omega,
      show ¬ n < 0x78 by omega, hon, if_false, if_true, Thread.modArch]
  · rw [if_neg ha]
    have ha' : (decide (0x80 ≤ n) && decide (n ≤ 0x88)) = false := Bool.eq_false_iff.2 (by simpa using ha)
    by_cases hi : n = 0xA5
    · subst hi; rfl
    · simp only [Thread.setReg, apply_ite fun t : Thread => t.arch.a, Thread.modArch, Arch.modH, ha', hi, if_false, Bool.false_eq_true, ite_self]

theorem Thread.setReg_b : (t.setReg lead stale n v).arch.b = if 0x90 ≤ n ∧ n ≤ 0x98 ∧ lead = false then t.arch.b.setField (n - 0x90) v.toNat
    else if n = 0xA5 then { t.arch.b with inTrap := v.getLsbD 1 && !lead } else t.arch.b := by
  by_cases hb : 0x90 ≤ n ∧ n ≤ 0x98 ∧ lead = false
  · rw [if_pos hb]
    obtain ⟨hlo, hhi, rfl⟩ := hb
    have hoff : (decide (0x80 ≤ n) && decide (n ≤ 0x88)) = false := Bool.eq_false_iff.2 (by simp; omega)
    have hon : (decide (0x90 ≤ n) && decide (n ≤ 0x98)) = true := by simpa using ⟨hlo, hhi⟩
    unfold Thread.setReg
    simp only [show ¬ n < 0x40 by omega, show ¬ n = 0x40 by omega, show ¬ n < 0x48 by omega, show ¬ n < 0x68 by omega, show ¬ n < 0x70 by omega,
      show ¬ n < 0x78 by omega, hoff, hon, if_false, if_true, Bool.false_eq_true, Thread.modArch]
  · rw [if_neg hb]
    by_cases hi : n = 0xA5
    · subst hi; rfl
    · cases lead with
      | true => simp only [Thread.setReg, apply_ite fun t : Thread => t.arch.b, Thread.modArch, Arch.modH, hi, if_true, if_false, ite_self]
      | false =>
        have hb' : (decide (0x90 ≤ n) && decide (n ≤ 0x98)) = false := Bool.eq_false_iff.2 (by simpa using hb)
        simp only [Thread.setReg, apply_ite fun t : Thread => t.arch.b, Thread.modArch, Arch.modH, hb', hi, if_false, Bool.false_eq_true, ite_self]

/-- A slot in privileged code keeps its place. -/
theorem Thread.setReg_place {b : Bool} (h : (t.arch.slot b).priv.isSome = true) :
    ((t.setReg lead stale n v).arch.slot b).pc = (t.arch.slot b).pc ∧ ((t.setReg lead stale n v).arch.slot b).priv = (t.arch.slot b).priv := by
  cases b with
  | false =>
    show (t.setReg lead stale n v).arch.a.pc = t.arch.a.pc ∧ (t.setReg lead stale n v).arch.a.priv = t.arch.a.priv
    rw [Thread.setReg_a]
    split
    · exact Slot.setField_place h ..
    · split <;> exact ⟨rfl, rfl⟩
  | true =>
    show (t.setReg lead stale n v).arch.b.pc = t.arch.b.pc ∧ (t.setReg lead stale n v).arch.b.priv = t.arch.b.priv
    rw [Thread.setReg_b]
    split
    · exact Slot.setField_place h ..
    · split <;> exact ⟨rfl, rfl⟩

theorem Thread.reg_modSlot (b : Bool) (g : Slot → Slot) : (t.modArch fun a => a.modSlot b g).reg n = t.reg n := by cases b <;> rfl

end

/-! ### The word -/

section
variable {s t : State}

theorem State.KeptPackage.trans {s t u : State} (h : s.KeptPackage t) (h' : t.KeptPackage u) : s.KeptPackage u :=
  ⟨by rw [h'.package, h.package], fun v hv => (h'.crews v (by rwa [h.cur])).trans (h.crews v hv)⟩

/-- The numbers of R399. -/
def listedReg (n : Nat) : Bool := n < 0x78 || (0x80 ≤ n && n ≤ 0x88) || (0x90 ≤ n && n ≤ 0x98) || (0xA0 ≤ n && n ≤ 0xA6) ||
    (0xB0 ≤ n && n ≤ 0xB3) || n == 0xC0

theorem listedReg_false {n : Nat} : listedReg n = false ↔ 0x78 ≤ n ∧ ¬ (0x80 ≤ n ∧ n ≤ 0x88) ∧ ¬ (0x90 ≤ n ∧ n ≤ 0x98) ∧ ¬ (0xA0 ≤ n ∧ n ≤ 0xA6) ∧
    ¬ (0xB0 ≤ n ∧ n ≤ 0xB3) ∧ n ≠ 0xC0 := by
  simp only [listedReg, Bool.or_eq_false_iff, Bool.and_eq_false_iff, decide_eq_false_iff_not, beq_eq_false_iff_ne]
  omega

theorem State.setPrivReg_unlisted (s : State) (u k : Nat) {n : Nat} (v : DWord) (h : listedReg n = false) : s.setPrivReg u k n v = s := by
  have hn := listedReg_false.1 h
  unfold State.setPrivReg
  simp only [Bool.and_eq_true, decide_eq_true_eq]
  repeat rw [if_neg (by omega)]

theorem State.privReg_unlisted (s : State) (u k : Nat) {m : Nat} (h : listedReg m = false) : s.privReg u k m = 0 := by
  have hm := listedReg_false.1 h
  unfold State.privReg
  simp only [Bool.and_eq_true, decide_eq_true_eq]
  repeat rw [if_neg (by omega)]

theorem Thread.reg_idx_setReg (x : Thread) (lead : Bool) (stale : HEntry → Bool) {n : Nat} (v : DWord) (h : 0x68 ≤ n) (h' : n < 0x70) :
    ((x.setReg lead stale n v).reg n).setWidth 20 = v.setWidth 20 := by
  rw [Thread.reg_idx _ h h', Thread.setReg_h, if_neg (by omega), if_neg (by omega), if_neg (by omega), if_neg (by omega), if_pos h', Arch.modH_get,
    if_pos rfl]
  apply BitVec.eq_of_toNat_eq
  simp only [BitVec.toNat_setWidth, BitVec.toNat_ofNat]
  omega

theorem Thread.reg_fl_setReg (x : Thread) (lead : Bool) (stale : HEntry → Bool) {n : Nat} {v : DWord} (h : 0xB0 ≤ n) (h' : n ≤ 0xB3) (hv : v ≠ 0) :
    (x.setReg lead stale n v).reg n = v := by
  rw [Thread.reg_fl _ h h', Thread.setReg_flIssued _ _ _ _ _ h h', Store.get_set_self]
  have hpos : v.toNat ≠ 0 := fun h0 => hv (BitVec.eq_of_toNat_eq h0)
  rw [Nat.sub_add_cancel (Nat.pos_of_ne_zero hpos), BitVec.ofNat_toNat, BitVec.setWidth_eq]

theorem plainReg_not_slotReg {m : Nat} (h : plainReg m = true) : ¬ slotReg m := by
  simp only [plainReg, Bool.or_eq_true, Bool.and_eq_true, decide_eq_true_eq, beq_iff_eq] at h
  unfold slotReg
  omega

/-- What `pwr` leaves: the place, and what `prd` then reads of the thread. -/
structure State.WrotePriv (s t : State) (n : Nat) (v : DWord) : Prop where
  kept : s.KeptPackage t
  ready : t.cslot.st = .ready
  place : if s.cur.word < s.cur.count then t.cslot.pc = s.cslot.pc ∧ t.cslot.word = s.cur.word + 1
    else t.cslot.pc = s.nextClause ∧ t.cslot.word = 0
  reg : ∃ x lead stale, ∀ m, ¬ slotReg m → s.privReg s.cur.uid s.cur.tid m = x.reg m ∧
    t.privReg s.cur.uid s.cur.tid m = (Thread.setReg x lead stale n v).reg m
  unlisted : listedReg n = false → s.WroteSlot t s.cslot

theorem State.Entered.reg (ht : s.Entered t) (m : Nat) : t.cthr.reg m = s.cthr.reg m := by
  rw [ht.thread, show t.cthr.arch = s.cthr.arch from ht.arch]
  rfl

theorem State.Entered.privReg (ht : s.Entered t) (n : Nat) : t.privReg s.cur.uid s.cur.tid n = s.privReg s.cur.uid s.cur.tid n := by
  have hcthr : t.cthr = (t.crew s.cur.uid).thread s.cur.tid := by rw [← ht.cur]; rfl
  have hthr := ht.thread
  rw [hcthr, show ((t.crew s.cur.uid).thread s.cur.tid).arch = s.cthr.arch by rw [← hcthr]; exact ht.arch] at hthr
  have hcrew : (t.crew s.cur.uid).dqBase = s.ccrew.dqBase ∧ (t.crew s.cur.uid).dq = s.ccrew.dq := by
    rw [← ht.cur, show t.crew t.cur.uid = t.ccrew from rfl, ht.crew]
    exact ⟨rfl, rfl⟩
  unfold State.privReg
  dsimp only
  rw [hthr, hcrew.1, hcrew.2]
  rfl

theorem State.Entered.wrotePriv (ht : s.Entered t) (hu : s.unstepped = true) (hpriv : s.cslot.priv.isSome = true) (n : Nat) (v : DWord) :
    s.WrotePriv (t.setPrivReg s.cur.uid s.cur.tid n v).advance n v := by
  generalize hz : t.setPrivReg s.cur.uid s.cur.tid n v = z
  have honly : t.OnlyCrew z s.cur.uid := by rw [← hz]; exact State.setPrivReg_onlyCrew ..
  have hk : s.KeptPackage z := ht.toKeptPackage.trans ⟨by rw [honly.package], fun u hu => honly.crews u (by rwa [ht.cur] at hu)⟩
  have hthr : z.cthr = t.cthr.setReg (isLead s.cur.tid) (t.staleCopy (t.crew s.cur.uid).pref) n v := by
    rw [State.cthr, hk.cur, State.cthr, ht.cur, ← hz]
    exact State.setPrivReg_thread ..
  have hslot : z.cslot.pc = s.cslot.pc ∧ z.cslot.priv = s.cslot.priv := by
    have hcs : z.cslot = (t.cthr.setReg (isLead s.cur.tid) (t.staleCopy (t.crew s.cur.uid).pref) n v).arch.slot s.cur.slotB := by
      rw [← hthr, ← hk.cur]; rfl
    have ht' : t.cthr.arch.slot s.cur.slotB = s.cslot := by rw [← ht.cslot, State.cslot, ht.cur]; rfl
    rw [hcs]
    obtain ⟨hpc, hpv⟩ := Thread.setReg_place t.cthr (isLead s.cur.tid) (t.staleCopy (t.crew s.cur.uid).pref) n v (b := s.cur.slotB) (by rw [ht', hpriv])
    exact ⟨hpc.trans (by rw [ht']), hpv.trans (by rw [ht'])⟩
  have hstep : z.unstepped = true := State.unstepped_of_priv (by rw [hslot.2, hpriv])
  have hcthr := State.advance_cthr hstep
  have hfall : z.advance.cslot = z.fallSlot z.cslot := by
    rw [State.advance_unstepped hstep]
    exact State.modCSlot_cslot ..
  have hkept := hk.trans (State.advance_kept hstep).toKeptPackage
  refine ⟨hkept, ?_, ?_, ⟨t.cthr, isLead s.cur.tid, t.staleCopy (t.crew s.cur.uid).pref, fun m hm => ⟨?_, ?_⟩⟩, fun hn => ?_⟩
  · rw [hfall, State.fallSlot]
    split <;> rfl
  · rw [hfall, State.fallSlot, hk.cur, State.nextClause_congr hk.cur]
    by_cases hlt : s.cur.word < s.cur.count
    · rw [if_pos hlt, if_pos hlt]
      exact ⟨hslot.1, rfl⟩
    · rw [if_neg hlt, if_neg hlt]
      exact ⟨rfl, rfl⟩
  · rw [State.privReg_reg _ _ _ hm]
    exact (ht.reg m).symm
  · rw [State.privReg_reg _ _ _ hm]
    have hthr' : z.advance.thread s.cur.uid s.cur.tid = z.advance.cthr := by rw [State.cthr, hkept.cur]
    rw [hthr', hcthr, Thread.reg_modSlot, hthr]
  · rw [State.setPrivReg_unlisted _ _ _ _ hn] at hz
    rw [← hz]
    exact ht.wroteSlot hu

theorem pwr_writes (f : FmtSL) : s.yields (.pwr f) fun t => s.WrotePriv t f.imm.toNat (s.rdS f.sd) := by
  have he : exec (.pwr f) s = execPwr f s := rfl
  intro hx hu
  have hpriv := State.executes_priv rfl rfl hx
  revert hx hu
  refine State.yields_of_res rfl he fun t ht hu => ?_
  simp only [State.settle, ht.rdS, ht.cur]
  exact ht.wrotePriv hu hpriv ..

end

/-- p0 reads all-ones (R108). -/
theorem Thread.reg_p0 (t : Thread) : t.reg 0x40 = 0xFFFFFFFF := rfl

/-- Settles O36: `eret` and `sstep` on the counts of their slot, and `pwr` by what each number of R399 reads of the thread it leaves. -/
theorem privilegedWords : Obligations.PrivilegedWords := by
  refine ⟨fun s => ⟨fun f => ?_, fun f => ?_, fun f => ?_⟩, fun s f => ?_⟩
  · exact eret_returns f
  · exact sstep_arms f
  · have he : exec (.prd f) s = execPrd f s := rfl
    refine State.yields_wroteS rfl he fun t ht => ?_
    rw [ht.cur, ht.privReg]
  · intro u k n v listed plain width hx hu
    obtain ⟨t, ht, hw⟩ := pwr_writes f hx hu
    obtain ⟨x, lead, stale, hreg⟩ := hw.reg
    refine ⟨t, ht, hw.kept, hw.ready, hw.place, fun hn h0 => ?_, ?_, fun hlo hhi => ?_, fun m hm hp => ?_, fun hlo hhi hv => ?_, hw.unlisted,
      fun m hm => State.privReg_unlisted _ _ _ hm⟩
    · rw [(hreg n (plainReg_not_slotReg hn)).2]
      exact (Thread.reg_setReg x lead stale n v hn h0).trans (if_pos rfl)
    · exact ((hreg 0x40 (plainReg_not_slotReg rfl)).2).trans (Thread.reg_p0 _)
    · rw [(hreg n (by unfold slotReg; omega)).2]
      exact Thread.reg_idx_setReg _ _ _ _ hlo hhi
    · obtain ⟨hold, hnew⟩ := hreg m (plainReg_not_slotReg hp)
      rw [hold, hnew]
      by_cases h0 : m = 0x40
      · rw [h0, Thread.reg_p0, Thread.reg_p0]
      · rw [Thread.reg_setReg x lead stale n v hp h0]
        exact if_neg hm
    · rw [(hreg n (by unfold slotReg; omega)).2]
      exact Thread.reg_fl_setReg _ _ _ hlo hhi hv

end Sys2Proof.Machine
end

section
/-! SUPPORT. Commands (R385, R386): the answer of a command after its effect, a command that waits, and stores by agents without an L1. -/

namespace Sys2Proof.Machine

/-! ### Taking and answering -/

/-- Taking a command moves window registers alone. -/
theorem State.takeCmd_win (s : State) (c : Cmd) : s.takeCmd c = { s with win := (s.takeCmd c).win } := by
  unfold State.takeCmd
  cases c.source <;> rfl

theorem State.takeCmd_win_congr {s t : State} (c : Cmd) (h : t.win = s.win) : (t.takeCmd c).win = (s.takeCmd c).win := by
  unfold State.takeCmd State.setWin State.winReg
  rw [h]
  cases c.source <;> simp only [h]

theorem State.cmdWrote_congr {s t : State} (c : Cmd) (h : t.win = s.win) : t.cmdWrote c = s.cmdWrote c := by
  unfold State.cmdWrote State.winReg
  rw [h]

theorem State.Responds.congr {s s' t : State} {c : Cmd} {status : Nat} {results : List Nat} {tail : List Byte}
    (h : s'.Responds t c status results tail) (hwin : s'.win = s.win) (hresps : s'.resps = s.resps) (hmsis : s'.msis = s.msis) :
    s.Responds t c status results tail := by
  have hreg (o : Nat) : s'.winReg o = s.winReg o := by unfold State.winReg; rw [hwin]
  have hslot : s'.respSlot = s.respSlot := by unfold State.respSlot; rw [hreg]
  obtain ⟨h1, h2, h3, h4, h5⟩ := h
  refine ⟨by rw [h1, hresps], ?_, by rw [h3, State.cmdWrote_congr c hwin], ?_, by rw [h5, hmsis]⟩
  · rw [← hslot]; exact h2
  · simpa only [hslot, hreg] using h4

theorem State.takeCmd_other {s : State} {c : Cmd} (h : c.source ≠ .os) : s.takeCmd c = s := by
  unfold State.takeCmd
  split
  · next hm => exact absurd hm h
  · rfl

section
variable {s u : State} {c : Cmd}

/-- A command that is answered after its effect: the answer as R385 and R386 say, and nothing else than the effect. -/
theorem State.answered_of (hwin : u.win = (s.takeCmd c).win) (hresps : u.resps = s.resps) (hmsis : u.msis = s.msis) (status : Nat)
    (results : List Nat) (tail : List Byte) : s.Responds (u.respond c status results tail) c status results tail ∧
      s.unsaid (u.respond c status results tail) = { u with win := s.win } := by
  generalize hs : ({ u with win := s.win } : State) = s'
  have hswin : s'.win = s.win := by rw [← hs]
  have hsresps : s'.resps = s.resps := by rw [← hs]; exact hresps
  have hsmsis : s'.msis = s.msis := by rw [← hs]; exact hmsis
  have hu : s'.takeCmd c = u := by
    rw [State.takeCmd_win, State.takeCmd_win_congr c hswin, ← hwin, ← hs]
  obtain ⟨hr, hun⟩ := s'.answered c status results tail
  rw [hu] at hr hun
  refine ⟨hr.congr hswin hsresps hsmsis, ?_⟩
  rw [← hun, State.unsaid, State.unsaid, hswin, hsresps, hsmsis]

/-- A command that waits for its effect (R385). -/
theorem State.held_of (hwin : u.win = (s.takeCmd c).win) (hresps : u.resps = s.resps) (hmsis : u.msis = s.msis) (hcmds : u.cmds = s.cmds)
    (hnow : u.now = s.now) (n : Nat) (l : List Nat) : s.Held (u.hold c n l) c n := by
  have hreg (o : Nat) : (u.hold c n l).winReg o = (s.takeCmd c).winReg o := by unfold State.winReg State.hold; rw [hwin]
  refine ⟨⟨l, by rw [State.hold, hcmds, hnow]⟩, hresps, ?_, fun o ho => ?_, hmsis⟩
  · rw [hreg]
    by_cases h : c.source = .os
    · exact (s.takeCmd_os c h).2.1
    · unfold State.cmdWrote
      rw [if_neg (fun k => h k.1)]
      rw [State.takeCmd_other h]
  · rw [hreg]
    by_cases h : c.source = .os
    · rw [(s.takeCmd_os c h).2.2 o ho]
      simp only [h, true_and]
    · rw [if_neg (fun k => h k.1)]
      rw [State.takeCmd_other h]

end

/-! ### One partition -/

theorem State.modPart_part (s : State) (p : PartRef) (f : Part → Part) : (s.modPart p f).part p = f (s.part p) := Store.get_set_self ..

theorem State.modPart_part_ne (s : State) {p q : PartRef} (f : Part → Part) (hq : partKey q ≠ partKey p) : (s.modPart p f).part q = s.part q :=
  Store.get_set_ne _ _ _ hq

/-! ### Stores by an agent without an L1 (R94, R314) -/

/-- Of every core only the queued invalidations may change. -/
def State.SameCores (s t : State) : Prop := ∀ c, t.core c = { s.core c with inval := (t.core c).inval }

namespace State.SameCores

variable {s t u : State}

theorem of_cores (h : t.cores = s.cores) : s.SameCores t := fun c => by
  rw [State.core, State.core, h]

theorem trans (h : s.SameCores t) (h' : t.SameCores u) : s.SameCores u := fun c => by rw [h' c, h c]

theorem foldl {α : Type} {f : State → α → State} (hf : ∀ t a, State.SameCores t (f t a)) (l : List α) (s : State) : s.SameCores (l.foldl f s) := by
  induction l generalizing s with
  | nil => exact of_cores rfl
  | cons a l ih => exact (hf s a).trans (ih _)

theorem modCore (s : State) (n : Nat) {F : Core → Core} (hF : ∀ c, F c = { c with inval := (F c).inval }) : s.SameCores (s.modCore n F) := fun c => by
  rw [State.modCore_core]
  split
  · next h => rw [h]; exact hF _
  · rfl

theorem invalidate (s : State) (ar : Option ArenaRef) (line : Nat) : s.SameCores (s.invalidate none ar line) := by
  unfold State.invalidate
  dsimp only
  split
  · exact of_cores rfl
  · refine (foldl (fun t k => ?_) (List.range 64) s).trans (of_cores rfl)
    split
    · refine modCore _ _ fun c => ?_
      split <;> rfl
    · exact of_cores rfl

theorem maskFills (s : State) (a n : Nat) : s.SameCores (s.maskFills a n) := by
  obtain ⟨fl, ab, h⟩ := s.maskFills_eq a n
  rw [h]
  exact of_cores rfl

end State.SameCores

/-- A byte of a place that the store covers, and one of any other. -/
theorem overlay_mem (m : Loc → Byte) (a : Nat) (bs : List Byte) (x : Nat) :
    overlay m (.mem a) bs (.mem x) = if a ≤ x ∧ x < a + bs.length then bs.getD (x - a) 0 else m (.mem x) := by
  unfold overlay
  by_cases h : a ≤ x ∧ x < a + bs.length
  · have hfind : (List.range bs.length).find? (fun k => (Loc.mem a).plus k == Loc.mem x) = some (x - a) := by
      rw [List.find?_range_eq_some]
      refine ⟨beq_iff_eq.2 (congrArg Loc.mem (by omega)), List.mem_range.2 (by omega), fun j hj => ?_⟩
      simp only [Loc.plus, Bool.not_eq_true', beq_eq_false_iff_ne, ne_eq, Loc.mem.injEq]
      omega
    rw [hfind, if_pos h]
  · have hfind : (List.range bs.length).find? (fun k => (Loc.mem a).plus k == Loc.mem x) = none := by
      rw [List.find?_eq_none]
      intro k hk
      have := List.mem_range.1 hk
      simp only [Loc.plus, beq_iff_eq, Loc.mem.injEq]
      omega
    rw [hfind, if_neg h]

theorem State.peekN_mem {s t : State} (h : t.mem = s.mem) (a n : Nat) : t.peekN (.mem a) n = s.peekN (.mem a) n := by
  unfold State.peekN State.peek Loc.plus
  rw [h]

theorem State.announce_same (s : State) (w : Option Nat) (ar : Option ArenaRef) (l : Loc) (n : Nat) :
    (s.announce w ar l n).writes = s.writes ∧ (s.announce w ar l n).hist = s.hist ∧ (s.announce w ar l n).mem = s.mem := by
  obtain ⟨cs, sh, fl, ab, h⟩ := s.announce_eq w ar l n
  rw [h]
  exact ⟨rfl, rfl, rfl⟩

theorem State.homeWrite_hist (s : State) (w : Option Nat) (ar : Option ArenaRef) (a : Nat) (bs : List Byte) :
    (s.homeWrite w ar (.mem a) bs).hist = ⟨s.writes, w, .mem a, s.peekN (.mem a) bs.length⟩ :: s.hist := by
  obtain ⟨hw, hh, hm⟩ := s.announce_same w ar (.mem a) bs.length
  rw [← State.peekN_mem hm, ← hw, ← hh]
  rfl

theorem homeWrite_cores (s : State) (w : Option Nat) (ar : Option ArenaRef) (a : Nat) (bs : List Byte) :
    (s.homeWrite w ar (.mem a) bs).cores = (s.announce w ar (.mem a) bs.length).cores := rfl

theorem State.homeWrite_core (s : State) (a : Nat) (bs : List Byte) : s.SameCores (s.homeWrite none none (.mem a) bs) := by
  have hann : s.SameCores (s.announce none none (.mem a) bs.length) :=
    (State.SameCores.foldl (fun t k => .invalidate t none k) (unitsOf 128 a bs.length) s).trans (State.SameCores.maskFills _ a bs.length)
  exact hann.trans (.of_cores (homeWrite_cores ..))

theorem State.homeWrite_poked (s : State) (a : Nat) (bs : List Byte) : s.Poked (s.homeWrite none none (.mem a) bs) a bs := by
  have hmem (x : Nat) : (s.homeWrite none none (.mem a) bs).peek (.mem x) = overlay s.peek (.mem a) bs (.mem x) := by
    rw [State.peek_homeWrite, overlay_mem]
  have hhist := s.homeWrite_hist none none a bs
  have hcores := s.homeWrite_core a bs
  obtain ⟨cs, sh, fl, ab, hi, po, e⟩ := s.homeWrite_mem_eq none none a bs
  generalize s.homeWrite none none (.mem a) bs = t at *
  refine ⟨hmem, ?_, ⟨?_, hhist⟩, hcores⟩
  · rw [e]
  · rw [e]

end Sys2Proof.Machine
end

section
/-! SUPPORT. Killed tasks and crews (R379). -/

namespace Sys2Proof.Machine

/-! ### Maps whose values all change -/

/-- An entry of a map whose values change. -/
theorem Store.get_map_of_ne {α : Type} {d : α} {m : Store α} (g : α → α) {k : Nat} (h : Store.get d m k ≠ d) :
    Store.get d (m.map fun e => (e.1, g e.2)) k = g (Store.get d m k) := by
  induction m with
  | nil => exact absurd rfl h
  | cons e m ih =>
    obtain ⟨j, x⟩ := e
    by_cases hj : j = k
    · simp only [List.map_cons, Store.get, hj, if_true]
    · simp only [List.map_cons, Store.get, hj, if_false] at h ⊢
      exact ih h

/-- An entry that a map in canonical form lists is what it holds at its key. -/
theorem Store.get_of_mem_wf {α : Type} [DecidableEq α] {d : α} {m : Store α} {b : Nat} (h : Store.wfFrom d b m = true) {e : Nat × α} (he : e ∈ m) :
    b ≤ e.1 ∧ Store.get d m e.1 = e.2 := by
  induction m generalizing b with
  | nil => exact absurd he List.not_mem_nil
  | cons x m ih =>
    obtain ⟨j, v⟩ := x
    simp only [Store.wfFrom, Bool.and_eq_true, decide_eq_true_eq] at h
    obtain ⟨⟨hb, -⟩, hm⟩ := h
    rcases List.mem_cons.1 he with rfl | he
    · exact ⟨hb, by simp only [Store.get, if_true]⟩
    · obtain ⟨hle, hget⟩ := ih hm he
      refine ⟨by omega, ?_⟩
      simp only [Store.get]
      rw [if_neg (by omega), hget]

/-- What a map holds at a key that is not the default is an entry of it. -/
theorem Store.mem_of_get_ne {α : Type} {d : α} {m : Store α} {k : Nat} (h : Store.get d m k ≠ d) : (k, Store.get d m k) ∈ m := by
  induction m with
  | nil => exact absurd rfl h
  | cons x m ih =>
    obtain ⟨j, v⟩ := x
    by_cases hj : j = k
    · simp only [Store.get, hj, if_true]; exact List.mem_cons_self ..
    · simp only [Store.get, hj, if_false] at h ⊢
      exact List.mem_cons_of_mem _ (ih h)

/-! ### Tasks -/

theorem taskKey_inj {d d' n n' : Nat} (h : n < 2 ^ 32) (h' : n' < 2 ^ 32) : taskKey d n = taskKey d' n' ↔ d = d' ∧ n = n' := by
  unfold taskKey
  omega

/-- Kills and nothing else but the journal. -/
structure State.KilledOnly (s t : State) (ldev : Nat) (hit : Nat → Bool) (status : Nat) (k : KillCause) : Prop where
  tasks : ∀ d n, n < 2 ^ 32 → t.task d n = if d = ldev ∧ hit n = true ∧ (s.task d n).st = .running
    then { s.task d n with st := .ending, status := status } else s.task d n
  crews : ∀ u, (s.crew u).st ≠ .retired → (s.crew u).task < 2 ^ 32 → t.crew u =
    if (s.crew u).ldev = ldev ∧ hit (s.crew u).task = true ∧ (s.task (s.crew u).ldev (s.crew u).task).st = .running ∧ (s.crew u).cause = none
      then { s.crew u with cause := some k } else s.crew u
  package : t = { s with tasks := t.tasks, crews := t.crews, journal := t.journal, head := t.head }

theorem State.KilledOnly.killed {s t u : State} {ldev : Nat} {hit : Nat → Bool} {status : Nat} {k : KillCause} {c : Cmd} {n : Nat} {l : List Nat}
    (h : (s.takeCmd c).KilledOnly t ldev hit status k) (hu : u = t.hold c n l) : s.Killed u ldev hit status k := by
  have htake := s.takeCmd_win c
  obtain ⟨htasks, hcrews, hpack⟩ := h
  rw [htake] at htasks hcrews hpack
  subst hu
  exact ⟨htasks, hcrews, by rw [State.hold, hpack]⟩

section
variable {s t u : State} {ldev status : Nat} {k : KillCause}

theorem State.KilledOnly.idle (h : ∀ n, n < 2 ^ 32 → (s.task ldev n).st = .running → hit n = false) : s.KilledOnly s ldev hit status k := by
  refine ⟨fun d n hn => (if_neg ?_).symm, fun u _ ht => (if_neg ?_).symm, rfl⟩
  · rintro ⟨rfl, hh, hr⟩
    rw [h n hn hr] at hh
    cases hh
  · rintro ⟨hl, hh, hr, -⟩
    rw [hl] at hr
    rw [h _ ht hr] at hh
    cases hh

theorem State.KilledOnly.congr {hit hit' : Nat → Bool} (h : s.KilledOnly t ldev hit status k)
    (hc : ∀ n, n < 2 ^ 32 → (s.task ldev n).st = .running → hit' n = hit n) : s.KilledOnly t ldev hit' status k := by
  obtain ⟨htasks, hcrews, hpack⟩ := h
  refine ⟨fun d n hn => (htasks d n hn).trans (ite_congr (propext ?_) (fun _ => rfl) fun _ => rfl), fun u hs ht =>
    (hcrews u hs ht).trans (ite_congr (propext ?_) (fun _ => rfl) fun _ => rfl), hpack⟩
  · constructor
    · rintro ⟨rfl, hh, hr⟩; exact ⟨rfl, by rw [hc n hn hr, hh], hr⟩
    · rintro ⟨rfl, hh, hr⟩; exact ⟨rfl, by rw [← hc n hn hr, hh], hr⟩
  · constructor
    · rintro ⟨hl, hh, hr, h0⟩; exact ⟨hl, by rw [hc _ ht (by rw [← hl]; exact hr), hh], hr, h0⟩
    · rintro ⟨hl, hh, hr, h0⟩; exact ⟨hl, by rw [← hc _ ht (by rw [← hl]; exact hr), hh], hr, h0⟩

/-- A crew that has been named by a kill is still the same crew. -/
theorem State.KilledOnly.trans {h1 h2 : Nat → Bool} (h : s.KilledOnly t ldev h1 status k) (h' : t.KilledOnly u ldev h2 status k) :
    s.KilledOnly u ldev (fun n => h1 n || h2 n) status k := by
  obtain ⟨htasks, hcrews, hpack⟩ := h
  obtain ⟨htasks', hcrews', hpack'⟩ := h'
  refine ⟨fun d n hn => ?_, fun v hs ht => ?_, by rw [hpack', hpack]⟩
  · rw [htasks' d n hn, htasks d n hn]
    by_cases hd : d = ldev
    · by_cases hr : (s.task d n).st = .running
      · cases h1 n <;> cases h2 n <;> simp [hd, hd ▸ hr]
      · simp [hr]
    · simp [hd]
  · have hc := hcrews v hs ht
    have hst : (t.crew v).st = (s.crew v).st ∧ (t.crew v).task = (s.crew v).task ∧ (t.crew v).ldev = (s.crew v).ldev := by
      rw [hc]; split <;> exact ⟨rfl, rfl, rfl⟩
    rw [hcrews' v (by rwa [hst.1]) (by rwa [hst.2.1]), hst.2.1, hst.2.2, htasks _ _ ht, hc]
    by_cases hP : (s.crew v).ldev = ldev ∧ h1 (s.crew v).task = true ∧ (s.task (s.crew v).ldev (s.crew v).task).st = .running
    · rw [if_pos hP, if_neg (fun hx => nomatch hx.2.2.1)]
      refine ite_congr (propext ?_) (fun _ => rfl) fun _ => rfl
      rw [hP.2.1, Bool.true_or]
    · have hP' : ¬ ((s.crew v).ldev = ldev ∧ h1 (s.crew v).task = true ∧ (s.task (s.crew v).ldev (s.crew v).task).st = .running ∧ (s.crew v).cause = none) :=
        fun hx => hP ⟨hx.1, hx.2.1, hx.2.2.1⟩
      rw [if_neg hP, if_neg hP']
      refine ite_congr (propext ⟨fun ⟨hl, hh, hr, h0⟩ => ⟨hl, by rw [hh, Bool.or_true], hr, h0⟩, fun ⟨hl, hh, hr, h0⟩ => ⟨hl, ?_, hr, h0⟩⟩) (fun _ => rfl) fun _ => rfl
      exact (Bool.or_eq_true_iff.1 hh).resolve_left fun hx => hP ⟨hl, hx, hr⟩

theorem State.modTask_task (s : State) (ldev n : Nat) (f : Task → Task) (d m : Nat) :
    (s.modTask ldev n f).task d m = if taskKey d m = taskKey ldev n then f (s.task ldev n) else s.task d m := by
  simp only [State.task, State.modTask, Store.get_set]

/-- A crew that a kill of task `n` may name. -/
def Crew.killedBy (c : Crew) (ldev n : Nat) (k : KillCause) : Crew :=
  if c.ldev == ldev && c.task == n && c.cause.isNone then { c with cause := some k } else c

theorem State.killCrews_crews (s : State) (src ldev n : Nat) (k : KillCause) :
    (s.killCrews src ldev n k).crews = s.crews.map fun e => (e.1, e.2.killedBy ldev n k) := by
  refine List.map_congr_left fun e _ => ?_
  unfold Crew.killedBy
  split <;> rfl

/-- One task is killed (R379). -/
theorem State.killTask_only (src n : Nat) (hn : n < 2 ^ 32) : s.KilledOnly (s.killTask src ldev n status k) ldev (· == n) status k := by
  unfold State.killTask
  by_cases hr : (s.task ldev n).st = .running
  · rw [if_neg (by rw [hr]; decide)]
    refine ⟨fun d m hm => ?_, fun v hs ht => ?_, rfl⟩
    · have hget := State.modTask_task (s.killCrews src ldev n k) ldev n (fun t => { t with st := .ending, status := status }) d m
      rw [hget]
      by_cases hk : taskKey d m = taskKey ldev n
      · obtain ⟨rfl, rfl⟩ := (taskKey_inj hm hn).1 hk
        rw [if_pos hk, if_pos ⟨rfl, beq_self_eq_true _, hr⟩]
        rfl
      · refine (if_neg hk).trans (if_neg ?_).symm
        rintro ⟨rfl, hh, -⟩
        exact hk (by rw [eq_of_beq hh])
    · have hmap : ((s.killCrews src ldev n k).modTask ldev n fun t => { t with st := .ending, status := status }).crew v =
          (s.crew v).killedBy ldev n k := by
        show Store.get {} (s.killCrews src ldev n k).crews v = _
        rw [State.killCrews_crews]
        exact Store.get_map_of_ne (Crew.killedBy · ldev n k) fun h0 => hs (by rw [State.crew, h0])
      rw [hmap, Crew.killedBy]
      refine ite_congr (propext ?_) (fun _ => rfl) fun _ => rfl
      simp only [Bool.and_eq_true, beq_iff_eq, Option.isNone_iff_eq_none]
      constructor
      · rintro ⟨⟨hl, hm⟩, h0⟩; exact ⟨hl, hm, by rw [hl, hm]; exact hr, h0⟩
      · rintro ⟨hl, hm, -, h0⟩; exact ⟨⟨hl, hm⟩, h0⟩
  · rw [if_pos (by simpa using hr)]
    refine .idle fun m _ hm => beq_eq_false_iff_ne.2 fun he => hr (by rw [← he]; exact hm)

theorem State.killTasks_only (src : Nat) (l : List Nat) (hl : ∀ n ∈ l, n < 2 ^ 32) (s : State) :
    s.KilledOnly (l.foldl (fun s n => s.killTask src ldev n status k) s) ldev (fun n => l.contains n) status k := by
  induction l generalizing s with
  | nil => exact .idle fun _ _ _ => rfl
  | cons n l ih =>
    refine ((State.killTask_only src n (hl n (List.mem_cons_self ..))).trans (ih (fun m hm => hl m (List.mem_cons_of_mem _ hm)) _)).congr fun m _ _ => ?_
    rw [List.contains_cons]

/-- A kill leaves the clock, the commands and the answers alone. -/
theorem State.KilledOnly.same {hit : Nat → Bool} (h : s.KilledOnly t ldev hit status k) :
    t.win = s.win ∧ t.resps = s.resps ∧ t.msis = s.msis ∧ t.cmds = s.cmds ∧ t.now = s.now ∧ t.change = s.change := by
  rw [h.package]
  exact ⟨rfl, rfl, rfl, rfl, rfl, rfl⟩

end

end Sys2Proof.Machine
end

section
/-! SUPPORT. O48: ownership, kills, limits, power, interrupts and the journal. -/

namespace Sys2Proof.Machine

/-! ### A command that its frame admits -/

theorem State.Admits.ranged {s : State} {c : Cmd} {r : CmdRule} (h : s.Admits c r) (b : Bool) : s.Admits c { r with range := b } :=
  ⟨h.heard, h.record, h.room, h.issuer, h.signed, h.scope, h.live⟩

section
variable {s : State} {c : Cmd} {i : Instr} {r : CmdRule} {go : State → State}

/-- A command acts in the state that has taken it. -/
theorem State.cmd_gives {P : State → Prop} (he : exec i s = cmdFrame r c s go) (h : s.Admits c { r with range := true }) (hr : r.range = true)
    (hP : ∀ w, w = (s.takeCmd c).win → P (go { s with win := w })) : s.gives i P := by
  have h' : s.Admits c r := ⟨h.heard, h.record, h.room, h.issuer, h.signed, h.scope, h.live⟩
  refine ⟨go (s.takeCmd c), by rw [he, cmdFrame_admits h' hr], ?_⟩
  rw [s.takeCmd_win c]
  exact hP _ rfl

/-- A command that is answered after its effect `g`. -/
theorem State.cmd_acts {P : State → Prop} (he : exec i s = cmdFrame r c s go) (h : s.Admits c { r with range := true }) (hr : r.range = true)
    (g : Store DWord → State) (status : Nat) (results : List Nat) (tail : List Byte) (hgo : ∀ w, go { s with win := w } = (g w).respond c status results tail)
    (hg : ∀ w, (g w).win = w ∧ (g w).resps = s.resps ∧ (g w).msis = s.msis)
    (hP : ∀ w t, s.Responds t c status results tail → s.unsaid t = { g w with win := s.win } → P t) : s.gives i P :=
  State.cmd_gives he h hr fun w hw => by
    obtain ⟨h1, h2, h3⟩ := hg w
    obtain ⟨hresp, hun⟩ := State.answered_of (s := s) (c := c) (u := g w) (h1.trans hw) h2 h3 status results tail
    rw [hgo w]
    exact hP w _ hresp hun

/-- A command that is only answered. -/
theorem State.cmd_only (he : exec i s = cmdFrame r c s go) (h : s.Admits c { r with range := true }) (hr : r.range = true) {status : Nat} {results : List Nat}
    {tail : List Byte} (hgo : ∀ w, go { s with win := w } = State.respond { s with win := w } c status results tail) :
    s.gives i fun t => s.Responds t c status results tail ∧ s.unsaid t = s :=
  State.cmd_gives he h hr fun w hw => by
    rw [hgo w]
    exact State.answered_of (u := { s with win := w }) hw rfl rfl status results tail

end

/-! ### Ownership (R383, R384) -/

/-- A grant of ownership. -/
structure State.Granted (s t : State) (m : Master) (how from_ : Nat) : Prop where
  owner : t.owner = some m
  claims : t.claims = []
  window : t.windowOpen = false
  record : s.Logged t 6 from_ 0xFF 0xFF [ownerCode s.owner, masterCode m, how]
  rest : s.unsaid t = { s with owner := t.owner, claims := t.claims, windowOpen := t.windowOpen, journal := t.journal, head := t.head }

/-- What an owner's answer says of the state behind it. -/
theorem State.granted_of {s t : State} {w : Store DWord} {m : Master} {how src : Nat}
    (hun : s.unsaid t = { State.grant { s with win := w } m how src with win := s.win }) : s.Granted t m how src := by
  have ho : t.owner = some m := (congrArg State.owner hun :)
  have hc : t.claims = [] := (congrArg State.claims hun :)
  have hw : t.windowOpen = false := (congrArg State.windowOpen hun :)
  have hh : t.head = s.head + 1 := (congrArg State.head hun :)
  obtain ⟨⟨-, hlast, hold⟩, -⟩ := s.log_logged 6 src 0xFF 0xFF [ownerCode s.owner, masterCode m, how]
  have hj : t.journal = (s.log 6 src 0xFF 0xFF [ownerCode s.owner, masterCode m, how]).journal := (congrArg State.journal hun :)
  refine ⟨ho, hc, hw, ⟨hh, by rw [hj]; exact hlast, by rw [hj]; exact hold⟩, ?_⟩
  rw [hun, ho, hc, hw, hh, hj]
  rfl

section
variable {s : State} {c : Cmd}

theorem claim_owner (h : s.Admits c { op := 0x01, who := .any, signed := true, scope := 0 }) (ho : s.owner = some c.source) :
    s.gives (.claim c) fun t => s.Responds t c 0 [1] ∧ s.unsaid t = s := by
  have he : exec (.claim c) s = execClaim c s := rfl
  refine State.cmd_only he h rfl fun w => ?_
  rw [if_pos (by simp [ho])] <;> rfl

theorem claim_denied (h : s.Admits c { op := 0x01, who := .any, signed := true, scope := 0 }) {m : Master} (ho : s.owner = some m) (hm : m ≠ c.source) :
    s.gives (.claim c) fun t => s.Responds t c 1 [] ∧ s.unsaid t = s := by
  have he : exec (.claim c) s = execClaim c s := rfl
  refine State.cmd_only he h rfl fun w => ?_
  rw [if_neg (by simpa [ho] using hm), if_pos (by simp [ho])] <;> rfl

theorem claim_granted (h : s.Admits c { op := 0x01, who := .any, signed := true, scope := 0 }) (ho : s.owner = none)
    (hfirst : s.cfg.priority.head? = some c.source ∨ s.windowOpen = false) :
    s.gives (.claim c) fun t => s.Responds t c 0 [1] ∧ s.Granted t c.source 1 (masterCode c.source) := by
  have he : exec (.claim c) s = execClaim c s := rfl
  refine State.cmd_acts he h rfl (fun w => State.grant { s with win := w } c.source 1 (masterCode c.source)) 0 [1] [] (fun w => ?_) (fun w => ⟨rfl, rfl, rfl⟩)
    fun w t hr hun => ⟨hr, State.granted_of hun⟩
  dsimp only
  rw [if_neg (by simp [ho]), if_neg (by simp [ho]), if_pos (by rcases hfirst with hf | hf <;> simp [hf])]
  rfl

theorem claim_noted (h : s.Admits c { op := 0x01, who := .any, signed := true, scope := 0 }) (ho : s.owner = none)
    (hfirst : s.cfg.priority.head? ≠ some c.source) (hopen : s.windowOpen = true) :
    s.gives (.claim c) fun t => s.Responds t c 0 [0] ∧ c.source ∈ t.claims ∧ (∀ m ∈ s.claims, m ∈ t.claims) ∧
      s.unsaid t = { s with claims := t.claims } := by
  have he : exec (.claim c) s = execClaim c s := rfl
  refine State.cmd_acts he h rfl (fun w => { s with win := w, claims := if s.claims.contains c.source then s.claims else s.claims ++ [c.source] })
    0 [0] [] (fun w => ?_) (fun w => ⟨rfl, rfl, rfl⟩) fun w t hr hun => ?_
  · dsimp only
    rw [if_neg (by simp [ho]), if_neg (by simp [ho]), if_neg (by simp [hfirst, hopen])]
    by_cases hin : s.claims.contains c.source = true
    · rw [if_pos hin, if_pos hin]; rfl
    · rw [if_neg hin, if_neg hin]; rfl
  · have hc : t.claims = if s.claims.contains c.source then s.claims else s.claims ++ [c.source] := (congrArg State.claims hun :)
    refine ⟨hr, ?_, fun m hm => ?_, by rw [hun, hc]⟩
    · rw [hc]
      split
      · next hin => exact List.contains_iff_mem.1 hin
      · simp
    · rw [hc]
      split
      · exact hm
      · exact List.mem_append_left _ hm

/-- The owner that a hand-over names. -/
theorem newOwner_eq {m : Master} (h : cArgN c 0 % 4 = masterCode m) : newOwner c = some m := by
  have hbits : bits (cArgN c 0) 0 2 = masterCode m := by rw [← h]; unfold bits; omega
  unfold newOwner
  rw [hbits]
  cases m <;> rfl

theorem handover_grants {m : Master} (h : s.Admits c { op := 0x02, signed := true, scope := 0 }) (hm : cArgN c 0 % 4 = masterCode m) :
    s.gives (.handover c) fun t => s.Responds t c 0 [] ∧ s.Granted t m 2 (masterCode c.source) := by
  have he : exec (.handover c) s = execHandover c s := rfl
  refine State.cmd_acts he h (by rw [newOwner_eq hm]; rfl) (fun w => State.grant { s with win := w } m 2 (masterCode c.source)) 0 [] [] (fun w => ?_)
    (fun w => ⟨rfl, rfl, rfl⟩) fun w t hr hun => ⟨hr, State.granted_of hun⟩
  rw [newOwner_eq hm]
  rfl

theorem override_grants {m : Master} (h : s.Admits c { op := 0x03, who := .mgmt, signed := true, scope := 0 }) (hm : cArgN c 0 % 4 = masterCode m) :
    s.gives (.override c) fun t => s.Responds t c 0 [] ∧ s.Granted t m 3 (masterCode c.source) := by
  have he : exec (.override c) s = execOverride c s := rfl
  refine State.cmd_acts he h (by rw [newOwner_eq hm]; rfl) (fun w => State.grant { s with win := w } m 3 (masterCode c.source)) 0 [] [] (fun w => ?_)
    (fun w => ⟨rfl, rfl, rfl⟩) fun w t hr hun => ⟨hr, State.granted_of hun⟩
  rw [newOwner_eq hm]
  rfl

/-- The election window is over (R383). -/
def State.windowPast (s : State) : Prop := s.windowOpen = true ∧ s.windowNs + s.cfg.windowSec * 1000000000 ≤ s.now

theorem windowPast_iff : (s.windowOpen && decide (s.windowNs + s.cfg.windowSec * 1000000000 ≤ s.now)) = true ↔ s.windowPast := by
  rw [Bool.and_eq_true, decide_eq_true_eq, State.windowPast]

theorem window_open (h : ¬ s.windowPast) : s.gives .electionWindowEnd (· = s) :=
  ⟨s, congrArg Host.Outcome.next (if_neg (mt windowPast_iff.1 h)), rfl⟩

theorem window_none (h : s.windowPast) (hno : ∀ m ∈ s.cfg.priority, m ∉ s.claims) :
    s.gives .electionWindowEnd (· = { s with windowOpen := false }) := by
  have hfirst : s.firstOf s.claims = none := List.find?_eq_none.2 fun m hm hin => hno m hm (List.contains_iff_mem.1 hin)
  refine ⟨_, congrArg Host.Outcome.next (if_pos (windowPast_iff.2 h)), ?_⟩
  rw [hfirst]

theorem window_grants {hi lo : List Master} {m : Master} (h : s.windowPast) (hp : s.cfg.priority = hi ++ m :: lo) (hhi : ∀ x ∈ hi, x ∉ s.claims)
    (hm : m ∈ s.claims) : s.gives .electionWindowEnd fun t => s.Granted t m 1 0 ∧ t.resps = s.resps ∧ t.win = s.win ∧ t.msis = s.msis := by
  have hfirst : s.firstOf s.claims = some m := by
    unfold State.firstOf
    rw [hp, List.find?_append, List.find?_eq_none.2 fun x hx hin => hhi x hx (List.contains_iff_mem.1 hin), List.find?_cons_of_pos (List.contains_iff_mem.2 hm)]
    rfl
  refine ⟨_, congrArg Host.Outcome.next (if_pos (windowPast_iff.2 h)), ?_⟩
  rw [hfirst]
  exact ⟨State.granted_of (w := s.win) rfl, rfl, rfl, rfl⟩

/-! ### Kills (R379, R387) -/

theorem State.killed_held {w : Store DWord} (hw : w = (s.takeCmd c).win) {u : State} {ldev status : Nat} {hit : Nat → Bool} {k : KillCause}
    (h : State.KilledOnly { s with win := w } u ldev hit status k) (n : Nat) :
    s.Held (u.hold c n []) c n ∧ s.Killed (u.hold c n []) ldev hit status k ∧ (u.hold c n []).change = s.change := by
  obtain ⟨h1, h2, h3, h4, h5, h6⟩ := h.same
  refine ⟨State.held_of (h1.trans hw) h2 h3 h4 h5 n [], ?_, h6⟩
  refine State.KilledOnly.killed (c := c) (n := n) (l := []) ?_ rfl
  rw [s.takeCmd_win c, ← hw]
  exact h

theorem killtask_unknown (h : s.Admits c { op := 0x21, scope := 1 }) (hn : cArgN c 0 = 0 ∨ Store.get 0 s.nextTask c.ldev.toNat < cArgN c 0) :
    s.gives (.killtask c) fun t => s.Responds t c 8 [] ∧ s.unsaid t = s := by
  have he : exec (.killtask c) s = execKilltask c s := rfl
  refine State.cmd_only he h rfl fun w => ?_
  dsimp only
  rw [if_pos (by simpa using hn)]
  rfl

theorem killtask_running (h : s.Admits c { op := 0x21, scope := 1 }) (h0 : cArgN c 0 ≠ 0) (hle : cArgN c 0 ≤ Store.get 0 s.nextTask c.ldev.toNat)
    (hlt : cArgN c 0 < 2 ^ 32) (hst : (s.task c.ldev.toNat (cArgN c 0)).st = .running) : s.gives (.killtask c) fun t =>
      s.Held t c (cArgN c 0) ∧ s.Killed t c.ldev.toNat (· == cArgN c 0) 6 .command ∧ t.change = s.change := by
  have he : exec (.killtask c) s = execKilltask c s := rfl
  refine State.cmd_gives he h rfl fun w hw => ?_
  dsimp only
  rw [if_neg (by simp; omega), show (State.task { s with win := w } c.ldev.toNat (cArgN c 0)).st = .running from hst]
  exact State.killed_held hw (State.killTask_only _ _ hlt) _

theorem killtask_ending (h : s.Admits c { op := 0x21, scope := 1 }) (h0 : cArgN c 0 ≠ 0) (hle : cArgN c 0 ≤ Store.get 0 s.nextTask c.ldev.toNat)
    (hst : (s.task c.ldev.toNat (cArgN c 0)).st = .ending) : s.gives (.killtask c) fun t =>
      s.Held t c (cArgN c 0) ∧ t = { s with cmds := t.cmds, win := t.win } := by
  have he : exec (.killtask c) s = execKilltask c s := rfl
  refine State.cmd_gives he h rfl fun w hw => ?_
  dsimp only
  rw [if_neg (by simp; omega), show (State.task { s with win := w } c.ldev.toNat (cArgN c 0)).st = .ending from hst]
  exact ⟨State.held_of (u := { s with win := w }) hw rfl rfl rfl rfl _ [], rfl⟩

theorem killtask_over (h : s.Admits c { op := 0x21, scope := 1 }) (h0 : cArgN c 0 ≠ 0) (hle : cArgN c 0 ≤ Store.get 0 s.nextTask c.ldev.toNat)
    (hr : (s.task c.ldev.toNat (cArgN c 0)).st ≠ .running) (hend : (s.task c.ldev.toNat (cArgN c 0)).st ≠ .ending) :
    s.gives (.killtask c) fun t => s.Responds t c 0 [] ∧ s.unsaid t = s := by
  have he : exec (.killtask c) s = execKilltask c s := rfl
  refine State.cmd_only he h rfl fun w => ?_
  dsimp only
  rw [if_neg (by simp; omega)]
  split
  · next hst => exact absurd hst hr
  · next hst => exact absurd hst hend
  · rfl

theorem State.taskEntry {d n : Nat} (hwf : Store.wf {} s.tasks = true) (hn : n < 2 ^ 32) {e : Nat × Task} (he : e ∈ s.tasks) (hd : e.1 / 2 ^ 32 = d)
    (hno : taskNo e.1 = n) : s.task d n = e.2 := by
  have hkey : taskKey d n = e.1 := by unfold taskKey taskNo at *; omega
  rw [State.task, hkey]
  exact (Store.get_of_mem_wf hwf he).2

/-- The running tasks of a partition. -/
theorem State.mem_partTasks (hwf : Store.wf {} s.tasks = true) (p : PartRef) {n : Nat} (hn : n < 2 ^ 32) :
    n ∈ s.partTasks p ↔ (s.task p.ldev n).st = .running ∧ (s.task p.ldev n).part = p.part := by
  simp only [State.partTasks, List.mem_map, List.mem_filter, Bool.and_eq_true, beq_iff_eq]
  constructor
  · rintro ⟨e, ⟨he, ⟨hd, hp⟩, hr⟩, hno⟩
    rw [State.taskEntry hwf hn he hd hno]
    exact ⟨hr, hp⟩
  · rintro ⟨hr, hp⟩
    have hne : s.task p.ldev n ≠ {} := fun h0 => by rw [h0] at hr; cases hr
    refine ⟨_, ⟨Store.mem_of_get_ne hne, ⟨?_, hp⟩, hr⟩, ?_⟩
    · show taskKey p.ldev n / 2 ^ 32 = p.ldev
      unfold taskKey; omega
    · show taskKey p.ldev n % 2 ^ 32 = n
      unfold taskKey; omega

theorem State.partTasks_lt (p : PartRef) : ∀ n ∈ s.partTasks p, n < 2 ^ 32 := by
  intro n hn
  obtain ⟨e, -, rfl⟩ := List.mem_map.1 hn
  exact Nat.mod_lt _ (by decide)

/-- Some task of the partition is ending. -/
theorem State.anyEnding_iff (hwf : Store.wf {} s.tasks = true) (p : PartRef) :
    (s.tasks.any fun e => e.1 / 2 ^ 32 == p.ldev && e.2.part == p.part && e.2.st == .ending) = true ↔
      ∃ n, n < 2 ^ 32 ∧ (s.task p.ldev n).st = .ending ∧ (s.task p.ldev n).part = p.part := by
  simp only [List.any_eq_true, Bool.and_eq_true, beq_iff_eq]
  constructor
  · rintro ⟨e, he, ⟨hd, hp⟩, hr⟩
    have hn : taskNo e.1 < 2 ^ 32 := Nat.mod_lt _ (by decide)
    refine ⟨taskNo e.1, hn, ?_⟩
    rw [State.taskEntry hwf hn he hd rfl]
    exact ⟨hr, hp⟩
  · rintro ⟨n, hn, hr, hp⟩
    have hne : s.task p.ldev n ≠ {} := fun h0 => by rw [h0] at hr; cases hr
    refine ⟨_, Store.mem_of_get_ne hne, ⟨?_, hp⟩, hr⟩
    show taskKey p.ldev n / 2 ^ 32 = p.ldev
    unfold taskKey; omega

/-- A task of the partition that KILLPART waits for. -/
def State.killable (s : State) (p : PartRef) (k : Nat) : Prop := (s.task p.ldev k).st = .running ∨ (s.task p.ldev k).st = .ending

theorem killpart_idle (h : s.Admits c { op := 0x22 }) (hwf : Store.wf {} s.tasks = true)
    (hno : ∀ k, k < 2 ^ 32 → ((s.task (cmdPart c).ldev k).part == (cmdPart c).part) = true →
      (s.task (cmdPart c).ldev k).st ≠ .running ∧ (s.task (cmdPart c).ldev k).st ≠ .ending) :
    s.gives (.killpart c) fun t => s.Responds t c 0 [] ∧ s.unsaid t = s := by
  have he : exec (.killpart c) s = execKillpart c s := rfl
  have htasks : s.partTasks (cmdPart c) = [] := by
    rw [List.eq_nil_iff_forall_not_mem]
    intro n hn
    have hlt := State.partTasks_lt _ n hn
    obtain ⟨hr, hp⟩ := (State.mem_partTasks hwf _ hlt).1 hn
    exact (hno n hlt (beq_iff_eq.2 hp)).1 hr
  have hending : (s.tasks.any fun e => e.1 / 2 ^ 32 == (cmdPart c).ldev && e.2.part == (cmdPart c).part && e.2.st == .ending) = false := by
    refine Bool.eq_false_iff.2 fun ha => ?_
    obtain ⟨n, hlt, hr, hp⟩ := (State.anyEnding_iff hwf _).1 ha
    exact (hno n hlt (beq_iff_eq.2 hp)).2 hr
  refine State.cmd_only he h rfl fun w => ?_
  dsimp only
  rw [show State.partTasks { s with win := w } (cmdPart c) = [] from htasks, hending]
  rfl

theorem killpart_kills (h : s.Admits c { op := 0x22 }) (hwf : Store.wf {} s.tasks = true) {k : Nat} (hk : k < 2 ^ 32)
    (hhit : ((s.task (cmdPart c).ldev k).part == (cmdPart c).part) = true)
    (hst : (s.task (cmdPart c).ldev k).st = .running ∨ (s.task (cmdPart c).ldev k).st = .ending) :
    s.gives (.killpart c) fun t => s.Held t c 0 ∧
      s.Killed t (cmdPart c).ldev (fun k => (s.task (cmdPart c).ldev k).part == (cmdPart c).part) 6 .command ∧ t.change = s.change := by
  have he : exec (.killpart c) s = execKillpart c s := rfl
  have hsome : s.partTasks (cmdPart c) ≠ [] ∨
      (s.tasks.any fun e => e.1 / 2 ^ 32 == (cmdPart c).ldev && e.2.part == (cmdPart c).part && e.2.st == .ending) = true := by
    rcases hst with hr | hr
    · exact .inl (List.ne_nil_of_mem ((State.mem_partTasks hwf _ hk).2 ⟨hr, beq_iff_eq.1 hhit⟩))
    · exact .inr ((State.anyEnding_iff hwf _).2 ⟨k, hk, hr, beq_iff_eq.1 hhit⟩)
  refine State.cmd_gives he h rfl fun w hw => ?_
  have hgo := (State.killTasks_only (ldev := c.ldev.toNat) (status := 6) (k := .command) (masterCode c.source) (s.partTasks (cmdPart c))
    (State.partTasks_lt _) { s with win := w }).congr (hit' := fun k => (s.task (cmdPart c).ldev k).part == (cmdPart c).part) fun n hn hr => by
      rw [Bool.eq_iff_iff, beq_iff_eq, List.contains_iff_mem, State.mem_partTasks hwf _ hn]
      exact ⟨fun hp => ⟨hr, hp⟩, fun hp => hp.2⟩
  have hfin := State.killed_held hw hgo 0
  dsimp only
  rw [show State.partTasks { s with win := w } (cmdPart c) = s.partTasks (cmdPart c) from rfl]
  generalize s.partTasks (cmdPart c) = l at *
  generalize (s.tasks.any fun e => e.1 / 2 ^ 32 == (cmdPart c).ldev && e.2.part == (cmdPart c).part && e.2.st == .ending) = b at *
  cases l with
  | cons n l => exact hfin
  | nil =>
    cases b with
    | true => exact hfin
    | false => exact absurd hsome (by simp)

/-! ### Power (R455) -/

theorem State.logged_of {t : State} {kind src ldev part : Nat} {data : List Nat} (hj : t.journal = (s.log kind src ldev part data).journal)
    (hh : t.head = s.head + 1) : s.Logged t kind src ldev part data := by
  obtain ⟨⟨-, hlast, hold⟩, -⟩ := s.log_logged kind src ldev part data
  exact ⟨hh, by rw [hj]; exact hlast, by rw [hj]; exact hold⟩

/-- Noting which queues wait changes queues alone. -/
theorem State.noteWaits_queues (s : State) (p : PartRef) : ∃ q, s.noteWaits p = { s with queues := q } := by
  have hfold : ∀ (l : List (Nat × Queue)) (u : State), (∃ q, u = { s with queues := q }) → ∃ q, l.foldl (fun s e =>
      (s.noteWait p.ldev e.1 ((List.range 8).any fun l => s.placeable p l e.1 (s.queue p.ldev e.1))).modQueue p.ldev e.1 fun q =>
        if (List.range 8).any fun l => s.placeable p l e.1 (s.queue p.ldev e.1) then q else { q with deficit := 0 }) u = { s with queues := q } := by
    intro l
    induction l with
    | nil => exact fun u h => h
    | cons e l ih =>
      rintro u ⟨q, rfl⟩
      exact ih _ ⟨_, rfl⟩
  exact hfold _ s ⟨s.queues, rfl⟩

section
variable (h : s.Admits c { op := 0x23, scope := if cArgN c 0 = 3 then 0 else 2 })
include h

/-- What the POWER record tells. -/
def State.PowerLogged (s t : State) (c : Cmd) (who was now_ refused : Nat) : Prop :=
  s.Logged t 12 (masterCode c.source) c.ldev.toNat who [who, was, now_, masterCode c.source, refused]

theorem power_standby (h3 : cArgN c 0 = 3) (hg : ∀ q ∈ s.liveParts, (s.part q).power = .gated) : s.gives (.cmdPower c) fun t =>
    s.Responds t c 0 [] ∧ s.PowerLogged t c 0xFF 2 3 0 ∧ s.unsaid t = { s with journal := t.journal, head := t.head, standby := true } := by
  have he : exec (.cmdPower c) s = execCmdPower c s := rfl
  unfold execCmdPower at he
  dsimp only at he
  refine State.cmd_acts he h (by simp [h3]) (fun w => { State.logPower { s with win := w } c 0xFF 2 3 0 with standby := true }) 0 [] [] (fun w => ?_)
    (fun w => ⟨rfl, rfl, rfl⟩) fun w t hr hun => ?_
  · dsimp only
    have hall : (s.liveParts.all fun q => (s.part q).power == .gated) = true := List.all_eq_true.2 fun q hq => beq_iff_eq.2 (hg q hq)
    exact (if_pos h3).trans (if_pos hall)
  · have hj : t.journal = (s.logPower c 0xFF 2 3 0).journal := (congrArg State.journal hun :)
    have hh : t.head = s.head + 1 := (congrArg State.head hun :)
    exact ⟨hr, State.logged_of hj hh, by rw [hun, hj, hh]; rfl⟩

theorem power_refused (h3 : cArgN c 0 = 3) (hg : ¬ ∀ q ∈ s.liveParts, (s.part q).power = .gated) : s.gives (.cmdPower c) fun t =>
    s.Responds t c 2 [] ∧ s.PowerLogged t c 0xFF 0 3 1 ∧ s.unsaid t = { s with journal := t.journal, head := t.head } := by
  have he : exec (.cmdPower c) s = execCmdPower c s := rfl
  unfold execCmdPower at he
  dsimp only at he
  refine State.cmd_acts he h (by simp [h3]) (fun w => State.logPower { s with win := w } c 0xFF 0 3 1) 2 [] [] (fun w => ?_)
    (fun w => ⟨rfl, rfl, rfl⟩) fun w t hr hun => ?_
  · dsimp only
    have hall : ¬ (s.liveParts.all fun q => (s.part q).power == .gated) = true := fun ha => hg fun q hq => beq_iff_eq.1 (List.all_eq_true.1 ha q hq)
    exact (if_pos h3).trans (if_neg hall)
  · have hj : t.journal = (s.logPower c 0xFF 0 3 1).journal := (congrArg State.journal hun :)
    have hh : t.head = s.head + 1 := (congrArg State.head hun :)
    exact ⟨hr, State.logged_of hj hh, by rw [hun, hj, hh]; rfl⟩

/-- The power state that a POWER record gives for what was. -/
def State.powerWas (s : State) (c : Cmd) : Nat := if s.standby then 3 else (s.part (cmdPart c)).power.code

theorem power_busy (h2 : cArgN c 0 = 2) (hc : s.crewsAbout (cmdPart c) = true) : s.gives (.cmdPower c) fun t =>
    s.Responds t c 2 [] ∧ s.PowerLogged t c (cmdPart c).part (s.powerWas c) 2 1 ∧ s.unsaid t = { s with journal := t.journal, head := t.head } := by
  have he : exec (.cmdPower c) s = execCmdPower c s := rfl
  unfold execCmdPower at he
  dsimp only at he
  refine State.cmd_acts he h (by simp [h2]) (fun w => State.logPower { s with win := w } c (cmdPart c).part (s.powerWas c) 2 1) 2 [] [] (fun w => ?_)
    (fun w => ⟨rfl, rfl, rfl⟩) fun w t hr hun => ?_
  · dsimp only
    exact (if_neg (by omega)).trans ((if_pos h2).trans (if_pos hc))
  · have hj : t.journal = (s.logPower c (cmdPart c).part (s.powerWas c) 2 1).journal := (congrArg State.journal hun :)
    have hh : t.head = s.head + 1 := (congrArg State.head hun :)
    exact ⟨hr, State.logged_of hj hh, by rw [hun, hj, hh]; rfl⟩

theorem power_gated (h2 : cArgN c 0 = 2) (hc : s.crewsAbout (cmdPart c) = false) : s.gives (.cmdPower c) fun t =>
    s.Responds t c 0 [] ∧ s.PowerLogged t c (cmdPart c).part (s.powerWas c) 2 0 ∧ t.part (cmdPart c) = { s.part (cmdPart c) with power := .gated } ∧
      s.unsaid t = { s with journal := t.journal, head := t.head, parts := t.parts } ∧ ∀ q, partKey q ≠ partKey (cmdPart c) → t.part q = s.part q := by
  have he : exec (.cmdPower c) s = execCmdPower c s := rfl
  unfold execCmdPower at he
  dsimp only at he
  refine State.cmd_acts he h (by simp [h2]) (fun w => (State.logPower { s with win := w } c (cmdPart c).part (s.powerWas c) 2 0).modPart (cmdPart c)
    fun q => { q with power := .gated }) 0 [] [] (fun w => ?_) (fun w => ⟨rfl, rfl, rfl⟩) fun w t hr hun => ?_
  · exact (if_neg (by omega)).trans ((if_pos h2).trans (if_neg (by rw [show State.crewsAbout { s with win := w } (cmdPart c) = false from hc]; decide)))
  · have hj : t.journal = (s.logPower c (cmdPart c).part (s.powerWas c) 2 0).journal := (congrArg State.journal hun :)
    have hh : t.head = s.head + 1 := (congrArg State.head hun :)
    have hp : t.parts = (s.modPart (cmdPart c) fun q => { q with power := .gated }).parts := (congrArg State.parts hun :)
    have hpart (q : PartRef) : t.part q = (s.modPart (cmdPart c) fun q => { q with power := .gated }).part q := by rw [State.part, hp]; rfl
    exact ⟨hr, State.logged_of hj hh, (hpart _).trans (State.modPart_part ..), by rw [hun, hj, hh, hp]; rfl,
      fun q hq => (hpart q).trans (State.modPart_part_ne _ _ hq)⟩

theorem power_active (h0 : cArgN c 0 = 0) : s.gives (.cmdPower c) fun t =>
    s.Responds t c 0 [] ∧ s.PowerLogged t c (cmdPart c).part (s.powerWas c) 0 0 ∧ (t.part (cmdPart c)).power = .active ∧
      (t.part (cmdPart c)).idleSince = s.now ∧ t.standby = false ∧
      s.unsaid t = { s with journal := t.journal, head := t.head, parts := t.parts, queues := t.queues, standby := false } ∧
      ∀ q, partKey q ≠ partKey (cmdPart c) → t.part q = s.part q := by
  have he : exec (.cmdPower c) s = execCmdPower c s := rfl
  unfold execCmdPower at he
  dsimp only at he
  refine State.cmd_acts he h (by simp [h0]) (fun w => (State.modPart { State.logPower { s with win := w } c (cmdPart c).part (s.powerWas c) 0 0 with standby := false }
    (cmdPart c) fun q => { q with power := .active, idleSince := s.now }).noteWaits (cmdPart c)) 0 [] [] (fun w => ?_) (fun w => ?_) fun w t hr hun => ?_
  · exact (if_neg (by omega)).trans (if_neg (by omega))
  · obtain ⟨q, hq⟩ := State.noteWaits_queues (State.modPart { State.logPower { s with win := w } c (cmdPart c).part (s.powerWas c) 0 0 with standby := false }
      (cmdPart c) fun q => { q with power := .active, idleSince := s.now }) (cmdPart c)
    dsimp only
    rw [hq]
    exact ⟨rfl, rfl, rfl⟩
  · obtain ⟨qs, hqs⟩ := State.noteWaits_queues (State.modPart { State.logPower { s with win := w } c (cmdPart c).part (s.powerWas c) 0 0 with standby := false }
      (cmdPart c) fun q => { q with power := .active, idleSince := s.now }) (cmdPart c)
    dsimp only at hun
    rw [hqs] at hun
    have hj : t.journal = (s.logPower c (cmdPart c).part (s.powerWas c) 0 0).journal := (congrArg State.journal hun :)
    have hh : t.head = s.head + 1 := (congrArg State.head hun :)
    have hp : t.parts = (s.modPart (cmdPart c) fun q => { q with power := .active, idleSince := s.now }).parts := (congrArg State.parts hun :)
    have hq : t.queues = qs := (congrArg State.queues hun :)
    have hs : t.standby = false := (congrArg State.standby hun :)
    have hpart (q : PartRef) : t.part q = (s.modPart (cmdPart c) fun q => { q with power := .active, idleSince := s.now }).part q := by
      rw [State.part, hp]; rfl
    have hmine := (hpart (cmdPart c)).trans (State.modPart_part ..)
    exact ⟨hr, State.logged_of hj hh, by rw [hmine], by rw [hmine], hs, by rw [hun, hj, hh, hp, hq]; rfl,
      fun q hq => (hpart q).trans (State.modPart_part_ne _ _ hq)⟩

end

/-! ### Partitions, interrupts, the journal -/

/-- The command changes its partition alone. -/
def State.PartDone (s : State) (c : Cmd) (f : Part → Part) (t : State) : Prop :=
  s.Responds t c 0 [] ∧ s.unsaid t = { s with parts := t.parts } ∧ t.part (cmdPart c) = f (s.part (cmdPart c)) ∧
    ∀ q, partKey q ≠ partKey (cmdPart c) → t.part q = s.part q

theorem State.partDone_of {f : Part → Part} {w : Store DWord} {t : State} (hr : s.Responds t c 0 [])
    (hun : s.unsaid t = { State.modPart { s with win := w } (cmdPart c) f with win := s.win }) : s.PartDone c f t := by
  have hp : t.parts = (s.modPart (cmdPart c) f).parts := (congrArg State.parts hun :)
  have hpart (q : PartRef) : t.part q = (s.modPart (cmdPart c) f).part q := by rw [State.part, hp]; rfl
  exact ⟨hr, by rw [hun, hp]; rfl, (hpart _).trans (State.modPart_part ..), fun q hq => (hpart q).trans (State.modPart_part_ne _ _ hq)⟩

theorem watchdog_sets (h : s.Admits c { op := 0x24 }) (hn : cArgN c 0 ≤ 3600000) :
    s.gives (.watchdog c) (s.PartDone c fun q => { q with watchdogMs := cArgN c 0 }) := by
  have he : exec (.watchdog c) s = execWatchdog c s := rfl
  exact State.cmd_acts he h (decide_eq_true hn) (fun w => State.modPart { s with win := w } (cmdPart c) fun q => { q with watchdogMs := cArgN c 0 }) 0 [] []
    (fun _ => rfl) (fun _ => ⟨rfl, rfl, rfl⟩) fun w t hr hun => State.partDone_of hr hun

theorem dumph_clears (h : s.Admits c { op := 0x25 }) (h0 : cArgN c 0 = 0 ∧ cArgN c 1 = 0) :
    s.gives (.dumph c) (s.PartDone c fun q => { q with dumpTarget := none }) := by
  have he : exec (.dumph c) s = execDumph c s := rfl
  refine State.cmd_acts he h rfl (fun w => State.modPart { s with win := w } (cmdPart c) fun q => { q with dumpTarget := none }) 0 [] []
    (fun w => ?_) (fun _ => ⟨rfl, rfl, rfl⟩) fun w t hr hun => State.partDone_of hr hun
  exact if_pos (by simp [h0])

theorem dumph_fails (h : s.Admits c { op := 0x25 }) (h0 : ¬ (cArgN c 0 = 0 ∧ cArgN c 1 = 0))
    (ha : s.brewDword (cmdPart c) (cArg c 0) (cArgN c 1) 1 false true = none) : s.gives (.dumph c) fun t => s.Responds t c 8 [] ∧ s.unsaid t = s := by
  have he : exec (.dumph c) s = execDumph c s := rfl
  refine State.cmd_only he h rfl fun w => ?_
  have hnone : (State.brewDword { s with win := w } (cmdPart c) (cArg c 0) (cArgN c 1) 1 false true).isNone = true :=
    Option.isNone_iff_eq_none.2 ha
  exact (if_neg (by simpa using h0)).trans (if_pos hnone)

theorem dumph_sets (h : s.Admits c { op := 0x25 }) (h0 : ¬ (cArgN c 0 = 0 ∧ cArgN c 1 = 0)) {a : Nat}
    (ha : s.brewDword (cmdPart c) (cArg c 0) (cArgN c 1) 1 false true = some a) :
    s.gives (.dumph c) (s.PartDone c fun q => { q with dumpTarget := some (cArg c 0, cArgN c 1) }) := by
  have he : exec (.dumph c) s = execDumph c s := rfl
  refine State.cmd_acts he h rfl (fun w => State.modPart { s with win := w } (cmdPart c) fun q => { q with dumpTarget := some (cArg c 0, cArgN c 1) }) 0 [] []
    (fun w => ?_) (fun _ => ⟨rfl, rfl, rfl⟩) fun w t hr hun => State.partDone_of hr hun
  have hsome : ¬ (State.brewDword { s with win := w } (cmdPart c) (cArg c 0) (cArgN c 1) 1 false true).isNone = true := by
    rw [show State.brewDword { s with win := w } (cmdPart c) (cArg c 0) (cArgN c 1) 1 false true = some a from ha]
    exact Bool.false_ne_true
  exact (if_neg (by simpa using h0)).trans (if_neg hsome)

theorem bindvec_binds (h : s.Admits c { op := 0x49, who := .os, scope := 0 }) (hn : cArgN c 0 ≤ 65535) : s.gives (.bindvec c) fun t =>
    s.Responds t c 0 [] ∧ s.unsaid t = { s with vecs := t.vecs } ∧ ∀ k, Store.get none t.vecs k =
      if k = cArgN c 0 then (if cArgN c 2 = 0 then none else some (cArgN c 1, cArgN c 2)) else Store.get none s.vecs k := by
  have he : exec (.bindvec c) s = execBindvec c s := rfl
  generalize hb : (if cArgN c 2 = 0 then none else some (cArgN c 1, cArgN c 2)) = b
  refine State.cmd_acts he h (decide_eq_true hn) (fun w => { s with win := w, vecs := Store.set none s.vecs (cArgN c 0) b }) 0 [] [] (fun w => by rw [← hb]; rfl) (fun _ => ⟨rfl, rfl, rfl⟩) fun w t hr hun => ?_
  have hv : t.vecs = Store.set none s.vecs (cArgN c 0) b := (congrArg State.vecs hun :)
  exact ⟨hr, by rw [hun, hv], fun k => by rw [hv, Store.get_set]⟩

theorem jread_reads (h : s.Admits c { op := 0x4A, who := .any, scope := 0 }) (h1 : 1 ≤ cArgN c 1) (h16 : cArgN c 1 ≤ 16) : s.gives (.jread c) fun t =>
    s.Responds t c 0 [s.head] ((s.journal.filter fun r => decide (cArgN c 0 ≤ r.seq ∧ r.seq < cArgN c 0 + cArgN c 1)).flatMap JRec.bytes) ∧
      s.unsaid t = s := by
  have he : exec (.jread c) s = execJread c s := rfl
  unfold execJread at he
  dsimp only at he
  simp only [← Bool.decide_and] at he
  exact State.cmd_only he h (by simp [h1, h16]) fun w => rfl

end

end Sys2Proof.Machine
end

section
/-! SUPPORT. O48: the attestation report (R458), and the obligation. -/

namespace Sys2Proof.Machine

/-! ### Runs of bytes in a list -/

theorem take_drop_mid {α : Type} {x y z : List α} {a b : Nat} (hx : x.length = a) (hy : y.length = b) : ((x ++ (y ++ z)).drop a).take b = y := by
  rw [List.drop_left' hx, List.take_left' hy]

/-- One of the runs that a list is made of, all of one length. -/
theorem take_drop_flatMap {α β : Type} {n : Nat} (f : α → List β) (hf : ∀ x, (f x).length = n) (l : List α) (z : List β) (k : Nat) (hk : k < l.length) :
    ((l.flatMap f ++ z).drop (n * k)).take n = f l[k] := by
  induction l generalizing k with
  | nil => exact absurd hk (Nat.not_lt_zero _)
  | cons x l ih =>
    cases k with
    | zero =>
      rw [Nat.mul_zero, List.drop_zero, List.flatMap_cons, List.append_assoc, List.take_left' (hf x)]
      rfl
    | succ k =>
      have hlen : n * (k + 1) = (f x).length + n * k := by rw [hf, Nat.mul_succ, Nat.add_comm]
      rw [List.flatMap_cons, List.append_assoc, hlen, List.drop_length_add_append]
      exact ih k (Nat.lt_of_succ_lt_succ hk)

theorem length_flatMap_const {α β : Type} {n : Nat} (f : α → List β) (hf : ∀ x, (f x).length = n) (l : List α) : (l.flatMap f).length = n * l.length := by
  induction l with
  | nil => rfl
  | cons x l ih => rw [List.flatMap_cons, List.length_append, hf, ih, List.length_cons, Nat.mul_succ, Nat.add_comm]

theorem leBytes_length (n v : Nat) : (leBytes n v).length = n := by
  induction n generalizing v with
  | zero => rfl
  | succ n ih => rw [leBytes, List.length_cons, ih]

theorem argBytes_four (c : Cmd) : argBytes c 0 4 = leBytes 8 (cArgN c 0) ++ leBytes 8 (cArgN c 1) ++ leBytes 8 (cArgN c 2) ++ leBytes 8 (cArgN c 3) := by
  simp [argBytes, List.range_succ]

/-! ### The report -/

/-- The fields of the report (R458). -/
structure State.ReportTells (s : State) (nonce r : List Byte) : Prop where
  length : r.length = 2304 + Config.lmsBytes
  magic : r.take 8 = leBytes 8 (0x41545354 * 2 ^ 32 + 1)
  time : (r.drop 8).take 8 = leBytes 8 s.now
  nonce : (r.drop 16).take 32 = nonce
  versions : (r.drop 144).take 16 = leBytes 8 (s.cfg.fwVer * 2 ^ 32 + s.cfg.cfgVer) ++ leBytes 8 s.cfg.grade
  masks : ∀ k, k < 256 → (r.drop (160 + 8 * k)).take 8 = leBytes 8 (s.core k).mask.toNat

theorem State.report_tells (s : State) {nonce : List Byte} (hn : nonce.length = 32) : s.ReportTells nonce (s.report_ nonce) := by
  unfold State.report_
  dsimp only
  generalize hp : (List.range 96).map (fun i => Config.freeByte (s.freeCtr * 16384 + i)) = pad
  generalize hq : (List.range (96 + Config.lmsBytes)).map (fun i => Config.freeByte (s.freeCtr * 16384 + (96 + i))) = rest
  have hpad : pad.length = 96 := by rw [← hp]; simp
  have hrest : rest.length = 96 + Config.lmsBytes := by rw [← hq]; simp
  have hmask (k : Nat) : (leBytes 8 (s.core k).mask.toNat).length = 8 := leBytes_length ..
  have hmasks := length_flatMap_const (fun k => leBytes 8 (s.core k).mask.toNat) hmask (List.range 256)
  rw [List.length_range] at hmasks
  simp only [List.append_assoc]
  refine ⟨?_, ?_, ?_, ?_, ?_, fun k hk => ?_⟩
  · simp only [List.length_append, leBytes_length, hn, hpad, hrest, hmasks]
    omega
  · exact List.take_left' (leBytes_length ..)
  · exact take_drop_mid (leBytes_length ..) (leBytes_length ..)
  · rw [← List.append_assoc]
    exact take_drop_mid (by simp only [List.length_append, leBytes_length]) hn
  · have hsplit (a b d e f g h i : List Byte) : a ++ (b ++ (d ++ (e ++ (f ++ (g ++ (h ++ i)))))) = (a ++ b ++ d ++ e) ++ ((f ++ g) ++ (h ++ i)) := by
      simp only [List.append_assoc]
    rw [hsplit]
    exact take_drop_mid (by simp only [List.length_append, leBytes_length, hn, hpad]) (by simp only [List.length_append, leBytes_length])
  · have hsplit (a b d e f g h i : List Byte) : a ++ (b ++ (d ++ (e ++ (f ++ (g ++ (h ++ i)))))) = (a ++ b ++ d ++ e ++ f ++ g) ++ (h ++ i) := by
      simp only [List.append_assoc]
    rw [hsplit]
    have hhead : (leBytes 8 (0x41545354 * 2 ^ 32 + 1) ++ leBytes 8 s.now ++ nonce ++ pad ++ leBytes 8 (s.cfg.fwVer * 2 ^ 32 + s.cfg.cfgVer) ++
        leBytes 8 s.cfg.grade).length = 160 := by simp only [List.length_append, leBytes_length, hn, hpad]
    rw [← hhead, List.drop_length_add_append]
    have hrun := take_drop_flatMap (fun k => leBytes 8 (s.core k).mask.toNat) hmask (List.range 256) rest k (by rwa [List.length_range])
    rwa [List.getElem_range] at hrun

theorem State.Poked.congr {s s' t t' : State} {a : Nat} {bs : List Byte} (h : s'.Poked t' a bs) (hmem : s'.mem = s.mem) (hwrites : s'.writes = s.writes)
    (hhist : s'.hist = s.hist) (hcores : s'.cores = s.cores) (tmem : t.mem = t'.mem) (twrites : t.writes = t'.writes) (thist : t.hist = t'.hist)
    (tcores : t.cores = t'.cores) (hpack : t =
      { s with mem := t.mem, poison := t.poison, cores := t.cores, sharers := t.sharers, writes := t.writes, hist := t.hist, fills := t.fills, absent := t.absent }) : s.Poked t a bs := by
  obtain ⟨h1, -, ⟨h3, h4⟩, h5⟩ := h
  have hcore (c : Nat) : s'.core c = s.core c := by rw [State.core, hcores]; rfl
  have hcore' (c : Nat) : t.core c = t'.core c := by rw [State.core, tcores]; rfl
  refine ⟨fun x => ?_, hpack, ⟨by rw [twrites, h3, hwrites], ?_⟩, fun c => by rw [hcore', h5 c, hcore]⟩
  · have hx := h1 x
    rw [overlay_mem] at hx ⊢
    simp only [State.peek] at hx ⊢
    rw [tmem, hx, hmem]
  · rw [thist, h4, hwrites, hhist, State.peekN_mem hmem]

section
variable {s : State} {c : Cmd} (h : s.Admits c { op := 0x48, who := .any, scope := if cArgN c 4 = 0 then 0 else 2 })
include h

theorem Admits.attest : s.Admits c { op := 0x48, who := .any, scope := if cArgN c 4 != 0 then 2 else 0 } := by
  have hs : (if cArgN c 4 = 0 then 0 else 2) = if cArgN c 4 != 0 then 2 else 0 := by
    by_cases h4 : cArgN c 4 = 0 <;> simp [h4]
  rw [← hs]
  exact h

theorem attest_answers (h4 : cArgN c 4 = 0) : s.gives (.attest c) fun t => s.Responds t c 0 [] (s.report_ (argBytes c 0 4)) ∧
    s.unsaid t = { s with freeCtr := s.freeCtr + 1 } := by
  have he : exec (.attest c) s = execAttest c s := rfl
  unfold execAttest at he
  dsimp only at he
  refine State.cmd_acts he (Admits.attest h) rfl (fun w => { s with win := w, freeCtr := s.freeCtr + 1 }) 0 [] (s.report_ (argBytes c 0 4)) (fun w => ?_)
    (fun w => ⟨rfl, rfl, rfl⟩) fun w t hr hun => ⟨hr, hun⟩
  exact if_pos (by simp [h4])

theorem attest_fails (h4 : cArgN c 4 ≠ 0) (ha : s.brewDword (cmdPart c) (cArg c 4) (s.report_ (argBytes c 0 4)).length 1 false true = none) :
    s.gives (.attest c) fun t => s.Responds t c 8 [] ∧ s.unsaid t = { s with freeCtr := s.freeCtr + 1 } := by
  have he : exec (.attest c) s = execAttest c s := rfl
  unfold execAttest at he
  dsimp only at he
  refine State.cmd_acts he (Admits.attest h) rfl (fun w => { s with win := w, freeCtr := s.freeCtr + 1 }) 8 [] [] (fun w => ?_)
    (fun w => ⟨rfl, rfl, rfl⟩) fun w t hr hun => ⟨hr, hun⟩
  refine (if_neg (by simp [h4])).trans ?_
  split
  · rfl
  · next a hs => exact absurd (ha.symm.trans hs) nofun

theorem attest_writes (h4 : cArgN c 4 ≠ 0) {a : Nat} (ha : s.brewDword (cmdPart c) (cArg c 4) (s.report_ (argBytes c 0 4)).length 1 false true = some a) :
    s.gives (.attest c) fun t => s.Responds t c 0 [] ∧ s.Poked { s.unsaid t with freeCtr := s.freeCtr } a (s.report_ (argBytes c 0 4)) := by
  have he : exec (.attest c) s = execAttest c s := rfl
  unfold execAttest at he
  dsimp only at he
  generalize hr : s.report_ (argBytes c 0 4) = r at *
  refine State.cmd_acts he (Admits.attest h) rfl (fun w => State.homeWrite { s with win := w, freeCtr := s.freeCtr + 1 } none none (.mem a) r) 0 [] [] (fun w => ?_)
    (fun w => ?_) fun w t hresp hun => ⟨hresp, ?_⟩
  · refine (if_neg (by simp [h4])).trans ?_
    split
    · next hs => exact absurd ((hr ▸ ha).symm.trans hs) nofun
    · next b hs =>
      obtain rfl : a = b := Option.some.inj ((hr ▸ ha).symm.trans hs)
      rw [← hr]
      rfl
  · obtain ⟨cs, sh, fl, ab, hi, po, e⟩ := State.homeWrite_mem_eq { s with win := w, freeCtr := s.freeCtr + 1 } none none a r
    rw [e]
    exact ⟨rfl, rfl, rfl⟩
  · have hp := State.homeWrite_poked { s with win := w, freeCtr := s.freeCtr + 1 } a r
    generalize State.homeWrite { s with win := w, freeCtr := s.freeCtr + 1 } none none (.mem a) r = u at *
    rw [hun]
    refine hp.congr rfl rfl rfl rfl rfl rfl rfl rfl ?_
    rw [hp.package]

end

/-- Settles O48: each command by its frame, the answer that follows its effect, and the effect itself. -/
theorem ownerCommands : Obligations.OwnerCommands := by
  intro s c n p src only granted past part
  have hgranted {t : State} {m : Master} {how from_ : Nat} (h : s.Granted t m how from_) : granted m how from_ t :=
    ⟨h.owner, h.claims, h.window, h.record, h.rest⟩
  have hgives {i : Instr} {P Q : State → Prop} (h : s.gives i P) (hpq : ∀ t, P t → Q t) : s.gives i Q := by
    obtain ⟨t, ht, hp⟩ := h
    exact ⟨t, ht, hpq t hp⟩
  refine ⟨fun h => ⟨fun ho => claim_owner h ho, fun m ho hm => claim_denied h ho hm, fun ho hf => ?_, fun ho hf hw => claim_noted h ho hf hw⟩,
    ⟨fun h => window_open h, fun h hno => window_none h hno, fun hi m lo h hp hhi hm => ?_⟩, fun m h hm => ?_, fun m h hm => ?_,
    fun h => ⟨fun hn => killtask_unknown h hn, fun h0 hle hlt => ⟨fun hr => killtask_running h h0 hle hlt hr, fun hr => killtask_ending h h0 hle hr,
      fun hr he => killtask_over h h0 hle hr he⟩⟩,
    fun h hwf => ⟨fun hno => killpart_idle h hwf hno, fun k hk hhit hst => killpart_kills h hwf hk hhit hst⟩,
    fun h => ⟨fun h3 hg => power_standby h h3 hg, fun h3 hg => power_refused h h3 hg, fun h2 hc => power_busy h h2 hc, fun h2 hc => power_gated h h2 hc,
      fun h0 => power_active h h0⟩,
    fun h hn => watchdog_sets h hn, fun h => ⟨fun h0 => dumph_clears h h0, fun h0 ha => dumph_fails h h0 ha, fun a h0 ha => dumph_sets h h0 ha⟩,
    fun h hn => bindvec_binds h hn, fun h h1 h16 => jread_reads h h1 h16, fun h => ?_⟩
  · exact hgives (claim_granted h ho hf) fun t ⟨hr, hg⟩ => ⟨hr, hgranted hg⟩
  · exact hgives (window_grants h hp hhi hm) fun t ⟨hg, hrest⟩ => ⟨hgranted hg, hrest⟩
  · exact hgives (handover_grants h hm) fun t ⟨hr, hg⟩ => ⟨hr, hgranted hg⟩
  · exact hgives (override_grants h hm) fun t ⟨hr, hg⟩ => ⟨hr, hgranted hg⟩
  · have hnonce : (argBytes c 0 4).length = 32 := by
      rw [argBytes_four]
      simp only [List.length_append, leBytes_length]
    obtain ⟨h1, h2, h3, h4, h5, h6⟩ := s.report_tells hnonce
    exact ⟨s.report_ (argBytes c 0 4), h1, h2, h3, h4.trans (argBytes_four c), h5, h6, fun h0 => attest_answers h h0, fun h0 ha => attest_fails h h0 ha,
      fun a h0 ha => attest_writes h h0 ha⟩

end Sys2Proof.Machine
end

section
/-! SUPPORT. What every step but a package reset keeps: memory in its canonical form, the journal in order (R381), device time (R430). -/

namespace Sys2Proof.Machine

/-! ### The relation between the states before and after -/

/-- The journal is in order at a time, as `State.JournalInOrder` says of a state (R381). -/
structure JournalFits (journal : List JRec) (head now : Nat) : Prop where
  seqs : journal.map JRec.seq = (List.range journal.length).map fun i => head - journal.length + i
  room : journal.length ≤ head ∧ journal.length ≤ 1048576
  times : journal.Pairwise fun a b => a.time ≤ b.time
  past : ∀ r ∈ journal, r.time ≤ now

theorem State.journalInOrder_iff (s : State) : s.JournalInOrder ↔ JournalFits s.journal s.head s.now :=
  ⟨fun h => ⟨h.seqs, h.room, h.times, h.past⟩, fun h => ⟨h.seqs, h.room, h.times, h.past⟩⟩

/-- What a step from `s` may leave of memory, the journal and time. -/
structure KeptBy (s : State) (mem : List Host.Cell) (journal : List JRec) (head now : Nat) : Prop where
  mem : Memory.wf s.mem = true → Memory.wf mem = true
  journal : JournalFits s.journal s.head s.now → JournalFits journal head now
  now : s.now ≤ now

/-- `t` is a state that a step from `s` may lead to. -/
def State.Onward (s t : State) : Prop := KeptBy s t.mem t.journal t.head t.now

section
variable {s0 s : State}

theorem State.Onward.refl (s : State) : s.Onward s := ⟨id, id, Nat.le_refl _⟩

theorem State.Onward.trans {t u : State} (h : s.Onward t) (k : t.Onward u) : s.Onward u :=
  ⟨k.mem ∘ h.mem, k.journal ∘ h.journal, Nat.le_trans h.now k.now⟩

/-- An answer of a step. -/
def OnwardTo (s0 : State) (o : Host.Outcome State Fault Refusal) : Prop := ∀ t, o = .next t → s0.Onward t

@[simp] theorem onwardTo_next : OnwardTo s0 (.next s) ↔ s0.Onward s :=
  ⟨fun h => h s rfl, fun h _ ht => Host.Outcome.next.inj ht ▸ h⟩

@[simp] theorem onwardTo_fault (f : Fault) : OnwardTo s0 (.fault f) := fun _ ht => nomatch ht

theorem onwardTo_still (h : s0.Onward s) : OnwardTo s0 (still s) := onwardTo_next.2 h

theorem onwardTo_when {on : Bool} {t : State} (hs : s0.Onward s) (ht : s0.Onward t) : OnwardTo s0 (when_ on s t) := by
  unfold when_
  split
  · exact onwardTo_next.2 ht
  · exact onwardTo_next.2 hs

theorem onwardTo_ite {c : Prop} [Decidable c] {o o' : Host.Outcome State Fault Refusal} (h : OnwardTo s0 o) (h' : OnwardTo s0 o') :
    OnwardTo s0 (if c then o else o') := by
  split <;> assumption

theorem onward_state_ite {c : Prop} [Decidable c] {r r' : Res} (h : s0.Onward r.state) (h' : s0.Onward r'.state) :
    s0.Onward (if c then r else r').state := by
  split <;> assumption

@[simp] theorem onward_ite {c : Prop} [Decidable c] {t : State} (hs : s0.Onward s) (ht : s0.Onward t) : s0.Onward (if c then s else t) := by
  split <;> assumption

theorem onward_foldl {α : Type} {f : State → α → State} (hf : ∀ s a, s0.Onward s → s0.Onward (f s a)) (l : List α) (h : s0.Onward s) :
    s0.Onward (l.foldl f s) := by
  induction l generalizing s with
  | nil => exact h
  | cons a l ih => exact ih (hf s a h)

theorem onward_performN {f : State → State} (hf : ∀ s, s0.Onward s → s0.Onward (f s)) (n : Nat) (h : s0.Onward s) :
    s0.Onward (performN n f s) := by
  induction n generalizing s with
  | zero => exact h
  | succ n ih => exact ih (hf s h)

/-- The state of a pair that a computation has given. -/
theorem State.Onward.of_pair {α : Type} {e : α × State} {a : α} (he : e = (a, s)) (h : s0.Onward e.2) : s0.Onward s := by
  rw [he] at h; exact h

/-! ### The state that a word's body leaves -/

@[simp] theorem onward_done : s0.Onward (Res.done s).state ↔ s0.Onward s := Iff.rfl
@[simp] theorem onward_goto {pc : Word} {clears : Bool} : s0.Onward (Res.goto s pc clears).state ↔ s0.Onward s := Iff.rfl
@[simp] theorem onward_placed : s0.Onward (Res.placed s).state ↔ s0.Onward s := Iff.rfl
@[simp] theorem onward_block {w : Wait} : s0.Onward (Res.block s w).state ↔ s0.Onward s := Iff.rfl
@[simp] theorem onward_trap {f : FaultInfo} : s0.Onward (Res.trap s f).state ↔ s0.Onward s := Iff.rfl

/-! ### Updates that leave memory, journal and time alone -/

section
variable (u k n : Nat)

@[simp] theorem onward_setCrew (c : Crew) : s0.Onward (s.setCrew u c) ↔ s0.Onward s := Iff.rfl
@[simp] theorem onward_modCrew (f : Crew → Crew) : s0.Onward (s.modCrew u f) ↔ s0.Onward s := Iff.rfl
@[simp] theorem onward_modThread (f : Thread → Thread) : s0.Onward (s.modThread u k f) ↔ s0.Onward s := Iff.rfl
@[simp] theorem onward_modArch (f : Arch → Arch) : s0.Onward (s.modArch u k f) ↔ s0.Onward s := Iff.rfl
@[simp] theorem onward_modSlot (p : PairRef) (f : Slot → Slot) : s0.Onward (s.modSlot p f) ↔ s0.Onward s := Iff.rfl
@[simp] theorem onward_modCArch (f : Arch → Arch) : s0.Onward (s.modCArch f) ↔ s0.Onward s := Iff.rfl
@[simp] theorem onward_modCSlot (f : Slot → Slot) : s0.Onward (s.modCSlot f) ↔ s0.Onward s := Iff.rfl
@[simp] theorem onward_modCore (f : Core → Core) : s0.Onward (s.modCore n f) ↔ s0.Onward s := Iff.rfl
@[simp] theorem onward_modPart (p : PartRef) (f : Part → Part) : s0.Onward (s.modPart p f) ↔ s0.Onward s := Iff.rfl
@[simp] theorem onward_modArena (a : ArenaRef) (f : Arena → Arena) : s0.Onward (s.modArena a f) ↔ s0.Onward s := Iff.rfl
@[simp] theorem onward_setHandle (p : PartRef) (e : HEntry) : s0.Onward (s.setHandle p n e) ↔ s0.Onward s := Iff.rfl
@[simp] theorem onward_modQueue (f : Queue → Queue) : s0.Onward (s.modQueue k n f) ↔ s0.Onward s := Iff.rfl
@[simp] theorem onward_modTask (f : Task → Task) : s0.Onward (s.modTask k n f) ↔ s0.Onward s := Iff.rfl
@[simp] theorem onward_modOp (o : OpRef) (f : Op → Op) : s0.Onward (s.modOp o f) ↔ s0.Onward s := Iff.rfl
@[simp] theorem onward_free : s0.Onward s.free.2 ↔ s0.Onward s := Iff.rfl

end

/-- A state written out field by field. -/
@[simp] theorem onward_mk
    {agenda : List Move} {cur : Cursor} {freeCtr nextUid issueCtr now cycles : Nat} {slew : Int} {slewNs : Nat} {slewSrc : DWord}
    {mem : List Host.Cell} {poison absentPages : Store Bool} {pageSize : Store Nat} {walks : List (Nat × Nat × Nat)} {writes : Nat}
    {hist : List PastWrite} {absent : Store Bool} {fills : Store Word} {sharers : Store DWord} {handles : Store HEntry}
    {arenas : Store Arena} {vaNext : Store Nat} {freeVa : Store (List (Nat × Nat))} {cores : Store Core} {dieCtrs : Store Nat}
    {links : List Link} {deadDevs : List Nat} {parts : Store Part} {change : Store (Option PartChange)} {queues : Store Queue}
    {tasks : Store Task} {nextTask : Store Nat} {crews : Store Crew} {kiln : Store KilnPair} {journal : List JRec} {head : Nat}
    {owner : Option Master} {claims : List Master} {windowOpen : Bool} {windowNs : Nat} {cmds : List PendCmd} {resps : List Resp}
    {maps : List HostMap} {win : Store DWord} {vecs : Store (Option (Nat × Nat))} {msis : List (Nat × Nat × Nat)} {hostAns : DWord}
    {hostFault : Bool} {hostRes : Option (Nat × Nat × Nat × DWord)} {halted : Bool} {notices : Nat} {portOut : List Byte} {standby : Bool}
    {throttle : Nat × Nat} {cfg : BootCfg} {fw : Firmware} :
    s0.Onward ⟨agenda, cur, freeCtr, nextUid, issueCtr, now, cycles, slew, slewNs, slewSrc, mem, poison, absentPages, pageSize, walks,
      writes, hist, absent, fills, sharers, handles, arenas, vaNext, freeVa, cores, dieCtrs, links, deadDevs, parts, change, queues, tasks,
      nextTask, crews, kiln, journal, head, owner, claims, windowOpen, windowNs, cmds, resps, maps, win, vecs, msis, hostAns, hostFault,
      hostRes, halted, notices, portOut, standby, throttle, cfg, fw⟩ ↔
      KeptBy s0 mem journal head now := Iff.rfl

@[simp] theorem keptBy_state : KeptBy s0 s.mem s.journal s.head s.now ↔ s0.Onward s := Iff.rfl

/-! ### The sources of change -/

theorem JournalFits.later {journal : List JRec} {head now now' : Nat} (h : JournalFits journal head now) (hn : now ≤ now') :
    JournalFits journal head now' :=
  ⟨h.seqs, h.room, h.times, fun r hr => Nat.le_trans (h.past r hr) hn⟩

theorem JournalFits.drop {journal : List JRec} {head now : Nat} (h : JournalFits journal head now) : JournalFits (journal.drop 1) head now := by
  cases journal with
  | nil => exact h
  | cons r l =>
    obtain ⟨hseqs, hroom, htimes, hpast⟩ := h
    simp only [List.length_cons] at hroom
    refine ⟨?_, ⟨by simp; omega, by simp; omega⟩, (List.pairwise_cons.1 htimes).2, fun q hq => hpast q (List.mem_cons_of_mem _ hq)⟩
    simp only [List.length_cons, List.range_succ_eq_map, List.map_cons, List.map_map, List.cons.injEq] at hseqs
    simp only [List.drop_succ_cons, List.drop_zero, hseqs.2]
    refine List.map_congr_left fun i _ => ?_
    simp only [Function.comp]
    omega

theorem JournalFits.append {journal : List JRec} {head now : Nat} {r : JRec} (h : JournalFits journal head now) (hlen : journal.length < 1048576)
    (hseq : r.seq = head) (htime : r.time = now) : JournalFits (journal ++ [r]) (head + 1) now := by
  obtain ⟨hseqs, hroom, htimes, hpast⟩ := h
  refine ⟨?_, ⟨by simp; omega, by simp; omega⟩, ?_, ?_⟩
  · rw [List.map_append, hseqs, List.length_append, List.length_singleton, List.range_succ, List.map_append]
    congr 1
    · exact List.map_congr_left fun i _ => by omega
    · simp [hseq]; omega
  · exact List.pairwise_append.2 ⟨htimes, List.pairwise_singleton _ _, fun a ha b hb => by rw [List.mem_singleton.1 hb, htime]; exact hpast a ha⟩
  · intro q hq
    obtain hq | hq := List.mem_append.1 hq
    · exact hpast q hq
    · exact Nat.le_of_eq (by rw [List.mem_singleton.1 hq, htime])

/-- Writing a record keeps the journal in order (R381). -/
@[simp] theorem onward_record {kind source ldev part : Nat} {data : List DWord} (h : s0.Onward s) : s0.Onward (s.record kind source ldev part data) := by
  refine ⟨h.mem, fun hj => ?_, h.now⟩
  have hs := h.journal hj
  have hfit : JournalFits (if s.journal.length < 1048576 then s.journal else s.journal.drop 1) s.head s.now := by
    split
    · exact hs
    · exact hs.drop
  refine hfit.append ?_ rfl rfl
  split
  · assumption
  · have hroom := hs.room.2
    rw [List.length_drop]; omega

@[simp] theorem onward_log {kind source ldev part : Nat} {data : List Nat} (h : s0.Onward s) : s0.Onward (s.log kind source ldev part data) :=
  onward_record h

@[simp] theorem onward_logClock {ns : Int} {source : DWord} (h : s0.Onward s) : s0.Onward (s.logClock ns source) := onward_record h

@[simp] theorem onward_pass {n : Nat} (h : s0.Onward s) : s0.Onward (s.pass n) :=
  ⟨h.mem, fun hj => (h.journal hj).later (Nat.le_add_right _ _), Nat.le_trans h.now (Nat.le_add_right _ _)⟩

/-- A state that differs in memory alone, which is in its canonical form. -/
theorem State.Onward.withMem {t : State} (h : s0.Onward s) (hmem : Memory.wf s.mem = true → Memory.wf t.mem = true)
    (hrest : t.journal = s.journal ∧ t.head = s.head ∧ t.now = s.now) : s0.Onward t := by
  obtain ⟨hj, hh, hn⟩ := hrest
  exact ⟨fun hm => hmem (h.mem hm), fun hf => by rw [hj, hh, hn]; exact h.journal hf, by rw [hn]; exact h.now⟩

@[simp] theorem onward_poke {l : Loc} {bs : List Byte} (h : s0.Onward s) : s0.Onward (s.poke l bs) := by
  cases l with
  | scr uid off => exact h
  | mem a => exact h.withMem (s.poke_wf (.mem a) bs) ⟨rfl, rfl, rfl⟩
  | reg uid off => exact onward_foldl (fun s a hs => by simp [hs]) _ h

end

end Sys2Proof.Machine
end

section
/-! SUPPORT. What the shared operations of the model keep of memory, the journal and device time. -/

namespace Sys2Proof.Machine

section
variable {s0 s : State}

/-! ### The parts of the package by name -/

@[simp] theorem onward_freeD (h : s0.Onward s) : s0.Onward (s.freeD).2 := h

@[simp] theorem onward_choose {α : Type} {d : α} {l : List α} (h : s0.Onward s) : s0.Onward (s.choose d l).2 := by
  unfold State.choose
  split <;> simp [h]

/-! ### The operands of the word that `cur` names -/

@[simp] theorem onward_cleanReg {k : Nat} (h : s0.Onward s) : s0.Onward (s.cleanReg k) := h

@[simp] theorem onward_wrS {n : BitVec 6} {v : DWord} (h : s0.Onward s) : s0.Onward (s.wrS n v) := by
  unfold State.wrS
  simp [h]

@[simp] theorem onward_wrV {n : BitVec 6} {A : Word} {f : Nat → Word} (h : s0.Onward s) : s0.Onward (s.wrV n A f) := h

@[simp] theorem onward_wrP {n : Nat} {v : Word} (h : s0.Onward s) : s0.Onward (s.wrP n v) := by
  unfold State.wrP
  simp [h]

/-! ### Memory -/

@[simp] theorem onward_clearPoison {l : Loc} {n : Nat} (h : s0.Onward s) : s0.Onward (s.clearPoison l n) := by
  unfold State.clearPoison
  split <;> simp [h]

@[simp] theorem onward_share {core line : Nat} (h : s0.Onward s) : s0.Onward (s.share core line) := h

@[simp] theorem onward_applyInval {core line : Nat} (h : s0.Onward s) : s0.Onward (s.applyInval core line) := h

@[simp] theorem onward_applyAll {core : Nat} (h : s0.Onward s) : s0.Onward (s.applyAll core) := h

@[simp] theorem onward_invalidate {writer : Option Nat} {ar : Option ArenaRef} {line : Nat} (h : s0.Onward s) :
    s0.Onward (s.invalidate writer ar line) := by
  unfold State.invalidate
  dsimp only
  repeat' split
  all_goals simp +contextual [h, onward_foldl]

@[simp] theorem onward_maskSector {a n k : Nat} (h : s0.Onward s) : s0.Onward (s.maskSector a n k) := by
  unfold State.maskSector
  simp [h]

@[simp] theorem onward_maskFills {a n : Nat} (h : s0.Onward s) : s0.Onward (s.maskFills a n) := by
  unfold State.maskFills
  split
  · exact h
  · exact onward_foldl (fun _ _ => onward_maskSector) _ h

@[simp] theorem onward_fillBack {k : Nat} (h : s0.Onward s) : s0.Onward (s.fillBack k) := h

@[simp] theorem onward_note {writer : Option Nat} {l : Loc} {n : Nat} (h : s0.Onward s) : s0.Onward (s.note writer l n) := by
  unfold State.note
  simp [h]

@[simp] theorem onward_announce {writer : Option Nat} {ar : Option ArenaRef} {l : Loc} {n : Nat} (h : s0.Onward s) :
    s0.Onward (s.announce writer ar l n) := by
  unfold State.announce
  split
  · exact onward_maskFills (onward_foldl (fun _ _ => onward_invalidate) _ h)
  · exact h

@[simp] theorem onward_homeWrite {writer : Option Nat} {ar : Option ArenaRef} {l : Loc} {bs : List Byte} (h : s0.Onward s) :
    s0.Onward (s.homeWrite writer ar l bs) := onward_clearPoison (onward_poke (onward_note (onward_announce h)))

@[simp] theorem onward_soil {core a n : Nat} (h : s0.Onward s) : s0.Onward (s.soil core a n) := by
  unfold State.soil
  simp +contextual [h, onward_foldl]

@[simp] theorem onward_writeBack {core : Nat} {p : Nat → Bool} (h : s0.Onward s) : s0.Onward (s.writeBack core p) := h

@[simp] theorem onward_discard {core : Nat} {p : Nat → Bool} (h : s0.Onward s) :
    s0.Onward (s.discard core p) := onward_foldl (fun _ _ => onward_poke) _ h

@[simp] theorem onward_seeAll {uid tid : Nat} (h : s0.Onward s) : s0.Onward (s.seeAll uid tid) := h

@[simp] theorem onward_seeCrew {uid tid : Nat} (h : s0.Onward s) : s0.Onward (s.seeCrew uid tid) := h

@[simp] theorem onward_wr64 {a : Nat} {v : Nat} (h : s0.Onward s) : s0.Onward (s.wr64 a v) := by
  unfold State.wr64
  simp [h]

@[simp] theorem onward_ringWrite {p : PartRef} {r : ToolRing} {rec : List Byte} (h : s0.Onward s) : s0.Onward (s.ringWrite p r rec) := by
  unfold State.ringWrite
  dsimp only
  repeat' split
  all_goals simp (disch := simp [h]) [h]

@[simp] theorem onward_sendFrame {uid : Nat} {bs : List Byte} (h : s0.Onward s) : s0.Onward (s.sendFrame uid bs) := by
  unfold State.sendFrame
  dsimp only
  repeat' split
  all_goals simp [h]

@[simp] theorem onward_streamBytes {uid : Nat} {bs : List Byte} (h : s0.Onward s) : s0.Onward (s.streamBytes uid bs) := by
  unfold State.streamBytes
  simp +contextual [h, onward_foldl]

@[simp] theorem onward_writePacket {uid cyc kind arg : Nat} {payload : List Byte} (h : s0.Onward s) :
    s0.Onward (s.writePacket uid cyc kind arg payload) := by
  unfold State.writePacket
  simp [h]

@[simp] theorem onward_emitAt {uid cyc kind arg : Nat} {payload : List Byte} (h : s0.Onward s) :
    s0.Onward (s.emitAt uid cyc kind arg payload) := by
  unfold State.emitAt
  dsimp only
  split <;> simp [h]

@[simp] theorem onward_holdPacket {uid : Nat} {owner : Option (Nat × Nat)} {kind arg : Nat} {payload : List Byte} (h : s0.Onward s) :
    s0.Onward (s.holdPacket uid owner kind arg payload) := by
  unfold State.holdPacket
  simp [h]

@[simp] theorem onward_traceWhile {uid : Nat} {ok : HeldPacket → Bool} (h : s0.Onward s) : s0.Onward (s.traceWhile uid ok) := by
  unfold State.traceWhile
  dsimp only
  split <;> simp +contextual [h, onward_foldl]

@[simp] theorem onward_traceOut {uid : Nat} (h : s0.Onward s) : s0.Onward (s.traceOut uid) := by
  unfold State.traceOut
  simp [h]

@[simp] theorem onward_emit {uid kind arg : Nat} {payload : List Byte} (h : s0.Onward s) : s0.Onward (s.emit uid kind arg payload) := by
  unfold State.emit
  simp [h]

@[simp] theorem onward_packet {uid tid kind arg : Nat} {payload : List Byte} (h : s0.Onward s) :
    s0.Onward (s.packet uid tid kind arg payload) := by
  unfold State.packet
  simp [h]

@[simp] theorem onward_wordPacket {uid tid kind arg : Nat} {payload : List Byte} (h : s0.Onward s) :
    s0.Onward (s.wordPacket uid tid kind arg payload) := by
  unfold State.wordPacket
  split <;> simp [h]

/-! ### The shared operations of the core -/

@[simp] theorem onward_killCrews {src ldev task : Nat} {k : KillCause} (h : s0.Onward s) :
    s0.Onward (s.killCrews src ldev task k) := onward_log h

@[simp] theorem onward_killTask {src ldev task status : Nat} {k : KillCause} (h : s0.Onward s) :
    s0.Onward (s.killTask src ldev task status k) := by
  unfold State.killTask
  simp [h]

@[simp] theorem onward_logFault {c : Crew} {code dump : Nat} (h : s0.Onward s) : s0.Onward (s.logFault c code dump) := by
  unfold State.logFault
  simp [h]

@[simp] theorem onward_fatal {p : PairRef} {r : TrapRec} (h : s0.Onward s) : s0.Onward (s.fatal p r) := by
  unfold State.fatal
  dsimp only
  repeat' split
  all_goals simp [h]

@[simp] theorem onward_withdraw {uid gid : Nat} (h : s0.Onward s) : s0.Onward (s.withdraw uid gid) := h

@[simp] theorem onward_closeSpawns {uid : Nat} (h : s0.Onward s) : s0.Onward (s.closeSpawns uid) := by
  unfold State.closeSpawns
  dsimp only
  split <;> simp +contextual [h, onward_foldl]

@[simp] theorem onward_retireIdle {uid : Nat} (h : s0.Onward s) : s0.Onward (s.retireIdle uid) := by
  unfold State.retireIdle
  simp [h]

@[simp] theorem onward_afterExit {uid : Nat} (h : s0.Onward s) : s0.Onward (s.afterExit uid) := by
  unfold State.afterExit
  simp [h]

@[simp] theorem onward_wake {uid : Nat} {p : Wait → Bool} {v w : DWord} (h : s0.Onward s) : s0.Onward (s.wake uid p v w) := h

@[simp] theorem onward_wakeBar {uid off status : Nat} (h : s0.Onward s) : s0.Onward (s.wakeBar uid off status) := h

@[simp] theorem onward_setAbandon {uid : Nat} (h : s0.Onward s) : s0.Onward (s.setAbandon uid) := h

@[simp] theorem onward_killConsumer {uid tid : Nat} (h : s0.Onward s) : s0.Onward (s.killConsumer uid tid) := by
  unfold State.killConsumer
  dsimp only
  repeat' split
  all_goals simp (disch := simp [h]) [h]

@[simp] theorem onward_pend {p : PairRef} {f : FaultInfo} (h : s0.Onward s) : s0.Onward (s.pend p f) := by
  unfold State.pend
  simp [h]

@[simp] theorem onward_coreWrite {core : Nat} {priv : Bool} {ar : Option ArenaRef} {l : Loc} {bs : List Byte} (h : s0.Onward s) :
    s0.Onward (s.coreWrite core priv ar l bs) := by
  unfold State.coreWrite
  repeat' split
  all_goals simp [h]

@[simp] theorem onward_awaitFill {l : Loc} {n : Nat} (h : s0.Onward s) : s0.Onward (s.awaitFill l n) := by
  unfold State.awaitFill
  split <;> simp [h]

@[simp] theorem onward_performLane {uid : Nat} {w : PendWrite} {l : LaneWrite} (h : s0.Onward s) : s0.Onward (s.performLane uid w l).2 := by
  unfold State.performLane
  dsimp only
  repeat' split
  all_goals simp [h]

@[simp] theorem onward_performHead {uid tid : Nat} {die : Option Nat} (h : s0.Onward s) : s0.Onward (s.performHead uid tid die) := by
  unfold State.performHead
  dsimp only
  repeat' split
  all_goals simp [h]

/-! ### The MTX class (14) -/

@[simp] theorem onward_drain {uid tid : Nat} {die : Option Nat} (h : s0.Onward s) :
    s0.Onward (s.drain uid tid die) := onward_performN (fun _ => onward_performHead) _ h

/-! ### The shared operations of the core -/

@[simp] theorem onward_drainLocal {uid tid : Nat} (h : s0.Onward s) : s0.Onward (s.drainLocal uid tid) := by
  unfold State.drainLocal
  simp [h]

@[simp] theorem onward_drainAll {uid tid : Nat} (h : s0.Onward s) :
    s0.Onward (s.drainAll uid tid) := onward_foldl (fun _ _ => onward_drain) _ h

@[simp] theorem onward_passTo {c n : Nat} (h : s0.Onward s) : s0.Onward (s.passTo c n) := by
  unfold State.passTo
  simp [h]

@[simp] theorem onward_drainWindow {uid tid : Nat} (h : s0.Onward s) : s0.Onward (s.drainWindow uid tid) := by
  unfold State.drainWindow
  split <;> simp [h]

@[simp] theorem onward_enterWindow {uid tid eng : Nat} {caps : List Nat} (h : s0.Onward s) :
    s0.Onward (s.enterWindow uid tid eng caps) := by
  unfold State.enterWindow
  dsimp only
  repeat' split
  all_goals simp [h]

@[simp] theorem onward_leaveWindow {uid tid : Nat} (h : s0.Onward s) : s0.Onward (s.leaveWindow uid tid) := h

@[simp] theorem onward_enterFirmware {p : PairRef} {cause : Nat} {hdr : Word} {word : Nat} (h : s0.Onward s) :
    s0.Onward (s.enterFirmware p cause hdr word) := h

@[simp] theorem onward_enterTrap {p : PairRef} {pc : Word} {r : TrapRec} (h : s0.Onward s) : s0.Onward (s.enterTrap p pc r) := by
  unfold State.enterTrap
  simp [h]

@[simp] theorem onward_take {p : PairRef} {f : FaultInfo} {hdr : Word} {word : Nat} (h : s0.Onward s) :
    s0.Onward (s.take p f hdr word) := by
  unfold State.take
  dsimp only
  repeat' split
  all_goals simp [h]

@[simp] theorem onward_faultWord {f : FaultInfo} (h : s0.Onward s) : s0.Onward (s.faultWord f) := by
  unfold State.faultWord
  simp [h]

@[simp] theorem onward_yieldRank {p : PairRef} (h : s0.Onward s) : s0.Onward (s.yieldRank p) := h

@[simp] theorem onward_singleStep {p : PairRef} (h : s0.Onward s) : s0.Onward (s.singleStep p) := by
  unfold State.singleStep
  simp [h]

@[simp] theorem onward_countStep {p : PairRef} (h : s0.Onward s) : s0.Onward (s.countStep p) := by
  unfold State.countStep
  dsimp only
  split <;> simp [h]

@[simp] theorem onward_clauseEnd {p : PairRef} (h : s0.Onward s) : s0.Onward (s.clauseEnd p) := by
  unfold State.clauseEnd
  simp [h]

@[simp] theorem onward_advance (h : s0.Onward s) : s0.Onward (s.advance) := by
  unfold State.advance
  simp [h]

@[simp] theorem onward_goTo {pc : Word} {clears : Bool} (h : s0.Onward s) : s0.Onward (s.goTo pc clears) := by
  unfold State.goTo
  simp [h]

@[simp] theorem onward_suspend {w : Wait} (h : s0.Onward s) : s0.Onward (s.suspend w) := h

@[simp] theorem onward_settle {r : Res} {old : Bool} (h : s0.Onward s) (hr : s0.Onward r.state) : s0.Onward (s.settle old r) := by
  unfold State.settle
  split
  · exact onward_advance hr
  · exact onward_goTo hr
  · exact hr
  · refine onward_suspend ?_
    split
    · exact hr
    · exact onward_leaveWindow hr
  · exact onward_faultWord hr

@[simp] theorem onward_wrBar {uid off : Nat} {b : Bar} (h : s0.Onward s) : s0.Onward (s.wrBar uid off b) := h

@[simp] theorem onward_arriveBar {uid off n : Nat} (h : s0.Onward s) : s0.Onward (s.arriveBar uid off n).2 := by
  unfold State.arriveBar
  dsimp only
  repeat' split
  all_goals simp (disch := simp [h])

@[simp] theorem onward_finishOp {o : OpRef} {op : Op} {count : Nat} {err : Option FaultInfo} {r : Option OpRecord} (h : s0.Onward s) :
    s0.Onward (s.finishOp o op count err r) := by
  unfold State.finishOp
  dsimp only
  repeat' split
  all_goals simp [h]

@[simp] theorem onward_accept {x : Ctx} {mk : Nat → Op} (h : s0.Onward s) : s0.Onward (s.accept x mk).2 := h

/-! ### The VEC class (09) -/

@[simp] theorem onward_wrPLanes {n : Nat} {A : Word} {v : Nat → Bool} (h : s0.Onward s) : s0.Onward (s.wrPLanes n A v) := by
  unfold State.wrPLanes
  simp [h]

/-! ### The SCA class (07, R148 to R159) -/

@[simp] theorem onward_wrFmt {v : Word} (h : s0.Onward s) : s0.Onward (s.wrFmt v) := h

/-! ### The CTL class (07, R129 to R147) -/

@[simp] theorem onward_refreshBlk {uid tid : Nat} (h : s0.Onward s) : s0.Onward (s.refreshBlk uid tid) := by
  unfold State.refreshBlk
  simp [h]

@[simp] theorem onward_branchPacket {take : Bool} (h : s0.Onward s) : s0.Onward (s.branchPacket take) := by
  unfold State.branchPacket
  simp [h]

@[simp] theorem onward_indirectPacket {pc : Word} (h : s0.Onward s) : s0.Onward (s.indirectPacket pc) := by
  unfold State.indirectPacket
  simp [h]

@[simp] theorem onward_branchOn {take : Bool} {pc : Word} (h : s0.Onward s) : s0.Onward (branchOn s take pc).state := by
  unfold branchOn
  split <;> simp [h]

@[simp] theorem onward_brpBody {f : FmtCB} (h : s0.Onward s) : s0.Onward (brpBody f s).state := by
  unfold brpBody
  dsimp only
  repeat' split
  all_goals simp (disch := simp [h]) [h]

@[simp] theorem onward_joinBody (h : s0.Onward s) : s0.Onward (joinBody s).state := by
  have hb := onward_refreshBlk (uid := s.cur.uid) (tid := s.cur.tid) h
  unfold joinBody
  dsimp only
  repeat' split
  all_goals simp [hb]

@[simp] theorem onward_endThread {uid tid : Nat} (h : s0.Onward s) : s0.Onward (s.endThread uid tid) :=
  onward_foldl (fun _ _ => onward_fatal) _ (onward_foldl (fun _ _ => onward_fatal) _ (onward_afterExit (onward_drainWindow h)))

@[simp] theorem onward_exitBody (h : s0.Onward s) : s0.Onward (exitBody s).state := by
  unfold exitBody
  dsimp only
  repeat' split
  all_goals simp [h]

@[simp] theorem onward_callTo {pc : Word} {after : State → State} (ha : ∀ s, s0.Onward s → s0.Onward (after s)) (h : s0.Onward s) :
    s0.Onward (callTo s pc after).state := by
  unfold callTo
  dsimp only
  split
  · exact h
  · split
    · exact h
    · exact ha _ h

@[simp] theorem onward_retBody (h : s0.Onward s) : s0.Onward (retBody s).state := by
  have hb := onward_refreshBlk (uid := s.cur.uid) (tid := s.cur.tid) h
  unfold retBody
  dsimp only
  repeat' split
  all_goals simp [hb]

/-! ### Stopping a crew (R417, R418), the joined name of a source (R412), and what a stop does to the collectives -/

@[simp] theorem onward_namePacket {uid : Nat} (h : s0.Onward s) : s0.Onward (s.namePacket uid) := by
  unfold State.namePacket
  simp [h]

@[simp] theorem onward_haltRule {p : PartRef} {id : Nat} (h : s0.Onward s) : s0.Onward (s.haltRule p id) := by
  unfold State.haltRule
  dsimp only
  repeat' split
  all_goals simp [h]

@[simp] theorem onward_haltRules {p : PartRef} (h : s0.Onward s) : s0.Onward (s.haltRules p) := by
  unfold State.haltRules
  simp +contextual [h, onward_foldl]

@[simp] theorem onward_pauseTask {c : Crew} (h : s0.Onward s) : s0.Onward (s.pauseTask c) := h

@[simp] theorem onward_thawWatchdog {p : PartRef} {t : Nat} (h : s0.Onward s) : s0.Onward (s.thawWatchdog p t) := h

@[simp] theorem onward_stopCrew {p : PairRef} {kind : StopKind} {code : Nat} {hits lanes : Word} (h : s0.Onward s) :
    s0.Onward (s.stopCrew p kind code hits lanes) := by
  unfold State.stopCrew
  dsimp only
  split <;> simp [h]

@[simp] theorem onward_unstop {uid : Nat} (h : s0.Onward s) : s0.Onward (s.unstop uid) := by
  unfold State.unstop
  dsimp only
  repeat' split
  all_goals simp [h]

/-! ### The MEM class (10) -/

@[simp] theorem onward_watchHit {a : Access} (h : s0.Onward s) : s0.Onward (s.watchHit a) := by
  unfold State.watchHit
  simp [h]

@[simp] theorem onward_startWalk {die ldev page : Nat} (h : s0.Onward s) : s0.Onward (s.startWalk die ldev page) := by
  unfold State.startWalk
  simp [h]

@[simp] theorem onward_withPages {a : Access} {go : State → Res} (hg : ∀ s, s0.Onward s → s0.Onward (go s).state) (h : s0.Onward s) :
    s0.Onward (withPages s a go).state := by
  unfold withPages
  dsimp only
  split
  · exact hg _ h
  · split
    · exact onward_startWalk h
    · exact hg _ (onward_foldl (f := fun s pg => s.modCore _ (Core.learn · pg)) (fun _ _ hs => hs) _ h)

@[simp] theorem onward_withAccess {a : Access} {go : State → Res} (hg : ∀ s, s0.Onward s → s0.Onward (go s).state) (h : s0.Onward s) :
    s0.Onward (withAccess s a go).state := by
  unfold withAccess
  split
  · exact h
  · exact h
  · split
    · exact onward_watchHit h
    · split
      · exact h
      · refine onward_withPages (fun s hs => ?_) h
        split
        · exact hs
        · exact hg _ hs

@[simp] theorem onward_settleOwn {l : Loc} {n : Nat} (h : s0.Onward s) : s0.Onward (s.settleOwn l n) := by
  unfold State.settleOwn
  dsimp only
  repeat' split
  all_goals simp (disch := simp [h]) [h]

@[simp] theorem onward_loadBytes {hr : HReg} {l : Loc} {n lane : Nat} (h : s0.Onward s) : s0.Onward (s.loadBytes hr l n lane).2 := by
  unfold State.loadBytes
  dsimp only
  repeat' split
  all_goals simp (disch := simp [h]) [h]

@[simp] theorem onward_loadLanes {a : Access} (h : s0.Onward s) : s0.Onward (s.loadLanes a).2 := by
  unfold State.loadLanes
  generalize hr : ([], s) = r
  have h : s0.Onward r.2 := hr ▸ h
  clear hr
  induction a.list generalizing r with
  | nil => exact h
  | cons l ls ih => exact ih _ (onward_loadBytes h)

@[simp] theorem onward_acquireAt {scope : Nat} (h : s0.Onward s) : s0.Onward (s.acquireAt scope) := by
  unfold State.acquireAt
  split <;> simp [h]

@[simp] theorem onward_loadBody {f : FmtMV} {sg : Bool} (h : s0.Onward s) : s0.Onward (loadBody f sg s).state := by
  unfold loadBody
  dsimp only
  split
  · exact h
  · refine onward_withAccess (fun t hs => ?_) h
    split
    · exact hs
    · split
      · exact hs
      · have hl : s0.Onward (if f.ord == 1 && 1 ≤ f.scope.toNat then t.acquireAt f.scope.toNat else t) := by simp [hs]
        have hv := onward_loadLanes (a := t.mvAccess f .load (s.lanes f.gp 0)) hl
        split
        · exact onward_wrV (onward_acquireAt hv)
        · exact onward_wrV hv

@[simp] theorem onward_sloadBody {f : FmtMS} {sg : Bool} (h : s0.Onward s) : s0.Onward (sloadBody f sg s).state := by
  refine onward_withAccess (fun s hs => ?_) h
  dsimp only
  split
  · exact hs
  · split
    · exact hs
    · exact onward_wrS (onward_loadLanes hs)

@[simp] theorem onward_enqueue {w : PendWrite} (h : s0.Onward s) : s0.Onward (s.enqueue w) := h

theorem onward_atomLane {a : Access} {ty k l : Nat} {val cmp : Nat → Nat} {r : AtomRun} (h : s0.Onward r.2.2) :
    s0.Onward (atomLane a ty k val cmp r l).2.2 := by
  obtain ⟨vs, fault, s⟩ := r
  unfold atomLane
  dsimp only at h ⊢
  split
  · exact h
  · split
    · exact onward_coreWrite (onward_settleOwn h)
    · exact onward_settleOwn h

@[simp] theorem onward_atomGo {a : Access} {ty k : Nat} {val cmp : Nat → Nat} {fin : List (Nat × Nat) → State → Res} {vs : List
    (Nat × Nat)} {fault : Option (Exc × Word × DWord)} (hg : ∀ vs s, s0.Onward s → s0.Onward (fin vs s).state) (h : s0.Onward s) :
    s0.Onward (atomGo a ty k val cmp fin vs fault s).state := by
  have hfold : ∀ (l : List Nat) (r : AtomRun), s0.Onward r.2.2 → s0.Onward (l.foldl (atomLane a ty k val cmp) r).2.2 := by
    intro l
    induction l with
    | nil => exact fun _ hr => hr
    | cons x l ih => exact fun r hr => ih _ (onward_atomLane hr)
  unfold atomGo
  dsimp only
  generalize (if s.cur.only = 0 then a.list.filter fun l => !vs.any fun x => x.1 == l
    else (a.list.filter fun l => !vs.any fun x => x.1 == l).take s.cur.only) = now
  split
  · exact hfold _ (vs, fault, s) h
  · split
    · exact hg _ _ (onward_acquireAt (hfold _ (vs, fault, s) h))
    · exact onward_acquireAt (hfold _ (vs, fault, s) h)

@[simp] theorem onward_atomBody {a : Access} {ty k : Nat} {val cmp : Nat → Nat} {fin : List (Nat × Nat) → State → Res}
    (hg : ∀ vs s, s0.Onward s → s0.Onward (fin vs s).state) (h : s0.Onward s) :
    s0.Onward (atomBody a ty k val cmp fin s).state := by
  unfold atomBody
  split
  · exact onward_atomGo hg h
  · refine onward_withAccess (fun s hs => ?_) h
    split
    · exact hs
    · exact onward_atomGo hg (onward_applyAll (onward_drainLocal hs))

@[simp] theorem onward_withBar {f : FmtMB} {go : State → Nat → Res} (hg : ∀ s n, s0.Onward s → s0.Onward (go s n).state) (h : s0.Onward s) :
    s0.Onward (withBar f s go).state := by
  unfold withBar
  dsimp only
  split
  · exact h
  · split
    · exact h
    · split
      · exact onward_watchHit h
      · exact hg _ _ (onward_drainLocal h)

@[simp] theorem onward_barStatus {f : FmtMB} {n : Nat} (h : s0.Onward s) : s0.Onward (s.barStatus f n).state := by
  unfold State.barStatus
  simp [h]

@[simp] theorem onward_barEnd {f : FmtMB} {v : DWord} (h : s0.Onward s) : s0.Onward (s.barEnd f v).state := by
  unfold State.barEnd
  split <;> simp [h]

@[simp] theorem onward_barWait {f : FmtMB} {o : Nat} {ph : Bool} (h : s0.Onward s) : s0.Onward (s.barWait f o ph).state := by
  unfold State.barWait
  split <;> simp [h]

@[simp] theorem onward_resumeBar {f : FmtMB} {first : Unit → Res} (hf : s0.Onward (first ()).state) (h : s0.Onward s) :
    s0.Onward (s.resumeBar f first).state := by
  unfold State.resumeBar
  split
  · exact onward_barEnd h
  · exact onward_barWait h
  · exact hf

/-! ### What the engine contexts share -/

@[simp] theorem onward_acceptCmd {x : Ctx} {room : Nat} {tok : BitVec 3} {bad : Option FaultInfo} {go : State → Res}
    (hg : ∀ s, s0.Onward s → s0.Onward (go s).state) (h : s0.Onward s) :
    s0.Onward (acceptCmd s x room tok bad go).state := by
  unfold acceptCmd
  split
  · exact h
  · split
    · exact h
    · exact hg _ (onward_drainLocal h)

@[simp] theorem onward_withHandles {hs : List Nat} {go : State → Res} (hg : ∀ s, s0.Onward s → s0.Onward (go s).state) (h : s0.Onward s) :
    s0.Onward (withHandles s hs go).state := by
  unfold withHandles
  split
  · exact h
  · exact hg _ h

@[simp] theorem onward_opWrite {o : OpRef} {hr : HReg} {off : Nat} {bs : List Byte} (h : s0.Onward s) :
    s0.Onward (s.opWrite o hr off bs) := by
  unfold State.opWrite
  simp [h]

@[simp] theorem onward_failOp {o : OpRef} {f : FaultInfo} (h : s0.Onward s) : s0.Onward (s.failOp o f) := h

@[simp] theorem onward_stopOp {o : OpRef} {st : OpStop} (h : s0.Onward s) : s0.Onward (s.stopOp o st) := by
  unfold State.stopOp
  split <;> simp [h]

/-! ### The MTX class (14) -/

@[simp] theorem onward_afterMatrix {go : State → Res} (hg : ∀ s, s0.Onward s → s0.Onward (go s).state) (h : s0.Onward s) :
    s0.Onward (afterMatrix s go).state := by
  unfold afterMatrix
  dsimp only
  repeat' split
  all_goals first | exact hg _ h | exact h

@[simp] theorem onward_mtxStart {op : Nat} {f : FmtEB} {bad : Option FaultInfo} (h : s0.Onward s) : s0.Onward (mtxStart op f s bad).state :=
  onward_withHandles (fun _ hs => onward_acceptCmd (fun _ ht => onward_accept ht) hs) h

@[simp] theorem onward_loopStep {o : OpRef} {op : Op} (h : s0.Onward s) : s0.Onward (s.loopStep o op) := by
  unfold State.loopStep
  dsimp only
  split <;> simp [h]

@[simp] theorem onward_drainStep {o : OpRef} {op : Op} (h : s0.Onward s) : s0.Onward (s.drainStep o op) := by
  unfold State.drainStep
  dsimp only
  repeat' split
  all_goals simp [h]

@[simp] theorem onward_matrixStep {o : OpRef} {op : Op} (h : s0.Onward s) : s0.Onward (s.matrixStep o op) := by
  unfold State.matrixStep
  repeat' split
  all_goals simp [h]

/-! ### The CPY class (13) -/

@[simp] theorem onward_copyPacket {uid num : Nat} {ended err : Bool} (h : s0.Onward s) : s0.Onward (s.copyPacket uid num ended err) := by
  unfold State.copyPacket
  simp [h]

@[simp] theorem onward_yieldTo {cont : Int} {num : Nat} (h : s0.Onward s) : s0.Onward (s.yieldTo cont num) := by
  unfold State.yieldTo
  simp [h]

@[simp] theorem onward_moveBytes {o : OpRef} {x y : Side} {i j n : Nat} (h : s0.Onward s) : s0.Onward (s.moveBytes o x y i j n).1 := by
  unfold State.moveBytes
  split <;> simp [h]

@[simp] theorem onward_postStep {o : OpRef} {op : Op} (h : s0.Onward s) : s0.Onward (s.postStep o op) := by
  unfold State.postStep
  dsimp only
  repeat' split
  all_goals simp [h]

@[simp] theorem onward_tileBytes {o : OpRef} {op : Op} {u i n : Nat} (h : s0.Onward s) : s0.Onward (s.tileBytes o op u i n).1 := by
  unfold State.tileBytes
  split <;> simp [h]

theorem onward_copyBytes {o : OpRef} {op : Op} {i : Nat} {one : Bool} (h : s0.Onward s) : s0.Onward (s.copyBytes o op i one).1 := by
  unfold State.copyBytes
  split
  · dsimp only
    split
    · exact onward_stopOp h
    · exact onward_opWrite h
  · exact onward_moveBytes h

@[simp] theorem onward_copyStep {o : OpRef} {op : Op} {n : Nat} (h : s0.Onward s) : s0.Onward (s.copyStep o op n) := by
  unfold State.copyStep
  dsimp only
  have hs : s0.Onward (if op.st == .accepted then s.modOp o fun p => { p with st := .running, since := s.now } else s) := by simp [h]
  generalize (if op.st == .accepted then s.modOp o fun p => { p with st := .running, since := s.now } else s) = t at hs ⊢
  generalize (if op.st == .accepted then { op with st := .running, since := s.now } else op) = op
  repeat' split
  all_goals simp [hs, onward_copyBytes]

@[simp] theorem onward_receive {o : OpRef} {op : Op} {bit : Nat} (h : s0.Onward s) : s0.Onward (s.receive o op bit) := by
  unfold State.receive
  dsimp only
  repeat' split
  all_goals simp [h]

/-! ### What the brewhouse does for every requester -/

@[simp] theorem onward_setWin {off : Nat} {v : DWord} (h : s0.Onward s) : s0.Onward (s.setWin off v) := h

@[simp] theorem onward_raise {vec : Nat} (h : s0.Onward s) : s0.Onward (s.raise vec) := by
  unfold State.raise
  split <;> simp [h]

@[simp] theorem onward_setWins {off : Nat} {l : List DWord} (h : s0.Onward s) : s0.Onward (s.setWins off l) := by
  induction l generalizing s off with
  | nil => exact h
  | cons v l ih => exact ih h

@[simp] theorem onward_respond {c : Cmd} {status : Nat} {results : List Nat} {tail : List Byte} (h : s0.Onward s) :
    s0.Onward (s.respond c status results tail) := by
  unfold State.respond
  dsimp only
  split
  · exact onward_raise (onward_setWin (onward_setWins h))
  · exact h

/-! ### The MSG class (18) -/

@[simp] theorem onward_answer {c : Cmd} {status : Nat} {results : List Nat} (h : s0.Onward s) : s0.Onward (s.answer c status results) := by
  unfold State.answer
  simp [h]

/-! ### What the brewhouse does for every requester -/

@[simp] theorem onward_answerAll {p : PendCmd → Bool} {status : Nat} (h : s0.Onward s) : s0.Onward (s.answerAll p status) := by
  unfold State.answerAll
  simp +contextual [h, onward_foldl]

@[simp] theorem onward_charge {p : PartRef} {i c : Nat} (h : s0.Onward s) : s0.Onward (s.charge p i c) := by
  unfold State.charge
  simp +contextual [h, onward_foldl]

theorem onward_newArena {p : PartRef} {parent quota i : Nat} {cap : Word} {held : Bool} {t : State} (h : s0.Onward s)
    (ht : s.newArena p parent quota cap held = some (i, t)) : s0.Onward t := by
  obtain ⟨_, _, hk⟩ := Option.map_eq_some_iff.1 ht
  obtain ⟨rfl, rfl⟩ := Prod.mk.inj hk
  exact h

@[simp] theorem onward_arNew {p : PartRef} {parent : Nat} {quota cap : DWord} (h : s0.Onward s) :
    s0.Onward (s.arNew p parent quota cap).2 := by
  unfold State.arNew
  split
  · exact h
  · exact onward_newArena h ‹_›

@[simp] theorem onward_arQuota {p : PartRef} {i : Nat} {quota cap : DWord} (h : s0.Onward s) : s0.Onward (s.arQuota p i quota cap) := h

@[simp] theorem onward_zeroRange {lo n : Nat} (h : s0.Onward s) : s0.Onward (s.zeroRange lo n) :=
  onward_clearPoison (h.withMem (Store.wf_filter _) ⟨rfl, rfl, rfl⟩)

@[simp] theorem onward_freeHandle {p : PartRef} (h : s0.Onward s) : s0.Onward (s.freeHandle p).2 := h

@[simp] theorem onward_newBase {p : PartRef} {c : Nat} (h : s0.Onward s) : s0.Onward (s.newBase p c).2 := by
  unfold State.newBase
  dsimp only
  split <;> simp [h]

@[simp] theorem onward_hAlloc {p : PartRef} {i : Nat} {bytes attr : DWord} (h : s0.Onward s) : s0.Onward (s.hAlloc p i bytes attr).2 := by
  unfold State.hAlloc
  dsimp only
  split
  · exact h
  · split
    · exact h
    · split
      · exact h
      · split
        · exact h
        · exact onward_newBase (onward_charge (.of_pair ‹_› (onward_freeHandle h)))

@[simp] theorem onward_mapArn {p : PartRef} {f : Op → Op} (h : s0.Onward s) : s0.Onward (s.mapArn p f) := h

@[simp] theorem onward_endArn {p : PartRef} {opcode : Nat} {l : List Nat} (h : s0.Onward s) : s0.Onward (s.endArn p opcode l) := h

@[simp] theorem onward_startSeal {p : PartRef} {i : Nat} (h : s0.Onward s) : s0.Onward (s.startSeal p i) := by
  unfold State.startSeal
  simp +contextual [h, onward_foldl]

@[simp] theorem onward_sealBits {p : PartRef} {i : Nat} {cache : Option Nat} (h : s0.Onward s) : s0.Onward (s.sealBits p i cache) := by
  unfold State.sealBits
  dsimp only
  repeat' split
  all_goals simp +contextual [h, onward_foldl]

@[simp] theorem onward_endSeal {p : PartRef} {i : Nat} (h : s0.Onward s) : s0.Onward (s.endSeal p i) := by
  unfold State.endSeal
  split
  · exact h
  · exact onward_answerAll (onward_endArn (onward_foldl (f := fun s j => s.modArena _ _) (fun _ _ hs => hs) _ h))

@[simp] theorem onward_breakSeals {p : PartRef} {set : List Nat} (h : s0.Onward s) : s0.Onward (s.breakSeals p set) := by
  unfold State.breakSeals
  simp [h]

@[simp] theorem onward_startDrop {p : PartRef} {i : Nat} (h : s0.Onward s) : s0.Onward (s.startDrop p i) := by
  unfold State.startDrop
  dsimp only
  split <;> simp +contextual [h, onward_foldl]

@[simp] theorem onward_dropAtCore {p : PartRef} {set : List Nat} {l : List (Nat × Nat)} {core : Nat} (h : s0.Onward s) :
    s0.Onward (s.dropAtCore p set l core) := by
  unfold State.dropAtCore
  simp [h]

@[simp] theorem onward_dropBits {p : PartRef} {cache : Option Nat} (h : s0.Onward s) : s0.Onward (s.dropBits p cache) := by
  unfold State.dropBits
  dsimp only
  repeat' split
  all_goals simp +contextual [h, onward_foldl]

@[simp] theorem onward_settleDropped {l : List (Nat × Nat)} {back : Nat} (h : s0.Onward s) : s0.Onward (s.settleDropped l back) := by
  unfold State.settleDropped
  simp +contextual [h, onward_foldl]

@[simp] theorem onward_endDropTable {p : PartRef} {back : Nat} (h : s0.Onward s) : s0.Onward (s.endDropTable p back) := by
  unfold State.endDropTable
  refine onward_foldl (f := fun s j => s.modArena _ _) (fun _ _ hs => hs) _ ?_
  refine onward_foldl (fun s j hs => ?_) _ (onward_settleDropped h)
  exact onward_foldl (f := fun s k => s.modArena _ _) (fun _ _ ht => ht) _ hs

@[simp] theorem onward_endDrop {p : PartRef} {back : Nat} (h : s0.Onward s) : s0.Onward (s.endDrop p back) := by
  unfold State.endDrop
  dsimp only
  all_goals simp (disch := simp [h]) [h]

/-! ### The ARN class (16) -/

@[simp] theorem onward_performSet {p : PartRef} {set : List Nat} (h : s0.Onward s) : s0.Onward (s.performSet p set) := by
  unfold State.performSet
  simp +contextual [h, onward_foldl]

@[simp] theorem onward_absorb {p : PartRef} {set : List Nat} (h : s0.Onward s) : s0.Onward (s.absorb p set) := h

/-! ### The MSG class (18) -/

@[simp] theorem onward_spawn {uid slot handler : Nat} {from_ : Nat × Nat × Nat} {len : Nat} {payload : List Byte} {s7 : DWord}
    (h : s0.Onward s) :
    s0.Onward (s.spawn uid slot handler from_ len payload s7) := by
  unfold State.spawn
  simp [h]

@[simp] theorem onward_park {core : Nat} {m : Parked} (h : s0.Onward s) : s0.Onward (s.park core m) := h

@[simp] theorem onward_unpark {core : Nat} {p : Parked → Bool} (h : s0.Onward s) : s0.Onward (s.unpark core p) := h

@[simp] theorem onward_opDone {o : OpRef} (h : s0.Onward s) : s0.Onward (s.opDone o) := h

@[simp] theorem onward_readSend {o : OpRef} {op : Op} (h : s0.Onward s) : s0.Onward (s.readSend o op) := by
  unfold State.readSend
  dsimp only
  repeat' split
  all_goals simp [h]

@[simp] theorem onward_spawnParked {uid : Nat} {m : Parked} {slot : Nat} (h : s0.Onward s) : s0.Onward (s.spawnParked uid m slot) := by
  unfold State.spawnParked
  dsimp only
  repeat' split
  all_goals simp [h]

@[simp] theorem onward_modGroup {p : PartRef} {gid : Nat} {f : CGroup → CGroup} (h : s0.Onward s) : s0.Onward (s.modGroup p gid f) := h

@[simp] theorem onward_modReady {uid gid : Nat} {f : Ready → Ready} (h : s0.Onward s) : s0.Onward (s.modReady uid gid f) := h

@[simp] theorem onward_modMsg {m : MsgRef} {f : GMsg → GMsg} (h : s0.Onward s) : s0.Onward (s.modMsg m f) := h

@[simp] theorem onward_dropMsg {m : MsgRef} (h : s0.Onward s) : s0.Onward (s.dropMsg m) := h

@[simp] theorem onward_readAsend {o : OpRef} {op : Op} (h : s0.Onward s) : s0.Onward (s.readAsend o op) := by
  unfold State.readAsend
  dsimp only
  repeat' split
  all_goals simp [h]

@[simp] theorem onward_loadMsg {m : GMsg} (h : s0.Onward s) : s0.Onward (s.loadMsg m) := by
  unfold State.loadMsg
  split <;> simp [h]

@[simp] theorem onward_assign {m : MsgRef} {uid : Nat} (h : s0.Onward s) : s0.Onward (s.assign m uid) := by
  unfold State.assign
  simp [h]

@[simp] theorem onward_steer {m : MsgRef} {core : Nat} {down : Bool} (h : s0.Onward s) : s0.Onward (s.steer m core down) := by
  unfold State.steer
  dsimp only
  repeat' split
  all_goals simp [h]

@[simp] theorem onward_atRoot {m : MsgRef} (h : s0.Onward s) : s0.Onward (s.atRoot m) := by
  unfold State.atRoot
  dsimp only
  repeat' split
  all_goals simp (disch := simp [h]) [h]

@[simp] theorem onward_steerMsg {m : MsgRef} (h : s0.Onward s) : s0.Onward (s.steerMsg m) := by
  unfold State.steerMsg
  dsimp only
  repeat' split
  all_goals simp [h]

@[simp] theorem onward_bounceMsg {m : MsgRef} (h : s0.Onward s) : s0.Onward (s.bounceMsg m) := by
  unfold State.bounceMsg
  repeat' split
  all_goals simp [h]

@[simp] theorem onward_delivered {m : MsgRef} {ord : Bool} (h : s0.Onward s) : s0.Onward (s.delivered m ord) := by
  unfold State.delivered
  split <;> simp [h]

@[simp] theorem onward_ringWriteMsg {m : MsgRef} (h : s0.Onward s) : s0.Onward (s.ringWriteMsg m) := by
  unfold State.ringWriteMsg
  dsimp only
  repeat' split
  all_goals simp (disch := simp (disch := simp [h]) [h]) [h]

@[simp] theorem onward_spawnMsg {m : MsgRef} (h : s0.Onward s) : s0.Onward (s.spawnMsg m) := by
  unfold State.spawnMsg
  dsimp only
  repeat' split
  all_goals simp (disch := simp [h]) [h]

@[simp] theorem onward_handover {m : MsgRef} (h : s0.Onward s) : s0.Onward (s.handover m) := by
  unfold State.handover
  dsimp only
  repeat' split
  all_goals simp (disch := simp (disch := simp [h]) [h]) [h]

@[simp] theorem onward_modColl {p : PartRef} {id : Nat} {f : Coll → Coll} (h : s0.Onward s) : s0.Onward (s.modColl p id f) := h

@[simp] theorem onward_readPost {o : OpRef} {op : Op} (h : s0.Onward s) : s0.Onward (s.readPost o op) := by
  unfold State.readPost
  dsimp only
  split <;> simp [h]

@[simp] theorem onward_freeColl {p : PartRef} {id : Nat} (h : s0.Onward s) : s0.Onward (s.freeColl p id) := h

@[simp] theorem onward_partial_ {p : PartRef} {id k core : Nat} (h : s0.Onward s) : s0.Onward (s.partial_ p id k core) := by
  unfold State.partial_
  dsimp only
  split <;> simp [h]

@[simp] theorem onward_remotePartial {p : PartRef} {id k core nth : Nat} {v : List Word} (h : s0.Onward s) :
    s0.Onward (s.remotePartial p id k core nth v) := by
  unfold State.remotePartial
  dsimp only
  repeat' split
  all_goals simp [h]

@[simp] theorem onward_remoteResult {p : PartRef} {id k core nth : Nat} {v : List Word} (h : s0.Onward s) :
    s0.Onward (s.remoteResult p id k core nth v) := by
  unfold State.remoteResult
  simp [h]

@[simp] theorem onward_roundResult {p : PartRef} {id k core : Nat} (h : s0.Onward s) : s0.Onward (s.roundResult p id k core) := by
  unfold State.roundResult
  dsimp only
  repeat' split
  all_goals simp (disch := simp [h]) [h]

/-! ### The SYS class (22) -/

@[simp] theorem onward_setPrivReg {uid tid n : Nat} {v : DWord} (h : s0.Onward s) : s0.Onward (s.setPrivReg uid tid n v) := by
  unfold State.setPrivReg
  repeat' apply onward_ite
  all_goals exact h

@[simp] theorem onward_modKiln {core k : Nat} {f : KilnPair → KilnPair} (h : s0.Onward s) : s0.Onward (s.modKiln core k f) := h

/-! ### Steps of the groups that no word encodes -/

@[simp] theorem onward_resume {p : PairRef} (h : s0.Onward s) : s0.Onward (s.resume p) := by
  unfold State.resume
  dsimp only
  split <;> simp [h]

@[simp] theorem onward_replayCore {core : Nat} (h : s0.Onward s) : s0.Onward (s.replayCore core) := h

@[simp] theorem onward_residueEvents {core : Nat} {caps : List Nat} (h : s0.Onward s) : s0.Onward (s.residueEvents core caps) := by
  unfold State.residueEvents
  simp +contextual [h, onward_foldl]

@[simp] theorem onward_deliver {p : PairRef} (h : s0.Onward s) : s0.Onward (s.deliver p) := by
  unfold State.deliver
  split <;> simp [h]

@[simp] theorem onward_spoil {uid key : Nat} (h : s0.Onward s) : s0.Onward (s.spoil uid key) := h

/-! ### Choosing and fetching -/

@[simp] theorem onward_payTrace {p : PairRef} {pc : Word} {word : Nat} (h : s0.Onward s) : s0.Onward (s.payTrace p pc word) := by
  unfold State.payTrace
  split <;> simp [h]

@[simp] theorem onward_setCur {p : PairRef} {hdr : Word} {word : Nat} {hr : Header} (h : s0.Onward s) :
    s0.Onward (s.setCur p hdr word hr) := h

@[simp] theorem onward_rankAt {p : PairRef} {word : Nat} {hr : Header} (h : s0.Onward s) : s0.Onward (s.rankAt p word hr) := by
  unfold State.rankAt
  simp [h]

@[simp] theorem onward_startClause {p : PairRef} {hw : Word} {hr : Header} (h : s0.Onward s) : s0.Onward (s.startClause p hw hr) := by
  unfold State.startClause
  split <;> simp [h]

@[simp] theorem onward_waitAt {p : PairRef} {w : Wait} (h : s0.Onward s) : s0.Onward (s.waitAt p w) := h

@[simp] theorem onward_breakHit {p : PairRef} (h : s0.Onward s) : s0.Onward (s.breakHit p) := by
  unfold State.breakHit
  simp [h]

/-! ### Steps of the memory system that no word encodes -/

@[simp] theorem onward_mapPage {ldev page size : Nat} {present : Bool} (h : s0.Onward s) : s0.Onward (s.mapPage ldev page size present) := h

@[simp] theorem onward_resolvePage {ldev page : Nat} (h : s0.Onward s) : s0.Onward (s.resolvePage ldev page) := h

@[simp] theorem onward_evict {k : Nat} (h : s0.Onward s) : s0.Onward (s.evict k) := by
  unfold State.evict
  simp [h]

@[simp] theorem onward_evictFor {l : LaneWrite} (h : s0.Onward s) : s0.Onward (s.evictFor l) := by
  unfold State.evictFor
  split
  · exact onward_foldl (fun _ _ => onward_evict) _ h
  · exact h

/-! ### Steps of the engine contexts that no word encodes -/

@[simp] theorem onward_endCopy {o : OpRef} {op : Op} (h : s0.Onward s) : s0.Onward (s.endCopy o op) := by
  unfold State.endCopy
  simp [h]

@[simp] theorem onward_endMatrix {o : OpRef} {op : Op} (h : s0.Onward s) : s0.Onward (s.endMatrix o op) := by
  unfold State.endMatrix
  simp [h]

@[simp] theorem onward_msgWork {o : OpRef} {op : Op} (h : s0.Onward s) : s0.Onward (s.msgWork o op) := by
  unfold State.msgWork
  repeat' split
  all_goals simp [h]

@[simp] theorem onward_endMessage {o : OpRef} {op : Op} (h : s0.Onward s) : s0.Onward (s.endMessage o op) := by
  unfold State.endMessage
  dsimp only
  repeat' split
  all_goals simp (disch := simp (disch := simp [h]) [h]) [h]

/-! ### Steps of the routers that no word encodes -/

@[simp] theorem onward_report {p : PartRef} {gid core : Nat} (h : s0.Onward s) : s0.Onward (s.report p gid core) := by
  unfold State.report
  dsimp only
  split <;> simp [h]

/-! ### What the task engine's steps share -/

@[simp] theorem onward_completion {p : PartRef} {k : Pkt} {status : Nat} (h : s0.Onward s) : s0.Onward (s.completion p k status) := by
  unfold State.completion
  repeat' split
  all_goals simp [h]

@[simp] theorem onward_clearType {ldev qn index : Nat} (h : s0.Onward s) : s0.Onward (s.clearType ldev qn index) := by
  unfold State.clearType
  simp [h]

@[simp] theorem onward_releaseQueue {ldev qn : Nat} (h : s0.Onward s) : s0.Onward (s.releaseQueue ldev qn) :=
  onward_foldl (fun s k hs => onward_ite (onward_clearType hs) hs) _ h

@[simp] theorem onward_freeSlot {ldev qn index : Nat} (h : s0.Onward s) : s0.Onward (s.freeSlot ldev qn index) := by
  unfold State.freeSlot
  simp [h]

@[simp] theorem onward_retirePkt {ldev qn : Nat} {k : Pkt} {status : Nat} (h : s0.Onward s) : s0.Onward (s.retirePkt ldev qn k status) := by
  unfold State.retirePkt
  dsimp only
  repeat' split
  all_goals simp (disch := simp [h]) [h]

@[simp] theorem onward_chargeQueue {c : Crew} (h : s0.Onward s) : s0.Onward (s.chargeQueue c) := h

@[simp] theorem onward_wakePart {p : PartRef} (h : s0.Onward s) : s0.Onward (s.wakePart p) := by
  unfold State.wakePart
  simp [h]

@[simp] theorem onward_leaveCore {uid : Nat} (h : s0.Onward s) : s0.Onward (s.leaveCore uid) := by
  unfold State.leaveCore
  dsimp only
  repeat' split
  all_goals simp [h]

@[simp] theorem onward_withdrawAll {uid : Nat} {keep : Bool} (h : s0.Onward s) : s0.Onward (s.withdrawAll uid keep) :=
  onward_foldl (fun _ _ hs => onward_modReady (onward_withdraw hs)) _ h

@[simp] theorem onward_dropAssigned {uid : Nat} (h : s0.Onward s) : s0.Onward (s.dropAssigned uid) := by
  unfold State.dropAssigned
  simp +contextual [h, onward_foldl]

@[simp] theorem onward_sendOpen {uid : Nat} (h : s0.Onward s) : s0.Onward (s.sendOpen uid) := by
  unfold State.sendOpen
  simp [h]

@[simp] theorem onward_closeFrame {uid : Nat} (h : s0.Onward s) : s0.Onward (s.closeFrame uid) := by
  unfold State.closeFrame
  simp [h]

@[simp] theorem onward_removeCrew {uid : Nat} (h : s0.Onward s) : s0.Onward (s.removeCrew uid) := by
  have hu := onward_dropAssigned (uid := uid) (onward_withdrawAll (uid := uid) (keep := false) (onward_closeFrame (uid := uid) h))
  unfold State.removeCrew
  dsimp only
  repeat' split
  all_goals simp (disch := simp [hu])

/-! ### The packets of the task engine (R29 to R34, R360 to R368) -/

@[simp] theorem onward_startPkt {k : PktRef} {p : Pkt} (h : s0.Onward s) : s0.Onward (s.startPkt k p) := by
  unfold State.startPkt
  simp [h]

@[simp] theorem onward_instant {k : PktRef} {task status : Nat} (h : s0.Onward s) : s0.Onward (s.instant k task status) := by
  unfold State.instant
  simp [h]

@[simp] theorem onward_pktStep {k : PktRef} {ty : Nat} {used : List DWord} {go : State → State} (hg : ∀ s, s0.Onward s → s0.Onward (go s))
    (h : s0.Onward s) :
    s0.Onward (pktStep k ty used s go) := by
  unfold pktStep
  split
  · exact h
  · split
    · exact onward_instant h
    · split
      · exact onward_instant h
      · exact hg _ h

@[simp] theorem onward_noteWait {ldev qn : Nat} {placeable : Bool} (h : s0.Onward s) : s0.Onward (s.noteWait ldev qn placeable) := h

/-! ### What the task engine's steps share -/

theorem onward_newPrivate {p : PartRef} {hd : Hdr} {blocks i base : Nat} {t : State} (h : s0.Onward s)
    (ht : s.newPrivate p hd blocks = some (i, base, t)) : s0.Onward t := by
  unfold State.newPrivate at ht
  dsimp only at ht
  split at ht
  · cases ht
  · split at ht
    · cases ht
    · next hn =>
      simp only [Option.some.injEq, Prod.mk.injEq] at ht
      obtain ⟨_, _, rfl⟩ := ht
      exact onward_zeroRange (onward_newBase (onward_charge (onward_newArena h hn)))

/-! ### The packets of the task engine (R29 to R34, R360 to R368) -/

@[simp] theorem onward_launchTask {k : PktRef} {p : PartRef} {hr : Hdr} (h : s0.Onward s) : s0.Onward (s.launchTask k p hr) := by
  unfold State.launchTask
  dsimp only
  split
  · exact onward_instant h
  · split
    · exact onward_instant h
    · split
      · exact onward_instant h
      · next hp =>
        rw [onward_modTask]
        refine onward_startPkt (onward_newPrivate ?_ hp)
        exact h

/-- What a LAUNCH does once its header has been found at an address. -/
def State.launchAt (s : State) (k : PktRef) (place : Option Nat) : State :=
  let p := pktPart s k
  match place with
  | none => s.instant k 0 psERROR
  | some a =>
    let d (i : Nat) : Nat := (s.rd64 (a + 8 * i)).toNat
    let h := readHdr d
    if s.badHeader p d h then s.instant k 0 1
    else
      let h := { h with handTbl := s.handTable p d h }
      let size := (s.handle p h.codeh).size
      if h.handTbl.any fun pc => pc != Config.noneAddr && badEntry size pc then s.instant k 0 1
      else s.launchTask k p h

theorem State.launchPkt_eq (k : PktRef) : s.launchPkt k = s.launchAt k (s.brewDword (pktPart s k) (s.pktD k 2) 128 128 true false) := by
  rfl

theorem State.launchAt_none (k : PktRef) : s.launchAt k none = s.instant k 0 psERROR := rfl

theorem State.launchAt_some (k : PktRef) (a : Nat) : s.launchAt k (some a) =
    let p := pktPart s k
    let d (i : Nat) : Nat := (s.rd64 (a + 8 * i)).toNat
    let h := readHdr d
    let h' := { h with handTbl := s.handTable p d h }
    if s.badHeader p d h then s.instant k 0 1 else 
    if h'.handTbl.any fun pc => pc != Config.noneAddr && badEntry (s.handle p h.codeh).size pc then s.instant k 0 1 else s.launchTask k p h' := rfl

@[simp] theorem onward_launchPkt {k : PktRef} (h : s0.Onward s) : s0.Onward (s.launchPkt k) := by
  rw [State.launchPkt_eq]
  cases s.brewDword (pktPart s k) (s.pktD k 2) 128 128 true false with
  | none => exact onward_instant h
  | some a =>
    rw [State.launchAt_some]
    exact onward_ite (onward_instant h) (onward_ite (onward_instant h) (onward_launchTask h))

@[simp] theorem onward_rereadWait {k : PktRef} {p : Pkt} (h : s0.Onward s) : s0.Onward (s.rereadWait k p) := by
  unfold State.rereadWait
  split <;> simp [h]

@[simp] theorem onward_rereadDepend {k : PktRef} {p : Pkt} (h : s0.Onward s) : s0.Onward (s.rereadDepend k p) := by
  unfold State.rereadDepend
  simp [h]

@[simp] theorem onward_copyElem {k : PktRef} {p : Pkt} (h : s0.Onward s) : s0.Onward (s.copyElem k p) := by
  unfold State.copyElem
  dsimp only
  repeat' split
  all_goals simp [h]

/-! ### Placement and pre-emption (R47, R369 to R376), and the ends of crews and tasks (R49 to R52, R379, R380) -/

@[simp] theorem onward_preempt {uid : Nat} (h : s0.Onward s) : s0.Onward (s.preempt uid) := h

@[simp] theorem onward_preemptAll {uid : Nat} (h : s0.Onward s) : s0.Onward (s.preemptAll uid) := by
  unfold State.preemptAll
  dsimp only
  split <;> simp +contextual [h, onward_foldl]

@[simp] theorem onward_noteWaits {p : PartRef} (h : s0.Onward s) : s0.Onward (s.noteWaits p) := by
  unfold State.noteWaits
  simp +contextual [h, onward_foldl]

@[simp] theorem onward_turn {p : PartRef} {lvl : Nat} {l : List (Nat × Queue)} (h : s0.Onward s) : s0.Onward (s.turn p lvl l) := by
  unfold State.turn
  split <;> simp [h]

@[simp] theorem onward_dropCurrent {p : PartRef} {lvl : Nat} {l : List (Nat × Queue)} (h : s0.Onward s) :
    s0.Onward (s.dropCurrent p lvl l) := by
  unfold State.dropCurrent
  split <;> simp [h]

@[simp] theorem onward_takeCore {uid core : Nat} (h : s0.Onward s) : s0.Onward (s.takeCore uid core) := by
  unfold State.takeCore
  dsimp only
  all_goals simp (disch := simp [h]) [h]

@[simp] theorem onward_makeRegwin {uid : Nat} (h : s0.Onward s) : s0.Onward (s.makeRegwin uid) := by
  have hu := onward_freeHandle (p := (s.crew uid).pref) h
  unfold State.makeRegwin
  dsimp only
  split
  · next hf => exact .of_pair hf hu
  · next hf =>
    have ht := State.Onward.of_pair hf hu
    exact ht

@[simp] theorem onward_placeNew {p : PartRef} {task idx core : Nat} (h : s0.Onward s) : s0.Onward (s.placeNew p task idx core) := by
  unfold State.placeNew
  dsimp only
  repeat' split
  all_goals simp (disch := simp (disch := simp [h]) [h]) [h]

@[simp] theorem onward_placeSaved {uid core : Nat} (h : s0.Onward s) : s0.Onward (s.placeSaved uid core) := by
  unfold State.placeSaved
  simp [h]

theorem onward_plan {p : PartRef} {hd : Hdr} {soon : Bool} {l : List Placing} {chosen : List Nat} (h : s0.Onward s) :
    s0.Onward (s.plan p hd soon l chosen).2 := by
  induction l generalizing s chosen with
  | nil => exact h
  | cons x l ih =>
    have hc := onward_choose (d := none) (l := (s.bestCores p hd x chosen soon).map some) h
    unfold State.plan
    split
    · exact h
    · exact ih (.of_pair ‹_› hc)

theorem onward_placeList {p : PartRef} {task : Nat} {l : List (Placing × Nat)} (h : s0.Onward s) : s0.Onward (s.placeList p task l) := by
  induction l generalizing s with
  | nil => exact h
  | cons x l ih =>
    obtain ⟨⟨idx, _ | u⟩, core⟩ := x
    · exact ih (onward_placeNew h)
    · exact ih (onward_placeSaved h)

@[simp] theorem onward_serve {p : PartRef} {lvl qn core : Nat} (h : s0.Onward s) : s0.Onward (s.serve p lvl qn core) := by
  unfold State.serve
  dsimp only
  split
  · exact h
  · next n _ =>
    split
    · exact h
    · next x rest _ =>
      have hp : s0.Onward (if (s.bestCores p (s.task p.ldev n).hdr x []).contains core
          then s.plan p (s.task p.ldev n).hdr false rest [core] else ([], s)).2 := by
        split
        · exact onward_plan h
        · exact h
      generalize (if (s.bestCores p (s.task p.ldev n).hdr x []).contains core
          then s.plan p (s.task p.ldev n).hdr false rest [core] else ([], s)) = chosen at hp ⊢
      split
      · exact h
      · split
        · exact onward_noteWaits (onward_placeList hp)
        · split
          · exact h
          · split
            · split
              · exact onward_noteWaits (onward_foldl (fun _ _ => onward_preemptAll) _ h)
              · exact h
            · exact h

@[simp] theorem onward_settleCrew {uid : Nat} (h : s0.Onward s) : s0.Onward (s.settleCrew uid) :=
  onward_foldl (fun _ _ hs => onward_drainAll (onward_drainWindow hs)) _ h

@[simp] theorem onward_saveMessages {uid : Nat} (h : s0.Onward s) : s0.Onward (s.saveMessages uid) := h

@[simp] theorem onward_readvertise {uid : Nat} (h : s0.Onward s) : s0.Onward (s.readvertise uid) := by
  refine onward_foldl (fun s e hs => ?_) _ h
  dsimp only
  split
  · exact hs
  · rw [onward_modPart]
    exact onward_modReady hs

@[simp] theorem onward_restoreCrew {uid : Nat} (h : s0.Onward s) : s0.Onward (s.restoreCrew uid) := by
  unfold State.restoreCrew
  dsimp only
  all_goals simp (disch := simp [h]) [h]

@[simp] theorem onward_endColls {ldev task : Nat} (h : s0.Onward s) : s0.Onward (s.endColls ldev task) := by
  unfold State.endColls
  dsimp only
  split <;> simp +contextual [h, onward_foldl]

@[simp] theorem onward_noteEnd {ldev task : Nat} (h : s0.Onward s) : s0.Onward (s.noteEnd ldev task) := by
  unfold State.noteEnd
  simp [h]

@[simp] theorem onward_answerKills {ldev task : Nat} (h : s0.Onward s) : s0.Onward (s.answerKills ldev task) := by
  unfold State.answerKills
  simp [h]

@[simp] theorem onward_endTask {ldev task : Nat} (h : s0.Onward s) : s0.Onward (s.endTask ldev task) := by
  unfold State.endTask
  dsimp only
  repeat' split
  all_goals simp [h]

@[simp] theorem onward_withdrawOp {uid : Nat} {op : Op} (h : s0.Onward s) : s0.Onward (s.withdrawOp uid op) := by
  unfold State.withdrawOp
  dsimp only
  repeat' split
  all_goals simp +contextual [h, onward_foldl]

@[simp] theorem onward_stopEngines {uid : Nat} (h : s0.Onward s) : s0.Onward (s.stopEngines uid) := by
  unfold State.stopEngines
  simp +contextual [h, onward_foldl]

/-! ### The command interface (R383 to R389, R459) -/

@[simp] theorem onward_takeCmd {c : Cmd} (h : s0.Onward s) : s0.Onward (s.takeCmd c) := by
  unfold State.takeCmd
  split <;> simp [h]

@[simp] theorem onward_logRefused {c : Cmd} {why : Nat} (h : s0.Onward s) : s0.Onward (s.logRefused c why) := by
  unfold State.logRefused
  simp [h]

@[simp] theorem onward_hold {c : Cmd} {ref_ : Nat} {uids : List Nat} (h : s0.Onward s) : s0.Onward (s.hold c ref_ uids) := h

@[simp] theorem onward_grant {m : Master} {how src : Nat} (h : s0.Onward s) : s0.Onward (s.grant m how src) := onward_log h

@[simp] theorem onward_logQueue {c : Cmd} {what : Nat} (h : s0.Onward s) : s0.Onward (s.logQueue c what) := by
  unfold State.logQueue
  simp [h]

@[simp] theorem onward_skipRest {ldev qn : Nat} (h : s0.Onward s) : s0.Onward (s.skipRest ldev qn) :=
  onward_foldl (fun s i hs => onward_ite hs (onward_instant hs)) _ h

@[simp] theorem onward_dropQueue {ldev n : Nat} (h : s0.Onward s) : s0.Onward (s.dropQueue ldev n) := by
  unfold State.dropQueue
  simp [h]

theorem onward_append {ldev n w : Nat} {bs : List Byte} {t : State} (h : s0.Onward s) (ht : s.append ldev n bs = some (w, t)) :
    s0.Onward t := by
  unfold State.append at ht
  dsimp only at ht
  split at ht
  · cases ht
  · obtain ⟨_, rfl⟩ := Prod.mk.inj (Option.some.inj ht)
    exact onward_homeWrite (onward_homeWrite (onward_wr64 h))

@[simp] theorem onward_qappend {c : Cmd} {fresh : Bool} (h : s0.Onward s) : s0.Onward (s.qappend c fresh) := by
  unfold State.qappend
  dsimp only
  split
  · exact onward_answer h
  · split
    · next ha =>
      have ht := onward_append h ha
      exact onward_answer ht
    · split
      · exact onward_hold h
      · exact h

@[simp] theorem onward_logChange {ldev : Nat} {x : PartChange} {reached : Nat} {old : List Nat} (h : s0.Onward s) :
    s0.Onward (s.logChange ldev x reached old) := by
  unfold State.logChange
  simp [h]

@[simp] theorem onward_setChange {ldev : Nat} {x : Option PartChange} (h : s0.Onward s) : s0.Onward (s.setChange ldev x) := h

@[simp] theorem onward_answerChange {ldev status : Nat} (h : s0.Onward s) : s0.Onward (s.answerChange ldev status) := by
  unfold State.answerChange
  simp [h]

@[simp] theorem onward_stitch {p : PartRef} (h : s0.Onward s) : s0.Onward (s.stitch p) := by
  unfold State.stitch
  simp +contextual [h, onward_foldl]

@[simp] theorem onward_rootArena {p : PartRef} (h : s0.Onward s) : s0.Onward (s.rootArena p) := h

@[simp] theorem onward_endPart {p : PartRef} (h : s0.Onward s) : s0.Onward (s.endPart p) := by
  unfold State.endPart
  refine onward_foldl (fun _ _ => onward_killTask) _ (onward_foldl (fun s e hs => onward_releaseQueue ?_) _ h)
  split
  · exact onward_dropQueue hs
  · exact hs

@[simp] theorem onward_applyPart {ldev : Nat} {x : PartChange} {i : Nat} (h : s0.Onward s) : s0.Onward (s.applyPart ldev x i) := by
  unfold State.applyPart
  dsimp only
  repeat' split
  all_goals simp [h]

@[simp] theorem onward_logPower {c : Cmd} {part old new busy : Nat} (h : s0.Onward s) : s0.Onward (s.logPower c part old new busy) := by
  unfold State.logPower
  simp [h]

@[simp] theorem onward_withArena {c : Cmd} {dropping : Bool} {bad : Arena → Bool} {go : PartRef → Nat → State} (hg : ∀ p n, s0.Onward
    (go p n)) (h : s0.Onward s) :
    s0.Onward (withArena c s dropping bad go) := by
  unfold withArena
  dsimp only
  split
  · exact onward_answer h
  · exact hg _ _

/-! ### The DEBUG command and the chimney (R390, R413 to R424) -/

@[simp] theorem onward_logUngate {p : PartRef} (h : s0.Onward s) : s0.Onward (s.logUngate p) := by
  unfold State.logUngate
  split <;> simp [h]

@[simp] theorem onward_withCrew {c : Cmd} {go : Nat → State} (hg : ∀ n, s0.Onward (go n)) (h : s0.Onward s) :
    s0.Onward (withCrew c s go) := by
  unfold withCrew
  split
  · exact hg _
  · exact onward_answer h

@[simp] theorem onward_withStopped {c : Cmd} {go : Nat → State} (hg : ∀ n, s0.Onward (go n)) (h : s0.Onward s) :
    s0.Onward (withStopped c s go) :=
  onward_withCrew (fun n => onward_ite (hg n) (onward_answer h)) h

@[simp] theorem onward_resumeCrew {u : Nat} (h : s0.Onward s) : s0.Onward (s.resumeCrew u) := by
  unfold State.resumeCrew
  dsimp only
  split <;> simp [h]

@[simp] theorem onward_traceOff {ldev task : Nat} (h : s0.Onward s) : s0.Onward (s.traceOff ldev task) := by
  unfold State.traceOff
  simp +contextual [h, onward_foldl]

@[simp] theorem onward_traceTask {ldev task log : Nat} {lead port : Bool} (h : s0.Onward s) :
    s0.Onward (s.traceTask ldev task log lead port) := by
  unfold State.traceTask
  simp +contextual [h, onward_foldl]

@[simp] theorem onward_reason {x : Slot} {stopped : Bool} (h : s0.Onward s) : s0.Onward (s.reason x stopped).2 := by
  unfold State.reason
  repeat' split
  all_goals simp [h]

@[simp] theorem onward_sampleSched {r : ToolRing} {p : PartRef} {core k : Nat} (h : s0.Onward s) :
    s0.Onward (s.sampleSched r p core k) := by
  unfold State.sampleSched
  dsimp only
  repeat' split
  all_goals simp (disch := simp [h]) [h]

@[simp] theorem onward_countOn {die : Nat} (h : s0.Onward s) : s0.Onward (s.countOn die) := by
  unfold State.countOn
  simp +contextual [h, onward_foldl]

/-! ### Steps of the package as a whole -/

@[simp] theorem onward_noteCore {core : Nat} (h : s0.Onward s) : s0.Onward (s.noteCore core) := by
  unfold State.noteCore
  split <;> simp [h]

/-! ### The application cores at the two windows of R388 -/

@[simp] theorem onward_ringCmd {slot : Nat} (h : s0.Onward s) : s0.Onward (s.ringCmd slot).2 := h

@[simp] theorem onward_answerHost {o : HostOp} {addr n : Nat} {old : DWord} {held : Bool} (h : s0.Onward s) :
    s0.Onward (s.answerHost o addr n old held) := h

@[simp] theorem onward_faultHost {o : HostOp} (h : s0.Onward s) : s0.Onward (s.faultHost o) := h

@[simp] theorem onward_mapAccess {m : HostMap} {addr : Nat} {v : DWord} {o : HostOp} {n : Nat} (h : s0.Onward s) :
    s0.Onward (s.mapAccess m addr v o n) := by
  unfold State.mapAccess
  dsimp only
  repeat' split
  all_goals simp [h]

/-! ### What the package may do of itself next -/

@[simp] theorem onward_after {dNs dCyc : Nat} (h : s0.Onward s) : s0.Onward (s.after dNs dCyc) :=
  ⟨h.mem, fun hj => (h.journal hj).later (Nat.le_add_right _ _), Nat.le_trans h.now (Nat.le_add_right _ _)⟩

@[simp] theorem onward_idleTick (h : s0.Onward s) : s0.Onward (s.idleTick) := by
  unfold State.idleTick
  simp [h]

/-! ### The DEBUG command and the chimney (R390, R413 to R424) -/

theorem onward_ringAt {p : PartRef} {d : DWord} {k least : Nat} {r : ToolRing} {t : State} (h : s0.Onward s)
    (ht : s.ringAt p d k least = .ok (r, t)) : s0.Onward t := by
  unfold State.ringAt at ht
  dsimp only at ht
  split at ht
  · cases ht
  · split at ht
    · cases ht
    · obtain ⟨_, rfl⟩ := Prod.mk.inj (Except.ok.inj ht)
      exact onward_wr64 (onward_wr64 h)

end

end Sys2Proof.Machine
end

section
/-! SUPPORT. What the words, the steps of the units, packets and commands keep of memory, the journal and device time. -/

namespace Sys2Proof.Machine

section
variable {s0 s : State}

/-! ### The shared operations of the core -/

theorem onward_runWord {i : WordInfo} {body : State → Res} (hb : ∀ s, s0.Onward s → s0.Onward (body s).state) (h : s0.Onward s) :
    OnwardTo s0 (runWord i body s) := by
  unfold runWord
  split
  · exact onwardTo_fault _
  · split
    · exact onwardTo_next.2 (onward_faultWord h)
    · split
      · exact onwardTo_next.2 (onward_suspend h)
      · split
        · exact onwardTo_next.2 (onward_suspend h)
        · refine onwardTo_next.2 (onward_settle h (hb _ ?_))
          split
          · exact onward_drainWindow h
          · exact onward_enterWindow h

/-! ### The VEC class (09) -/

theorem onward_vr3 {i : Instr} {caps : List Nat} {rdD : Bool} {f : FmtVR} {op : FEnv → Word → Word → Word → Word} (h : s0.Onward s) :
    OnwardTo s0 (vr3 i caps rdD f op s) :=
  onward_runWord (fun _ h => h) h

theorem onward_vr2 {i : Instr} {caps : List Nat} {rdD : Bool} {f : FmtVR} {op : FEnv → Word → Word → Word} (h : s0.Onward s) :
    OnwardTo s0 (vr2 i caps rdD f op s) :=
  onward_runWord (fun _ h => h) h

theorem onward_vi2 {i : Instr} {caps : List Nat} {f : FmtVI} {op : Word → Word} (h : s0.Onward s) : OnwardTo s0 (vi2 i caps f op s) :=
  onward_runWord (fun _ h => h) h

theorem onward_vInt {i : Instr} {f : FmtVR} {rdD : Bool} {op : Int → Int → Int → Int} (h : s0.Onward s) : OnwardTo s0 (vInt i f rdD op s) :=
  onward_vr3 h

theorem onward_vFlt {i : Instr} {f : FmtVR} {rdD : Bool} {op : FEnv → FFmt → Nat → Nat → Nat → Nat} (h : s0.Onward s) :
    OnwardTo s0 (vFlt i f rdD op s) :=
  onward_vr3 h

theorem onward_vFun {i : Instr} {f : FmtVR} {which : Nat} (h : s0.Onward s) : OnwardTo s0 (vFun i f which s) := onward_vr2 h

theorem onward_execVmov {f : FmtVR} (h : s0.Onward s) : OnwardTo s0 (execVmov f s) := onward_vr2 h

theorem onward_execVmovi {f : FmtVI} (h : s0.Onward s) : OnwardTo s0 (execVmovi f s) := onward_runWord (fun _ h => h) h

theorem onward_execVsel {f : FmtVR} (h : s0.Onward s) : OnwardTo s0 (execVsel f s) := onward_runWord (fun _ h => h) h

theorem onward_execVmovs {f : FmtVS} (h : s0.Onward s) : OnwardTo s0 (execVmovs f s) := onward_runWord (fun _ h => h) h

theorem onward_execVsr {f : FmtVS} (h : s0.Onward s) : OnwardTo s0 (execVsr f s) := onward_runWord (fun _ h => h) h

theorem onward_execVadd {f : FmtVR} (h : s0.Onward s) : OnwardTo s0 (execVadd f s) := onward_vInt h

theorem onward_execVsub {f : FmtVR} (h : s0.Onward s) : OnwardTo s0 (execVsub f s) := onward_vInt h

theorem onward_execVadds {f : FmtVR} (h : s0.Onward s) : OnwardTo s0 (execVadds f s) := onward_vInt h

theorem onward_execVsubs {f : FmtVR} (h : s0.Onward s) : OnwardTo s0 (execVsubs f s) := onward_vInt h

theorem onward_execVmul {f : FmtVR} (h : s0.Onward s) : OnwardTo s0 (execVmul f s) := onward_vInt h

theorem onward_execVmulhi {f : FmtVR} (h : s0.Onward s) : OnwardTo s0 (execVmulhi f s) := onward_vInt h

theorem onward_execVmad {f : FmtVR} (h : s0.Onward s) : OnwardTo s0 (execVmad f s) := onward_vInt h

theorem onward_execVmin {f : FmtVR} (h : s0.Onward s) : OnwardTo s0 (execVmin f s) := onward_vInt h

theorem onward_execVmax {f : FmtVR} (h : s0.Onward s) : OnwardTo s0 (execVmax f s) := onward_vInt h

theorem onward_execVabsd {f : FmtVR} (h : s0.Onward s) : OnwardTo s0 (execVabsd f s) := onward_vInt h

theorem onward_execVand {f : FmtVR} (h : s0.Onward s) : OnwardTo s0 (execVand f s) := onward_vr3 h

theorem onward_execVor {f : FmtVR} (h : s0.Onward s) : OnwardTo s0 (execVor f s) := onward_vr3 h

theorem onward_execVxor {f : FmtVR} (h : s0.Onward s) : OnwardTo s0 (execVxor f s) := onward_vr3 h

theorem onward_execVandn {f : FmtVR} (h : s0.Onward s) : OnwardTo s0 (execVandn f s) := onward_vr3 h

theorem onward_execVshl {f : FmtVR} (h : s0.Onward s) : OnwardTo s0 (execVshl f s) := onward_vInt h

theorem onward_execVshr {f : FmtVR} (h : s0.Onward s) : OnwardTo s0 (execVshr f s) := onward_vInt h

theorem onward_execVrot {f : FmtVR} (h : s0.Onward s) : OnwardTo s0 (execVrot f s) := onward_vInt h

theorem onward_execVaddi {f : FmtVI} (h : s0.Onward s) : OnwardTo s0 (execVaddi f s) := onward_vi2 h

theorem onward_execVandi {f : FmtVI} (h : s0.Onward s) : OnwardTo s0 (execVandi f s) := onward_vi2 h

theorem onward_execVshli {f : FmtVI} (h : s0.Onward s) : OnwardTo s0 (execVshli f s) := onward_vi2 h

theorem onward_execVshri {f : FmtVI} (h : s0.Onward s) : OnwardTo s0 (execVshri f s) := onward_vi2 h

theorem onward_execVbfe {f : FmtVR} (h : s0.Onward s) : OnwardTo s0 (execVbfe f s) := onward_vr3 h

theorem onward_execVbfi {f : FmtVR} (h : s0.Onward s) : OnwardTo s0 (execVbfi f s) := onward_vr3 h

theorem onward_execVpopc {f : FmtVR} (h : s0.Onward s) : OnwardTo s0 (execVpopc f s) := onward_vr2 h

theorem onward_execVclz {f : FmtVR} (h : s0.Onward s) : OnwardTo s0 (execVclz f s) := onward_vr2 h

theorem onward_execVbrev {f : FmtVR} (h : s0.Onward s) : OnwardTo s0 (execVbrev f s) := onward_vr2 h

theorem onward_execVacs {f : FmtVX} (h : s0.Onward s) : OnwardTo s0 (execVacs f s) := by
  refine onward_runWord (fun s h => ?_) h
  dsimp only
  all_goals simp (disch := simp [h])

theorem onward_execVhsel {f : FmtVX} (h : s0.Onward s) : OnwardTo s0 (execVhsel f s) := onward_runWord (fun _ h => h) h

theorem onward_execVperm {f : FmtVR} (h : s0.Onward s) : OnwardTo s0 (execVperm f s) := onward_runWord (fun _ h => h) h

theorem onward_execVshfl {f : FmtVI} (h : s0.Onward s) : OnwardTo s0 (execVshfl f s) := onward_runWord (fun _ h => h) h

theorem onward_execVrdl {f : FmtVS} (h : s0.Onward s) : OnwardTo s0 (execVrdl f s) := onward_runWord (fun _ h => onward_wrS h) h

theorem onward_execVwrl {f : FmtVS} (h : s0.Onward s) : OnwardTo s0 (execVwrl f s) := onward_runWord (fun _ h => h) h

theorem onward_execVred {f : FmtVS} (h : s0.Onward s) : OnwardTo s0 (execVred f s) := onward_runWord (fun _ h => onward_wrS h) h

theorem onward_execVscan {f : FmtVR} (h : s0.Onward s) : OnwardTo s0 (execVscan f s) := onward_runWord (fun _ h => h) h

theorem onward_execVdot4 {f : FmtVR} (h : s0.Onward s) : OnwardTo s0 (execVdot4 f s) := onward_vr3 h

theorem onward_execVdot2 {f : FmtVR} (h : s0.Onward s) : OnwardTo s0 (execVdot2 f s) := onward_vr3 h

theorem onward_cmpWord {i : Instr} {caps : List Nat} {f : FmtVP} {c : FEnv → Word → Word → Bool} (h : s0.Onward s) :
    OnwardTo s0 (cmpWord i caps f c s) :=
  onward_runWord (fun _ h => onward_wrPLanes h) h

theorem onward_execVcmp {f : FmtVP} (h : s0.Onward s) : OnwardTo s0 (execVcmp f s) := onward_cmpWord h

theorem onward_execVfcmp {f : FmtVP} (h : s0.Onward s) : OnwardTo s0 (execVfcmp f s) := onward_cmpWord h

theorem onward_execVfadd {f : FmtVR} (h : s0.Onward s) : OnwardTo s0 (execVfadd f s) := onward_vFlt h

theorem onward_execVfsub {f : FmtVR} (h : s0.Onward s) : OnwardTo s0 (execVfsub f s) := onward_vFlt h

theorem onward_execVfmul {f : FmtVR} (h : s0.Onward s) : OnwardTo s0 (execVfmul f s) := onward_vFlt h

theorem onward_execVfma {f : FmtVR} (h : s0.Onward s) : OnwardTo s0 (execVfma f s) := onward_vFlt h

theorem onward_execVfmin {f : FmtVR} (h : s0.Onward s) : OnwardTo s0 (execVfmin f s) := onward_vFlt h

theorem onward_execVfmax {f : FmtVR} (h : s0.Onward s) : OnwardTo s0 (execVfmax f s) := onward_vFlt h

theorem onward_execVrcp {f : FmtVR} (h : s0.Onward s) : OnwardTo s0 (execVrcp f s) := onward_vFun h

theorem onward_execVrsqrt {f : FmtVR} (h : s0.Onward s) : OnwardTo s0 (execVrsqrt f s) := onward_vFun h

theorem onward_execVsqrt {f : FmtVR} (h : s0.Onward s) : OnwardTo s0 (execVsqrt f s) := onward_vFun h

theorem onward_execVexp2 {f : FmtVR} (h : s0.Onward s) : OnwardTo s0 (execVexp2 f s) := onward_vFun h

theorem onward_execVlog2 {f : FmtVR} (h : s0.Onward s) : OnwardTo s0 (execVlog2 f s) := onward_vFun h

theorem onward_execVfclass {f : FmtVR} (h : s0.Onward s) : OnwardTo s0 (execVfclass f s) := onward_vr2 h

theorem onward_execVround {f : FmtVX} (h : s0.Onward s) : OnwardTo s0 (execVround f s) := onward_runWord (fun _ h => h) h

theorem onward_execVcvt {f : FmtVR} (h : s0.Onward s) : OnwardTo s0 (execVcvt f s) := onward_vr2 h

/-! ### The SCA class (07, R148 to R159) -/

theorem onward_sr3 {i : Instr} {f : FmtSR} {op : DWord → DWord → DWord} (h : s0.Onward s) : OnwardTo s0 (sr3 i f op s) :=
  onward_runWord (fun _ h => onward_wrS h) h

theorem onward_si2 {i : Instr} {f : FmtSI} {op : DWord → DWord} (h : s0.Onward s) : OnwardTo s0 (si2 i f op s) :=
  onward_runWord (fun _ h => onward_wrS h) h

theorem onward_execSmov {f : FmtSR} (h : s0.Onward s) : OnwardTo s0 (execSmov f s) := onward_sr3 h

theorem onward_execSmovi {f : FmtSL} (h : s0.Onward s) : OnwardTo s0 (execSmovi f s) := onward_runWord (fun _ h => onward_wrS h) h

theorem onward_execSmovh {f : FmtSL} (h : s0.Onward s) : OnwardTo s0 (execSmovh f s) := onward_runWord (fun _ h => onward_wrS h) h

theorem onward_execSadd {f : FmtSR} (h : s0.Onward s) : OnwardTo s0 (execSadd f s) := onward_sr3 h

theorem onward_execSsub {f : FmtSR} (h : s0.Onward s) : OnwardTo s0 (execSsub f s) := onward_sr3 h

theorem onward_execSmul {f : FmtSR} (h : s0.Onward s) : OnwardTo s0 (execSmul f s) := onward_sr3 h

theorem onward_execSmulh {f : FmtSR} (h : s0.Onward s) : OnwardTo s0 (execSmulh f s) := onward_sr3 h

theorem onward_execSdiv {f : FmtSR} (h : s0.Onward s) : OnwardTo s0 (execSdiv f s) := onward_sr3 h

theorem onward_execSrem {f : FmtSR} (h : s0.Onward s) : OnwardTo s0 (execSrem f s) := onward_sr3 h

theorem onward_execSand {f : FmtSR} (h : s0.Onward s) : OnwardTo s0 (execSand f s) := onward_sr3 h

theorem onward_execSor {f : FmtSR} (h : s0.Onward s) : OnwardTo s0 (execSor f s) := onward_sr3 h

theorem onward_execSxor {f : FmtSR} (h : s0.Onward s) : OnwardTo s0 (execSxor f s) := onward_sr3 h

theorem onward_execSshl {f : FmtSR} (h : s0.Onward s) : OnwardTo s0 (execSshl f s) := onward_sr3 h

theorem onward_execSshr {f : FmtSR} (h : s0.Onward s) : OnwardTo s0 (execSshr f s) := onward_sr3 h

theorem onward_execSmin {f : FmtSR} (h : s0.Onward s) : OnwardTo s0 (execSmin f s) := onward_sr3 h

theorem onward_execSmax {f : FmtSR} (h : s0.Onward s) : OnwardTo s0 (execSmax f s) := onward_sr3 h

theorem onward_execSpopc {f : FmtSR} (h : s0.Onward s) : OnwardTo s0 (execSpopc f s) := onward_sr3 h

theorem onward_execSclz {f : FmtSR} (h : s0.Onward s) : OnwardTo s0 (execSclz f s) := onward_sr3 h

theorem onward_execScmp {f : FmtSR} (h : s0.Onward s) : OnwardTo s0 (execScmp f s) := onward_sr3 h

theorem onward_execSbfe {f : FmtSR} (h : s0.Onward s) : OnwardTo s0 (execSbfe f s) := onward_sr3 h

theorem onward_execSaddi {f : FmtSI} (h : s0.Onward s) : OnwardTo s0 (execSaddi f s) := onward_si2 h

theorem onward_execSandi {f : FmtSI} (h : s0.Onward s) : OnwardTo s0 (execSandi f s) := onward_si2 h

theorem onward_execSshli {f : FmtSI} (h : s0.Onward s) : OnwardTo s0 (execSshli f s) := onward_si2 h

theorem onward_execSshri {f : FmtSI} (h : s0.Onward s) : OnwardTo s0 (execSshri f s) := onward_si2 h

theorem onward_sf3 {i : Instr} {f : FmtSR} {op : Nat → Nat → Nat → Nat} (h : s0.Onward s) : OnwardTo s0 (sf3 i f op s) :=
  onward_runWord (fun _ h => onward_wrS h) h

theorem onward_execSfadd {f : FmtSR} (h : s0.Onward s) : OnwardTo s0 (execSfadd f s) := onward_sf3 h

theorem onward_execSfmul {f : FmtSR} (h : s0.Onward s) : OnwardTo s0 (execSfmul f s) := onward_sf3 h

theorem onward_execSfma {f : FmtSR} (h : s0.Onward s) : OnwardTo s0 (execSfma f s) := onward_sf3 h

theorem onward_execScvt {f : FmtSR} (h : s0.Onward s) : OnwardTo s0 (execScvt f s) := onward_runWord (fun _ h => onward_wrS h) h

theorem onward_execSrd {f : FmtSL} (h : s0.Onward s) : OnwardTo s0 (execSrd f s) := onward_runWord (fun _ h => onward_wrS h) h

theorem onward_execSwr {f : FmtSL} (h : s0.Onward s) : OnwardTo s0 (execSwr f s) := onward_runWord (fun _ h => h) h

theorem onward_execSfmt {f : FmtSR} (h : s0.Onward s) : OnwardTo s0 (execSfmt f s) := onward_runWord (fun _ h => h) h

theorem onward_pr3 {i : Instr} {f : FmtSR} {op : Word → Word → Word} (h : s0.Onward s) : OnwardTo s0 (pr3 i f op s) :=
  onward_runWord (fun _ h => onward_wrP h) h

theorem onward_execPand {f : FmtSR} (h : s0.Onward s) : OnwardTo s0 (execPand f s) := onward_pr3 h

theorem onward_execPor {f : FmtSR} (h : s0.Onward s) : OnwardTo s0 (execPor f s) := onward_pr3 h

theorem onward_execPxor {f : FmtSR} (h : s0.Onward s) : OnwardTo s0 (execPxor f s) := onward_pr3 h

theorem onward_execPandn {f : FmtSR} (h : s0.Onward s) : OnwardTo s0 (execPandn f s) := onward_pr3 h

theorem onward_execPmovsp {f : FmtSR} (h : s0.Onward s) : OnwardTo s0 (execPmovsp f s) := by
  refine onward_runWord (fun s h => ?_) h
  dsimp only
  repeat' split
  all_goals simp [h]

theorem onward_execPmovps {f : FmtSR} (h : s0.Onward s) : OnwardTo s0 (execPmovps f s) := onward_runWord (fun _ h => onward_wrS h) h

theorem onward_execPcnt {f : FmtSR} (h : s0.Onward s) : OnwardTo s0 (execPcnt f s) := onward_runWord (fun _ h => onward_wrS h) h

theorem onward_execPfirst {f : FmtSR} (h : s0.Onward s) : OnwardTo s0 (execPfirst f s) := onward_runWord (fun _ h => onward_wrS h) h

/-! ### The CTL class (07, R129 to R147) -/

theorem onward_execBra {f : FmtCB} (h : s0.Onward s) : OnwardTo s0 (execBra f s) := onward_runWord (fun _ h => h) h

theorem onward_execBcnd {f : FmtCC} (h : s0.Onward s) : OnwardTo s0 (execBcnd f s) := onward_runWord (fun _ hs => onward_branchOn hs) h

theorem onward_execSloop {f : FmtCC} (h : s0.Onward s) : OnwardTo s0 (execSloop f s) := by
  refine onward_runWord (fun s h => ?_) h
  dsimp only
  all_goals simp [h]

theorem onward_execBany {f : FmtCB} (h : s0.Onward s) : OnwardTo s0 (execBany f s) := onward_runWord (fun _ hs => onward_branchOn hs) h

theorem onward_execBall {f : FmtCB} (h : s0.Onward s) : OnwardTo s0 (execBall f s) := onward_runWord (fun _ hs => onward_branchOn hs) h

theorem onward_execRcvpt {f : FmtCB} (h : s0.Onward s) : OnwardTo s0 (execRcvpt f s) := onward_runWord (fun _ h => h) h

theorem onward_execBrp {f : FmtCB} (h : s0.Onward s) : OnwardTo s0 (execBrp f s) := onward_runWord (fun _ hs => onward_brpBody hs) h

theorem onward_execJoin {f : FmtCR} (h : s0.Onward s) : OnwardTo s0 (execJoin f s) := onward_runWord (fun _ hs => onward_joinBody hs) h

theorem onward_execExit {f : FmtCR} (h : s0.Onward s) : OnwardTo s0 (execExit f s) := onward_runWord (fun _ hs => onward_exitBody hs) h

theorem onward_execCall {f : FmtCB} (h : s0.Onward s) : OnwardTo s0 (execCall f s) :=
  onward_runWord (fun _ hs => onward_callTo (fun _ ht => ht) hs) h

theorem onward_execCallr {f : FmtCR} (h : s0.Onward s) : OnwardTo s0 (execCallr f s) := by
  refine onward_runWord (fun s h => ?_) h
  dsimp only
  repeat' split
  all_goals simp +contextual [h]

theorem onward_execJmp {f : FmtCR} (h : s0.Onward s) : OnwardTo s0 (execJmp f s) := by
  refine onward_runWord (fun s h => ?_) h
  dsimp only
  repeat' split
  all_goals simp [h]

theorem onward_execRet {f : FmtCR} (h : s0.Onward s) : OnwardTo s0 (execRet f s) := onward_runWord (fun _ hs => onward_retBody hs) h

theorem onward_execTwait {f : FmtCQ} (h : s0.Onward s) : OnwardTo s0 (execTwait f s) := by
  refine onward_runWord (fun s h => ?_) h
  dsimp only
  repeat' split
  all_goals simp [h]

theorem onward_execYield {f : FmtCR} (h : s0.Onward s) : OnwardTo s0 (execYield f s) := by
  refine onward_runWord (fun s hs => onward_placed.2 (onward_clauseEnd ?_)) h
  exact (onward_modCSlot _).2 (onward_yieldRank hs)

theorem onward_execNop {f : FmtCR} (h : s0.Onward s) : OnwardTo s0 (execNop f s) := onward_runWord (fun _ h => h) h

theorem onward_execDqpop {f : FmtCQ} (h : s0.Onward s) : OnwardTo s0 (execDqpop f s) := by
  refine onward_runWord (fun s h => ?_) h
  dsimp only
  repeat' split
  all_goals simp [h]

theorem onward_execDqpush {f : FmtCR} (h : s0.Onward s) : OnwardTo s0 (execDqpush f s) := by
  refine onward_runWord (fun s h => ?_) h
  dsimp only
  repeat' split
  all_goals simp [h]

/-! ### The MEM class (10) -/

theorem onward_execVld {f : FmtMV} (h : s0.Onward s) : OnwardTo s0 (execVld f s) := onward_runWord (fun _ hs => onward_loadBody hs) h

theorem onward_execVlds {f : FmtMV} (h : s0.Onward s) : OnwardTo s0 (execVlds f s) := onward_runWord (fun _ hs => onward_loadBody hs) h

theorem onward_execSld {f : FmtMS} (h : s0.Onward s) : OnwardTo s0 (execSld f s) := onward_runWord (fun _ hs => onward_sloadBody hs) h

theorem onward_execSlds {f : FmtMS} (h : s0.Onward s) : OnwardTo s0 (execSlds f s) := onward_runWord (fun _ hs => onward_sloadBody hs) h

theorem onward_execVst {f : FmtMV} (h : s0.Onward s) : OnwardTo s0 (execVst f s) := by
  refine onward_runWord (fun s h => ?_) h
  dsimp only
  repeat' split
  all_goals simp +contextual [h]

theorem onward_execSst {f : FmtMS} (h : s0.Onward s) : OnwardTo s0 (execSst f s) := by
  refine onward_runWord (fun s h => ?_) h
  dsimp only
  all_goals simp +contextual [h]

theorem onward_vatomWord {i : Instr} {ty : Nat} {f : FmtMA} (h : s0.Onward s) : OnwardTo s0 (vatomWord i ty f s) :=
  onward_runWord (fun _ hs => onward_atomBody (fun _ _ ht => onward_wrV ht) hs) h

theorem onward_vatomnWord {i : Instr} {ty : Nat} {f : FmtMA} (h : s0.Onward s) : OnwardTo s0 (vatomnWord i ty f s) :=
  onward_runWord (fun _ hs => onward_withAccess (fun _ ht =>
    onward_state_ite ht ((onward_modThread _ _ _).2 (onward_enqueue ht))) hs) h

theorem onward_execVatomI32 {f : FmtMA} (h : s0.Onward s) : OnwardTo s0 (execVatomI32 f s) := onward_vatomWord h

theorem onward_execVatomU32 {f : FmtMA} (h : s0.Onward s) : OnwardTo s0 (execVatomU32 f s) := onward_vatomWord h

theorem onward_execVatomF32 {f : FmtMA} (h : s0.Onward s) : OnwardTo s0 (execVatomF32 f s) := onward_vatomWord h

theorem onward_execVatomF16x2 {f : FmtMA} (h : s0.Onward s) : OnwardTo s0 (execVatomF16x2 f s) := onward_vatomWord h

theorem onward_execVatomB16x2 {f : FmtMA} (h : s0.Onward s) : OnwardTo s0 (execVatomB16x2 f s) := onward_vatomWord h

theorem onward_execVatomnI32 {f : FmtMA} (h : s0.Onward s) : OnwardTo s0 (execVatomnI32 f s) := onward_vatomnWord h

theorem onward_execVatomnU32 {f : FmtMA} (h : s0.Onward s) : OnwardTo s0 (execVatomnU32 f s) := onward_vatomnWord h

theorem onward_execVatomnF32 {f : FmtMA} (h : s0.Onward s) : OnwardTo s0 (execVatomnF32 f s) := onward_vatomnWord h

theorem onward_execVatomnF16x2 {f : FmtMA} (h : s0.Onward s) : OnwardTo s0 (execVatomnF16x2 f s) := onward_vatomnWord h

theorem onward_execVatomnB16x2 {f : FmtMA} (h : s0.Onward s) : OnwardTo s0 (execVatomnB16x2 f s) := onward_vatomnWord h

theorem onward_execSatom {f : FmtSA} (h : s0.Onward s) : OnwardTo s0 (execSatom f s) :=
  onward_runWord (fun _ hs => onward_atomBody (fun _ _ ht => onward_wrS ht) hs) h

theorem onward_execHsel {f : FmtMS} (h : s0.Onward s) : OnwardTo s0 (execHsel f s) := by
  refine onward_runWord (fun s h => ?_) h
  dsimp only
  repeat' split
  all_goals simp [h]

theorem onward_execHinfo {f : FmtMS} (h : s0.Onward s) : OnwardTo s0 (execHinfo f s) := onward_runWord (fun _ h => onward_wrS h) h

theorem onward_execFence {f : FmtMF} (h : s0.Onward s) : OnwardTo s0 (execFence f s) :=
  onward_runWord (fun _ hs => onward_state_ite hs (onward_state_ite (onward_acquireAt hs)
    ((onward_modThread _ _ _).2 (onward_acquireAt hs)))) h

theorem onward_execFlsig {f : FmtMS} (h : s0.Onward s) : OnwardTo s0 (execFlsig f s) := by
  refine onward_runWord (fun s h => ?_) h
  dsimp only
  repeat' split
  all_goals simp [h]

theorem onward_execFlwait {f : FmtMS} (h : s0.Onward s) : OnwardTo s0 (execFlwait f s) := by
  refine onward_runWord (fun s h => ?_) h
  dsimp only
  repeat' split
  all_goals simp [h]

theorem onward_execBarinit {f : FmtMB} (h : s0.Onward s) : OnwardTo s0 (execBarinit f s) := by
  refine onward_runWord (fun s hs => onward_withBar (fun t o ht => ?_) hs) h
  dsimp only
  split
  · exact onward_wakeBar (onward_wrBar ht)
  · exact onward_wrBar ht

theorem onward_execBarexp {f : FmtMB} (h : s0.Onward s) : OnwardTo s0 (execBarexp f s) := by
  refine onward_runWord (fun s hs => onward_withBar (fun t o ht => ?_) hs) h
  dsimp only
  split
  · exact onward_barStatus ht
  · split
    · exact onward_barStatus (onward_wrBar ht)
    · exact onward_barStatus (onward_wrBar ht)

theorem onward_execBarrive {f : FmtMB} (h : s0.Onward s) : OnwardTo s0 (execBarrive f s) :=
  onward_runWord (fun _ hs => onward_withBar (fun _ _ ht => onward_barStatus (onward_arriveBar ht)) hs) h

theorem onward_execBwait {f : FmtMB} (h : s0.Onward s) : OnwardTo s0 (execBwait f s) :=
  onward_runWord (fun _ hs => onward_resumeBar (onward_withBar (fun _ _ ht => onward_barWait ht) hs) hs) h

theorem onward_execBartest {f : FmtMB} (h : s0.Onward s) : OnwardTo s0 (execBartest f s) :=
  onward_runWord (fun _ hs => onward_withBar (fun _ _ ht => onward_barStatus (onward_seeAll ht)) hs) h

theorem onward_execBsync {f : FmtMB} (h : s0.Onward s) : OnwardTo s0 (execBsync f s) :=
  onward_runWord (fun _ hs => onward_resumeBar (onward_withBar (fun _ _ ht => onward_barWait (onward_arriveBar ht)) hs) hs) h

/-! ### The MTX class (14) -/

theorem onward_execMshape {f : FmtEB} (h : s0.Onward s) : OnwardTo s0 (execMshape f s) := by
  refine onward_runWord (fun s h => ?_) h
  dsimp only
  repeat' split
  all_goals simp +contextual [h]

theorem onward_execMzero {f : FmtEB} (h : s0.Onward s) : OnwardTo s0 (execMzero f s) :=
  onward_runWord (fun _ hs => onward_afterMatrix (fun _ ht => onward_done.2 ((onward_modCrew _ _).2 ht)) hs) h

theorem onward_execMma {f : FmtVR} (h : s0.Onward s) : OnwardTo s0 (execMma f s) := by
  refine onward_runWord (fun s h => ?_) h
  dsimp only
  repeat' split
  all_goals simp +contextual [h, onward_foldl]

theorem onward_execMside {f : FmtEB} (h : s0.Onward s) : OnwardTo s0 (execMside f s) :=
  onward_runWord (fun _ hs => onward_afterMatrix (fun _ ht =>
    onward_state_ite ht (onward_wrS (onward_ite ((onward_modCrew _ _).2 ht) ht))) hs) h

theorem onward_execMstat {f : FmtEB} (h : s0.Onward s) : OnwardTo s0 (execMstat f s) := by
  refine onward_runWord (fun s h => ?_) h
  dsimp only
  repeat' split
  all_goals simp +contextual [h]

theorem onward_loopWord {i : Instr} {op : Nat} {f : FmtEB} (h : s0.Onward s) : OnwardTo s0 (loopWord i op f s) :=
  onward_runWord (fun _ hs => onward_mtxStart hs) h

theorem onward_execMloop {f : FmtEB} (h : s0.Onward s) : OnwardTo s0 (execMloop f s) := onward_loopWord h

theorem onward_execMloopg {f : FmtEB} (h : s0.Onward s) : OnwardTo s0 (execMloopg f s) := onward_loopWord h

theorem onward_execMloopn {f : FmtEB} (h : s0.Onward s) : OnwardTo s0 (execMloopn f s) := onward_loopWord h

theorem onward_execMsmx {f : FmtEB} (h : s0.Onward s) : OnwardTo s0 (execMsmx f s) := onward_runWord (fun _ hs => onward_mtxStart hs) h

theorem onward_execMdrain {f : FmtEB} (h : s0.Onward s) : OnwardTo s0 (execMdrain f s) := onward_runWord (fun _ hs => onward_mtxStart hs) h

theorem onward_execMprog {f : FmtEB} (h : s0.Onward s) : OnwardTo s0 (execMprog f s) := by
  refine onward_runWord (fun s h => ?_) h
  dsimp only
  repeat' split
  all_goals simp [h]

/-! ### The CPY class (13) -/

theorem onward_cpyStart {i : Instr} {cap op : Nat} {f : FmtEB} (h : s0.Onward s) : OnwardTo s0 (cpyStart i cap op f s) := by
  refine onward_runWord (fun s hs => onward_withHandles (fun t ht => onward_acceptCmd (fun u hu => ?_) ht) hs) h
  have ha : s0.Onward (u.accept .copy (u.cpyOp op f)).2 := onward_accept hu
  unfold State.accept at ha ⊢
  exact onward_state_ite (onward_placed.2 (onward_yieldTo (onward_copyPacket (onward_wrS ha)))) (onward_done.2 (onward_copyPacket (onward_wrS ha)))

theorem onward_execCpy {f : FmtEB} (h : s0.Onward s) : OnwardTo s0 (execCpy f s) := onward_cpyStart h

theorem onward_execCpy2d {f : FmtEB} (h : s0.Onward s) : OnwardTo s0 (execCpy2d f s) := onward_cpyStart h

theorem onward_execCpymc {f : FmtEB} (h : s0.Onward s) : OnwardTo s0 (execCpymc f s) := onward_cpyStart h

theorem onward_execCpyfill {f : FmtEB} (h : s0.Onward s) : OnwardTo s0 (execCpyfill f s) := onward_cpyStart h

theorem onward_execQpost {f : FmtEB} (h : s0.Onward s) : OnwardTo s0 (execQpost f s) := onward_cpyStart h

theorem onward_execCpyrec {f : FmtEB} (h : s0.Onward s) : OnwardTo s0 (execCpyrec f s) := onward_runWord (fun _ h => onward_wrS h) h

theorem onward_execTlrd {f : FmtEB} (h : s0.Onward s) : OnwardTo s0 (execTlrd f s) := by
  refine onward_runWord (fun s h => ?_) h
  dsimp only
  repeat' split
  all_goals simp [h]

theorem onward_execTlwait {f : FmtEB} (h : s0.Onward s) : OnwardTo s0 (execTlwait f s) := by
  refine onward_runWord (fun s h => ?_) h
  dsimp only
  repeat' split
  all_goals simp [h]

theorem onward_execCprog {f : FmtEB} (h : s0.Onward s) : OnwardTo s0 (execCprog f s) := by
  refine onward_runWord (fun s h => ?_) h
  dsimp only
  repeat' split
  all_goals simp [h]

/-! ### The ARN class (16) -/

theorem onward_arnSync {i : Instr} {f : FmtEB} {bad : Arena → Bool} {go : State → PartRef → Nat → DWord × State}
    (hg : ∀ s p n, s0.Onward s → s0.Onward (go s p n).2) (h : s0.Onward s) :
    OnwardTo s0 (arnSync i f bad go s) := by
  refine onward_runWord (fun s hs => ?_) h
  dsimp only
  split
  · exact hs
  · exact onward_wrS (hg _ _ _ hs)

theorem onward_execArnew {f : FmtEB} (h : s0.Onward s) : OnwardTo s0 (execArnew f s) := by
  refine onward_arnSync (fun s p i hs => ?_) h
  have ha := onward_arNew (p := p) (parent := i) (quota := s.blkS f.sa 1) (cap := s.blkS f.sa 2) hs
  generalize s.arNew p i (s.blkS f.sa 1) (s.blkS f.sa 2) = r at ha ⊢
  exact ha

theorem onward_execHalloc {f : FmtEB} (h : s0.Onward s) :
    OnwardTo s0 (execHalloc f s) := onward_arnSync (fun _ _ _ hs => onward_hAlloc hs) h

theorem onward_execArquota {f : FmtEB} (h : s0.Onward s) :
    OnwardTo s0 (execArquota f s) := onward_arnSync (fun _ _ _ hs => onward_arQuota hs) h

theorem onward_execArinfo {f : FmtEB} (h : s0.Onward s) : OnwardTo s0 (execArinfo f s) := onward_runWord (fun _ h => onward_wrS h) h

theorem onward_arnAsync {i : Instr} {f : FmtEB} {dropping : Bool} {go : State → PartRef → Nat → Res}
    (hg : ∀ s p n, s0.Onward s → s0.Onward (go s p n).state) (h : s0.Onward s) :
    OnwardTo s0 (arnAsync i f dropping go s) := by
  refine onward_runWord (fun s hs => ?_) h
  dsimp only
  split
  · exact hs
  · split
    · exact hs
    · exact hg _ _ _ hs

theorem onward_execArseal {f : FmtEB} (h : s0.Onward s) : OnwardTo s0 (execArseal f s) := by
  refine onward_arnAsync (fun s p i hs => ?_) h
  have hn : s0.Onward ((s.drainLocal s.cur.uid s.cur.tid).performSet p
    ((s.subtree p i).filter fun j => (s.arena (arenaAt p j)).st == .live)) := onward_performSet (onward_drainLocal hs)
  exact onward_ite (onward_startSeal (onward_wrS (onward_accept hn))) (onward_wrS (onward_accept hn))

theorem onward_execArdrop {f : FmtEB} (h : s0.Onward s) : OnwardTo s0 (execArdrop f s) := by
  refine onward_arnAsync (fun s p i hs => onward_done.2 (onward_startDrop (onward_wrS (onward_accept ?_)))) h
  exact onward_drainLocal (onward_absorb hs)

/-! ### The MSG class (18) -/

theorem onward_execSend {f : FmtEB} (h : s0.Onward s) : OnwardTo s0 (execSend f s) := by
  refine onward_runWord (fun s hs => ?_) h
  dsimp only
  split
  · exact onward_wrS hs
  · split
    · exact hs
    · split
      · exact onward_wrS hs
      · split
        · exact onward_wrS hs
        · split
          · exact hs
          · exact onward_acceptCmd (fun t ht => onward_wrS (onward_park (onward_accept ht))) hs

theorem onward_execGrpnew {f : FmtEB} (h : s0.Onward s) : OnwardTo s0 (execGrpnew f s) := by
  refine onward_runWord (fun s h => ?_) h
  dsimp only
  repeat' split
  all_goals simp [h]

theorem onward_execGrpdel {f : FmtEB} (h : s0.Onward s) : OnwardTo s0 (execGrpdel f s) := by
  refine onward_runWord (fun s hs => ?_) h
  dsimp only
  split
  · exact hs
  · refine onward_acceptCmd (fun t ht => onward_wrS (onward_modGroup ?_)) hs
    exact onward_foldl (fun _ _ hu => onward_modReady (onward_withdraw hu)) _ (onward_accept ht)

theorem onward_execRdy {f : FmtEB} (h : s0.Onward s) : OnwardTo s0 (execRdy f s) := by
  refine onward_runWord (fun s hs => ?_) h
  dsimp only
  split
  · exact hs
  · split
    · exact hs
    · split
      · exact hs
      · exact onward_wrS hs
      · refine onward_acceptCmd (fun t ht => onward_wrS ?_) hs
        rw [onward_modPart]
        exact onward_modReady (onward_accept ht)

theorem onward_execUnrdy {f : FmtEB} (h : s0.Onward s) : OnwardTo s0 (execUnrdy f s) := by
  refine onward_runWord (fun s h => ?_) h
  dsimp only
  repeat' split
  all_goals simp [h]

theorem onward_execAsend {f : FmtEB} (h : s0.Onward s) : OnwardTo s0 (execAsend f s) := by
  refine onward_runWord (fun s hs => ?_) h
  dsimp only
  split
  · exact hs
  · split
    · exact onward_wrS hs
    · split
      · exact hs
      · split
        · exact onward_wrS hs
        · split
          · exact hs
          · exact onward_acceptCmd (fun t ht => onward_wrS (onward_park (onward_modGroup (onward_accept ht)))) hs

theorem onward_execRecv {f : FmtEB} (h : s0.Onward s) : OnwardTo s0 (execRecv f s) := by
  refine onward_runWord (fun s hs => ?_) h
  dsimp only
  split
  · exact hs
  · split
    · exact hs
    · split
      · split
        · exact onward_wrS hs
        · exact hs
      · exact onward_acceptCmd (fun t ht => onward_wrS (onward_modReady (onward_accept ht))) hs

theorem onward_execMsgstat {f : FmtEB} (h : s0.Onward s) : OnwardTo s0 (execMsgstat f s) := by
  refine onward_runWord (fun s hs => ?_) h
  split
  · exact onward_wrS hs
  · exact onward_wrS hs

theorem onward_execColnew {f : FmtEB} (h : s0.Onward s) : OnwardTo s0 (execColnew f s) := by
  refine onward_runWord (fun s h => ?_) h
  dsimp only
  repeat' split
  all_goals simp (disch := simp [h]) [h]

theorem onward_execRedpost {f : FmtEB} (h : s0.Onward s) : OnwardTo s0 (execRedpost f s) := by
  refine onward_runWord (fun s hs => ?_) h
  dsimp only
  split
  · exact hs
  · split
    · exact hs
    · split
      · exact hs
      · split
        · exact hs
        · split
          · exact hs
          · split
            · exact hs
            · exact onward_acceptCmd (fun t ht => onward_wrS (onward_haltRules (onward_modColl (onward_accept ht)))) hs

theorem onward_execRedwait {f : FmtEB} (h : s0.Onward s) : OnwardTo s0 (execRedwait f s) := by
  refine onward_runWord (fun s h => ?_) h
  dsimp only
  repeat' split
  all_goals simp (disch := simp (disch := simp [h]) [h]) [h]

theorem onward_execColabort {f : FmtEB} (h : s0.Onward s) : OnwardTo s0 (execColabort f s) := by
  refine onward_runWord (fun s h => ?_) h
  dsimp only
  repeat' split
  all_goals simp [h]

/-! ### The SYS class (22) -/

theorem onward_softFault {i : Instr} {e : Exc} {code : Nat} (h : s0.Onward s) : OnwardTo s0 (softFault i e code s) :=
  onward_runWord (fun _ hs => onward_drainLocal hs) h

theorem onward_execTrap {f : FmtSL} (h : s0.Onward s) : OnwardTo s0 (execTrap f s) := onward_softFault h

theorem onward_execBrk {f : FmtSL} (h : s0.Onward s) : OnwardTo s0 (execBrk f s) := onward_softFault h

theorem onward_execEret {f : FmtCR} (h : s0.Onward s) : OnwardTo s0 (execEret f s) := by
  refine onward_runWord (fun s h => ?_) h
  dsimp only
  all_goals simp [h]

theorem onward_execPrd {f : FmtSL} (h : s0.Onward s) : OnwardTo s0 (execPrd f s) := onward_runWord (fun _ h => onward_wrS h) h

theorem onward_execPwr {f : FmtSL} (h : s0.Onward s) : OnwardTo s0 (execPwr f s) := onward_runWord (fun _ hs => onward_setPrivReg hs) h

theorem onward_execSstep {f : FmtSL} (h : s0.Onward s) : OnwardTo s0 (execSstep f s) := onward_runWord (fun _ h => h) h

theorem onward_execCapmask {f : FmtCQ} (h : s0.Onward s) : OnwardTo s0 (execCapmask f s) := onward_runWord (fun _ h => onward_wrS h) h

theorem onward_execTmark {f : FmtSL} (h : s0.Onward s) : OnwardTo s0 (execTmark f s) := onward_runWord (fun _ hs => onward_packet hs) h

theorem onward_execRespost {f : FmtCR} (h : s0.Onward s) : OnwardTo s0 (execRespost f s) := by
  refine onward_runWord (fun s h => ?_) h
  dsimp only
  all_goals simp [h]

theorem onward_execDump {f : FmtEB} (h : s0.Onward s) : OnwardTo s0 (execDump f s) := by
  refine onward_runWord (fun s hs => ?_) h
  dsimp only
  split
  · exact onward_wrS hs
  · refine onward_withHandles (fun t ht => ?_) hs
    split
    · exact ht
    · split
      · exact ht
      · exact onward_stopCrew (s := { t with freeCtr := t.freeCtr + 1 }) ht

theorem onward_execKiln {f : FmtEB} (h : s0.Onward s) : OnwardTo s0 (execKiln f s) := by
  refine onward_runWord (fun s h => ?_) h
  dsimp only
  repeat' split
  all_goals simp [h]

/-! ### Steps of the groups that no word encodes -/

theorem onward_still (h : s0.Onward s) : OnwardTo s0 (still s) := by
  unfold still
  simp [h]

theorem onward_execBlockedWordResume {p : PairRef} (h : s0.Onward s) : OnwardTo s0 (execBlockedWordResume p s) := by
  unfold execBlockedWordResume
  dsimp only
  split
  · refine onwardTo_next.2 ?_
    split
    · exact onward_refreshBlk h
    · exact h
  · exact onwardTo_when h (onward_resume h)

theorem onward_execWindowRetire {t : ThreadRef} (h : s0.Onward s) : OnwardTo s0 (execWindowRetire t s) := onwardTo_when h h

theorem onward_execStrike {cores : List Nat} (h : s0.Onward s) : OnwardTo s0 (execStrike cores s) := by
  unfold execStrike
  simp +contextual [h, onward_foldl]

theorem onward_execResidueMismatch {site : ResidueSite} (h : s0.Onward s) : OnwardTo s0 (execResidueMismatch site s) := by
  unfold execResidueMismatch
  dsimp only
  split
  · split
    · exact onwardTo_still h
    · exact onwardTo_ite (onwardTo_next.2 ((onward_modThread _ _ _).2 (onward_residueEvents (onward_replayCore h))))
        (onwardTo_next.2 (onward_take (onward_drainWindow ((onward_modThread _ _ _).2 (onward_residueEvents (onward_replayCore h))))))
  · split
    · exact onwardTo_still h
    · refine onwardTo_ite (onwardTo_still h) (onwardTo_ite (onwardTo_next.2 ?_) (onwardTo_next.2 (onward_failOp (onward_residueEvents h))))
      exact (onward_modOp _ _).2 ((onward_modCrew _ _).2 (onward_residueEvents h))

theorem onward_execAgeSwap {t : ThreadRef} (h : s0.Onward s) : OnwardTo s0 (execAgeSwap t s) := onwardTo_when h h

theorem onward_execStarvationSwap {t : ThreadRef} (h : s0.Onward s) : OnwardTo s0 (execStarvationSwap t s) := by
  have hb := onward_refreshBlk (uid := t.uid) (tid := t.tid) h
  exact onwardTo_when h (onward_ite ((onward_modArch _ _ _).2 hb) ((onward_modThread _ _ _).2 ((onward_modArch _ _ _).2 hb)))

theorem onward_execTrapDelivery {p : PairRef} (h : s0.Onward s) : OnwardTo s0 (execTrapDelivery p s) := onwardTo_when h (onward_deliver h)

theorem onward_execWatchdogExpiry {p : PairRef} (h : s0.Onward s) : OnwardTo s0 (execWatchdogExpiry p s) :=
  onwardTo_when h (onward_take (onward_drainWindow h))

theorem onward_execLimit {p : PairRef} (h : s0.Onward s) : OnwardTo s0 (execLimit p s) := onwardTo_when h h

theorem onward_execCellarLimit {p : PairRef} (h : s0.Onward s) : OnwardTo s0 (execCellarLimit p s) := by
  unfold execCellarLimit
  split
  · exact onward_execLimit h
  · exact onwardTo_still h

theorem onward_execRecvLimit {p : PairRef} (h : s0.Onward s) : OnwardTo s0 (execRecvLimit p s) := by
  unfold execRecvLimit
  split
  · exact onward_execLimit h
  · exact onwardTo_still h

theorem onward_execTlwaitLimit {p : PairRef} (h : s0.Onward s) : OnwardTo s0 (execTlwaitLimit p s) := by
  unfold execTlwaitLimit
  split
  · exact onward_execLimit h
  · exact onwardTo_still h

theorem onward_execReservedOpcodeWord {c : Cls} {w : Word} (h : s0.Onward s) : OnwardTo s0 (execReservedOpcodeWord c w s) := by
  unfold execReservedOpcodeWord
  split
  · exact onwardTo_fault _
  · exact onwardTo_when h (onward_faultWord h)

theorem onward_execPoisonConsume {t : ThreadRef} (h : s0.Onward s) :
    OnwardTo s0 (execPoisonConsume t s) := onwardTo_when h (onward_killConsumer h)

theorem onward_execUncorrectableError {site : EccSite} (h : s0.Onward s) : OnwardTo s0 (execUncorrectableError site s) := by
  unfold execUncorrectableError
  split <;> simp [h]

/-- A word that decodes is no package reset. -/
theorem ne_packageReset_of_decode {c : Cls} {w : Word} {i : Instr} (h : decode c w = some i) (b : BootImage) : i ≠ .packageReset b := by
  obtain ⟨_, hcls, _⟩ := decodeOfEncode.1 c w i h
  rintro rfl
  cases hcls

/-- What fetching decided goes on from a state that a step may leave. -/
def Fetched.Onward (s0 : State) : Fetched → Prop
  | .run i t => (∀ b, i ≠ .packageReset b) ∧ s0.Onward t
  | .stop t => s0.Onward t
  | .does o => OnwardTo s0 o

/-! ### Choosing and fetching -/

theorem onward_fetchAt (p : PairRef) (word : Nat) (hd : Header) (h : s0.Onward s) : (s.fetchAt p word hd).Onward s0 := by
  have ht : s0.Onward ((s.setCur p (s.slot p).pc word hd).rankAt p word hd) := onward_rankAt (onward_setCur h)
  unfold State.fetchAt
  dsimp only
  split
  · exact onwardTo_next.2 (onward_faultWord ht)
  · exact onwardTo_next.2 (onward_suspend ht)
  · split
    · exact onwardTo_next.2 (onward_faultWord ht)
    · split
      · next hd => exact ⟨ne_packageReset_of_decode hd, ht⟩
      · exact onward_execReservedOpcodeWord ht

theorem onward_atBoundary (p : PairRef) (h : s0.Onward s) : (s.atBoundary p).Onward s0 := by
  have hd : ∀ f, OnwardTo s0 (.next ((s.setCur p (s.slot p).pc 0 ⟨.vec, 0, 0, false⟩).faultWord f)) :=
    fun f => onwardTo_next.2 (onward_faultWord (onward_setCur h))
  unfold State.atBoundary
  dsimp only
  split
  · exact onward_execTrapDelivery h
  · split
    · exact onward_execAgeSwap h
    · split
      · exact onwardTo_next.2 (onward_singleStep h)
      · split
        · exact hd _
        · exact onwardTo_next.2 (onward_waitAt h)
        · split
          · exact hd _
          · split
            · exact onwardTo_next.2 (onward_waitAt h)
            · split
              · exact hd _
              · split
                · exact onward_breakHit h
                · exact onward_fetchAt p _ _ (onward_startClause h)

theorem onward_selected (p : PairRef) (h : s0.Onward s) : s0.Onward (s.selected p) := by
  have hb := onward_refreshBlk (uid := p.uid) (tid := p.tid) h
  unfold State.selected
  dsimp only
  split
  · exact onward_resume hb
  · exact hb

theorem onward_issueNext (p : PairRef) (h : s0.Onward s) : (s.issueNext p).Onward s0 := by
  rw [State.issueNext_eq]
  have ht := onward_selected p h
  unfold State.issueSelected
  dsimp only
  split
  · split
    · refine onward_fetchAt p _ _ ?_
      split
      · exact ht
      · exact onward_payTrace ht
    · exact onwardTo_next.2 ht
  · exact onward_atBoundary p ht

theorem onward_execBreakpointHit {p : PairRef} (h : s0.Onward s) : OnwardTo s0 (execBreakpointHit p s) := by
  have hn := onward_issueNext p h
  unfold execBreakpointHit
  split
  · exact onwardTo_still h
  · split
    · next hf => exact onwardTo_next.2 (by rw [hf] at hn; exact hn)
    · exact onwardTo_still h

theorem onward_execWatchpointHit {p : PairRef} {n : Nat} {lanes : Word} (h : s0.Onward s) :
    OnwardTo s0 (execWatchpointHit p n lanes s) := by
  have hn := onward_issueNext p h
  unfold execWatchpointHit
  split
  · exact onwardTo_still h
  · split
    · next hf =>
      rw [hf] at hn
      split
      · split
        · exact onward_runWord (fun t ht => onward_watchHit ht) hn.2
        · exact onwardTo_still h
      · exact onwardTo_still h
    · exact onwardTo_still h

/-! ### Steps of the memory system that no word encodes -/

theorem onward_execMappingChange {ldev page : Nat} {to_ : Mapping} (h : s0.Onward s) : OnwardTo s0 (execMappingChange ldev page to_ s) := by
  refine onwardTo_when h (onward_mapPage ?_)
  exact onward_foldl (f := fun s k => s.modCore k _) (fun _ _ hs => hs) _ h

theorem onward_execTranslationWalk {die ldev page : Nat} (h : s0.Onward s) : OnwardTo s0 (execTranslationWalk die ldev page s) :=
  onwardTo_when h (onward_foldl (f := fun s k => s.modCore k (Core.learn · (ldev, page))) (fun _ _ hs => hs) _ h)

theorem onward_execAccessAtHome {a : HomeAccess} (h : s0.Onward s) : OnwardTo s0 (execAccessAtHome a s) := by
  unfold execAccessAtHome
  dsimp only
  split
  · refine onwardTo_when h (onward_performHead ?_)
    split
    · exact onward_ite (onward_evictFor h) h
    · exact h
  · split
    · exact onwardTo_when h (onward_copyStep h)
    · exact onwardTo_still h
  · exact onwardTo_next.2 (onward_evict h)
  · exact onwardTo_next.2 (onward_writeBack h)

theorem onward_execFillReturn {ldev sector : Nat} (h : s0.Onward s) : OnwardTo s0 (execFillReturn ldev sector s) := by
  unfold execFillReturn
  simp [h]

theorem onward_execFenceComplete {t : ThreadRef} (h : s0.Onward s) : OnwardTo s0 (execFenceComplete t s) := by
  refine onwardTo_when h ?_
  split
  · exact onward_seeAll (onward_applyAll h)
  · exact onward_seeCrew h

theorem onward_execFlushComplete {t : ThreadRef} {die : Nat} (h : s0.Onward s) : OnwardTo s0 (execFlushComplete t die s) := by
  unfold execFlushComplete
  split
  · exact onwardTo_still h
  · exact onwardTo_next.2 ((onward_modThread _ _ _).2 h)

theorem onward_execOccReport {a : ArenaRef} {lines : Word} (h : s0.Onward s) : OnwardTo s0 (execOccReport a lines s) := onwardTo_when h h

theorem onward_occStep {a : ArenaRef} (h : s0.Onward s) : OnwardTo s0 (s.occStep a) :=
  onwardTo_ite (onwardTo_still h) (onward_execOccReport (onward_free.2 h))

theorem onward_execLinkFailure {l : Link} (h : s0.Onward s) : OnwardTo s0 (execLinkFailure l s) :=
  onwardTo_when h (onward_log (s := { s with links := _, deadDevs := _ }) h)

/-! ### Steps of the engine contexts that no word encodes -/

theorem onward_execAsyncComplete {o : OpRef} (h : s0.Onward s) : OnwardTo s0 (execAsyncComplete o s) := by
  unfold execAsyncComplete
  split
  · exact onwardTo_still h
  · refine onwardTo_when h ?_
    split
    · exact onward_endCopy h
    · exact onward_endMatrix h
    · exact onward_finishOp h
    · exact onward_endMessage h

theorem onward_execMulticastReceive {uid num bit : Nat} (h : s0.Onward s) : OnwardTo s0 (execMulticastReceive uid num bit s) := by
  unfold execMulticastReceive
  dsimp only
  split
  · exact onwardTo_still h
  · exact onwardTo_when h (onward_receive h)

theorem onward_execMatrixBoundary {uid num : Nat} (h : s0.Onward s) : OnwardTo s0 (execMatrixBoundary uid num s) := by
  unfold execMatrixBoundary
  dsimp only
  split
  · exact onwardTo_still h
  · exact onwardTo_when h (onward_matrixStep h)

theorem onward_execCpyFreeze {uid : Nat} {v : Bool} (h : s0.Onward s) : OnwardTo s0 (execCpyFreeze uid v s) := onwardTo_when h h

theorem onward_execMtxFreeze {uid : Nat} {v : Bool} (h : s0.Onward s) : OnwardTo s0 (execMtxFreeze uid v s) := onwardTo_when h h

theorem onward_execQpostRoomLimit {uid num : Nat} (h : s0.Onward s) : OnwardTo s0 (execQpostRoomLimit uid num s) := by
  unfold execQpostRoomLimit
  dsimp only
  split
  · exact onwardTo_still h
  · exact onwardTo_when h h

theorem onward_execSealBroadcast {b : SealCast} (h : s0.Onward s) :
    OnwardTo s0 (execSealBroadcast b s) := onwardTo_when h (onward_sealBits h)

theorem onward_execSealComplete {a : ArenaRef} (h : s0.Onward s) : OnwardTo s0 (execSealComplete a s) := onwardTo_when h (onward_endSeal h)

theorem onward_execDropBroadcast {b : DropCast} (h : s0.Onward s) :
    OnwardTo s0 (execDropBroadcast b s) := onwardTo_when h (onward_dropBits h)

/-! ### Steps of the routers that no word encodes -/

theorem onward_execReadinessReport {p : PartRef} {gid core : Nat} (h : s0.Onward s) : OnwardTo s0 (execReadinessReport p gid core s) := by
  unfold execReadinessReport
  simp [h]

theorem onward_execMessageSteer {m : MsgRef} (h : s0.Onward s) : OnwardTo s0 (execMessageSteer m s) := by
  unfold execMessageSteer
  simp [h]

theorem onward_execMessageBounce {m : MsgRef} (h : s0.Onward s) : OnwardTo s0 (execMessageBounce m s) := by
  unfold execMessageBounce
  simp [h]

theorem onward_execOrdAck {m : MsgRef} (h : s0.Onward s) : OnwardTo s0 (execOrdAck m s) := onwardTo_when h h

theorem onward_execRingDelivery {m : MsgRef} (h : s0.Onward s) : OnwardTo s0 (execRingDelivery m s) := by
  unfold execRingDelivery
  simp [h]

theorem onward_execHandlerSpawn {uid : Nat} (h : s0.Onward s) : OnwardTo s0 (execHandlerSpawn uid s) := by
  have hc := onward_choose (d := none) (l := (s.spawnChoices uid).map some) h
  unfold execHandlerSpawn
  dsimp only
  split
  · exact onwardTo_still h
  · exact onwardTo_next.2 (onward_spawnMsg hc)
  · exact onwardTo_next.2 (onward_spawnParked hc)

theorem onward_execGrpdelHandover {m : MsgRef} (h : s0.Onward s) : OnwardTo s0 (execGrpdelHandover m s) := by
  unfold execGrpdelHandover
  simp [h]

theorem onward_execReductionPartial {m : RoundMove} (h : s0.Onward s) : OnwardTo s0 (execReductionPartial m s) := by
  unfold execReductionPartial
  split <;> simp [h]

theorem onward_execReductionResult {m : RoundMove} (h : s0.Onward s) : OnwardTo s0 (execReductionResult m s) := by
  unfold execReductionResult
  split <;> simp [h]

theorem onward_execRoundTimeout {r : RoundRef} (h : s0.Onward s) : OnwardTo s0 (execRoundTimeout r s) := by
  unfold execRoundTimeout
  simp [h]

theorem onward_execHaltedNotice {p : PartRef} {tree : Nat} (h : s0.Onward s) : OnwardTo s0 (execHaltedNotice p tree s) :=
  onwardTo_when h (onward_haltRules h)

theorem onward_execHaltEnd {p : PartRef} {tree : Nat} (h : s0.Onward s) : OnwardTo s0 (execHaltEnd p tree s) := by
  refine onwardTo_when h ?_
  simp [h]

/-! ### The packets of the task engine (R29 to R34, R360 to R368) -/

theorem onward_execBranch {k : PktRef} (h : s0.Onward s) : OnwardTo s0 (execBranch k s) := by
  refine onwardTo_next.2 (onward_pktStep (fun t ht => ?_) h)
  refine onward_ite (onward_instant ht) ?_
  split
  · exact onward_instant ht
  · exact (onward_modQueue _ _ _).2 (onward_instant ht)

theorem onward_execSignal {k : PktRef} (h : s0.Onward s) : OnwardTo s0 (execSignal k s) := by
  refine onwardTo_next.2 (onward_pktStep (fun t ht => ?_) h)
  refine onward_ite (onward_instant ht) ?_
  split
  · exact onward_instant ht
  · exact onward_instant (onward_ite (onward_raise (onward_wr64 ht)) (onward_wr64 ht))

theorem onward_execMarker {k : PktRef} (h : s0.Onward s) : OnwardTo s0 (execMarker k s) := by
  refine onwardTo_next.2 (onward_pktStep (fun t ht => ?_) h)
  exact onward_instant (onward_log ht)

theorem onward_execBadpacket {k : PktRef} (h : s0.Onward s) : OnwardTo s0 (execBadpacket k s) :=
  onwardTo_next.2 (onward_ite h (onward_pktStep (fun _ ht => onward_instant ht) h))

theorem onward_execWaittl {k : PktRef} (h : s0.Onward s) : OnwardTo s0 (execWaittl k s) := by
  refine onwardTo_next.2 (onward_pktStep (fun t ht => ?_) h)
  exact onward_rereadWait (onward_startPkt ht)

theorem onward_execWaittlNotify {k : PktRef} (h : s0.Onward s) : OnwardTo s0 (execWaittlNotify k s) := by
  unfold execWaittlNotify
  split
  · exact onwardTo_next.2 (onward_rereadWait h)
  · exact onwardTo_still h

theorem onward_execDepend {k : PktRef} (h : s0.Onward s) : OnwardTo s0 (execDepend k s) := by
  unfold execDepend
  split
  · exact onwardTo_next.2 (onward_rereadDepend h)
  · refine onwardTo_next.2 (onward_pktStep (fun t ht => ?_) h)
    exact onward_ite (onward_instant ht) (onward_rereadDepend (onward_startPkt ht))

theorem onward_execPacketLimit {k : PktRef} (h : s0.Onward s) : OnwardTo s0 (execPacketLimit k s) := by
  unfold execPacketLimit
  split
  · exact onwardTo_when h (onward_retirePkt h)
  · exact onwardTo_still h

theorem onward_execCopy {k : PktRef} (h : s0.Onward s) : OnwardTo s0 (execCopy k s) := by
  unfold execCopy
  split
  · exact onwardTo_next.2 (onward_copyElem h)
  · refine onwardTo_next.2 (onward_pktStep (fun t ht => ?_) h)
    exact onward_ite (onward_instant ht) (onward_ite (onward_instant ht) (onward_startPkt ht))

theorem onward_execPageFaultResolve {w : FaultWaiter} {ldev page : Nat} {ok : Bool} (h : s0.Onward s) :
    OnwardTo s0 (execPageFaultResolve w ldev page ok s) := by
  unfold execPageFaultResolve
  dsimp only
  split
  · split
    · exact onwardTo_ite (onwardTo_when h ((onward_modSlot _ _).2 (onward_resolvePage h)))
        (onwardTo_when h (onward_take (onward_drainWindow h)))
    · exact onwardTo_still h
  · split
    · exact onwardTo_ite (onwardTo_when h (onward_resolvePage h)) (onwardTo_when h (onward_failOp ((onward_modOp _ _).2 h)))
    · exact onwardTo_still h
  · split
    · exact onwardTo_when h (onward_ite (onward_resolvePage h) (onward_retirePkt h))
    · exact onwardTo_still h

theorem onward_execDrop {k : PktRef} (h : s0.Onward s) : OnwardTo s0 (execDrop k s) := by
  refine onwardTo_next.2 (onward_pktStep (fun t ht => ?_) h)
  exact onward_ite (onward_instant ht) (onward_startDrop (onward_startPkt ht))

theorem onward_execDropComplete {d : DropEnd} (h : s0.Onward s) : OnwardTo s0 (execDropComplete d s) :=
  onwardTo_when h (onward_foldl (fun _ _ => onward_retirePkt) _ (onward_endDrop h))

/-! ### Placement and pre-emption (R47, R369 to R376), and the ends of crews and tasks (R49 to R52, R379, R380) -/

theorem onward_execLaunch {k : PktRef} (h : s0.Onward s) : OnwardTo s0 (execLaunch k s) :=
  onwardTo_next.2 (onward_pktStep (fun _ hs => onward_noteWaits (onward_launchPkt hs)) h)

theorem onward_execPlacement {p : PartRef} {core : Nat} (h : s0.Onward s) : OnwardTo s0 (execPlacement p core s) := by
  unfold execPlacement
  split
  · exact onwardTo_still h
  · dsimp only
    split
    · exact onwardTo_next.2 (onward_turn (onward_dropCurrent h))
    · exact onwardTo_ite (onwardTo_next.2 (onward_serve (onward_dropCurrent h))) (onwardTo_next.2 (onward_turn (onward_dropCurrent h)))

theorem onward_execQueueAged {ldev queue : Nat} (h : s0.Onward s) : OnwardTo s0 (execQueueAged ldev queue s) := onwardTo_when h h

theorem onward_execSaveComplete {uid : Nat} (h : s0.Onward s) : OnwardTo s0 (execSaveComplete uid s) :=
  onwardTo_when h (onward_noteWaits ((onward_modCrew _ _).2 (onward_leaveCore (onward_saveMessages (onward_withdrawAll
    (onward_settleCrew h))))))

theorem onward_execCrewResume {uid core : Nat} (h : s0.Onward s) : OnwardTo s0 (execCrewResume uid core s) :=
  onwardTo_when h (onward_foldl (fun _ _ => onward_restoreCrew) _ h)

theorem onward_execCrewRetire {uid : Nat} (h : s0.Onward s) : OnwardTo s0 (execCrewRetire uid s) :=
  onwardTo_when h (onward_noteWaits (onward_noteEnd (onward_endColls (onward_removeCrew h))))

theorem onward_execTaskRetire {ldev task : Nat} (h : s0.Onward s) : OnwardTo s0 (execTaskRetire ldev task s) := by
  unfold execTaskRetire
  dsimp only
  split
  · exact onwardTo_next.2 (onward_answerKills (onward_startDrop (onward_endColls h)))
  · exact onwardTo_when h (onward_endTask h)

theorem onward_execTaskTimeout {ldev task : Nat} (h : s0.Onward s) : OnwardTo s0 (execTaskTimeout ldev task s) := by
  refine onwardTo_when h ?_
  simp [h]

theorem onward_execKill {uid : Nat} (h : s0.Onward s) : OnwardTo s0 (execKill uid s) := onwardTo_when h (onward_stopEngines h)

theorem onward_execKillComplete {uid : Nat} (h : s0.Onward s) : OnwardTo s0 (execKillComplete uid s) :=
  onwardTo_when h (onward_noteWaits (onward_endColls (onward_removeCrew h)))

/-! ### Dumps (R409 to R411) -/

theorem onward_execRequestedDumpComplete {p : PairRef} {e : DumpEnd} (h : s0.Onward s) : OnwardTo s0 (execRequestedDumpComplete p e s) := by
  unfold execRequestedDumpComplete
  split
  · refine onwardTo_ite (onwardTo_still h) (onwardTo_next.2 ((onward_modSlot _ _).2
      (onward_ite (onward_unstop (onward_writeBack ?_)) (onward_writeBack ?_))))
    all_goals exact onward_ite h (onward_ite (onward_homeWrite h) (onward_homeWrite h))
  · exact onwardTo_still h

theorem onward_execDumpWritten {p : PartRef} {e : DumpEnd} (h : s0.Onward s) : OnwardTo s0 (execDumpWritten p e s) := by
  unfold execDumpWritten
  dsimp only
  split
  · refine onwardTo_ite (onwardTo_still h) (onwardTo_next.2 (onward_killCrews ((onward_modPart _ _).2 (onward_writeBack ?_))))
    split
    · exact onward_logFault (onward_homeWrite h)
    · exact onward_logFault (onward_homeWrite h)
    · exact onward_logFault h
  · exact onwardTo_next.2 (onward_killCrews ((onward_modPart _ _).2 (onward_logFault h)))
  · exact onwardTo_still h

/-! ### The command interface (R383 to R389, R459) -/

theorem onward_cmdFrame {r : CmdRule} {c : Cmd} {go : State → State} (hg : ∀ s, s0.Onward s → s0.Onward (go s)) (h : s0.Onward s) :
    OnwardTo s0 (cmdFrame r c s go) := by
  have ht := onward_takeCmd (c := c) h
  have ha : ∀ {status}, OnwardTo s0 (.next ((s.takeCmd c).answer c status [])) := onwardTo_next.2 (onward_answer ht)
  have hl : ∀ {how status}, OnwardTo s0 (.next (((s.takeCmd c).logRefused c how).answer c status [])) :=
    onwardTo_next.2 (onward_answer (onward_logRefused ht))
  exact onwardTo_ite (onwardTo_still h) (onwardTo_ite ha (onwardTo_ite ha (onwardTo_ite hl (onwardTo_ite hl (onwardTo_ite ha
    (onwardTo_ite ha (onwardTo_next.2 (hg _ ht))))))))

theorem onward_execUnknownCommand {c : Cmd} (h : s0.Onward s) : OnwardTo s0 (execUnknownCommand c s) :=
  onwardTo_ite (onwardTo_still h) (onwardTo_next.2 (onward_answer (onward_takeCmd h)))

theorem onward_execClaim {c : Cmd} (h : s0.Onward s) : OnwardTo s0 (execClaim c s) := by
  refine onward_cmdFrame (fun t ht => ?_) h
  refine onward_ite (onward_answer ht) (onward_ite (onward_answer ht) (onward_ite (onward_answer (onward_grant ht)) (onward_answer ?_)))
  exact onward_ite ht ht

theorem onward_execElectionWindowEnd (h : s0.Onward s) : OnwardTo s0 (execElectionWindowEnd s) := by
  refine onwardTo_when h ?_
  split
  · exact onward_grant h
  · exact h

theorem onward_execHandover {c : Cmd} (h : s0.Onward s) : OnwardTo s0 (execHandover c s) := by
  refine onward_cmdFrame (fun t ht => ?_) h
  split
  · exact onward_answer (onward_grant ht)
  · exact ht

theorem onward_execOverride {c : Cmd} (h : s0.Onward s) : OnwardTo s0 (execOverride c s) := by
  refine onward_cmdFrame (fun t ht => ?_) h
  split
  · exact onward_answer (onward_grant ht)
  · exact ht

theorem onward_execCmdQreg {c : Cmd} (h : s0.Onward s) : OnwardTo s0 (execCmdQreg c s) := by
  refine onward_cmdFrame (fun t ht => ?_) h
  dsimp only
  split
  · exact onward_answer ht
  · split
    · exact onward_answer ht
    · split
      · exact onward_answer ht
      · exact onward_answer ((onward_modQueue _ _ _).2 (onward_logQueue (onward_ite ht (onward_releaseQueue ht))))

theorem onward_execQreset {c : Cmd} (h : s0.Onward s) : OnwardTo s0 (execQreset c s) := by
  refine onward_cmdFrame (fun t ht => ?_) h
  refine onward_ite (onward_answer ht) (onward_answer (onward_wr64 (onward_wr64 ?_)))
  exact (onward_modQueue _ _ _).2 (onward_releaseQueue (onward_skipRest (onward_logQueue ht)))

theorem onward_execQremove {c : Cmd} (h : s0.Onward s) : OnwardTo s0 (execQremove c s) := by
  refine onward_cmdFrame (fun t ht => ?_) h
  exact onward_ite (onward_answer ht) (onward_answer (onward_dropQueue (onward_logQueue ht)))

theorem onward_takeQappend {c : Cmd} (h : s0.Onward s) : OnwardTo s0 (s.takeQappend c) := onward_cmdFrame (fun _ ht => onward_qappend ht) h

theorem onward_execQappend {c : Cmd} (h : s0.Onward s) : OnwardTo s0 (execQappend c s) :=
  onwardTo_ite (onwardTo_next.2 (onward_qappend h)) (onward_takeQappend h)

theorem onward_execQappendBusy {source : Master} {seq : Word} (h : s0.Onward s) : OnwardTo s0 (execQappendBusy source seq s) := by
  unfold execQappendBusy
  simp [h]

theorem onward_execPartchg {c : Cmd} (h : s0.Onward s) : OnwardTo s0 (execPartchg c s) := by
  refine onward_cmdFrame (fun t ht => ?_) h
  exact onward_ite (onward_answer ht) (onward_ite (onward_answer ht) (onward_hold (onward_setChange (onward_logChange ht))))

theorem onward_execPartitionDeadline {ldev : Nat} (h : s0.Onward s) : OnwardTo s0 (execPartitionDeadline ldev s) := by
  unfold execPartitionDeadline
  split
  · exact onwardTo_still h
  · split
    · exact onwardTo_still h
    · split
      · exact onwardTo_next.2 (onward_answerChange (onward_setChange (onward_logChange h)))
      · exact onwardTo_next.2 (onward_setChange (onward_foldl (fun _ _ hs => onward_ite hs (onward_killTask hs)) _ h))

theorem onward_execPartitionApply {ldev : Nat} (h : s0.Onward s) : OnwardTo s0 (execPartitionApply ldev s) := by
  unfold execPartitionApply
  split
  · exact onwardTo_still h
  · dsimp only
    split
    · exact onwardTo_still h
    · refine onwardTo_next.2 (onward_foldl (fun _ _ => onward_noteWaits) _ (onward_answerChange (onward_setChange (onward_logChange ?_))))
      exact onward_foldl (fun _ _ => onward_applyPart) _ (onward_foldl (fun _ _ => onward_applyPart) _ h)

theorem onward_execKilltask {c : Cmd} (h : s0.Onward s) : OnwardTo s0 (execKilltask c s) := by
  refine onward_cmdFrame (fun t ht => ?_) h
  refine onward_ite (onward_answer ht) ?_
  split
  · exact onward_hold (onward_killTask ht)
  · exact onward_hold ht
  · exact onward_answer ht

theorem onward_execKillpart {c : Cmd} (h : s0.Onward s) : OnwardTo s0 (execKillpart c s) := by
  refine onward_cmdFrame (fun t ht => ?_) h
  dsimp only
  split
  · exact onward_answer ht
  · exact onward_hold (onward_foldl (fun _ _ => onward_killTask) _ ht)

theorem onward_execWatchdog {c : Cmd} (h : s0.Onward s) : OnwardTo s0 (execWatchdog c s) :=
  onward_cmdFrame (fun _ ht => onward_answer ((onward_modPart _ _).2 ht)) h

theorem onward_execDumph {c : Cmd} (h : s0.Onward s) : OnwardTo s0 (execDumph c s) := by
  refine onward_cmdFrame (fun t ht => ?_) h
  have hs : ∀ x, s0.Onward ((t.modPart (cmdPart c) fun q => { q with dumpTarget := x }).answer c stOK []) :=
    fun _ => onward_answer ((onward_modPart _ _).2 ht)
  exact onward_ite (hs _) (onward_ite (onward_answer ht) (hs _))

theorem onward_execCmdPower {c : Cmd} (h : s0.Onward s) : OnwardTo s0 (execCmdPower c s) := by
  unfold execCmdPower
  dsimp only
  refine onward_cmdFrame (fun t ht => ?_) h
  refine onward_ite (onward_ite (onward_answer ?_) (onward_answer (onward_logPower ht)))
    (onward_ite (onward_ite (onward_answer (onward_logPower ht)) (onward_answer ((onward_modPart _ _).2 (onward_logPower ht))))
      (onward_answer (onward_noteWaits ((onward_modPart _ _).2 ?_))))
  · exact onward_logPower ht
  · exact onward_logPower ht

theorem onward_execCmdArnew {c : Cmd} (h : s0.Onward s) : OnwardTo s0 (execCmdArnew c s) := by
  refine onward_cmdFrame (fun t ht => ?_) h
  refine onward_withArena (fun p i => ?_) ht
  have ha := onward_arNew (p := p) (parent := i) (quota := cArg c 1) (cap := cArg c 2) ht
  generalize t.arNew p i (cArg c 1) (cArg c 2) = r at ha ⊢
  exact onward_answer ha

theorem onward_execCmdHalloc {c : Cmd} (h : s0.Onward s) : OnwardTo s0 (execCmdHalloc c s) := by
  refine onward_cmdFrame (fun t ht => ?_) h
  exact onward_withArena (fun _ _ => onward_answer (onward_hAlloc ht)) ht

theorem onward_execCmdArseal {c : Cmd} (h : s0.Onward s) : OnwardTo s0 (execCmdArseal c s) := by
  refine onward_cmdFrame (fun t ht => ?_) h
  refine onward_withArena (fun p i => ?_) ht
  split
  · exact onward_hold (onward_startSeal ht)
  · exact onward_hold ht
  · exact onward_answer ht

theorem onward_execCmdArdrop {c : Cmd} (h : s0.Onward s) : OnwardTo s0 (execCmdArdrop c s) := by
  refine onward_cmdFrame (fun t ht => ?_) h
  exact onward_withArena (fun _ _ => onward_hold (onward_startDrop ht)) ht

theorem onward_execCmdArquota {c : Cmd} (h : s0.Onward s) : OnwardTo s0 (execCmdArquota c s) := by
  refine onward_cmdFrame (fun t ht => ?_) h
  exact onward_withArena (fun _ _ => onward_answer (onward_arQuota ht)) ht

theorem onward_execCmdArinfo {c : Cmd} (h : s0.Onward s) :
    OnwardTo s0 (execCmdArinfo c s) := onward_cmdFrame (fun _ ht => onward_answer ht) h

theorem onward_execImportHandle {c : Cmd} (h : s0.Onward s) : OnwardTo s0 (execImportHandle c s) := by
  unfold execImportHandle
  dsimp only
  refine onward_cmdFrame (fun t ht => ?_) h
  refine onward_ite (onward_answer ht) ?_
  have hf := onward_freeHandle (p := cmdPart c) ht
  split
  · next he => exact onward_answer (.of_pair he hf)
  · next he => exact onward_answer ((onward_setHandle _ _ _).2 (.of_pair he hf))

theorem onward_execMread {c : Cmd} (h : s0.Onward s) : OnwardTo s0 (execMread c s) := by
  refine onward_cmdFrame (fun t ht => ?_) h
  split
  · exact onward_answer ht
  · exact onward_answer ht

theorem onward_execMwrite {c : Cmd} (h : s0.Onward s) : OnwardTo s0 (execMwrite c s) := by
  refine onward_cmdFrame (fun t ht => ?_) h
  split
  · exact onward_answer ht
  · exact onward_answer (onward_homeWrite ht)

theorem onward_execMap {c : Cmd} (h : s0.Onward s) : OnwardTo s0 (execMap c s) := by
  refine onward_cmdFrame (fun t ht => ?_) h
  refine onward_ite (onward_answer ht) ?_
  have hf := onward_choose (d := none) (l := (t.mapPlaces (t.handle (cmdPart c) (cArgN c 0)).size).map some) ht
  split
  · next he => exact onward_answer (.of_pair he hf)
  · next he =>
    have hu := State.Onward.of_pair he hf
    refine onward_answer ?_
    exact hu

theorem onward_execUnmap {c : Cmd} (h : s0.Onward s) : OnwardTo s0 (execUnmap c s) := by
  refine onward_cmdFrame (fun t ht => ?_) h
  exact onward_ite (onward_answer (s := { t with maps := _ }) ht) (onward_answer ht)

theorem onward_execBindvec {c : Cmd} (h : s0.Onward s) : OnwardTo s0 (execBindvec c s) := by
  refine onward_cmdFrame (fun t ht => onward_answer ?_) h
  exact ht

theorem onward_execJread {c : Cmd} (h : s0.Onward s) : OnwardTo s0 (execJread c s) := by
  unfold execJread
  dsimp only
  exact onward_cmdFrame (fun _ ht => onward_respond ht) h

/-! ### The DEBUG command and the chimney (R390, R413 to R424) -/

theorem onward_dbgFrame {sub : Nat} {k : DbgKind} {wide range : Bool} {c : Cmd} {go : State → State} (hg : ∀ s, s0.Onward s → s0.Onward
    (go s)) (h : s0.Onward s) :
    OnwardTo s0 (dbgFrame sub k wide range c s go) := by
  refine onward_cmdFrame (fun t ht => ?_) h
  split
  · exact onward_answer ht
  · exact hg _ (onward_logUngate ht)

theorem onward_execHalt {c : Cmd} (h : s0.Onward s) : OnwardTo s0 (execHalt c s) := by
  refine onward_dbgFrame (fun t ht => ?_) h
  refine onward_ite (onward_answer ht) (onward_answer ?_)
  have hs : s0.Onward ((t.scopeCrews c).foldl (fun s u => s.stopCrew ⟨u, leadTid, false⟩ .halt 0 0 0) t) :=
    onward_foldl (fun _ _ => onward_stopCrew) _ ht
  exact onward_ite hs hs

theorem onward_execResume {c : Cmd} (h : s0.Onward s) : OnwardTo s0 (execResume c s) := by
  refine onward_dbgFrame (fun t ht => ?_) h
  refine onward_ite (onward_answer ht) (onward_answer ?_)
  have hs : s0.Onward ((t.scopeCrews c).foldl State.resumeCrew t) := onward_foldl (fun _ _ => onward_resumeCrew) _ ht
  exact onward_ite hs hs

theorem onward_execStep {c : Cmd} (h : s0.Onward s) : OnwardTo s0 (execStep c s) := by
  refine onward_dbgFrame (fun t ht => ?_) h
  exact onward_withStopped (fun _ => onward_ite (onward_answer ht) (onward_answer ((onward_modSlot _ _).2 ht))) ht

theorem onward_execBpset {c : Cmd} (h : s0.Onward s) : OnwardTo s0 (execBpset c s) := by
  refine onward_dbgFrame (fun t ht => ?_) h
  exact onward_withCrew (fun _ => onward_answer ((onward_modCrew _ _).2 ht)) ht

theorem onward_execWpset {c : Cmd} (h : s0.Onward s) : OnwardTo s0 (execWpset c s) := by
  refine onward_dbgFrame (fun t ht => ?_) h
  exact onward_withCrew (fun _ => onward_answer ((onward_modCrew _ _).2 ht)) ht

theorem onward_execIntercept {c : Cmd} (h : s0.Onward s) : OnwardTo s0 (execIntercept c s) := by
  refine onward_dbgFrame (fun t ht => ?_) h
  exact onward_withCrew (fun _ => onward_answer ((onward_modCrew _ _).2 ht)) ht

theorem onward_execRegrd {c : Cmd} (h : s0.Onward s) : OnwardTo s0 (execRegrd c s) := by
  refine onward_dbgFrame (fun t ht => ?_) h
  exact onward_withStopped (fun _ => onward_answer ht) ht

theorem onward_execRegwr {c : Cmd} (h : s0.Onward s) : OnwardTo s0 (execRegwr c s) := by
  refine onward_dbgFrame (fun t ht => ?_) h
  exact onward_withStopped (fun _ => onward_answer (onward_ite (onward_setPrivReg ht) (onward_poke ht))) ht

theorem onward_execMemrd {c : Cmd} (h : s0.Onward s) : OnwardTo s0 (execMemrd c s) := by
  refine onward_dbgFrame (fun t ht => ?_) h
  exact onward_withStopped (fun _ => onward_ite (onward_answer ht) (onward_answer ht)) ht

theorem onward_execMemwr {c : Cmd} (h : s0.Onward s) : OnwardTo s0 (execMemwr c s) := by
  refine onward_dbgFrame (fun t ht => ?_) h
  refine onward_withStopped (fun u => onward_ite (onward_answer ht) (onward_answer ?_)) ht
  split
  · exact onward_homeWrite ht
  · exact (onward_modCrew _ _).2 ht
  · exact onward_homeWrite ht

theorem onward_execStoprec {c : Cmd} (h : s0.Onward s) : OnwardTo s0 (execStoprec c s) := by
  refine onward_dbgFrame (fun t ht => ?_) h
  exact onward_withCrew (fun _ => onward_answer ht) ht

theorem onward_execDbgpol {c : Cmd} (h : s0.Onward s) : OnwardTo s0 (execDbgpol c s) := by
  refine onward_dbgFrame (fun t ht => ?_) h
  exact onward_answer (onward_haltRules ((onward_modPart _ _).2 ht))

theorem onward_execSample {c : Cmd} (h : s0.Onward s) : OnwardTo s0 (execSample c s) := by
  unfold execSample
  dsimp only
  refine onward_dbgFrame (fun t ht => ?_) h
  refine onward_ite (onward_answer ((onward_modPart _ _).2 ht)) ?_
  split
  · exact onward_answer ht
  · next hr => exact onward_answer ((onward_modPart _ _).2 (onward_ringAt ht hr))

theorem onward_execSeries {c : Cmd} (h : s0.Onward s) : OnwardTo s0 (execSeries c s) := by
  unfold execSeries
  dsimp only
  refine onward_dbgFrame (fun t ht => ?_) h
  refine onward_ite (onward_answer ((onward_modPart _ _).2 ht)) ?_
  split
  · exact onward_answer ht
  · next hr => exact onward_answer ((onward_modPart _ _).2 (onward_ringAt ht hr))

theorem onward_execTrace {c : Cmd} (h : s0.Onward s) : OnwardTo s0 (execTrace c s) := by
  unfold execTrace
  dsimp only
  refine onward_dbgFrame (fun t ht => ?_) h
  refine onward_ite (onward_answer ht) (onward_ite (onward_answer (onward_traceOff ht)) ?_)
  split
  · exact onward_answer ht
  · next hr => exact onward_answer (onward_traceTask ((onward_modPart _ _).2 (onward_ringAt ht hr)))

theorem onward_execDebugtoken {c : Cmd} (h : s0.Onward s) : OnwardTo s0 (execDebugtoken c s) := by
  refine onward_cmdFrame (fun t ht => ?_) h
  refine onward_ite (onward_answer ht) ?_
  split
  · exact onward_answer ht
  · exact onward_answer ((onward_modPart _ _).2 ht)

theorem onward_execTokenExpiry {p : PartRef} (h : s0.Onward s) : OnwardTo s0 (execTokenExpiry p s) := by
  unfold execTokenExpiry
  split
  · exact onwardTo_when h (onward_foldl (fun _ _ => onward_traceOff) _
      (onward_foldl (fun _ _ hs => onward_resumeCrew ((onward_modCrew _ _).2 hs)) _ ((onward_modPart _ _).2 h)))
  · exact onwardTo_still h

theorem onward_execSampleTick {p : PartRef} (h : s0.Onward s) : OnwardTo s0 (execSampleTick p s) := by
  unfold execSampleTick
  split
  · exact onwardTo_still h
  · exact onwardTo_ite (onwardTo_still h) (onwardTo_next.2 (onward_foldl
      (fun _ _ => onward_foldl (fun _ _ => onward_sampleSched) _) _ ((onward_modPart _ _).2 h)))

theorem onward_execSeriesTick {p : PartRef} (h : s0.Onward s) : OnwardTo s0 (execSeriesTick p s) := by
  unfold execSeriesTick
  split
  · exact onwardTo_still h
  · exact onwardTo_ite (onwardTo_still h) (onwardTo_next.2 (onward_foldl (fun _ _ => onward_ringWrite) _
      (onward_foldl (fun _ _ => onward_countOn) _ ((onward_modPart _ _).2 h))))

theorem onward_execTraceFrameClose {uid : Nat} (h : s0.Onward s) : OnwardTo s0 (execTraceFrameClose uid s) :=
  onwardTo_ite (onwardTo_next.2 (onward_traceOut h)) (onwardTo_when h (onward_sendOpen h))

theorem onward_execTraceLoss {uid : Nat} (h : s0.Onward s) : OnwardTo s0 (execTraceLoss uid s) := by
  have hw := (onward_modCrew uid fun c : Crew => { c with trace := { c.trace with lost := 0, lostName := false, sync := c.syncPairs, mute := c.syncPairs } }).2
    (onward_writePacket (uid := uid) (cyc := s.cycles) (kind := 15) (arg := 0) (payload := leBytes 4 (s.crew uid).trace.lost) h)
  exact onwardTo_ite (onwardTo_still h) (onwardTo_next.2 (onward_ite (onward_writePacket hw) hw))

/-! ### Steps of the package as a whole -/

theorem onward_execKilnwaitExpiry {c : ClassRef} (h : s0.Onward s) : OnwardTo s0 (execKilnwaitExpiry c s) :=
  onwardTo_when h (onward_modKiln (onward_foldl (fun _ _ => onward_preemptAll) _ h))

theorem onward_execKilnTest {c : ClassRef} (h : s0.Onward s) : OnwardTo s0 (execKilnTest c s) := onwardTo_when h h

theorem onward_execKilnTestResult {c : ClassRef} {pass : Bool} (h : s0.Onward s) : OnwardTo s0 (execKilnTestResult c pass s) := by
  unfold execKilnTestResult
  dsimp only
  split
  · exact onwardTo_next.2 (onward_noteCore (onward_modKiln h))
  · exact onwardTo_next.2 (onward_noteCore (onward_modKiln h))
  · exact onwardTo_still h

theorem onward_execKilnFenceApply {c : ClassRef} (h : s0.Onward s) : OnwardTo s0 (execKilnFenceApply c s) := by
  refine onwardTo_ite (onwardTo_still h) (onwardTo_ite (onwardTo_next.2 (onward_foldl (fun _ _ => onward_preemptAll) _ h))
    (onwardTo_next.2 (onward_noteCore (onward_foldl (fun _ _ => onward_killTask) _ (onward_modKiln ?_)))))
  exact onward_foldl (fun _ _ => onward_log) _ (onward_log ((onward_modCore _ _).2 h))

theorem onward_execPtpMessage {m : PtpMsg} (h : s0.Onward s) : OnwardTo s0 (execPtpMessage m s) := by
  have hf : s0.Onward { s with now := s.now + m.ns.toNat } :=
    ⟨h.mem, fun hj => (h.journal hj).later (Nat.le_add_right _ _), Nat.le_trans h.now (Nat.le_add_right _ _)⟩
  exact onwardTo_ite (onwardTo_still h) (onwardTo_ite (onwardTo_next.2 (onward_logClock hf))
    (onwardTo_next.2 (onward_logClock (s := { s with slew := _, slewNs := _, slewSrc := _ }) h)))

theorem onward_execClockSlewEnd (h : s0.Onward s) : OnwardTo s0 (execClockSlewEnd s) := by
  refine onwardTo_when h ?_
  simp [h]

theorem onward_execRailAdjust {core mv : Nat} (h : s0.Onward s) : OnwardTo s0 (execRailAdjust core mv s) := onwardTo_when h h

theorem onward_execPowerThrottle {mtxPct schedPct : Nat} (h : s0.Onward s) :
    OnwardTo s0 (execPowerThrottle mtxPct schedPct s) := onwardTo_when h h

theorem onward_execIdleTimeout {p : PartRef} (h : s0.Onward s) : OnwardTo s0 (execIdleTimeout p s) := by
  refine onwardTo_when h ?_
  simp [h]

theorem onward_execAttest {c : Cmd} (h : s0.Onward s) : OnwardTo s0 (execAttest c s) := by
  unfold execAttest
  dsimp only
  refine onward_cmdFrame (fun t ht => ?_) h
  refine onward_ite (onward_respond ht) ?_
  split
  · exact onward_answer ht
  · exact onward_answer (onward_homeWrite ht)

end

end Sys2Proof.Machine
end

section
/-! SUPPORT. O56 and O57: what every step keeps of memory, the journal and device time. -/

namespace Sys2Proof.Machine

section
variable {s0 s : State}

/-- A step that goes on from every state. -/
def GoesOn (f : State → Answer) : Prop := ∀ ⦃s0 s : State⦄, s0.Onward s → OnwardTo s0 (f s)

/-! ### The ring of commands and the application cores (R388) -/

theorem goesOn_debugStep (c : Cmd) : GoesOn (debugStep c) := by
  unfold debugStep
  split
  · exact fun _ _ => onward_execHalt
  · exact fun _ _ => onward_execResume
  · exact fun _ _ => onward_execStep
  · exact fun _ _ => onward_execBpset
  · exact fun _ _ => onward_execWpset
  · exact fun _ _ => onward_execIntercept
  · exact fun _ _ => onward_execRegrd
  · exact fun _ _ => onward_execRegwr
  · exact fun _ _ => onward_execSample
  · exact fun _ _ => onward_execSeries
  · exact fun _ _ => onward_execTrace
  · exact fun _ _ => onward_execDbgpol
  · exact fun _ _ => onward_execStoprec
  · exact fun _ _ => onward_execMemrd
  · exact fun _ _ => onward_execMemwr
  · exact fun _ _ => onward_execUnknownCommand

theorem goesOn_cmdStep (c : Cmd) : GoesOn (cmdStep c) := by
  unfold cmdStep
  split
  · exact fun _ _ => onward_execClaim
  · exact fun _ _ => onward_execHandover
  · exact fun _ _ => onward_execOverride
  · exact fun _ _ => onward_execCmdQreg
  · exact fun _ _ => onward_execQreset
  · exact fun _ _ => onward_execQremove
  · exact fun _ _ => onward_takeQappend
  · exact fun _ _ => onward_execPartchg
  · exact fun _ _ => onward_execKilltask
  · exact fun _ _ => onward_execKillpart
  · exact fun _ _ => onward_execCmdPower
  · exact fun _ _ => onward_execWatchdog
  · exact fun _ _ => onward_execDumph
  · exact fun _ _ => onward_execCmdArnew
  · exact fun _ _ => onward_execCmdHalloc
  · exact fun _ _ => onward_execCmdArseal
  · exact fun _ _ => onward_execCmdArdrop
  · exact fun _ _ => onward_execCmdArquota
  · exact fun _ _ => onward_execCmdArinfo
  · exact fun _ _ => onward_execMap
  · exact fun _ _ => onward_execUnmap
  · exact fun _ _ => onward_execImportHandle
  · exact fun _ _ => onward_execMread
  · exact fun _ _ => onward_execMwrite
  · exact goesOn_debugStep c
  · exact fun _ _ => onward_execDebugtoken
  · exact fun _ _ => onward_execAttest
  · exact fun _ _ => onward_execBindvec
  · exact fun _ _ => onward_execJread
  · exact fun _ _ => onward_execUnknownCommand

theorem onward_ringStep (h : s0.Onward s) : s0.Onward s.ringStep := by
  have hr := onward_ringCmd (slot := (s.winReg 0xC008).toNat % 256) h
  have hc := goesOn_cmdStep (s.ringCmd ((s.winReg 0xC008).toNat % 256)).1 hr
  unfold State.ringStep
  dsimp only
  split
  · exact h
  · split
    · next he => exact hc _ he
    · exact hr

theorem onward_ringRun (h : s0.Onward s) : s0.Onward s.ringRun :=
  onward_foldl (fun _ _ => onward_ringStep) _ h

theorem onward_winAccess {addr off n : Nat} {v : DWord} {o : HostOp} (h : s0.Onward s) : s0.Onward (s.winAccess addr off v o n) := by
  unfold State.winAccess
  dsimp only
  refine onward_ite (onward_ringRun (onward_answerHost ?_)) (onward_answerHost ?_)
  all_goals
    split
    · exact onward_ite h (onward_setWin h)
    · exact h

theorem onward_execRegisterWrite {addr : Nat} {a : HostAccess} (h : s0.Onward s) : OnwardTo s0 (execRegisterWrite addr a s) := by
  unfold execRegisterWrite
  split
  · exact onwardTo_still h
  · split
    · exact onwardTo_next.2 (onward_winAccess h)
    · split
      · exact onwardTo_next.2 (onward_mapAccess h)
      · exact onwardTo_next.2 (onward_faultHost h)

/-! ### Every instruction but a package reset -/

theorem onward_exec {i : Instr} (hi : ∀ b, i ≠ .packageReset b) (h : s0.Onward s) : OnwardTo s0 (exec i s) := by
  cases i with
  | vmov _ => exact onward_execVmov h
  | vmovi _ => exact onward_execVmovi h
  | vadd _ => exact onward_execVadd h
  | vsub _ => exact onward_execVsub h
  | vadds _ => exact onward_execVadds h
  | vsubs _ => exact onward_execVsubs h
  | vmul _ => exact onward_execVmul h
  | vmulhi _ => exact onward_execVmulhi h
  | vmad _ => exact onward_execVmad h
  | vmin _ => exact onward_execVmin h
  | vmax _ => exact onward_execVmax h
  | vabsd _ => exact onward_execVabsd h
  | vand _ => exact onward_execVand h
  | vor _ => exact onward_execVor h
  | vxor _ => exact onward_execVxor h
  | vandn _ => exact onward_execVandn h
  | vshl _ => exact onward_execVshl h
  | vshr _ => exact onward_execVshr h
  | vrot _ => exact onward_execVrot h
  | vbfe _ => exact onward_execVbfe h
  | vbfi _ => exact onward_execVbfi h
  | vpopc _ => exact onward_execVpopc h
  | vclz _ => exact onward_execVclz h
  | vbrev _ => exact onward_execVbrev h
  | vsel _ => exact onward_execVsel h
  | vaddi _ => exact onward_execVaddi h
  | vandi _ => exact onward_execVandi h
  | vshli _ => exact onward_execVshli h
  | vshri _ => exact onward_execVshri h
  | vacs _ => exact onward_execVacs h
  | vhsel _ => exact onward_execVhsel h
  | vperm _ => exact onward_execVperm h
  | vshfl _ => exact onward_execVshfl h
  | vred _ => exact onward_execVred h
  | vscan _ => exact onward_execVscan h
  | vmovs _ => exact onward_execVmovs h
  | vrdl _ => exact onward_execVrdl h
  | vwrl _ => exact onward_execVwrl h
  | vsr _ => exact onward_execVsr h
  | vdot4 _ => exact onward_execVdot4 h
  | vdot2 _ => exact onward_execVdot2 h
  | vfadd _ => exact onward_execVfadd h
  | vfsub _ => exact onward_execVfsub h
  | vfmul _ => exact onward_execVfmul h
  | vfma _ => exact onward_execVfma h
  | vfmin _ => exact onward_execVfmin h
  | vfmax _ => exact onward_execVfmax h
  | vcmp _ => exact onward_execVcmp h
  | vfcmp _ => exact onward_execVfcmp h
  | vrcp _ => exact onward_execVrcp h
  | vrsqrt _ => exact onward_execVrsqrt h
  | vsqrt _ => exact onward_execVsqrt h
  | vexp2 _ => exact onward_execVexp2 h
  | vlog2 _ => exact onward_execVlog2 h
  | vcvt _ => exact onward_execVcvt h
  | vfclass _ => exact onward_execVfclass h
  | vround _ => exact onward_execVround h
  | smov _ => exact onward_execSmov h
  | smovi _ => exact onward_execSmovi h
  | smovh _ => exact onward_execSmovh h
  | sadd _ => exact onward_execSadd h
  | ssub _ => exact onward_execSsub h
  | smul _ => exact onward_execSmul h
  | smulh _ => exact onward_execSmulh h
  | sdiv _ => exact onward_execSdiv h
  | srem _ => exact onward_execSrem h
  | sand _ => exact onward_execSand h
  | sor _ => exact onward_execSor h
  | sxor _ => exact onward_execSxor h
  | sshl _ => exact onward_execSshl h
  | sshr _ => exact onward_execSshr h
  | smin _ => exact onward_execSmin h
  | smax _ => exact onward_execSmax h
  | saddi _ => exact onward_execSaddi h
  | sandi _ => exact onward_execSandi h
  | sshli _ => exact onward_execSshli h
  | sshri _ => exact onward_execSshri h
  | scmp _ => exact onward_execScmp h
  | sbfe _ => exact onward_execSbfe h
  | spopc _ => exact onward_execSpopc h
  | sclz _ => exact onward_execSclz h
  | sfadd _ => exact onward_execSfadd h
  | sfmul _ => exact onward_execSfmul h
  | sfma _ => exact onward_execSfma h
  | scvt _ => exact onward_execScvt h
  | srd _ => exact onward_execSrd h
  | swr _ => exact onward_execSwr h
  | sfmt _ => exact onward_execSfmt h
  | pand _ => exact onward_execPand h
  | por _ => exact onward_execPor h
  | pxor _ => exact onward_execPxor h
  | pandn _ => exact onward_execPandn h
  | pmovsp _ => exact onward_execPmovsp h
  | pmovps _ => exact onward_execPmovps h
  | pcnt _ => exact onward_execPcnt h
  | pfirst _ => exact onward_execPfirst h
  | vld _ => exact onward_execVld h
  | vlds _ => exact onward_execVlds h
  | vst _ => exact onward_execVst h
  | sld _ => exact onward_execSld h
  | slds _ => exact onward_execSlds h
  | sst _ => exact onward_execSst h
  | vatomI32 _ => exact onward_execVatomI32 h
  | vatomU32 _ => exact onward_execVatomU32 h
  | vatomF32 _ => exact onward_execVatomF32 h
  | vatomF16x2 _ => exact onward_execVatomF16x2 h
  | vatomB16x2 _ => exact onward_execVatomB16x2 h
  | vatomnI32 _ => exact onward_execVatomnI32 h
  | vatomnU32 _ => exact onward_execVatomnU32 h
  | vatomnF32 _ => exact onward_execVatomnF32 h
  | vatomnF16x2 _ => exact onward_execVatomnF16x2 h
  | vatomnB16x2 _ => exact onward_execVatomnB16x2 h
  | satom _ => exact onward_execSatom h
  | hsel _ => exact onward_execHsel h
  | hinfo _ => exact onward_execHinfo h
  | fence _ => exact onward_execFence h
  | flsig _ => exact onward_execFlsig h
  | flwait _ => exact onward_execFlwait h
  | barinit _ => exact onward_execBarinit h
  | barexp _ => exact onward_execBarexp h
  | barrive _ => exact onward_execBarrive h
  | bwait _ => exact onward_execBwait h
  | bartest _ => exact onward_execBartest h
  | bsync _ => exact onward_execBsync h
  | bra _ => exact onward_execBra h
  | brp _ => exact onward_execBrp h
  | rcvpt _ => exact onward_execRcvpt h
  | join _ => exact onward_execJoin h
  | bcnd _ => exact onward_execBcnd h
  | sloop _ => exact onward_execSloop h
  | call _ => exact onward_execCall h
  | callr _ => exact onward_execCallr h
  | ret _ => exact onward_execRet h
  | jmp _ => exact onward_execJmp h
  | exit _ => exact onward_execExit h
  | yield _ => exact onward_execYield h
  | twait _ => exact onward_execTwait h
  | dqpop _ => exact onward_execDqpop h
  | dqpush _ => exact onward_execDqpush h
  | bany _ => exact onward_execBany h
  | ball _ => exact onward_execBall h
  | nop _ => exact onward_execNop h
  | mshape _ => exact onward_execMshape h
  | mzero _ => exact onward_execMzero h
  | mma _ => exact onward_execMma h
  | mloop _ => exact onward_execMloop h
  | mloopg _ => exact onward_execMloopg h
  | mloopn _ => exact onward_execMloopn h
  | msmx _ => exact onward_execMsmx h
  | mdrain _ => exact onward_execMdrain h
  | mside _ => exact onward_execMside h
  | mprog _ => exact onward_execMprog h
  | mstat _ => exact onward_execMstat h
  | cpy _ => exact onward_execCpy h
  | cpy2d _ => exact onward_execCpy2d h
  | cpymc _ => exact onward_execCpymc h
  | cpyfill _ => exact onward_execCpyfill h
  | cpyrec _ => exact onward_execCpyrec h
  | tlrd _ => exact onward_execTlrd h
  | tlwait _ => exact onward_execTlwait h
  | cprog _ => exact onward_execCprog h
  | qpost _ => exact onward_execQpost h
  | arnew _ =>
    unfold exec
    exact onward_execArnew h
  | halloc _ => exact onward_execHalloc h
  | arseal _ => exact onward_execArseal h
  | ardrop _ => exact onward_execArdrop h
  | arquota _ => exact onward_execArquota h
  | arinfo _ => exact onward_execArinfo h
  | send _ => exact onward_execSend h
  | asend _ => exact onward_execAsend h
  | rdy _ => exact onward_execRdy h
  | unrdy _ => exact onward_execUnrdy h
  | recv _ => exact onward_execRecv h
  | grpnew _ => exact onward_execGrpnew h
  | grpdel _ => exact onward_execGrpdel h
  | colnew _ => exact onward_execColnew h
  | redpost _ => exact onward_execRedpost h
  | redwait _ => exact onward_execRedwait h
  | colabort _ => exact onward_execColabort h
  | msgstat _ => exact onward_execMsgstat h
  | trap _ => exact onward_execTrap h
  | brk _ => exact onward_execBrk h
  | eret _ => exact onward_execEret h
  | prd _ => exact onward_execPrd h
  | pwr _ => exact onward_execPwr h
  | capmask _ => exact onward_execCapmask h
  | tmark _ => exact onward_execTmark h
  | dump _ => exact onward_execDump h
  | respost _ => exact onward_execRespost h
  | sstep _ => exact onward_execSstep h
  | kiln _ => exact onward_execKiln h
  | blockedWordResume _ => exact onward_execBlockedWordResume h
  | windowRetire _ => exact onward_execWindowRetire h
  | ageSwap _ => exact onward_execAgeSwap h
  | starvationSwap _ => exact onward_execStarvationSwap h
  | trapDelivery _ => exact onward_execTrapDelivery h
  | pageFaultResolve _ _ _ _ => exact onward_execPageFaultResolve h
  | mappingChange _ _ _ => exact onward_execMappingChange h
  | accessAtHome _ => exact onward_execAccessAtHome h
  | fillReturn _ _ => exact onward_execFillReturn h
  | fenceComplete _ => exact onward_execFenceComplete h
  | flushComplete _ _ => exact onward_execFlushComplete h
  | asyncComplete _ => exact onward_execAsyncComplete h
  | multicastReceive _ _ _ => exact onward_execMulticastReceive h
  | matrixBoundary _ _ => exact onward_execMatrixBoundary h
  | cpyFreeze _ _ => exact onward_execCpyFreeze h
  | mtxFreeze _ _ => exact onward_execMtxFreeze h
  | sealBroadcast _ => exact onward_execSealBroadcast h
  | sealComplete _ => exact onward_execSealComplete h
  | dropBroadcast _ => exact onward_execDropBroadcast h
  | dropComplete _ => exact onward_execDropComplete h
  | readinessReport _ _ _ => exact onward_execReadinessReport h
  | messageSteer _ => exact onward_execMessageSteer h
  | messageBounce _ => exact onward_execMessageBounce h
  | ordAck _ => exact onward_execOrdAck h
  | ringDelivery _ => exact onward_execRingDelivery h
  | handlerSpawn _ => exact onward_execHandlerSpawn h
  | grpdelHandover _ => exact onward_execGrpdelHandover h
  | reductionPartial _ => exact onward_execReductionPartial h
  | reductionResult _ => exact onward_execReductionResult h
  | roundTimeout _ => exact onward_execRoundTimeout h
  | haltedNotice _ _ => exact onward_execHaltedNotice h
  | cellarLimit _ => exact onward_execCellarLimit h
  | recvLimit _ => exact onward_execRecvLimit h
  | tlwaitLimit _ => exact onward_execTlwaitLimit h
  | qpostRoomLimit _ _ => exact onward_execQpostRoomLimit h
  | launch _ => exact onward_execLaunch h
  | branch _ => exact onward_execBranch h
  | waittl _ => exact onward_execWaittl h
  | waittlNotify _ => exact onward_execWaittlNotify h
  | depend _ => exact onward_execDepend h
  | packetLimit _ => exact onward_execPacketLimit h
  | signal _ => exact onward_execSignal h
  | copy _ => exact onward_execCopy h
  | drop _ => exact onward_execDrop h
  | marker _ => exact onward_execMarker h
  | placement _ _ => exact onward_execPlacement h
  | saveComplete _ => exact onward_execSaveComplete h
  | crewResume _ _ => exact onward_execCrewResume h
  | queueAged _ _ => exact onward_execQueueAged h
  | crewRetire _ => exact onward_execCrewRetire h
  | taskRetire _ _ => exact onward_execTaskRetire h
  | taskTimeout _ _ => exact onward_execTaskTimeout h
  | watchdogExpiry _ => exact onward_execWatchdogExpiry h
  | kill _ => exact onward_execKill h
  | killComplete _ => exact onward_execKillComplete h
  | dumpWritten _ _ => exact onward_execDumpWritten h
  | partitionDeadline _ => exact onward_execPartitionDeadline h
  | partitionApply _ => exact onward_execPartitionApply h
  | electionWindowEnd => exact onward_execElectionWindowEnd h
  | claim _ => exact onward_execClaim h
  | handover _ => exact onward_execHandover h
  | override _ => exact onward_execOverride h
  | cmdQreg _ => exact onward_execCmdQreg h
  | qreset _ => exact onward_execQreset h
  | qremove _ => exact onward_execQremove h
  | qappend _ => exact onward_execQappend h
  | qappendBusy _ _ => exact onward_execQappendBusy h
  | partchg _ => exact onward_execPartchg h
  | killtask _ => exact onward_execKilltask h
  | killpart _ => exact onward_execKillpart h
  | cmdPower _ => exact onward_execCmdPower h
  | watchdog _ => exact onward_execWatchdog h
  | dumph _ => exact onward_execDumph h
  | cmdArnew _ => exact onward_execCmdArnew h
  | cmdHalloc _ => exact onward_execCmdHalloc h
  | cmdArseal _ => exact onward_execCmdArseal h
  | cmdArdrop _ => exact onward_execCmdArdrop h
  | cmdArquota _ => exact onward_execCmdArquota h
  | cmdArinfo _ => exact onward_execCmdArinfo h
  | map _ => exact onward_execMap h
  | unmap _ => exact onward_execUnmap h
  | importHandle _ => exact onward_execImportHandle h
  | mread _ => exact onward_execMread h
  | mwrite _ => exact onward_execMwrite h
  | debugtoken _ => exact onward_execDebugtoken h
  | attest _ => exact onward_execAttest h
  | bindvec _ => exact onward_execBindvec h
  | jread _ => exact onward_execJread h
  | halt _ => exact onward_execHalt h
  | resume _ => exact onward_execResume h
  | step _ => exact onward_execStep h
  | bpset _ => exact onward_execBpset h
  | wpset _ => exact onward_execWpset h
  | intercept _ => exact onward_execIntercept h
  | regrd _ => exact onward_execRegrd h
  | regwr _ => exact onward_execRegwr h
  | sample _ => exact onward_execSample h
  | series _ => exact onward_execSeries h
  | trace _ => exact onward_execTrace h
  | dbgpol _ => exact onward_execDbgpol h
  | stoprec _ => exact onward_execStoprec h
  | memrd _ => exact onward_execMemrd h
  | memwr _ => exact onward_execMemwr h
  | registerWrite _ _ => exact onward_execRegisterWrite h
  | breakpointHit _ => exact onward_execBreakpointHit h
  | watchpointHit _ _ _ => exact onward_execWatchpointHit h
  | sampleTick _ => exact onward_execSampleTick h
  | seriesTick _ => exact onward_execSeriesTick h
  | traceFrameClose _ => exact onward_execTraceFrameClose h
  | traceLoss _ => exact onward_execTraceLoss h
  | tokenExpiry _ => exact onward_execTokenExpiry h
  | strike _ => exact onward_execStrike h
  | residueMismatch _ => exact onward_execResidueMismatch h
  | poisonConsume _ => exact onward_execPoisonConsume h
  | kilnwaitExpiry _ => exact onward_execKilnwaitExpiry h
  | kilnTest _ => exact onward_execKilnTest h
  | kilnTestResult _ _ => exact onward_execKilnTestResult h
  | kilnFenceApply _ => exact onward_execKilnFenceApply h
  | linkFailure _ => exact onward_execLinkFailure h
  | ptpMessage _ => exact onward_execPtpMessage h
  | railAdjust _ _ => exact onward_execRailAdjust h
  | powerThrottle _ _ => exact onward_execPowerThrottle h
  | idleTimeout _ => exact onward_execIdleTimeout h
  | packageReset b => exact absurd rfl (hi b)
  | reservedOpcodeWord _ _ => exact onward_execReservedOpcodeWord h
  | unknownCommand _ => exact onward_execUnknownCommand h
  | badpacket _ => exact onward_execBadpacket h
  | uncorrectableError _ => exact onward_execUncorrectableError h
  | requestedDumpComplete _ _ => exact onward_execRequestedDumpComplete h
  | translationWalk _ _ _ => exact onward_execTranslationWalk h
  | occReport _ _ => exact onward_execOccReport h
  | clockSlewEnd => exact onward_execClockSlewEnd h
  | haltEnd _ _ => exact onward_execHaltEnd h

/-! ### The steps that are open to the package -/

/-- Every step of a list goes on. -/
def AllGoOn (l : List (State → Answer)) : Prop := ∀ f ∈ l, GoesOn f

section
variable {α : Type} {f : State → Answer} {l l' : List (State → Answer)}

theorem AllGoOn.nil : AllGoOn [] := nofun

theorem AllGoOn.cons (hf : GoesOn f) (hl : AllGoOn l) : AllGoOn (f :: l) := List.forall_mem_cons.2 ⟨hf, hl⟩

theorem AllGoOn.one (hf : GoesOn f) : AllGoOn [f] := .cons hf .nil

theorem AllGoOn.append (hl : AllGoOn l) (hl' : AllGoOn l') : AllGoOn (l ++ l') := List.forall_mem_append.2 ⟨hl, hl'⟩

theorem AllGoOn.map {g : α → State → Answer} (hg : ∀ a, GoesOn (g a)) (l : List α) : AllGoOn (l.map g) := by
  simp only [AllGoOn, List.forall_mem_map]
  exact fun a _ => hg a

theorem AllGoOn.flatMap {g : α → List (State → Answer)} (hg : ∀ a, AllGoOn (g a)) (l : List α) : AllGoOn (l.flatMap g) := by
  simp only [AllGoOn, List.mem_flatMap]
  exact fun f ⟨a, _, hf⟩ => hg a f hf

theorem AllGoOn.ite {c : Prop} [Decidable c] (hl : AllGoOn l) (hl' : AllGoOn l') : AllGoOn (if c then l else l') := by
  split <;> assumption

end

theorem allGoOn_threadSteps (t : ThreadRef) : AllGoOn (threadSteps t) :=
  .append (.append (.cons (fun _ _ => onward_execWindowRetire) (.cons (fun _ _ => onward_execFenceComplete)
    (.cons (fun _ _ => onward_execPoisonConsume) (.one fun _ _ => onward_execStarvationSwap))))
    (.map (fun _ _ _ => onward_execAccessAtHome) _)) (.map (fun _ _ _ => onward_execFlushComplete) _)

theorem allGoOn_waitSteps (p : PairRef) (x : Slot) : AllGoOn (waitSteps p x) := by
  refine .append (.cons (fun _ _ => onward_execBlockedWordResume) (.cons (fun _ _ => onward_execTrapDelivery)
    (.cons (fun _ _ => onward_execWatchdogExpiry) (.one fun _ _ => onward_execRequestedDumpComplete)))) ?_
  split
  · exact .one fun _ _ => onward_execCellarLimit
  · exact .one fun _ _ => onward_execRecvLimit
  · exact .one fun _ _ => onward_execTlwaitLimit
  · exact .cons (fun _ _ => onward_execPageFaultResolve) (.one fun _ _ => onward_execPageFaultResolve)
  · exact .nil

theorem allGoOn_pairSteps (t : ThreadRef) (x : Thread) : AllGoOn (pairSteps t x) :=
  .flatMap (fun _ => .ite (allGoOn_waitSteps _ _) (.ite (.one fun _ _ => onward_execBlockedWordResume) .nil)) _

theorem allGoOn_opSteps (uid : Nat) (x : Ctx) (o : Op) : AllGoOn (opSteps uid x o) := by
  refine .cons (fun _ _ => onward_execAsyncComplete) (.append ?_ ?_)
  · split
    · exact .ite (.map (fun _ _ _ => onward_execMulticastReceive) _)
        (.cons (fun _ _ => onward_execAccessAtHome) (.one fun _ _ => onward_execQpostRoomLimit))
    · exact .one fun _ _ => onward_execMatrixBoundary
    · exact .nil
  · split
    · exact .cons (fun _ _ => onward_execPageFaultResolve) (.one fun _ _ => onward_execPageFaultResolve)
    · exact .nil

theorem allGoOn_crewSteps (uid : Nat) (c : Crew) : AllGoOn (crewSteps uid c) :=
  .append (.cons (fun _ _ => onward_execHandlerSpawn) (.cons (fun _ _ => onward_execSaveComplete) (.cons (fun _ _ => onward_execCrewResume)
    (.cons (fun _ _ => onward_execCrewRetire) (.cons (fun _ _ => onward_execKill) (.cons (fun _ _ => onward_execKillComplete)
    (.cons (fun _ _ => onward_execTraceFrameClose) (.one fun _ _ => onward_execTraceLoss))))))))
    (.flatMap (fun _ => .flatMap (fun _ => allGoOn_opSteps _ _ _) _) _)

theorem allGoOn_groupSteps (p : PartRef) (gid : Nat) (g : CGroup) : AllGoOn (groupSteps p gid g) := by
  refine .append (.map (fun _ _ _ => onward_execReadinessReport) _) (.flatMap (fun m => ?_) _)
  dsimp only
  split
  · exact .cons (fun _ _ => onward_execMessageBounce) (.one fun _ _ => onward_execGrpdelHandover)
  · exact .one fun _ _ => onward_execRingDelivery
  · exact .one fun _ _ => onward_execOrdAck
  · exact .nil
  · exact .cons (fun _ _ => onward_execMessageSteer) (.one fun _ _ => onward_execGrpdelHandover)

theorem allGoOn_collSteps (p : PartRef) (id : Nat) (c : Coll) : AllGoOn (collSteps p id c) :=
  .flatMap (fun _ => .append (.flatMap (fun _ => .cons (fun _ _ => onward_execReductionPartial)
    (.one fun _ _ => onward_execReductionResult)) _) (.one fun _ _ => onward_execRoundTimeout)) _

theorem allGoOn_partSteps (s : State) (key : Nat) (q : Part) : AllGoOn (s.partSteps key q) :=
  .append (.append (.append (.append (.cons (fun _ _ => onward_execDropBroadcast) (.cons (fun _ _ => onward_execDropComplete)
    (.cons (fun _ _ => onward_execDumpWritten) (.cons (fun _ _ => onward_execSampleTick) (.cons (fun _ _ => onward_execSeriesTick)
    (.cons (fun _ _ => onward_execTokenExpiry) (.one fun _ _ => onward_execIdleTimeout)))))))
    (.map (fun _ _ _ => onward_execPlacement) _))
    (.flatMap (fun _ => .cons (fun _ _ => onward_execSealBroadcast) (.one fun _ _ => onward_execSealComplete)) _))
    (.flatMap (fun _ => allGoOn_groupSteps _ _ _) _)) (.flatMap (fun _ => allGoOn_collSteps _ _ _) _)

theorem goesOn_packetStep (k : PktRef) (ty : Nat) : GoesOn (packetStep k ty) := by
  unfold packetStep
  split
  · exact fun _ _ => onward_execLaunch
  · exact fun _ _ => onward_execBranch
  · exact fun _ _ => onward_execWaittl
  · exact fun _ _ => onward_execDepend
  · exact fun _ _ => onward_execSignal
  · exact fun _ _ => onward_execCopy
  · exact fun _ _ => onward_execDrop
  · exact fun _ _ => onward_execMarker
  · exact fun _ _ => onward_execBadpacket

theorem allGoOn_queueSteps (s : State) (key : Nat) (q : Queue) : AllGoOn (s.queueSteps key q) := by
  refine .append (.append (.ite (.one (goesOn_packetStep _ _)) .nil) (.one fun _ _ => onward_execQueueAged)) (.flatMap (fun k => ?_) _)
  dsimp only
  split
  · exact .cons (fun _ _ => onward_execWaittlNotify) (.one fun _ _ => onward_execPacketLimit)
  · exact .cons (fun _ _ => onward_execDepend) (.one fun _ _ => onward_execPacketLimit)
  · refine .cons (fun _ _ => onward_execCopy) ?_
    split
    · exact .cons (fun _ _ => onward_execPageFaultResolve) (.one fun _ _ => onward_execPageFaultResolve)
    · exact .nil
  · exact .nil

theorem allGoOn_cmdSteps (c : PendCmd) : AllGoOn (cmdSteps c) :=
  .ite (.cons (fun _ _ => onward_execQappend) (.one fun _ _ => onward_execQappendBusy)) .nil

theorem allGoOn_kilnSteps (key : Nat) : AllGoOn (kilnSteps key) :=
  .cons (fun _ _ => onward_execKilnwaitExpiry) (.cons (fun _ _ => onward_execKilnTest) (.cons (fun _ _ => onward_execKilnTestResult)
    (.cons (fun _ _ => onward_execKilnTestResult) (.one fun _ _ => onward_execKilnFenceApply))))

theorem allGoOn_memSteps (s : State) : AllGoOn s.memSteps :=
  .append (.append (.append (.map (fun _ _ _ => onward_execTranslationWalk) _) (.map (fun _ _ _ => onward_execFillReturn) _))
    (.flatMap (fun _ => .map (fun _ _ _ => onward_execAccessAtHome) _) _)) (.map (fun _ _ _ => onward_occStep) _)

theorem allGoOn_unitSteps (s : State) : AllGoOn s.unitSteps :=
  .append (.append (.append (.append (.append (.append (.append (.append (.append
    (.flatMap (fun _ => .append (allGoOn_threadSteps _) (.ite (allGoOn_pairSteps _ _) .nil)) _)
    (.flatMap (fun _ => allGoOn_crewSteps _ _) _)) (.flatMap (fun _ => allGoOn_partSteps _ _ _) _))
    (.flatMap (fun _ => allGoOn_queueSteps _ _ _) _))
    (.flatMap (fun _ => .cons (fun _ _ => onward_execTaskRetire) (.one fun _ _ => onward_execTaskTimeout)) _))
    (.flatMap (fun _ => .cons (fun _ _ => onward_execPartitionDeadline) (.one fun _ _ => onward_execPartitionApply)) _))
    (.flatMap allGoOn_cmdSteps _)) (.flatMap (fun _ => allGoOn_kilnSteps _) _)) (allGoOn_memSteps s))
    (.cons (fun _ _ => onward_execElectionWindowEnd) (.one fun _ _ => onward_execClockSlewEnd))

/-! ### The step -/

theorem onwardTo_go {f : Fetched} (h : f.Onward s0) : OnwardTo s0 f.go := by
  cases f with
  | run i t => exact onward_exec h.1 h.2
  | stop t => exact onwardTo_next.2 h
  | does o => exact h

theorem onward_issuePair {p : PairRef} {back only : Nat} (h : s0.Onward s) : OnwardTo s0 (issuePair p back only s) := by
  unfold issuePair
  split
  · exact onwardTo_go (onward_issueNext p h)
  · exact onwardTo_still h

theorem onward_candidates (h : s0.Onward s) {c : Candidate} {u : State} (hc : c ∈ u.candidates) : OnwardTo s0 (c.go s) := by
  obtain hc | hc := List.mem_append.1 hc
  · obtain ⟨p, _, rfl⟩ := List.mem_map.1 hc
    exact onward_issuePair h
  · obtain ⟨f, hf, rfl⟩ := List.mem_map.1 hc
    exact allGoOn_unitSteps u f (List.mem_filter.1 hf).1 h

theorem State.choose_mem {α : Type} (s : State) (d : α) {l : List α} (hl : l ≠ []) : (s.choose d l).1 ∈ l := by
  unfold State.choose
  split
  · exact absurd rfl hl
  · exact List.mem_singleton_self _
  · have hlen : 0 < l.length := List.length_pos_iff.2 hl
    rw [← List.getElem_eq_getD (h := Nat.mod_lt _ hlen)]
    exact List.getElem_mem _

/-- A step that is no package reset of the agenda goes on. -/
theorem onward_step {t : State} (hr : ∀ m b, s.agenda.head? = some m → m.act ≠ .event (.packageReset b)) (ht : step s = .next t) : s.Onward t := by
  revert t
  change OnwardTo s (step s)
  unfold step
  split
  · next m rest hm =>
    have h1 : s.Onward (({ s with agenda := rest } : State).after m.dNs m.dCyc) := onward_after (s := { s with agenda := rest }) (.refl s)
    have hm := hr m
    generalize ({ s with agenda := rest } : State).after m.dNs m.dCyc = u at h1 ⊢
    cases hact : m.act with
    | issue p back only => exact onward_issuePair h1
    | event i => exact onwardTo_ite (onwardTo_still h1) (onward_exec (fun b hb => hm b (by simp [*]) (by rw [hact, hb])) h1)
    | idle => exact onwardTo_still h1
  · split
    · exact onwardTo_next.2 (onward_idleTick (.refl s))
    · next hl =>
      have hc : s.Onward (s.choose (.does still) s.candidates).2 := onward_choose (.refl s)
      exact onward_candidates hc (s.choose_mem _ hl)

/-! ### O56 and O57 -/

/-- A package reset leaves no memory listed and an empty journal (R455). -/
theorem execPackageReset_leaves {b : BootImage} {t : State} (h : execPackageReset b s = .next t) :
    t.mem = [] ∧ t.journal = [] := by
  unfold execPackageReset at h
  dsimp only at h
  split at h
  · cases h; exact ⟨rfl, rfl⟩
  · split at h
    · cases h; exact ⟨rfl, rfl⟩
    · cases h; exact ⟨rfl, rfl⟩

/-- A step goes on from the state before it, or is a package reset of the agenda. -/
theorem step_cases {t : State} (ht : step s = .next t) :
    s.Onward t ∨ (∃ m b, s.agenda.head? = some m ∧ m.act = .event (.packageReset b)) ∧ t.mem = [] ∧ t.journal = [] := by
  by_cases hr : ∃ m b, s.agenda.head? = some m ∧ m.act = .event (.packageReset b)
  · refine .inr ⟨hr, ?_⟩
    obtain ⟨m, b, hm, hact⟩ := hr
    obtain ⟨rest, hrest⟩ : ∃ rest, s.agenda = m :: rest := List.head?_eq_some_iff.1 hm
    rw [step_agenda hrest, hact] at ht
    exact execPackageReset_leaves ht
  · exact .inl (onward_step (fun m b hm hact => hr ⟨m, b, hm, hact⟩) ht)

/-- Settles O56. -/
theorem stepKeepsMemoryCanonical : Obligations.StepKeepsMemoryCanonical := by
  intro s t hwf ht
  obtain h | ⟨_, hmem, _⟩ := step_cases ht
  · exact h.mem hwf
  · rw [hmem]; rfl

/-- Settles O57. -/
theorem stepKeepsJournalInOrder : Obligations.StepKeepsJournalInOrder := by
  intro s t hj ht
  obtain h | ⟨hr, _, hjournal⟩ := step_cases ht
  · exact ⟨t.journalInOrder_iff.2 (h.journal (s.journalInOrder_iff.1 hj)), .inl h.now⟩
  · refine ⟨t.journalInOrder_iff.2 ?_, .inr hr⟩
    rw [hjournal]
    exact ⟨rfl, ⟨Nat.zero_le _, Nat.zero_le _⟩, List.Pairwise.nil, nofun⟩

end
end Sys2Proof.Machine
end
